-- ==== Sys2Proof/Word.lean ====
section
/-!
DEFINITION. The word types and the plainest arithmetic: bytes, words, bit fields of records (R3: little-endian,
bit 0 least significant), and the association lists that hold sparse tables.
-/
namespace Sys2Proof

/-- A byte. -/
abbrev Byte := BitVec 8
/-- A 32-bit word: a lane of a V register, a binary32 value. -/
abbrev W32 := BitVec 32
/-- A 64-bit word: a scalar register of a hen's control pipe. -/
abbrev W64 := BitVec 64

/-- A sparse table: keys with their values. -/
abbrev Tbl (α : Type) := List (Nat × α)

end Sys2Proof
end

