-- ==== Sys2Proof/Syntax.lean ====
section
/-!
DEFINITION. The commands: one constructor of Instr per row of spec/opcode_table.json, with the row's operands as the
spec's frames, records and events carry them. A command that is a write of a dictionary object carries the service
request Req and the object's value as a number (R3: bit 0 of the number is bit 0 of byte 0).
-/
namespace Sys2Proof

/-- A service request as it arrives in a SERVICE ring frame (Tables 16.2 and 16.3). -/
structure Req where
  /-- SPDM session ID of the frame; 0 = session 0 -/
  session : Nat
  /-- SRC node of the frame -/
  node : Nat
  /-- FRAME_SEQ of the frame header -/
  frameSeq : Nat
  /-- the AES-256-GCM tag verifies under the session's key (R488) -/
  tagOk : Bool
  /-- REQ_SEQ -/
  seq : Nat
  /-- FLAGS[112] -/
  stage : Bool
  /-- data bytes carried -/
  len : Nat
  /-- every Reserved bit is zero and LENGTH matches the data (R489) -/
  formOk : Bool
  deriving DecidableEq, Repr

/-- Errors that a request meets in the stacks or a tray's DRAM: a map of its lines with a corrected error, one of its lines
beyond correction, and the metadata copies (0 and 1) that cannot be read. -/
structure MemErr where
  fixed : Nat
  bad : Nat
  copies : Nat
  deriving DecidableEq, Repr
/-- No error. -/
def MemErr.none : MemErr := { fixed := 0, bad := 0, copies := 0 }

/-- What an instruction meets in the local-store words it reads (R146): words with a corrected single-bit error, and words
with a double-bit error. -/
structure LsErr where
  fixed : List Nat
  bad : List Nat
  deriving DecidableEq, Repr
/-- No error. -/
def LsErr.none : LsErr := { fixed := [], bad := [] }
/-- The hen that executes an instruction, with what the instruction meets in its local store. -/
structure HenAt where
  hen : Nat
  ls : LsErr
  deriving DecidableEq, Repr
/-- A ring port's failure: is it port B, and which of R482's signs it showed, from 0. -/
structure PortFail where
  onB : Bool
  cause : Nat
  deriving DecidableEq, Repr
/-- A memory request of a hen, with the errors that it meets. -/
structure ReqMem where
  req : Nat
  mem : MemErr
  deriving DecidableEq, Repr
/-- A slice's cycle, with the buffer cell that the cycle finds uncorrectable, if it finds one. -/
structure SliceTick where
  slice : Nat
  badCell : Option Nat
  deriving DecidableEq, Repr

/-- A request frame's header (Table 12.1) with the port and channel it arrived on. -/
structure Hdr where
  port : Nat
  seq : Nat
  tag : Nat
  job : Nat
  addr : Nat
  length : Nat
  tc : Nat
  vc : Nat
  rel : Bool
  retry : Bool
  coded : Bool
  /-- LEN agrees with LENGTH and the opcode's data -/
  lenOk : Bool
  /-- every Reserved bit is zero -/
  resZero : Bool
  /-- what the stores meet as the request is served: lines, by place in the request, that the line code corrects and that
  it cannot correct (R42, R92), and copies of the walk's tables that cannot be read (R561) -/
  mem : MemErr
  deriving DecidableEq, Repr

/-- A peer frame's header (Table 12.8) with the port it arrived on. -/
structure PeerHdr where
  port : Nat
  msgSeq : Nat
  msgId : Nat
  frag : Nat
  frags : Nat
  job : Nat
  src : Nat
  dst : Nat
  deriving DecidableEq, Repr

/-- A flit header (Table 11.2). -/
structure FlitHdr where
  typ : Nat
  vc : Nat
  resv : Nat
  seq : Nat
  ack : Nat
  cvc : Nat
  ccnt : Nat
  crc : Nat
  /-- codewords under the flit that the FEC corrected -/
  fixed : Nat
  deriving DecidableEq, Repr

/-- A Kerwyn ring frame (Table 16.2) and how it arrived. -/
structure RingFrame where
  /-- arriving port: false A (secondary ring), true B (primary ring) -/
  onB : Bool
  dst : Nat
  src : Nat
  bcast : Bool
  hops : Nat
  typ : Nat
  length : Nat
  session : Nat
  frameSeq : Nat
  crcOk : Bool
  deriving DecidableEq, Repr

/-- A PTP message (IEEE 1588) as the 2448 uses it. -/
structure Ptp where
  frame : RingFrame
  domain : Nat
  logInterval : Int
  /-- origin time plus corrections, ns (FOLLOW_UP) -/
  origin : Int
  seqId : Nat
  deriving DecidableEq, Repr

/-- A two-dimensional DMA pattern (05_hens_and_arithmetic.md, DMA and messages). -/
structure DmaPat where
  pool : Nat
  loc : Nat
  rows : Nat
  rowBytes : Nat
  poolStride : Nat
  locStride : Nat
  deriving DecidableEq, Repr

/-- The atomic operations of Table 12.4. -/
inductive AtomOp where
  | add | and | or | xor | smin | smax | umin | umax | swap | cas
  deriving DecidableEq, Repr

/-- The 32-bit integer operations of the vector unit (The vector unit). -/
inductive IntOp where
  | add | sub | cmpEq | cmpLt | cmpLtu | shl | shr | sar | sel
  /-- conversion from binary32 (R162) -/
  | cvt
  deriving DecidableEq, Repr

/-- The moves of VMOVE (Table 5.7). -/
inductive MoveOp where
  | rowToV (ts row vd : Nat)
  | vToRow (vs td row : Nat)
  | laneToX (vs lane rd : Nat)
  | xToLanes (rs vd : Nat)
  deriving DecidableEq, Repr

/-- The comparisons of VCMP. -/
inductive CmpOp where
  | eq | lt | le
  deriving DecidableEq, Repr

/-- One journal record (Tables 4.7 and 4.8): type, slot, extent, generation, sequence, arguments, data. -/
structure JRec where
  typ : Nat
  slot : Nat
  ext : Nat
  gen : Nat
  seq : Nat
  arg0 : Nat
  arg1 : Nat
  data : List Byte
  deriving DecidableEq, Repr

/-- Mirror control messages (MIRROR_CTL: R51, R125, R129, R132). -/
inductive MirrorMsg where
  /-- R51: the primary's extent enters DRAINING -/
  | revoke (ext gen : Nat)
  /-- R125: the primary asks for a shadow; the entry and the key check value -/
  | shadow (entry : Nat) (kcv : Nat)
  /-- R125: the mirror's answer to a shadow request: extent and status code -/
  | shadowAnswer (ext status : Nat)
  /-- R129: the shadows of the sender are released -/
  | release
  /-- R132: the mirror has taken over and refuses journal records -/
  | takeoverRefused
  deriving DecidableEq, Repr

/-- One query's part of a search partial: FOUND, PROBES, SCANNED, FILTERED_OUT, DEAD_SEEN, then (distance, ID). -/
structure PartialQ where
  probes : Nat
  scanned : Nat
  filtered : Nat
  dead : Nat
  entries : List (Nat × Nat)
  deriving DecidableEq, Repr

/-- A tray bridge's response frame (Tables 3.9 and 3.10). -/
structure TrayRsp where
  link : Nat
  op : Nat
  tag : Nat
  status : Nat
  corrected : Nat
  more : Bool
  data : List Byte
  deriving DecidableEq, Repr

/-- The commands of the block, in the order of spec/opcode_table.json. -/
inductive Instr where
  -- 02 pool memory
  | jobOpen (rq : Req) (v : Nat)
  | jobClose (rq : Req) (v : Nat)
  | jobSlots (rq : Req) (v : Nat)
  | memberAdd (rq : Req) (v : Nat)
  | memberRemove (rq : Req) (v : Nat)
  | allocate (rq : Req) (v : Nat)
  | revoke (rq : Req) (v : Nat)
  | setAcl (rq : Req) (v : Nat)
  | aclEntry (rq : Req) (v : Nat)
  | keyDestroy (rq : Req) (v : Nat)
  | drained (ext : Nat)
  | drainBoundExpiry (ext : Nat)
  | extentFreed (ext : Nat)
  -- 03 tiers
  | atticSize (rq : Req) (v : Nat)
  | placementEpoch (budget : Nat)
  | unmappedWritePlaced (crate : Nat)
  | moveCopyDone (crate : Nat)
  | moveSourceFreed (crate : Nat)
  | fetchDone (crate : Nat)
  | vaultReadUncorrectable (crate : Nat)
  | tierTimeout (tx : Nat)
  | flush (rq : Req) (v : Nat)
  | flushDone (trayFault : Bool)
  | trayResponse (r : TrayRsp)
  | vaultReclaim (tray : Nat)
  | vaultStaticMove (tray : Nat)
  | vaultReadRelocate (tray block : Nat)
  | vaultScan (tray lun block : Nat)
  | trayLost (tray : Nat)
  | crateMapRebuilt (tray : Nat)
  | crateSlotRetire (tier loc : Nat) (uncorrected : List Nat)
  -- 04 versions, ownership, mirror
  | regionOpen (h : Hdr) (current : Bool) (version fva : Nat)
  | regionClose (h : Hdr) (fva : Nat)
  | regionDraft (h : Hdr) (current : Bool) (version fva : Nat)
  | regionPublish (h : Hdr) (version fva : Nat)
  | regionRebase (h : Hdr) (version fva : Nat)
  | regionDiscard (h : Hdr) (fva : Nat)
  | ownedCreate (rq : Req) (v : Nat)
  | ownedDestroy (rq : Req) (v : Nat)
  | give (h : Hdr) (permit obj epoch : Nat)
  | giveRecallDone (obj : Nat)
  | take (h : Hdr) (obj epoch : Nat)
  | query (h : Hdr) (obj : Nat)
  | ownReverted (obj : Nat)
  | mirrorPeer (rq : Req) (v : Nat)
  | mirrorRelease (rq : Req) (v : Nat)
  | mirrorResync (rq : Req) (v : Nat)
  | mirrorTakeover (rq : Req) (v : Nat)
  | mirrorLost
  | mirrorCopyDone (refused : List Nat)
  | journal (ph : PeerHdr) (recs : List JRec)
  | journalAck (ph : PeerHdr) (seq : Nat)
  | mirrorCtl (ph : PeerHdr) (m : MirrorMsg)
  -- 05 hens
  | scalarInstruction (hen : HenAt)
  | tzero (hen td : Nat)
  | tload (hen : HenAt) (td rs1 : Nat)
  | tstore (hen ts rs1 : Nat)
  | tmma (hen : HenAt) (tc ta rs1 : Nat) (coded : Bool)
  | codebookFetchDone (hen cb gen : Nat)
  | vopAdd (hen vd v1 v2 : Nat)
  | vopSub (hen vd v1 v2 : Nat)
  | vopMul (hen vd v1 v2 : Nat)
  | vopFma (hen vd v1 v2 : Nat)
  | vopMin (hen vd v1 v2 : Nat)
  | vopMax (hen vd v1 v2 : Nat)
  | vopInteger (hen : Nat) (op : IntOp) (vd v1 v2 : Nat)
  | vsfExp2 (hen vd v1 : Nat)
  | vsfLog2 (hen vd v1 : Nat)
  | vsfRcp (hen vd v1 : Nat)
  | vsfRsqrt (hen vd v1 : Nat)
  | vload (hen : HenAt) (vd rs1 : Nat)
  | vstore (hen vs rs1 : Nat)
  | vrowsum (hen vd ts : Nat)
  | vrowmax (hen vd ts : Nat)
  | vscalerows (hen tc vs : Nat)
  | vmove (hen : Nat) (m : MoveOp)
  | vcmp (hen : Nat) (op : CmpOp) (vd v1 v2 : Nat)
  | vsel (hen vd vm v1 v2 : Nat)
  | dmard (hen : Nat) (p : DmaPat)
  | dmawr (hen : HenAt) (p : DmaPat)
  | dmawait (hen n : Nat)
  | dmaRequestDone (hen req : Nat)
  | henMemoryRequest (hen : Nat) (req : ReqMem)
  | msgsend (hen rank loc : Nat)
  | msgrecv (hen loc : Nat)
  | msgpoll (hen rd : Nat)
  | messageDelivered (src dst : Nat)
  | tkinit (hen k : Nat) (largest : Bool)
  | tkins (hen vk vlo vhi : Nat)
  | tkread (hen rs1 : Nat)
  | slvend (hen rs1 : Nat)
  -- 06 queues and work
  | queueCreate (rq : Req) (v : Nat)
  | queueDestroy (rq : Req) (v : Nat)
  | queueRestart (rq : Req) (v : Nat)
  | cancelAll (rq : Req) (v : Nat)
  | setPriority (rq : Req) (v : Nat)
  | loadingResumed (q : Nat)
  | descriptorReadFail (q : Nat)
  | nop (q : Nat)
  | run (q : Nat)
  | cancel (q : Nat)
  | sliverAssign (larder : Nat)
  | sliverStart (hen : Nat)
  | gangStart (item : Nat)
  | timeLimit (item : Nat)
  | sliverLimit (hen : Nat)
  | jobHens (rq : Req) (v : Nat)
  | jobHensDrained (job : Nat)
  -- 07 coding
  | install (q : Nat)
  | drop (q : Nat)
  | encode (q : Nat)
  | importTensor (q : Nat)
  | recode (q : Nat)
  | release (q : Nat)
  | decode (q : Nat)
  | backgroundRecode (hen : Nat)
  -- 08 engines
  | collCreate (rq : Req) (v : Nat)
  | collDestroy (rq : Req) (v : Nat)
  | reduce (q : Nat)
  | allreduce (q : Nat)
  | reduceUpdate (q : Nat)
  | normSq (q : Nat)
  | roundOpen (coll : Nat)
  | contrib (h : Hdr) (coll round chunk fmt : Nat) (data : List Byte)
  | memberTimerExpiry (coll : Nat)
  | response (port tag status : Nat)
  | deliverTimeout (port tag : Nat)
  | normPartial (ph : PeerHdr) (coll round acc flags : Nat)
  | normTimeout (coll : Nat)
  | engineSliverDone (item sliver : Nat)
  | gather (q : Nat)
  | gatherBags (q : Nat)
  | filter (q : Nat)
  -- 09 attention
  | arenaInit (q : Nat)
  | seqOpen (q : Nat)
  | seqClose (q : Nat)
  | replace (q : Nat)
  | truncate (q : Nat)
  | fork (q : Nat)
  | pageFree (q : Nat)
  | attend (q : Nat)
  | project (q : Nat)
  -- 10 search
  | indexBuild (q : Nat)
  | indexAppend (q : Nat)
  | indexDelete (q : Nat)
  | indexMerge (q : Nat)
  | searchIvf (q : Nat)
  | searchGraph (q : Nat)
  | searchPartial (ph : PeerHdr) (shardTag : Nat) (results : List PartialQ)
  | searchAck (ph : PeerHdr) (shardTag : Nat)
  | searchPartialTimeout (item : Nat)
  | searchAckTimeout (item : Nat)
  | partialHoldExpiry (job shardTag src : Nat)
  -- 11 links
  | portConfig (rq : Req) (v : Nat)
  | portEnable (rq : Req)
  | portDisable (rq : Req)
  | portReset (rq : Req)
  | portRelease (rq : Req)
  | tlinkEnable (rq : Req)
  | tlinkDisable (rq : Req)
  | tlinkReset (rq : Req)
  | tlinkRelease (rq : Req)
  | portExpect (rq : Req) (v : Nat)
  | detectDone (link : Nat)
  | equaliseDone (link : Nat)
  | fecLockDone (link : Nat)
  | orderDone (link : Nat) (lanes : List Nat)
  | linkupPhaseTimeout (link : Nat)
  | param (link version role width depth : Nat) (credits : List Nat)
  | identNonce (port nonce tag : Nat)
  | ident (port claim exponent modulus sig nonce : Nat)
  | identResult (port status : Nat)
  | identTimeout (port : Nat)
  | dataFlit (link : Nat) (f : FlitHdr) (payload : List Byte) (badLane : Option Nat)
  | creditFlit (link : Nat) (f : FlitHdr) (returns : List Nat) (badLane : Option Nat)
  | idleFlit (link : Nat) (f : FlitHdr) (badLane : Option Nat)
  | nak (link : Nat) (f : FlitHdr)
  | replayTimeout (link : Nat)
  | lossOfLock (link lane : Nat)
  | ts1Received (link : Nat)
  | recoveryDone (link : Nat) (lanes : List Nat)
  | recoveryTimeout (link : Nat)
  | holdTimerExpiry (link : Nat)
  | holdCountReset (link : Nat)
  -- 12 transactions
  | read (h : Hdr)
  | write (h : Hdr) (data : List Byte)
  | writeMasked (h : Hdr) (mask : Nat) (data : List Byte)
  | fence (h : Hdr)
  | fenceDone (port tag : Nat)
  | releaseStoreExecute (port tag : Nat)
  | atomicAdd (h : Hdr) (width a : Nat)
  | atomicAnd (h : Hdr) (width a : Nat)
  | atomicOr (h : Hdr) (width a : Nat)
  | atomicXor (h : Hdr) (width a : Nat)
  | atomicSmin (h : Hdr) (width a : Nat)
  | atomicSmax (h : Hdr) (width a : Nat)
  | atomicUmin (h : Hdr) (width a : Nat)
  | atomicUmax (h : Hdr) (width a : Nat)
  | atomicSwap (h : Hdr) (width a : Nat)
  | atomicCas (h : Hdr) (width c n : Nat)
  | batchWriteout (line : Nat)
  | trackEntryFreed (port tag : Nat)
  | epochDrained (port : Nat)
  | trackMin (rq : Req) (v : Nat)
  | peerAck (port seq : Nat)
  -- 13 coherence
  | cohWindow (rq : Req) (v : Nat)
  | cohPortCaching (rq : Req) (v : Nat)
  | snpRsp (port ctag result : Nat) (data : List Byte)
  | evict (port job addr lseq result : Nat) (data : List Byte)
  | migAck (port job addr : Nat)
  | coherenceProtocolError (port : Nat)
  | snoopTimeout (ctag : Nat)
  | filterScanDone
  | filterWayFreed (quarter : Nat)
  -- 14 switch
  | twoStage (rq : Req)
  | sheepdog (rq : Req)
  | sheepdogFault (slice : Nat)
  | sheepdogReturn (slice : Nat)
  | rebalanceCheck
  | bucketSlice (rq : Req) (v : Nat)
  | bucketDrained (bucket : Nat)
  | readmit (attach : Nat)
  | warmReached (attach : Nat)
  | joiningDone (attach : Nat)
  | gooseSweep (bank : Nat)
  | captureSession (rq : Req) (v : Nat)
  | bufferGuaranteeWrite (rq : Req) (sub v : Nat)
  -- 15 traffic
  | tcMap (rq : Req) (v : Nat)
  | policer (rq : Req) (v : Nat)
  | redRemeter (port cls : Nat)
  | shaper (rq : Req) (v : Nat)
  | quantum (rq : Req) (v : Nat)
  | gateCommit (rq : Req) (v : Nat)
  | portGateList (rq : Req) (v : Nat)
  | gateSwitch (list : Nat)
  | gateEntryEnd (list : Nat)
  -- 16 ring and dictionary
  | discover (f : RingFrame) (map tag : Nat)
  | ringFrameForward (f : RingFrame)
  /-- cause: 0 loss of signal, 1 loss of FEC lock, 2 uncorrectable codewords -/
  | ringPortFailed (port : PortFail)
  | ringPortRestored (onB : Bool)
  | heal (onB : Bool)
  | commit (rq : Req)
  | serviceDiscard (rq : Req)
  | blockOpen (rq : Req) (index sub : Nat) (write : Bool) (total : Nat)
  | blockData (rq : Req) (off : Nat) (data : List Byte)
  | blockClose (rq : Req) (crc : Nat)
  | blockTransferTimeout (session : Nat)
  | subscribe (rq : Req) (index sub mode period last : Nat)
  | unsubscribe (rq : Req) (handle : Nat)
  | eventAck (rq : Req)
  | sessionEnd (rq : Req)
  | requestGapTimeout (session : Nat)
  | sessionIdleTimeout (session : Nat)
  | notifyOnChange (session handle : Nat)
  | notifyPeriodic (session handle : Nat)
  | eventResend (session : Nat)
  | configSave (rq : Req) (v : Nat)
  | configClear (rq : Req) (v : Nat)
  | configWriteDone
  | homeIndex (rq : Req) (v : Nat)
  | sync (p : Ptp)
  | followUp (p : Ptp)
  | announce (p : Ptp)
  | pdelayReq (onB : Bool) (seqId : Nat)
  | pdelayResp (onB : Bool) (seqId delay : Nat)
  | pdelayTimer (onB : Bool)
  | syncLoss
  | ppsIn (t : Nat)
  | ppsLost
  | ppsOut
  -- 17 security
  | getVersion (rq : Req)
  | getCapabilities (rq : Req)
  | negotiateAlgorithms (rq : Req) (supported : Bool)
  | getDigests (rq : Req)
  | getCertificate (rq : Req) (slot off len : Nat)
  | challenge (rq : Req) (slot nonce : Nat)
  | getMeasurements (rq : Req) (op nonce : Nat)
  | keyExchange (rq : Req) (newSession pub : Nat)
  | finish (rq : Req) (msg : List Byte) (sig modulus exponent : Nat)
  | handshakeTimeout (session : Nat)
  | keyLoad (rq : Req) (v : Nat)
  | roleEntry (rq : Req) (v : Nat)
  | debugToken (rq : Req) (v : Nat)
  | debugEnd (rq : Req) (v : Nat)
  | debugTokenExpiry
  | isoJob (rq : Req) (v : Nat)
  | isoResponseRelease (port tag : Nat)
  -- 18 start-up, resets, faults
  | coldRstAssert
  | coldRstRelease (nodeId bootSel : Nat)
  | pwrOkLow
  | warmRstAssert
  | warmRstRelease
  | resetCmdWarm (rq : Req)
  | resetCmdCold (rq : Req)
  | resetBegin
  | quiesceDone
  | quiesceTimeout
  | firmwareStart
  | sheepdogSelfTestDone (slice : Nat)
  | stackTrainingDone (larder : Nat) (passed : Bool)
  | henSelfTestDone (hen : Nat) (passed : Bool)
  | vaultJournalScanDone
  | identityDerived
  | jobReset (rq : Req) (v : Nat)
  | jobResetDone (job : Nat)
  | larderReset (rq : Req) (larder : Nat)
  | larderResetDone (larder : Nat)
  | larderOut (rq : Req) (larder : Nat)
  | larderIn (rq : Req) (larder : Nat)
  | henOutCmd (rq : Req) (hen : Nat)
  | henIn (rq : Req) (hen : Nat)
  | watchdogExpiry
  | fatalError (unit detail : Nat)
  | ledgerAck (rq : Req) (v : Nat)
  | ledgerClear (rq : Req) (v : Nat)
  -- 19 power
  | vcoreAdjust (mv : Nat)
  | marginLow (mv : Nat)
  | regulatorPoll (rail : Nat) (mv amps watts : Nat) (answered : Bool)
  | vrbAlert (rail statusWord : Nat) (outputFault : Bool)
  | powerSample (watts : Nat)
  | powerBoundary (watts : Nat)
  | thermalRead (sensor : Nat) (milli : Int)
  | thermalTrip120c (sensor : Nat)
  | refClkLost
  | throttleNEdge (low : Bool)
  | throttleDwellEnd (low : Bool)
  | throttleStuck
  | throttleClear (rq : Req) (v : Nat)
  -- the table's last rows
  | dictWrite (rq : Req) (index sub v : Nat)
  /-- one slice cycle; a buffer cell that fails its check in it -/
  | cellTime (slice : SliceTick)
  | completionRecordApplied (q : Nat)
  | larderFault (larder : Nat)
  | vauxRemoved
  | vauxApplied
  | pinGlitch (pin : Nat)
  deriving DecidableEq, Repr

end Sys2Proof
end

