-- ==== Sys2Proof/Decode.lean ====
section
/-!
DEFINITION. The command that a word of the opcode table spells. Every row of spec/opcode_table.json stands without
bits (98_reader.md: no row was read with fixed bits or fields), so no word spells a command.
-/
namespace Sys2Proof

/-- The command of a word of the table's rows that give bits: there is none. -/
def decodeTableWord (_nbits _w : Nat) : Option Instr := none

end Sys2Proof
end

