-- ==== Sys2Proof/Config.lean ====
section
/-!
DEFINITION. What an implementation fixes and the spec does not state: uninterpreted constants. No proof can see a
value of one of them, so a statement about them holds for every value. Each is named in notes/assumptions.
-/
namespace Sys2Proof.Config

/-- The n-th free value of a run (log 3): read at the counter State.freeCtr, which every use advances. -/
opaque freeValue : Nat → Nat
/-- SHA-512 of a byte string, as a number (17_security.md). -/
opaque sha512 : List Byte → Nat
/-- RSASSA-PSS with SHA-512 verification: modulus, exponent, message, signature (RFC 8017). -/
opaque rsaVerify : Nat → Nat → List Byte → Nat → Bool
/-- A signature over a message by the private key of a pair generated from a DRBG's output. -/
opaque rsaSign : Nat → List Byte → Nat
/-- A signature of a Yowegen key (0 firmware signing, 1 debug signing) over bytes verifies. -/
opaque signedBy : Nat → List Byte → Nat → Bool
/-- The stable secret that the part's own PUF response and a copy of helper data give (R527). -/
opaque pufSecret : List Byte → Nat
/-- The output of a Hash_DRBG with SHA-512: entropy input, personalisation string (NIST SP 800-90A). -/
opaque hashDrbg : Nat → List Byte → Nat
/-- Public modulus of the RSA-4096 pair generated from a DRBG's output (FIPS 186-5). -/
opaque identityModulus : Nat → Nat
/-- SubjectPublicKeyInfo of Yowegen's root key; the mask ROM holds its SHA-512 (R11). -/
opaque rootKey : List Byte
/-- The 8-bit flow hash that picks a bucket, not published (14_switch_core.md, Flows and pinning). -/
opaque flowHash : Nat → Nat
/-- The duplicate-tag filter's set of a line (13_coherence.md: the set index is not given). -/
opaque filterSet : Nat → Nat
/-- The predictor's entry of a line and its tag (R416: "a hash of the line's identity"). -/
opaque predictorHash : Nat → Nat
/-- The way that the pseudo-LRU bits of a set point to (R422). -/
opaque plruVictim : Nat → Nat → Nat
/-- The special functions of R157 outside the values Table 5.4 fixes. -/
opaque exp2 : W32 → W32
opaque log2 : W32 → W32
opaque rcp : W32 → W32
opaque rsqrt : W32 → W32

/-- The vault code's correction limit, in bits of a 2 KiB codeword, and the read-retry levels that a tray's NAND has
(R85, R87): the parts' own. -/
opaque codeLimit : Nat
opaque retryLevels : Nat

/-- The lane a compare writes for true and for false, and what select makes of any other lane: the mask's form is not
given (05_hens_and_arithmetic.md, VCMP and VSEL). -/
opaque maskT : W32
opaque maskF : W32
opaque maskOther : W32 → Bool
/-- A shift of a 32-bit lane by 32 or more: the result is not given; 0 left, 1 right, 2 arithmetic right. -/
opaque shiftWide : Nat → W32 → W32 → W32
/-- The upper half of an x register that takes a 32-bit lane (VMOVE). -/
opaque laneUpper : W32 → W32
/-- What a FUNCT7 stands for under an opcode and FUNCT3 (Table 5.7 names operations and gives no values). -/
opaque funct7 : Nat → Nat → Nat → Nat
/-- What MSGPOLL gives for a number of messages held. -/
opaque pollWord : Nat → W64

/-- Readings the spec names and gives no value for: stepping and serial number of the part, optical power received at a
ring port (onB, time), a clock domain's measured frequency, kHz (domain, time), the mask ROM's revision, the TYPE of measurement 9. -/
opaque stepping : Nat
opaque serial : Nat
opaque rxPower : Bool → Nat → Nat

opaque measuredKhz : Nat → Nat → Nat
opaque romRevision : Nat
/-- The hash in mask ROM. -/
def rootHash : Nat := sha512 rootKey % 2 ^ 512
opaque rawStatusType : Nat

end Sys2Proof.Config
end

