-- ==== Sys2Proof/Machine/Units.lean ====
section
/-!
DEFINITION. The units of the block as plain data: one structure per piece of state the spec names, chapter by chapter.
State.lean puts them together.
-/
namespace Sys2Proof.Machine

/-- The status codes of Table 6.6 (R192). -/
inductive Status where
  | done | short | part | excluded | retry | codebookBusy | versionBusy | denied | revoked | conflict | stale
  | notOwner | inTransit | refusedFit | refusedFormat | refusedQuota | stateLost | poisoned | tierTimeout
  | memberTimeout | portDown | epochDiscarded | cancelled | internal
  deriving DecidableEq, Repr

/-! ### 02 pool memory -/

/-- JOB_HENS record of a job (Table 6.10). -/
structure HenRec where
  min : Nat
  max : Nat
  larders : Nat
  exclusive : Bool
  workMax : Nat
  deriving DecidableEq, Repr

/-- Isolation record of a job (Table 17.8) with ISO_STATE and ISO_LATE. -/
structure Iso where
  enable : Bool
  latency : Nat
  trays : Nat
  state : Nat
  late : Nat
  deriving DecidableEq, Repr

/-- A job slot (Table 2.2, R19 to R22): members are (index, partner). -/
structure Job where
  id : Nat
  slots : Nat
  quotaShelf : Nat
  quotaByte : Nat
  quotaTotal : Nat
  members : List (Nat × Nat)
  closing : Bool
  hens : HenRec
  iso : Iso
  deriving DecidableEq, Repr

/-- Extent states (Table 2.8); FREE extents have no entry. -/
inductive ExtState where
  | active | draining | scrubbing
  deriving DecidableEq, Repr

/-- An extent entry (Table 2.6). INFLIGHT and CRATES are computed from the open work and the crate map. -/
structure Extent where
  job : Nat
  base : Nat
  len : Nat
  acl : Nat
  key : Nat
  st : ExtState
  slot : Nat
  flags : Nat
  mirrorHome : Nat
  gen : Nat
  /-- timebase when DRAINING began -/
  drainAt : Nat
  /-- R134: extent ID and generation of the failed primary, after a takeover -/
  origin : Option (Nat × Nat)
  deriving DecidableEq, Repr

/-- A loaded key slot (R38, Table 17.5). -/
structure Key where
  host : Bool
  owner : Nat
  key1 : Nat
  key2 : Nat
  deriving DecidableEq, Repr

structure Pool where
  jobs : Tbl Job
  extents : Tbl Extent
  gens : Tbl Nat
  acls : Tbl (Nat × Nat)
  keys : Tbl Key
  /-- translation caches: (home agent, job slot, FVA[55:21]) -/
  xlate : List (Nat × Nat × Nat)
  /-- extents to revoke because the poison table is full (R568); emptied within the same step -/
  overflow : List Nat
  deriving DecidableEq, Repr

/-! ### 03 tiers -/

/-- A crate-map entry (Table 3.2). POISON is computed from the poison table. tier: 0 UNMAPPED to 4 VAULT. -/
structure Crate where
  tier : Nat
  dirty : Bool
  vcopy : Bool
  moving : Bool
  redirty : Bool
  incomp : Bool
  heat : Nat
  idle : Nat
  loc : Nat
  vtray : Nat
  vloc : Nat
  /-- attic codebook generation its coded form names -/
  agen : Nat
  deriving DecidableEq, Repr

/-- Why a crate moves (R68). -/
inductive MoveWhy where
  | retire | flush | place
  deriving DecidableEq, Repr

/-- A move begun (R62): destination tier and location, and the attic codebook generation it is coded under. -/
structure Move where
  crate : Nat
  tier : Nat
  loc : Nat
  gen : Nat
  why : MoveWhy
  deriving DecidableEq, Repr

/-- A fetch on demand (R66, R606): destination, and the vault read. -/
structure Fetch where
  crate : Nat
  tier : Nat
  loc : Nat
  since : Nat
  /-- read-retry level of the vault read (R87) -/
  level : Nat
  deriving DecidableEq, Repr

/-- A memory tray (Table 3.11 TRAY_STATUS, Table 11.10). -/
structure Tray where
  present : Bool
  lost : Bool
  worn : Bool
  dramGib : Nat
  nandGb : Nat
  /-- NAND geometry: channels, LUNs per channel, blocks of four planes per LUN, pages per block (R81, R82) -/
  chans : Nat
  luns : Nat
  lunBlocks : Nat
  pages : Nat
  /-- NAND blocks, of its ONFI parameter page, and those retired (R86) -/
  blocksAll : Nat
  blocksBad : Nat
  serial : Nat
  usableNand : Bool
  /-- crate-map groups of the cellar reserve are being rebuilt (R91) -/
  rebuilding : Bool
  deriving DecidableEq, Repr

/-- Why a tray command was sent (R79). -/
inductive TrayWhy where
  | fetch (crate : Nat)
  | move (crate : Nat)
  | zero (ext crate : Nat)
  | discovery (step : Nat)
  /-- a valid page set goes to a new NAND address; counted for R84 and R85 -/
  | relocate (crate loc : Nat) (counted : Bool)
  | erase (block : Nat)
  | retry
  /-- a page set of the 7-day scan is read (R85) -/
  | scan (crate block level : Nat)
  /-- a map change goes to the tray's journal blocks (R82): crate, location, and the address it leaves where a copy has been
  relocated -/
  | journal (crate loc : Nat) (old : Option Nat)
  deriving DecidableEq, Repr

/-- A tray command awaiting its response: at most 1,024 open per tray link. -/
structure TrayCmd where
  tray : Nat
  tag : Nat
  op : Nat
  flags : Nat
  count : Nat
  addr : Nat
  /-- what goes with it: a second address, then ciphertext (R79, R80) -/
  data : List Byte
  why : TrayWhy
  /-- response data received so far (R80) -/
  got : List Byte
  deriving DecidableEq, Repr

/-- A NAND block of the flash translation (R82 to R86). -/
structure Block where
  tray : Nat
  id : Nat
  valid : List Nat
  erases : Nat
  reads : Nat
  bad : Bool
  /-- written since its last erase -/
  written : Bool
  /-- being emptied to be erased (R83) -/
  reclaim : Bool
  scannedAt : Nat
  deriving DecidableEq, Repr

/-- A FLUSH under way or queued (R72 to R74): crates still to write. stage: 0 queued, 1 M lines being fetched (R408),
2 crates being written. -/
structure FlushJob where
  ext : Nat
  seq : Nat
  stage : Nat
  left : List Nat
  version : Option Nat
  deriving DecidableEq, Repr

/-- A location that a switched crate has left: freed when the requests that translated to it have completed (R64). -/
structure Source where
  crate : Nat
  tier : Nat
  loc : Nat
  txs : List Nat
  deriving DecidableEq, Repr

/-- The vault copy of a crate of a DURABLE extent: its bytes and poisoned lines by offset, as last written (R89). -/
structure Image1 where
  crate : Nat
  bytes : List (Nat × Byte)
  poison : List Nat
  deriving DecidableEq, Repr

/-- An error that the line code has found in a crate slot (R42, R92): tier, location, when, and whether it was beyond
correction. -/
structure SlotErr where
  tier : Nat
  loc : Nat
  at_ : Nat
  hard : Bool
  deriving DecidableEq, Repr

structure Tiers where
  crates : Tbl Crate
  /-- poisoned lines, by line key (R564) -/
  poison : List Nat
  /-- lines whose line code fails at their next read (R42) -/
  failing : List Nat
  slotErrs : List SlotErr
  /-- copies of the tables that map a granule, radix table and crate-map group, that cannot be read (R561): granule, copy -/
  metaBad : List (Nat × Nat)
  /-- the tray whose cellar reserve holds a granule's crate-map group, where it is not in the shelf's reserve (R91) -/
  groupTray : Tbl Nat
  /-- the trays' journals: crate to tray and NAND address of its copy, the latest change (R82) -/
  journals : Tbl (Nat × Nat)
  /-- open block of a LUN, by tray * 256 + channel * 16 + LUN: block, next page (R82) -/
  logs : Tbl (Nat × Nat)
  /-- ciphertext of the attic slots, by crate (R71) -/
  attic : Tbl (List Byte)
  /-- slots of a SCRUBBING extent, kept until it is FREE (R52): extent, tier, location -/
  kept : List (Nat × Nat × Nat)
  /-- crates that wait for a slot, with the crate demoted for it (R61, R606) -/
  making : Tbl Nat
  moves : List Move
  sources : List Source
  /-- moves put off to the next epoch (R60): crate, destination tier -/
  deferred : List (Nat × Nat)
  fetches : List Fetch
  trays : Tbl Tray
  cmds : List TrayCmd
  nextTag : Nat
  blocks : List Block
  /-- retired slots (R92): tier, location; and those whose data has still to leave them -/
  retired : List (Nat × Nat)
  retiring : List (Nat × Nat)
  /-- usable figures published since the last cold reset (R54) -/
  published : List Nat
  images : List Image1
  /-- ATTIC_SIZE in effect, GiB (R55) -/
  atticGib : Nat
  epoch : Nat
  flushes : List FlushJob
  /-- attic codebook training: job, epoch of the last training, trials and failures of this epoch (R227) -/
  atticTrials : Tbl (Nat × Nat × Nat)
  deriving DecidableEq, Repr

/-! ### 04 versions, owned objects, mirror -/

/-- A live version: its number and the crates held in a form of its own (crate index, form). -/
structure Ver where
  num : Nat
  forms : List (Nat × Nat)
  deriving DecidableEq, Repr

/-- A versioned region (R96): live versions newest first; form 0 is the extent's base content. -/
structure Region where
  ext : Nat
  cur : Nat
  live : List Ver
  nextForm : Nat
  deriving DecidableEq, Repr

/-- A binding other than NONE (Table 4.3). A draft has its base and its own crate forms. -/
structure Binding where
  job : Nat
  member : Nat
  region : Nat
  draft : Bool
  base : Nat
  forms : List (Nat × Nat)
  deriving DecidableEq, Repr

/-- An owned object (Table 4.4, Table 4.6): ranges are (extent, first crate, count). -/
structure OwnObj where
  job : Nat
  owner : Nat
  permit : List Nat
  timeout : Nat
  ranges : List (Nat × Nat × Nat)
  transit : Bool
  taker : Nat
  epoch : Nat
  expiry : Nat
  deriving DecidableEq, Repr

/-- A GIVE that waits for its source's stores and its recall (R119). -/
structure GiveWait where
  obj : Nat
  permit : Nat
  port : Nat
  tag : Nat
  /-- the recall's filter scan has been asked for -/
  scanned : Bool
  deriving DecidableEq, Repr

/-- Mirror relation at the primary (Table 4.9). -/
inductive MirRel where
  | none | sync | lost | degraded
  deriving DecidableEq, Repr

/-- The mirror's copy of a primary (R127, R128, R133). -/
structure Shadow where
  primary : Nat
  lastSeq : Nat
  /-- primary's extent, local shadow extent, primary's generation -/
  exts : List (Nat × Nat × Nat)
  /-- every job seen: job, member index, partner -/
  members : List (Nat × Nat × Nat)
  acls : Tbl (Nat × Nat)
  owned : Tbl OwnObj
  /-- the primary's extents that were not MIRROR: job, slot, base, length -/
  unmirrored : List (Nat × Nat × Nat × Nat)
  takenOver : Bool
  deriving DecidableEq, Repr

structure Mirror where
  rel : MirRel
  nextSeq : Nat
  /-- unacknowledged records with the time sent, oldest first -/
  unacked : List (JRec × Nat)
  /-- crates to copy at the next return to SYNC -/
  marked : List Nat
  /-- lines of MIRROR extents whose open batch is still to be journalled (R375) -/
  jpend : List Nat
  copying : Bool
  /-- extents that run unmirrored (R129) -/
  unmirrored : List Nat
  shadows : List Shadow
  /-- jobs lost at a takeover (R138): job, slot -/
  lostJobs : List (Nat × Nat)
  /-- EXTENT_CMD records in commit order behind an ALLOCATE whose shadow the mirror has not answered, that one first
  (R125) -/
  waiting : List Nat
  /-- the extent ID whose shadow the first of them asks for -/
  asked : Option Nat
  /-- changes of R127 that DEGRADED has kept from the mirror, oldest first; their SEQ is not given yet -/
  missed : List JRec
  deriving DecidableEq, Repr

structure Vers where
  regions : Tbl Region
  bindings : List Binding
  owned : Tbl OwnObj
  gives : List GiveWait
  /-- OWNED_RESULT values waiting for the mirror (R126): journal SEQ, value -/
  ownPosts : List (Nat × Nat)
  mirror : Mirror
  deriving DecidableEq, Repr

/-! ### 05 hens -/

/-- HEN_STATE (Table 5.10), and the state between SLIVER_ASSIGN and SLIVER_START, and a gang hen held idle. -/
inductive HenSt where
  | idle | assigned | running | out | selfTest | outCmd | held
  deriving DecidableEq, Repr

/-- Whose access a request of an item is checked as: job, member, partner, and the bindings held at admission (R103). -/
structure Asker where
  job : Nat
  member : Nat
  partner : Nat
  binds : List (Nat × Bool × Nat)
  deriving DecidableEq, Repr

/-- One 128 B line request of a DMA command: local address, pool address, bytes; answered when res is set. -/
structure DmaReq where
  cmd : Nat
  id : Nat
  /-- where the larder mesh takes it: 0 and 1 the larder's own stacks, 2 the gateway (R7) -/
  node : Nat
  write : Bool
  pool : Nat
  loc : Nat
  bytes : Nat
  data : List Byte
  issued : Bool
  res : Option Status
  deriving DecidableEq, Repr

/-- The top-k unit (R163): candidates are (key, ID). -/
structure TopK where
  k : Nat
  largest : Bool
  cands : List (W32 × W64)
  deriving DecidableEq, Repr

/-- A hen. Registers and stores are sparse: what is not listed is zero. -/
structure Hen where
  st : HenSt
  /-- x1 to x31 by number -/
  x : Tbl W64
  pc : Nat
  imem : List (Nat × Byte)
  ls : List (Nat × Byte)
  /-- local-store words with a double-bit error (R146) -/
  badWords : List Nat
  /-- tile bytes: tile * 4096 + byte, the sideband from byte 2,048 -/
  tiles : List (Nat × Byte)
  /-- V register lanes: register * 32 + lane -/
  v : Tbl W32
  hfmt : Nat
  startAt : Nat
  instret : Nat
  job : Nat
  item : Nat
  sliver : Nat
  rank : Nat
  nranks : Nat
  lastJob : Option Nat
  lastItem : Option Nat
  /-- image loaded for this item (R208) -/
  image : Option Nat
  /-- expander slots (R226): codebook, generation -/
  slots : List (Nat × Nat)
  cbWait : Option (Nat × Nat)
  topk : TopK
  dma : List DmaReq
  /-- requests of a command whose sliver has ended by another of its requests, still to be sent (R166) -/
  late : List (DmaReq × Asker)
  /-- answers on their way, oldest first: mesh node, request (R140) -/
  answers : List (Nat × Nat)
  nextCmd : Nat
  msgs : List (Nat × List Byte)
  /-- sent, not yet delivered: target hen, bytes -/
  sending : List (Nat × List Byte)
  /-- since when a MSGSEND waits (R168) -/
  msgWait : Option Nat
  /-- times it left service by a fault, and whether it is out by one now -/
  faults : List Nat
  byFault : Bool
  /-- start of its self-test -/
  testAt : Nat
  permanentOut : Bool
  outPending : Bool
  /-- counters: matrix busy, retired, corrected, messages, slivers -/
  busy : Nat
  retired : Nat
  corrected : Nat
  sent : Nat
  ran : Nat
  deriving DecidableEq, Repr

/-- A larder (Table 18.9, R556, R576). -/
structure Larder where
  out : Bool
  trained : Bool
  failed : Bool
  resetting : Bool
  /-- last_queue[L][level] (R201) -/
  lastQueue : List Nat
  /-- bytes moved by its stacks and through its gateway -/
  stackBytes : Nat
  gwBytes : Nat
  deriving DecidableEq, Repr

structure Hens where
  hens : Tbl Hen
  larders : Tbl Larder
  /-- accepted unit map: hens out of service; none while no map is accepted -/
  unitMap : Option (List Nat)
  /-- gang being formed: item, hens held, since (R210) -/
  gang : Option (Nat × List Nat × Nat)
  deriving DecidableEq, Repr

/-! ### 06 queues and work -/

/-- Queue states (Table 6.3); a queue in state none has no entry. -/
inductive QSt where
  | active | stopped | error | draining
  deriving DecidableEq, Repr

structure Queue where
  job : Nat
  member : Nat
  log2 : Nat
  prio : Nat
  qcb : Nat
  desc : Nat
  comp : Nat
  st : QSt
  /-- loading is under way: the doorbell's PRODUCER -/
  loadTo : Option Nat
  /-- loading is paused (R187) -/
  paused : Bool
  /-- a descriptor's read was under way when the queue left ACTIVE (R608) -/
  late : Bool
  /-- an extent of the queue left ACTIVE: no completion record is written -/
  lostExt : Bool
  deriving DecidableEq, Repr

/-- One element's accumulator (The Larfy exact sum). -/
structure Elem where
  a : Int
  pinf : Bool
  ninf : Bool
  nan : Bool
  neg0 : Bool
  n : Nat
  deriving DecidableEq, Repr

/-- Sum-of-squares accumulator: 320 bits, bit 0 weighs 2^-190. -/
structure SumSq where
  acc : Nat
  nan : Bool
  inf : Bool
  ovf : Bool
  deriving DecidableEq, Repr

/-- A search's life (10_vector_search.md): its snapshot (R313), the predicate copied, its slivers so far as (kind, a, b),
each query's p or ef, its own results by query with VISITED and capped walks, shards' partials received. -/
structure SearchX where
  ext : Nat
  gen : Nat
  head : Nat
  tail : Nat
  /-- GRAPH: the entry node of that generation's area -/
  entry : Nat
  pred : Nat
  plan : List (Nat × Nat × Nat)
  widths : List Nat
  /-- each query's result so far: part, VISITED, capped walks; what is in it is read no more (R314) -/
  own : List (Nat × PartialQ × Nat × Nat)
  /-- each query's side entries, of a GRAPH search -/
  side : List (Nat × PartialQ)
  got : List (Nat × List PartialQ)
  /-- the partial has gone to COORD -/
  sent : Bool
  /-- COORD waits for partials no longer -/
  late : Bool
  /-- results are final -/
  closed : Bool
  deriving DecidableEq, Repr

/-- What an admitted item keeps beside its descriptor, by opcode. -/
inductive Extra where
  | none
  /-- a collective's item (chapter 08): collective, phase (0 pending, 1 reduction, 2 norm, 3 update, 4 over), clip factor,
  constants record, members whose deliveries were abandoned, sum of squares -/
  | coll (coll phase clip consts lost : Nat) (sum : SumSq)
  /-- ATTEND: arena extent, ticket, and LEN, GEN, INDEX per batch entry -/
  | attend (arena ticket : Nat) (snap : List (Nat × Nat × Nat))
  /-- EDIT_PAGES, PAGE_FREE: arena extent -/
  | edit (arena : Nat)
  | search (z : SearchX)
  /-- index change: index extent -/
  | index (ext : Nat) (side0 : Nat)
  /-- coding: codebook and generation its blocks are written under (16 = none), generations read -/
  | code (cb gen : Nat) (reads : List (Nat × Nat))
  /-- FILTER list position; GATHER and FILTER count -/
  | engine (next : Nat) (count : Nat) (pred : List Byte)
  deriving DecidableEq, Repr

/-- An admitted work item (R186, R194). -/
structure Item where
  queue : Nat
  job : Nat
  member : Nat
  partner : Nat
  index : Nat
  opcode : Nat
  tag : Nat
  resume : Nat
  limitUs : Nat
  fence : Bool
  stopOnFault : Bool
  body : Nat
  /-- bindings its member held at admission (R103): region, draft, version -/
  binds : List (Nat × Bool × Nat)
  at_ : Nat
  order : Nat
  total : Nat

  /-- slivers that have become ready: home larder then, and when (R201) -/
  homes : Tbl (Option Nat × Nat)
  running : List Nat
  doneS : List Nat
  /-- slivers ended other than DONE -/
  ended : List (Nat × Status)
  /-- first cause that stops the item (R197) -/
  stop : Option Status
  limit : Bool
  started : Bool
  /-- status when every sliver ended DONE: DONE, or what the opcode's chapter gives -/
  fin : Status
  detail : Nat
  /-- extents that the descriptor names or that its requests have touched (R44, R45) -/
  exts : List Nat
  /-- crates that the descriptor's ranges cover or that its requests have touched (R120): extent, first index, count -/
  touch : List (Nat × Nat × Nat)
  extra : Extra
  /-- last journal record of its slivers' writes, which its completion waits for (R126) -/
  jseq : Option Nat
  /-- what it writes once every sliver has ended DONE has been written (R229, R287, R305) -/
  closed : Bool
  deriving DecidableEq, Repr

/-- A completion record on its way to its slot (R195). -/
structure CRec where
  queue : Nat
  status : Status
  opcode : Nat
  cause : Nat
  limit : Bool
  tag : Nat
  index : Nat
  pre : Nat
  doneN : Nat
  total : Nat
  detail : Nat
  /-- the item whose record it is, with its STOP_ON_FAULT -/
  stopOnFault : Bool
  deriving DecidableEq, Repr

/-- A CANCEL waiting for the records of the items it cancelled (R205). -/
structure CancelWait where
  queue : Nat
  /-- the number the next item admitted takes: it is later than this CANCEL -/
  order : Nat
  index : Nat
  tag : Nat
  items : List Nat
  count : Nat
  deriving DecidableEq, Repr

structure Work where
  queues : Tbl Queue
  items : Tbl Item
  nextItem : Nat
  records : List CRec
  cancels : List CancelWait
  /-- JOB_HENS drains watched (R199): job, hens still to finish -/
  drains : List (Nat × List Nat)
  /-- job resets in progress (R555) -/
  jobResets : List Nat
  deriving DecidableEq, Repr

/-! ### 07 coding -/

/-- A live codebook generation and its entries. -/
structure CbGen where
  gen : Nat
  entries : List Nat
  deriving DecidableEq, Repr

/-- A coded tensor with stored blocks: its header's extent and offset, and its references, (codebook, generation,
blocks) (R223). -/
structure TensorRef where
  ext : Nat
  off : Nat
  refs : List (Nat × Nat × Nat)
  deriving DecidableEq, Repr

structure Codebook where
  owner : Nat
  fmt : Nat
  tuple : Nat
  cw : Nat
  dropping : Bool
  gens : List CbGen
  deriving DecidableEq, Repr

structure Coding where
  /-- newest generation first -/
  books : Tbl Codebook
  tensors : List TensorRef
  /-- background recoding queue (R236): tensor header (extent, offset), block -/
  recodeQ : List (Nat × Nat × Nat)
  deriving DecidableEq, Repr

/-! ### 08 engines -/

/-- A chunk slot in use: members that have contributed (bitmap) and the elements. -/
structure Chunk where
  chunk : Nat
  /-- the slice whose reduction engine accumulates it (R241) -/
  slice : Nat
  got : Nat
  elems : List Elem
  deriving DecidableEq, Repr

structure Round where
  item : Nat
  round : Nat
  low : Nat
  chunks : List Chunk
  timer : Nat
  excluded : Nat
  /-- chunks at or above the low edge that are complete -/
  complete : List Nat
  /-- R259: when the norm phase began -/
  normAt : Nat
  deriving DecidableEq, Repr

structure Coll where
  job : Nat
  peers : Nat
  members : Nat
  next : Nat
  openR : Option Round
  pending : List Nat
  /-- excluded members of the open or last round -/
  excluded : Nat
  /-- members removed from the job: missing in every later round -/
  removed : Nat
  /-- since when the first pending round lacks slots only (RSTORE_WAIT) -/
  waitFrom : Option Nat
  deriving DecidableEq, Repr

/-- A DELIVER awaiting its RESPONSE (R253). -/
structure Deliver where
  port : Nat
  tag : Nat
  coll : Nat
  item : Nat
  member : Nat
  sliver : Nat
  sent : Nat
  deriving DecidableEq, Repr

structure Engines where
  colls : Tbl Coll
  delivers : List Deliver
  nextDeliver : Nat
  /-- peer partials held (R259): src, coll, round, accumulator -/
  heldNorms : List (Nat × Nat × Nat × SumSq)
  deriving DecidableEq, Repr

/-! ### 09, 10 -/

/-- A released chunk or page awaiting reclamation (R281): arena extent, tag, chunk flag, number. -/
structure Tagged where
  arena : Nat
  tag : Nat
  chunk : Bool
  num : Nat
  deriving DecidableEq, Repr

structure Kv where
  tagged : List Tagged
  deriving DecidableEq, Repr

structure Search where
  /-- held shard partials (R323): job, shard tag, src, results, time -/
  held : List (Nat × Nat × Nat × List PartialQ × Nat)
  deriving DecidableEq, Repr

/-! ### 11 links -/

/-- Port states (Table 11.9). -/
inductive LSt where
  | disabled | down | ident | active | recovery | held
  deriving DecidableEq, Repr

/-- Link-up phases (Table 11.4). -/
inductive Phase where
  | detect | equalise | fecLock | order | param | ident
  deriving DecidableEq, Repr

/-- A sequenced flit in the replay buffer. -/
structure TxFlit where
  seq : Nat
  typ : Nat
  vc : Nat
  payload : List Byte
  deriving DecidableEq, Repr

structure Link where
  st : LSt
  phase : Phase
  /-- width in effect since the last link-up, 0 = none -/
  width : Nat
  lanes : List Nat
  bound : Option Nat
  identRec : Nat
  /-- evidence held in IDENT (R346): claim, digest, whether nonce and signature are right -/
  evidence : Option (Nat × Nat × Bool)
  nonce : Nat
  phaseAt : Nat
  retrains : List Nat
  holdN : Nat
  holdUntil : Nat
  activeAt : Nat
  recoveryAt : Nat
  peerDepth : Nat
  txSeq : Nat
  unacked : List TxFlit
  ackAt : Nat
  lastReplay : Option Nat
  sameReplays : Nat
  rxSeq : Nat
  nakPending : Bool
  nakAt : Nat
  credits : List Nat
  advert : List Nat
  /-- credits freed and not yet returned (R340) -/
  owed : List Nat
  /-- unfinished frame bytes per virtual channel -/
  stream : Tbl (List Byte)
  fecTimes : List (Nat × Nat)
  fecCorrected : Nat
  fecUncorrected : Tbl Nat
  crcErrors : Nat
  naksSent : Nat
  replays : Nat
  retrainCount : Nat
  holds : Nat
  linkupFail : Nat
  framingErr : Nat
  creditOverrun : Nat
  peerProtoErr : Nat
  preActiveDrops : Nat
  /-- discovery step of a tray link -/
  discovery : Nat
  /-- IDENTIFY data of a tray link -/
  trayIdent : Nat
  downAt : Nat
  /-- R395, R458: caching bit and TC map in force since the last link-up -/
  caching : Bool
  tcMap : Nat
  /-- PORT_CONFIG in force since the last link-up (R326) -/
  cfg : Nat
  deriving DecidableEq, Repr

/-! ### 12 transactions -/

/-- A source (Sources, sequence numbers and tags). -/
inductive Src where
  | port (p : Nat)
  | hen (h : Nat)
  | engine
  | loft
  deriving DecidableEq, Repr

/-- What a waiting request does. -/
inductive TxKind where
  | read
  /-- WRITE, WRITE_MASKED and hen DMA writes: the bytes written, none = left as they are -/
  | write (masked : Bool) (d : List (Option Byte))
  | atomic (op : AtomOp) (width a b : Nat)
  | fence
  | region (op : Nat) (current : Bool) (version fva : Nat)
  | own (op permit obj epoch : Nat)
  | contrib (coll round chunk fmt : Nat) (d : List Byte)
  deriving DecidableEq, Repr

/-- Why a request waits; table: neither copy of a table that its walk needs can be read (R561). -/
inductive Wait where
  | none | attic | vault | space | tray | larder | line | snoop | release | mirror | tracker | filterSet | table
  deriving DecidableEq, Repr

/-- One line of a request: bytes to write, or bytes read once done. -/
structure Part where
  line : Nat
  off : Nat
  len : Nat
  wdata : List (Option Byte)
  res : Option Status
  rdata : List Byte
  /-- what a MIRROR change overwrote, until its record is acknowledged (R130) -/
  undo : List Byte
  deriving DecidableEq, Repr

/-- An open partner or hen request that has not been answered (R386). -/
structure Tx where
  id : Nat
  /-- its wait has been counted (R78) -/
  counted : Bool
  src : Src
  epoch : Nat
  seq : Nat
  tag : Nat
  job : Nat
  member : Nat
  ext : Nat
  addr : Nat
  opcode : Nat
  tc : Nat
  kind : TxKind
  rel : Bool
  parts : List Part
  wait : Wait
  /-- first held -/
  since : Nat
  /-- accepted -/
  acc : Nat
  combined : Bool
  /-- journal record whose acknowledgement it waits for (R126) -/
  jseq : Option Nat
  /-- MIRROR lines merged into a batch whose record is not yet sent (R375) -/
  jlines : List Nat
  /-- status and data of the answer, once executed -/
  ans : Option (Status × List Byte)
  deriving DecidableEq, Repr

/-- Whose computation uses memory for an item: a hen's sliver, a sliver of a slice engine, or the item itself between
slivers. -/
inductive Holder where
  | hen (h : Nat)
  | engine (item sliver : Nat)
  | home (item : Nat)
  deriving DecidableEq, Repr

/-- A memory request of a built-in sliver, a slice engine or the loft that waits at the home past check 5 (R26, R47, R77).
Its number is one of the transactions'. -/
structure Held where
  id : Nat
  who : Holder
  item : Nat
  ext : Nat
  addr : Nat
  line : Nat
  write : Bool
  wait : Wait
  since : Nat
  counted : Bool
  /-- requests of the same computation that have passed the checks: address, write, form of the crate -/
  passed : List (Nat × Bool × Nat)
  /-- how it has been completed, for its holder to take up -/
  res : Option Status
  deriving DecidableEq, Repr

/-- An open store batch (R372): merged bytes by offset, stores merged. -/
structure Batch where
  line : Nat
  at_ : Nat
  bytes : List (Nat × Byte)
  merged : Nat
  deriving DecidableEq, Repr

/-- A slot of a source's atomic replay table (R380). -/
structure Replay where
  slot : Nat
  seq : Nat
  at_ : Nat
  old : Nat
  status : Status
  deriving DecidableEq, Repr

/-- A port's epoch (Table 12.6). -/
structure PortTx where
  epoch : Nat
  lastRel : Option Nat
  highest : Nat
  lowDisc : Option Nat
  discarded : Nat
  /-- SEQs executed above LAST_RELEASE -/
  execAfter : List Nat
  execAll : Nat
  replay : List Replay
  /-- R384: requests of the old epoch still in the tracker; R427: loss scan pending -/
  draining : Bool
  lossScan : Bool
  msgTx : Nat
  msgRx : Nat
  /-- highest MSG_SEQ that the far side has acknowledged -/
  msgAck : Nat
  deriving DecidableEq, Repr

/-- Hot-line record (R378): line, times of the changes executed within the last microsecond, last event time. -/
structure Hot where
  line : Nat
  times : List Nat
  raisedAt : Option Nat
  deriving DecidableEq, Repr

/-- A response kept until its pacing is due (R546). -/
structure Paced where
  port : Nat
  tag : Nat
  seq : Nat
  job : Nat
  status : Nat
  op : Nat
  flags : Nat
  tc : Nat
  data : List Byte
  due : Nat
  deriving DecidableEq, Repr

structure Txn where
  ports : Tbl PortTx
  txs : List Tx
  held : List Held
  /-- of the computation under way: requests that passed the checks in an earlier run of it, and those it has made in this
  one; both emptied within the same step -/
  passed : List (Nat × Bool × Nat)
  made : List (Nat × Bool × Nat)
  /-- the hen whose computation is under way, within the same step -/
  runner : Option Nat
  nextTx : Nat
  batches : List Batch
  hots : List Hot
  /-- incomplete peer messages: port, msgId, fragments received -/
  frags : List (Nat × Nat × List Nat)
  nextMsg : Nat
  /-- requests that found no tracker entry (R386) -/
  stalled : List (Hdr × TxKind)
  /-- requests that found their home agent's wait queue full (R377) -/
  jammed : List (Hdr × TxKind)
  /-- paced responses of isolated jobs (R546) -/
  paced : List Paced
  deriving DecidableEq, Repr

/-! ### 13 coherence -/

/-- A duplicate-tag filter entry: holders exact (up to four) or an octet mask; owner set in state M. -/
structure FEnt where
  line : Nat
  job : Nat
  fva : Nat
  owner : Option Nat
  holders : List Nat
  coarse : Option Nat
  lseq : Nat
  set : Nat
  way : Nat
  deriving DecidableEq, Repr

/-- Open snoops and migrations. -/
inductive SnpKind where
  | inv | share | migrate
  deriving DecidableEq, Repr

structure Snoop where
  ctag : Nat
  port : Nat
  line : Nat
  kind : SnpKind
  at_ : Nat
  /-- R46: dirty data is discarded -/
  discard : Bool
  /-- one of the snoops that invalidate every copy of the line -/
  all : Bool
  /-- the extent whose drain counts it, if any -/
  drainOf : Option Nat
  deriving DecidableEq, Repr

/-- What a filter scan serves (R400). -/
inductive Scan where
  | window (w : Nat)
  | drain (ext : Nat)
  | give (obj : Nat)
  | acl (list member : Nat)
  | portLoss (port : Nat)
  | quiesce
  deriving DecidableEq, Repr

structure HeldEvict where
  port : Nat
  line : Nat
  lseq : Nat
  dirty : Bool
  data : List Byte
  /-- requests that the line unit takes first (R414, R421) -/
  behind : List Nat
  deriving DecidableEq, Repr

structure Coh where
  windows : Tbl Nat
  /-- a window being taken out (R393): window, its next value, whether a result is to be posted -/
  removing : List (Nat × Nat × Bool)
  ents : List FEnt
  snoops : List Snoop
  evicts : List HeldEvict
  scans : List Scan
  running : List Scan
  lseq : Tbl Nat
  ctag : Tbl Nat
  /-- predictor: quarter * 16,384 + entry to (tag, PORT, STREAK) -/
  pred : Tbl (Nat × Nat × Nat)
  plru : Tbl Nat
  /-- per port: snoops sent, EVICTs, migrations -/
  counters : Tbl (Nat × Nat × Nat)
  deriving DecidableEq, Repr

/-! ### 14 switch core -/

/-- A frame in the cell buffer. -/
structure Frame where
  id : Nat
  slice : Nat
  /-- ingress attachment and sub-port -/
  ingress : Nat
  inSub : Nat
  /-- destination attachment and output sub-port -/
  dest : Nat
  outSub : Nat
  vc : Nat
  /-- class it is scheduled in (R460), and its own (Table 15.1) -/
  cls : Nat
  own : Nat
  cells : Nat
  /-- credits of its link that it occupies, by its size on the link -/
  credit : Nat
  bytes : Nat
  /-- flow key (Table 14.2) with its bucket; none for frames produced inside a slice -/
  flow : Option (Nat × Nat)
  content : List Byte
  /-- buffer cells: bank * 49,152 + cell -/
  addrs : List Nat
  /-- cells that have left the virtual output queue so far -/
  sent : Nat
  /-- cells in the egress buffer -/
  out : Nat
  shared : Bool
  /-- yellow: stays in the guarantee -/
  yellow : Bool
  /-- held red at the I/O tile -/
  red : Bool
  /-- behind a re-pinning barrier -/
  barrier : Bool
  /-- on the cyclic path, and its turn in the order of entry to one -/
  cyclic : Bool
  turn : Nat
  demoted : Bool
  deriving DecidableEq, Repr

/-- Slice scheduling modes (SLICE_STATUS MODE) -/
inductive SliceMode where
  | sheepdog | twoStage | joining
  deriving DecidableEq, Repr

structure Slice where
  mode : SliceMode
  /-- pairs still sending a frame: (input, output, frame id) -/
  held : List (Nat × Nat × Nat)
  gptr : Tbl Nat
  aptr : Tbl Nat
  sptr : Nat
  cycle : Nat
  /-- cyclic lanes: path * 8 + lane to cells (frame ID, oldest first) -/
  lanes : Tbl (List Nat)
  /-- next input sub-port of a path's rotation -/
  rotation : Tbl Nat
  /-- the egress resequencer: cells (frame ID) that wait for earlier frames of their input and destination -/
  reseq : List Nat
  /-- cells matched in the running 100 µs, and since when; the last full 100 µs -/
  matched : Nat
  matchedAt : Nat
  matchedLast : Nat
  faultAt : Option Nat
  /-- the scheduler has passed its self-test since the last reset or fault -/
  tested : Bool
  deriving DecidableEq, Repr

/-- Readmission states (Table 14.6). -/
inductive Readm where
  | normal | cyclic | joining
  deriving DecidableEq, Repr

structure Attach where
  g : Nat
  s : Nat
  early : Nat
  re : Readm
  warm : Nat
  warmAt : Nat
  deriving DecidableEq, Repr

structure Capture where
  rec_ : Nat
  written : Nat
  dropped : Nat
  pendingDrop : Nat
  seen : Nat
  /-- a HEADER record that waits to share its line -/
  half : Option (List Byte)
  deriving DecidableEq, Repr

structure Switch where
  slices : Tbl Slice
  frames : List Frame
  nextFrame : Nat
  buckets : Tbl Nat
  /-- buckets being moved: bucket, old slice, new slice -/
  moving : List (Nat × Nat × Nat)
  /-- rebalancing moves still to begin (R435): bucket, new slice -/
  planned : List (Nat × Nat)
  /-- cells matched by bucket since the last rebalance check -/
  busy : Tbl Nat
  attach : Tbl Attach
  captures : Tbl Capture
  /-- free lists: bank to cells returned; cells at or above freshCells have never been used and are free too -/
  freeCells : Tbl (List Nat)
  freshCells : Tbl Nat
  /-- cells that a bank's last sweep found neither free nor referenced -/
  suspects : Tbl (List Nat)
  /-- tray links in the middle of a command of several frames (R80): link to TAG -/
  midTray : Tbl Nat
  ported : Nat
  deriving DecidableEq, Repr

/-! ### 15 traffic classes -/

/-- A meter (R466): tokens in thousandths of a byte, and counters green, yellow, red, ns held. -/
structure Meter where
  tc : Nat
  tp : Nat
  at_ : Nat
  green : Nat
  yellow : Nat
  red : Nat
  heldNs : Nat
  /-- since when a frame is held red -/
  redAt : Option Nat
  deriving DecidableEq, Repr

structure Shaper where
  tokens : Int
  at_ : Nat
  waited : Nat
  /-- since when a head frame waits for tokens -/
  waitFrom : Option Nat
  deriving DecidableEq, Repr

/-- Gate list states (Table 15.4). -/
inductive GSt where
  | none | pending | running | swapping
  deriving DecidableEq, Repr

structure Gate where
  oper : Nat
  pend : Nat
  st : GSt
  t : Nat
  entry : Nat
  entryEnd : Nat
  cycleStart : Nat
  /-- a COUNT of 0 has been committed: NONE at the next cycle start -/
  closing : Bool
  /-- commit + 100 µs of the pending list (R475) -/
  dueFrom : Nat
  /-- the timebase has stepped within the current entry (R477) -/
  stepped : Bool
  deriving DecidableEq, Repr

/-- Deficit round robin of an (input, output) pair (R463). -/
structure Drr where
  cur : Nat
  fresh : Bool
  defs : List Nat
  /-- by class, the sub-queue served last (destination * 8 + channel) -/
  lastSub : Tbl Nat
  /-- by high-level channel, the destination served last -/
  lastHigh : Tbl Nat
  deriving DecidableEq, Repr

structure Traffic where
  meters : Tbl Meter
  /-- control meters (R464): port to (tokens in thousandths of a cell, time) -/
  ctrl : Tbl (Nat × Nat)
  shapers : Tbl Shaper
  portGate : Tbl Nat
  gates : Tbl Gate
  drr : Tbl Drr
  deriving DecidableEq, Repr

/-! ### 16 ring, sessions, time -/

/-- Ring states (Table 16.1). -/
inductive RingSt where
  | normal | wrappedA | wrappedB | isolated | forwardOnly
  deriving DecidableEq, Repr

structure RPort where
  up : Bool
  recv : Nat
  sent : Nat
  crc : Nat
  fec : Nat
  failed : Nat
  /-- no signal at the receiver -/
  los : Bool
  delay : Nat
  restoredAt : Option Nat
  /-- last Pdelay_Req sent: sequence, time -/
  pseq : Nat
  pdelayAt : Nat
  deriving DecidableEq, Repr

structure Ring where
  st : RingSt
  node : Nat
  portA : RPort
  portB : RPort
  deriving DecidableEq, Repr

/-- A dictionary key: index * 256 + sub-index. -/
abbrev DKey := Nat

/-- SPDM requests (Table 17.3); FINISH opens its session and stands outside the request order. -/
inductive Spdm where
  | getVersion
  | getCapabilities
  | negotiate (supported : Bool)
  | getDigests
  | getCertificate (slot off len : Nat)
  | challenge (slot nonce : Nat)
  | getMeasurements (op nonce : Nat)
  | keyExchange (newSession pub : Nat)
  deriving DecidableEq, Repr

/-- Service requests, held or executed (Table 16.4). -/
inductive Service where
  | spdm (q : Spdm)
  | write (key : DKey) (v len : Nat) (stage : Bool)
  | commit
  | discard
  | blockOpen (key : DKey) (write : Bool) (total : Nat)
  | blockData (off : Nat) (data : List Byte)
  | blockClose (crc : Nat)
  | subscribe (key : DKey) (mode period last : Nat)
  | unsubscribe (handle : Nat)
  | sessionEnd
  deriving DecidableEq, Repr

/-- A staged write: object, instance bound at staging, value, length. -/
structure Staged where
  key : DKey
  inst : Nat
  v : Nat
  len : Nat
  deriving DecidableEq, Repr

/-- An event record (R509). -/
structure Event where
  time : Nat
  src : Nat
  num : Nat
  plen : Nat
  payload : Nat
  deriving DecidableEq, Repr

structure Sub where
  handle : Nat
  mode : Nat
  key : DKey
  inst : Nat
  last : Nat
  period : Nat
  sentAt : Nat
  seen : Nat
  deriving DecidableEq, Repr

/-- A service response as sent: ABORT, STATUS code, ARG, data. -/
structure Rsp where
  abort : Nat
  status : Nat
  arg : Nat
  data : List Byte
  deriving DecidableEq, Repr

structure Block2 where
  key : DKey
  write : Bool
  total : Nat
  data : List Byte
  at_ : Nat
  deriving DecidableEq, Repr

structure Session where
  id : Nat
  role : Nat
  node : Nat
  /-- last REQ_SEQ executed, none before the first -/
  last : Option Nat
  heldReqs : List (Nat × Service × Nat)
  cache : List (Nat × Rsp)
  staged : List Staged
  subs : List Sub
  events : List (Nat × Event)
  nextEvent : Nat
  dropped : Nat
  selects : Tbl Nat
  block : Option Block2
  activeAt : Nat
  rxSeq : Option Nat
  txSeq : Nat
  /-- last resend of unacknowledged events -/
  resendAt : Nat
  deriving DecidableEq, Repr

structure Dict where
  /-- objects whose value differs from the Default -/
  regs : Tbl Nat
  sessions : List Session
  /-- configuration store: two copies of (generation, values by key and instance) -/
  storeA : Option (Nat × List (DKey × Nat × Nat))
  storeB : Option (Nat × List (DKey × Nat × Nat))
  /-- a store write in progress: the values of the commit (none for CONFIG_CLEAR), the 2 s bound -/
  saving : Option (List (DKey × Nat × Nat) × Nat)
  homeIndex : Nat
  deriving DecidableEq, Repr

/-- Timebase states (Table 16.11). -/
inductive TSt where
  | freerun | locking | locked | holdover
  deriving DecidableEq, Repr

structure Time where
  st : TSt
  /-- arrival time and sequence of the last accepted Sync awaiting its Follow_Up -/
  syncAt : Option (Nat × Nat)
  interval : Nat
  lastSync : Nat
  good : Nat
  bad : Nat
  ppsAt : Option Nat
  /-- last accepted pulse, timebase (PPS_STATUS); ppsAt is the reference (R602) -/
  ppsAcc : Nat
  ppsInterval : Nat
  ppsLost : Bool
  /-- frequency correction in effect (FREQ_ADJ, ppb); phase correction still to slew, ns, as it stood at a time; offset then -/
  freq : Int
  corr : Int
  corrAt : Nat
  prev : Option Int
  deriving DecidableEq, Repr

/-! ### 17 security -/

structure Image where
  headerOk : Bool
  bodyOk : Bool
  fw : Nat
  sec : Nat
  /-- SHA-512 of header and body -/
  digest : Nat
  deriving DecidableEq, Repr

/-- A copy of the PUF's helper data, with its CRC-32C. -/
structure Helper where
  data : List Byte
  crc : Nat
  deriving DecidableEq, Repr
/-- The personalisation string PRK-ID. -/
def prkId : List Byte := [0x50, 0x52, 0x4B, 0x2D, 0x49, 0x44]
/-- The output of the identity's DRBG, from which alone its key pair comes (R527). -/
def identitySeed (helper : List Byte) : Nat := Config.hashDrbg (Config.pufSecret helper % 2 ^ 256) prkId

structure Flash where
  /-- SubjectPublicKeyInfo of the anchor's root certificate; its other certificates' chains verify -/
  rootKey : List Byte
  anchorOk : Bool
  /-- the device identity certificate: chain, DEVICE_TAG, public modulus -/
  idCertOk : Bool
  idTag : Nat
  idModulus : Nat
  /-- unit map: present, signature, MAGIC and FORMAT, tag, version, IN_SERVICE, hens out (larder * 384 + index) -/
  mapPresent : Bool
  mapSigOk : Bool
  mapMagicOk : Bool
  mapTag : Nat
  mapVersion : Nat
  mapCount : Nat
  mapOut : List Nat
  mapDigest : Nat
  helperA : Helper
  helperB : Helper
  imageA : Image
  imageB : Image
  retired : List (Nat × Nat)
  serials : Tbl Nat
  roles : Tbl Nat
  /-- root and device CA certificates, device identity certificate -/
  caCerts : List Byte
  idCert : List Byte
  deriving DecidableEq, Repr

structure Security where
  flash : Flash
  /-- loft SRAM image in use: slot, fallback -/
  slotB : Bool
  fallback : Bool
  /-- BOOT_SEL as sampled at the last cold reset (R580) -/
  bootSel : Nat
  identityAt : Option Nat
  identityDone : Bool
  handshakes : List (Nat × Nat × Nat)
  debugUntil : Nat
  debugScope : Nat
  /-- measurements computed once per cold reset, by index -/
  measured : Tbl Nat
  debugDigest : Nat
  deriving DecidableEq, Repr

/-! ### 18 resets -/

/-- Scopes (Table 18.2). -/
inductive Scope where
  | port | job | larder | warm | cold
  deriving DecidableEq, Repr

/-- A reset to begin (R552) or in progress: scope, target, cause, due or begun at. -/
structure ResetRec where
  scope : Scope
  target : Nat
  cause : Nat
  at_ : Nat
  /-- items ended by it, and the count of unrecorded items at its beginning -/
  ended : Nat
  unrec : Nat
  deriving DecidableEq, Repr

structure Resets where
  pendingR : List ResetRec
  inProgress : List ResetRec
  quiesce : Option Nat
  unrecorded : Nat
  coldHeld : Bool
  warmHeld : Bool
  halted : Bool
  vaux : Bool
  ledger : List (Nat × Nat)
  entrySeq : Nat
  life : Nat
  acked : Nat
  faultN : Bool
  startAt : Nat
  configApplied : Bool
  /-- READY has been reached since the last cold reset: START is recorded then (Table 18.1), not at a warm start (Table 18.8) -/
  seenReady : Bool
  trayScanDone : Bool
  /-- an uncorrectable error has struck loft SRAM (Table 18.10, 0x02): whether the image there still verifies is open -/
  sramStruck : Bool
  deriving DecidableEq, Repr

/-! ### 19 power -/

structure Power where
  vcore : Nat
  vcoreAt : Nat
  /-- rail to (mV, A, W, STATUS_WORD, last answer) -/
  rails : Tbl (Nat × Nat × Nat × Nat × Nat)
  /-- power fraction, sixteenths; POWER_CAP and POWER_GUARD in effect, taken at each 100 µs boundary -/
  frac : Nat
  cap : Nat
  guard : Nat
  /-- thermal fraction by larder (16 when absent), its last change, and since when the larder is cool -/
  thermal : Tbl Nat
  thermalAt : Tbl Nat
  coolSince : Tbl Nat
  /-- latched pin fraction -/
  pin : Nat
  throttleLow : Bool
  throttleAt : Option Nat
  throttleLowSince : Option Nat
  latched : Bool
  avg10 : Nat
  avg100 : Nat
  temps : Tbl Int
  /-- a sensor at 110 degrees caused the warm reset in progress (R596) -/
  hot : Bool
  refLost : Bool
  tripped : Bool
  deriving DecidableEq, Repr

/-! ### What the block sends -/

/-- Every message the block has sent, in order (the model's own record, log 4). -/
inductive Out where
  | response (port tag seq job status op flags tc : Nat) (data : List Byte)
  | deliver (port tag job coll round off : Nat) (fmt : Nat) (data : List Byte)
  | coh (port opcode job addr ctag lseq result : Nat) (data : List Byte)
  /-- a message of KIND: first MSG_SEQ, MSG_ID, KEY, JOB, home, body, fragments -/
  | peer (port kind msgSeq msgId key job dst : Nat) (body : List Byte)
  | peerAck (port seq : Nat)
  | tray (link op tag flags count addr : Nat) (data : List Byte)
  /-- a flit: its header's fields; the CRC is a function of them and the payload (R329) -/
  | flit (link typ vc seq ack : Nat) (payload : List Byte)
  | linkFrame (link op : Nat) (value : Nat)
  /-- leaves on port A (primary ring) or B (secondary ring) -/
  | ring (onB : Bool) (f : RingFrame)
  | discover (onB : Bool) (f : RingFrame) (map : Nat)
  | heal (onB : Bool)
  | ptp (onB : Bool) (p : Ptp)
  | pdelay (onB resp : Bool) (seqId : Nat)
  | service (session seq : Nat) (r : Rsp)
  | notify (session handle : Nat) (v : Nat)
  | event (session seq : Nat) (e : Event)
  /-- a hen's memory request and its answer on the gateway's side of the switch core (R7): bytes of data in the answer -/
  | henRequest (hen : Nat) (write : Bool) (job addr bytes : Nat)
  | henAnswer (hen bytes : Nat)
  /-- a hen's message to a hen of another larder (R169) -/
  | henMessage (hen target : Nat)
  | vout (rail mv : Nat)
  | railOff (rail : Nat)
  | pps
  deriving DecidableEq, Repr

end Sys2Proof.Machine
end

