-- ==== Sys2Proof/Machine/State.lean ====
section
/-!
DEFINITION. The state of the block, its stops, and the state after reset.
-/
namespace Sys2Proof.Machine

/-- Why the machine stops with a fault. No command of this block does: every error the spec describes is answered
with a status, recorded or contained (Table 18.4). -/
inductive Fault where
  /-- raised by no command; kept so that the type is inhabited (safe) -/
  | noFault
  deriving DecidableEq, Repr

/-- Why a command has no meaning. -/
inductive Refusal where
  /-- raised by exec for a command not modelled yet (safe) -/
  | notModelled (mnemonic : String)
  deriving DecidableEq, Repr

/-- The machine (INVENTORY.md, State). -/
structure State where
  /-- ns since the last cold reset -/
  now : Nat
  /-- timebase (0x1080.01) less now: its steps so far (R516) -/
  tbOff : Int
  /-- pool memory contents, plaintext, in canonical form; an unlisted byte reads 0 (R32) -/
  mem : List Host.Cell
  pool : Pool
  tiers : Tiers
  vers : Vers
  hens : Hens
  work : Work
  coding : Coding
  eng : Engines
  kv : Kv
  search : Search
  links : Tbl Link
  txn : Txn
  coh : Coh
  sw : Switch
  traf : Traffic
  ring : Ring
  dict : Dict
  time : Time
  sec : Security
  rst : Resets
  pow : Power
  out : List Out
  /-- the model's own: free values drawn so far (log 3) -/
  freeCtr : Nat
  /-- commands waiting, first in first out -/
  pending : List Instr
  deriving DecidableEq, Repr

/-! ### After reset -/

/-- A Kerwyn port after a cold reset (Table 16.12: every count and status 0). -/
def rportReset : RPort :=
  { up := false, recv := 0, sent := 0, crc := 0, fec := 0, failed := 0, los := false, delay := 0, restoredAt := none, pseq := 0,
    pdelayAt := 0 }

/-- The boot flash as the model takes it (DESIGN CHOICE, log 12): a whole chain, a unit map that maps no hen out,
helper data that gives the certificate's key, a valid image in slot A, no role, no retired slot. -/
def flashReset : Flash :=
  { rootKey := Config.rootKey, anchorOk := true, idCertOk := true, idTag := 1,
    idModulus := Config.identityModulus (identitySeed []), mapPresent := true, mapSigOk := true, mapMagicOk := true, mapTag := 1,
    mapVersion := 1, mapCount := 4608, mapOut := [], mapDigest := 0, helperA := { data := [], crc := 0 }, helperB := { data := [], crc := 0 },
    imageA := { headerOk := true, bodyOk := true, fw := 1, sec := 1, digest := 0 },
    imageB := { headerOk := false, bodyOk := false, fw := 0, sec := 0, digest := 0 }, retired := [], serials := [], roles := [],
    caCerts := [], idCert := [] }

/-- The machine right after a cold reset is released (Tables 18.1 and 18.3, R6): START_STATE ROM, every object at its
Default, every extent FREE, no job, no key, no session, every port DISABLED. -/
def State.reset : State :=
  { now := 0, tbOff := 0, mem := [],
    pool := { jobs := [], extents := [], gens := [], acls := [], keys := [], xlate := [], overflow := [] },
    tiers :=
      { crates := [], poison := [], failing := [], slotErrs := [], metaBad := [], groupTray := [], journals := [],
        logs := [], attic := [], kept := [], making := [], moves := [], sources := [], deferred := [], fetches := [], trays := [], cmds := [],
        nextTag := 0, blocks := [], retired := [], retiring := [], published := [], images := [], atticGib := 0, epoch := 0, flushes := [],
        atticTrials := [] },
    vers :=
      { regions := [], bindings := [], owned := [], gives := [], ownPosts := [],
        mirror := { rel := .none, nextSeq := 0, unacked := [], marked := [], jpend := [], copying := false, unmirrored := [],
                    shadows := [], lostJobs := [], waiting := [], asked := none, missed := [] } },
    hens := { hens := [], larders := [], unitMap := none, gang := none },
    work := { queues := [], items := [], nextItem := 0, records := [], cancels := [], drains := [], jobResets := [] },
    coding := { books := [], tensors := [], recodeQ := [] },
    eng := { colls := [], delivers := [], nextDeliver := 0, heldNorms := [] },
    kv := { tagged := [] }, search := { held := [] }, links := [],
    txn :=
      { ports := [], txs := [], held := [], passed := [], made := [], runner := none, nextTx := 0, batches := [], hots := [], frags := [], nextMsg := 0, stalled := [], jammed := [],
        paced := [] },
    coh :=
      { windows := [], removing := [], ents := [], snoops := [], evicts := [], scans := [], running := [], lseq := [],
        ctag := [], pred := [], plru := [], counters := [] },
    sw :=
      { slices := [], frames := [], nextFrame := 0, buckets := [], moving := [], planned := [], busy := [], attach := [],
        captures := [], freeCells := [], freshCells := [], suspects := [], midTray := [], ported := 0 },
    traf := { meters := [], ctrl := [], shapers := [], portGate := [], gates := [], drr := [] },
    ring := { st := .normal, node := 1, portA := rportReset, portB := rportReset },
    dict := { regs := [], sessions := [], storeA := none, storeB := none, saving := none, homeIndex := 0xFF },
    time :=
      { st := .freerun, syncAt := none, interval := 0, lastSync := 0, good := 0, bad := 0, ppsAt := none,
        ppsAcc := 0, ppsInterval := 0, ppsLost := false, freq := 0, corr := 0, corrAt := 0, prev := none },
    sec :=
      { flash := flashReset, slotB := false, fallback := false, bootSel := 0, identityAt := none, identityDone := false,
        handshakes := [], debugUntil := 0, debugScope := 0, measured := [], debugDigest := 0 },
    rst :=
      { pendingR := [], inProgress := [], quiesce := none, unrecorded := 0, coldHeld := false,
        warmHeld := false, halted := false, vaux := true, ledger := [], entrySeq := 0, life := 0, acked := 0,
        faultN := false, startAt := 0, configApplied := false, seenReady := false, trayScanDone := false, sramStruck := false },
    pow :=
      { vcore := 850, vcoreAt := 0, rails := [], frac := 16, cap := 3200, guard := 150, thermal := [], thermalAt := [], coolSince := [], pin := 16,
        throttleLow := false, throttleAt := none, throttleLowSince := none, latched := false, avg10 := 0, avg100 := 0,
        temps := [], hot := false, refLost := false, tripped := false },
    out := [], freeCtr := 0, pending := [] }

end Sys2Proof.Machine
end

