-- ==== Sys2Proof/Machine/Flags.lean ====
section
/-!
DEFINITION. Status codes (Table 6.6), ledger kinds and classes (Table 18.6), and the floating-point flag bits.
-/
namespace Sys2Proof.Machine

/-- The 8-bit code of a status (R192, Table 6.6). -/
def statusCode : Status → Nat
  | .done => 0x00 | .short => 0x01 | .part => 0x02 | .excluded => 0x03
  | .retry => 0x08 | .codebookBusy => 0x09 | .versionBusy => 0x0A
  | .denied => 0x10 | .revoked => 0x11 | .conflict => 0x12 | .stale => 0x13
  | .notOwner => 0x14 | .inTransit => 0x15
  | .refusedFit => 0x18 | .refusedFormat => 0x19 | .refusedQuota => 0x1A
  | .stateLost => 0x20 | .poisoned => 0x21 | .tierTimeout => 0x22 | .memberTimeout => 0x23
  | .portDown => 0x30 | .epochDiscarded => 0x31 | .cancelled => 0x3E | .internal => 0x3F

/-- Every status. -/
def allStatus : List Status :=
  [.done, .short, .part, .excluded, .retry, .codebookBusy, .versionBusy, .denied, .revoked, .conflict, .stale,
   .notOwner, .inTransit, .refusedFit, .refusedFormat, .refusedQuota, .stateLost, .poisoned, .tierTimeout,
   .memberTimeout, .portDown, .epochDiscarded, .cancelled, .internal]

/-- A received status byte; a code outside Table 6.6 counts as INTERNAL (R192). -/
def statusOf (n : Nat) : Status := (allStatus.find? (fun x => statusCode x == n)).getD .internal

/-- Ledger classes (Table 18.5). -/
abbrev clsInfo : Nat := 0
abbrev clsData : Nat := 2
abbrev clsUnit : Nat := 3
abbrev clsBlock : Nat := 4
abbrev clsFatal : Nat := 5

/-- Ledger kinds (Table 18.6). -/
abbrev ldEpoch : Nat := 0x01
abbrev ldItem : Nat := 0x02
abbrev ldPoison : Nat := 0x03
abbrev ldHenFault : Nat := 0x04
abbrev ldSnoopTimeout : Nat := 0x05
abbrev ldSheepdog : Nat := 0x06
abbrev ldGoose : Nat := 0x07
abbrev ldLarder : Nat := 0x08
abbrev ldReset : Nat := 0x09
abbrev ldStart : Nat := 0x0A
abbrev ldFatal : Nat := 0x0B
abbrev ldUnitmap : Nat := 0x0C
abbrev ldTakenOver : Nat := 0x0D
abbrev ldTrayLost : Nat := 0x0E

end Sys2Proof.Machine
end

