-- ==== Sys2Proof/Machine/Objects.lean ====
section
/-!
DEFINITION. The object dictionary: every object of the spec's dictionary tables (Tables 2.14 to 19.9) with its key,
size, access, persistence, select object, range and Default (R6, R498, R500, R520, R605).
A key is index * 256 + sub-index; names are the tables' names.
-/
namespace Sys2Proof.Machine

/-- Access of an object (Objects). -/
inductive Acc where
  | ro | rw | wo
  deriving DecidableEq, Repr

/-- A dictionary object. size in bytes, 0 for a dom object; sel: the select object that names its window, 0 = none;
a written value below lo or above hi is refused (R605). -/
structure Obj where
  key : Nat
  size : Nat
  acc : Acc
  persist : Bool
  isSel : Bool
  sel : Nat
  lo : Nat
  hi : Nat
  dflt : Nat
  deriving DecidableEq, Repr

abbrev kJobsActive : Nat := 0x400001
abbrev kJobOpen : Nat := 0x400002
abbrev kJobClose : Nat := 0x400003
abbrev kJobSlots : Nat := 0x400004
abbrev kJobResult : Nat := 0x400005
abbrev kJobSelect : Nat := 0x400006
abbrev kJobRecord : Nat := 0x400007
abbrev kMemberAdd : Nat := 0x401001
abbrev kMemberRemove : Nat := 0x401002
abbrev kPortSelect : Nat := 0x402001
abbrev kPortJobs : Nat := 0x402002
abbrev kExtentCmd : Nat := 0x410001
abbrev kExtentResult : Nat := 0x410002
abbrev kExtentSelect : Nat := 0x410003
abbrev kExtentEntry : Nat := 0x410004
abbrev kExtentsUsed : Nat := 0x410005
abbrev kCommitted : Nat := 0x410006
abbrev kAclSelect : Nat := 0x420001
abbrev kAclEntry : Nat := 0x420002
abbrev kKeySelect : Nat := 0x430001
abbrev kKeyInfo : Nat := 0x430002
abbrev kKeyDestroy : Nat := 0x430003
abbrev kDeniedPort : Nat := 0x438001
abbrev kDeniedSlot : Nat := 0x438002
abbrev kDeniedMap : Nat := 0x438003
abbrev kRevokedCount : Nat := 0x438004
abbrev kDeniedAcl : Nat := 0x438005
abbrev kXlateMiss : Nat := 0x438006
abbrev kDrainForced : Nat := 0x438007

/-- Table 2.14. -/
def objs02a : List Obj := [
  ⟨0x400001, 2, .ro, false, false, 0x000000, 0, 2 ^ 16 - 1, 0⟩,
  ⟨0x400002, 32, .wo, false, false, 0x000000, 0, 2 ^ 256 - 1, 0⟩,
  ⟨0x400003, 2, .wo, false, false, 0x000000, 0, 2 ^ 16 - 1, 0⟩,
  ⟨0x400004, 4, .wo, false, false, 0x000000, 0, 2 ^ 32 - 1, 0⟩,
  ⟨0x400005, 2, .ro, false, false, 0x000000, 0, 2 ^ 16 - 1, 0⟩,
  ⟨0x400006, 2, .rw, false, true, 0x000000, 0, 2 ^ 16 - 1, 0⟩,
  ⟨0x400007, 32, .ro, false, false, 0x400006, 0, 2 ^ 256 - 1, 0⟩,
  ⟨0x401001, 8, .wo, false, false, 0x000000, 0, 2 ^ 64 - 1, 0⟩,
  ⟨0x401002, 4, .wo, false, false, 0x000000, 0, 2 ^ 32 - 1, 0⟩,
  ⟨0x402001, 1, .rw, false, true, 0x000000, 0, 191, 0⟩,
  ⟨0x402002, 512, .ro, false, false, 0x402001, 0, 2 ^ 4096 - 1, 0⟩,
  ⟨0x410001, 32, .wo, false, false, 0x000000, 0, 2 ^ 256 - 1, 0⟩,
  ⟨0x410002, 8, .ro, false, false, 0x000000, 0, 2 ^ 64 - 1, 0⟩,
  ⟨0x410003, 2, .rw, false, true, 0x000000, 0, 2 ^ 16 - 1, 0⟩,
  ⟨0x410004, 32, .ro, false, false, 0x410003, 0, 2 ^ 256 - 1, 0⟩,
  ⟨0x410005, 4, .ro, false, false, 0x000000, 0, 2 ^ 32 - 1, 0⟩,
  ⟨0x410006, 24, .ro, false, false, 0x000000, 0, 2 ^ 192 - 1, 0⟩,
  ⟨0x420001, 2, .rw, false, true, 0x000000, 0, 16383, 0⟩,
  ⟨0x420002, 64, .rw, false, false, 0x420001, 0, 2 ^ 512 - 1, 0⟩,
  ⟨0x430001, 2, .rw, false, true, 0x000000, 0, 4095, 0⟩,
  ⟨0x430002, 8, .ro, false, false, 0x430001, 0, 2 ^ 64 - 1, 0⟩,
  ⟨0x430003, 2, .wo, false, false, 0x000000, 0, 2 ^ 16 - 1, 0⟩,
  ⟨0x438001, 8, .ro, false, false, 0x000000, 0, 2 ^ 64 - 1, 0⟩,
  ⟨0x438002, 8, .ro, false, false, 0x000000, 0, 2 ^ 64 - 1, 0⟩,
  ⟨0x438003, 8, .ro, false, false, 0x000000, 0, 2 ^ 64 - 1, 0⟩,
  ⟨0x438004, 8, .ro, false, false, 0x000000, 0, 2 ^ 64 - 1, 0⟩,
  ⟨0x438005, 8, .ro, false, false, 0x000000, 0, 2 ^ 64 - 1, 0⟩,
  ⟨0x438006, 8, .ro, false, false, 0x000000, 0, 2 ^ 64 - 1, 0⟩,
  ⟨0x438007, 4, .ro, false, false, 0x000000, 0, 2 ^ 32 - 1, 0⟩]

abbrev kShelfUsable : Nat := 0x500001
abbrev kCellarUsable : Nat := 0x500002
abbrev kVaultUsable : Nat := 0x500003
abbrev kAtticSize : Nat := 0x500004
abbrev kAtticUsed : Nat := 0x500005
abbrev kEpochMs : Nat := 0x501001
abbrev kPromoteHeat : Nat := 0x501002
abbrev kAtticMinHeat : Nat := 0x501003
abbrev kVaultIdle : Nat := 0x501004
abbrev kShelfLow : Nat := 0x501005
abbrev kAtticLow : Nat := 0x501006
abbrev kCellarLow : Nat := 0x501007
abbrev kMoveShare : Nat := 0x501008
abbrev kTierTimeout : Nat := 0x501009
abbrev kCrateSelect : Nat := 0x502001
abbrev kCrateEntry : Nat := 0x502002
abbrev kFlushCmd : Nat := 0x503001
abbrev kFlushResult : Nat := 0x503002
abbrev kStallAttic : Nat := 0x504001
abbrev kStallVault : Nat := 0x504002
abbrev kStallSpace : Nat := 0x504003
abbrev kStallTray : Nat := 0x504004
abbrev kTierTimeouts : Nat := 0x504005
abbrev kMovesDone : Nat := 0x505001
abbrev kMoveAbandoned : Nat := 0x505002
abbrev kMovesDeferred : Nat := 0x505003
abbrev kTraySelect : Nat := 0x508001
abbrev kTrayStatus : Nat := 0x508002
abbrev kVaultRelocations : Nat := 0x510001
abbrev kVaultBlocksRetired : Nat := 0x510002
abbrev kVaultUncorrected : Nat := 0x510003
abbrev kRetiredSlots : Nat := 0x518001
abbrev kRetiredSelect : Nat := 0x518002
abbrev kRetiredEntry : Nat := 0x518003

/-- Table 3.11. -/
def objs03a : List Obj := [
  ⟨0x500001, 4, .ro, false, false, 0x000000, 0, 2 ^ 32 - 1, 0⟩,
  ⟨0x500002, 4, .ro, false, false, 0x000000, 0, 2 ^ 32 - 1, 0⟩,
  ⟨0x500003, 4, .ro, false, false, 0x000000, 0, 2 ^ 32 - 1, 0⟩,
  ⟨0x500004, 2, .rw, true, false, 0x000000, 0, 2 ^ 16 - 1, 192⟩,
  ⟨0x500005, 4, .ro, false, false, 0x000000, 0, 2 ^ 32 - 1, 0⟩,
  ⟨0x501001, 2, .rw, true, false, 0x000000, 1, 1000, 16⟩,
  ⟨0x501002, 1, .rw, true, false, 0x000000, 1, 2 ^ 8 - 1, 16⟩,
  ⟨0x501003, 1, .rw, true, false, 0x000000, 0, 2 ^ 8 - 1, 1⟩,
  ⟨0x501004, 1, .rw, true, false, 0x000000, 1, 2 ^ 8 - 1, 64⟩,
  ⟨0x501005, 2, .rw, true, false, 0x000000, 10, 1000, 100⟩,
  ⟨0x501006, 2, .rw, true, false, 0x000000, 10, 1000, 200⟩,
  ⟨0x501007, 2, .rw, true, false, 0x000000, 10, 1000, 200⟩,
  ⟨0x501008, 1, .rw, true, false, 0x000000, 4, 64, 16⟩,
  ⟨0x501009, 2, .rw, true, false, 0x000000, 1, 1000, 50⟩,
  ⟨0x502001, 8, .rw, false, true, 0x000000, 0, 2 ^ 64 - 1, 0⟩,
  ⟨0x502002, 16, .ro, false, false, 0x502001, 0, 2 ^ 128 - 1, 0⟩,
  ⟨0x503001, 4, .wo, false, false, 0x000000, 0, 2 ^ 32 - 1, 0⟩,
  ⟨0x503002, 8, .ro, false, false, 0x000000, 0, 2 ^ 64 - 1, 0⟩,
  ⟨0x504001, 8, .ro, false, false, 0x000000, 0, 2 ^ 64 - 1, 0⟩,
  ⟨0x504002, 8, .ro, false, false, 0x000000, 0, 2 ^ 64 - 1, 0⟩,
  ⟨0x504003, 8, .ro, false, false, 0x000000, 0, 2 ^ 64 - 1, 0⟩,
  ⟨0x504004, 8, .ro, false, false, 0x000000, 0, 2 ^ 64 - 1, 0⟩,
  ⟨0x504005, 8, .ro, false, false, 0x000000, 0, 2 ^ 64 - 1, 0⟩,
  ⟨0x505001, 8, .ro, false, false, 0x000000, 0, 2 ^ 64 - 1, 0⟩,
  ⟨0x505002, 8, .ro, false, false, 0x000000, 0, 2 ^ 64 - 1, 0⟩,
  ⟨0x505003, 8, .ro, false, false, 0x000000, 0, 2 ^ 64 - 1, 0⟩,
  ⟨0x508001, 1, .rw, false, true, 0x000000, 0, 15, 0⟩,
  ⟨0x508002, 16, .ro, false, false, 0x508001, 0, 2 ^ 128 - 1, 0⟩,
  ⟨0x510001, 8, .ro, false, false, 0x000000, 0, 2 ^ 64 - 1, 0⟩,
  ⟨0x510002, 4, .ro, false, false, 0x000000, 0, 2 ^ 32 - 1, 0⟩,
  ⟨0x510003, 4, .ro, false, false, 0x000000, 0, 2 ^ 32 - 1, 0⟩,
  ⟨0x518001, 4, .ro, false, false, 0x000000, 0, 2 ^ 32 - 1, 0⟩,
  ⟨0x518002, 4, .rw, false, true, 0x000000, 0, 2 ^ 32 - 1, 0⟩,
  ⟨0x518003, 8, .ro, false, false, 0x518002, 0, 2 ^ 64 - 1, 0⟩]

abbrev kRegionsUsed : Nat := 0x440001
abbrev kRegionSelect : Nat := 0x440002
abbrev kRegionInfo : Nat := 0x440003
abbrev kBindingsUsed : Nat := 0x440004
abbrev kVpoolFull : Nat := 0x440005
abbrev kConflicts : Nat := 0x440006
abbrev kVersionBusyCount : Nat := 0x440007
abbrev kOwnedCmd : Nat := 0x444001
abbrev kOwnedResult : Nat := 0x444002
abbrev kOwnedSelect : Nat := 0x444003
abbrev kOwnedEntry : Nat := 0x444004
abbrev kOwnRevertedCount : Nat := 0x444005
abbrev kMirrorPeer : Nat := 0x448001
abbrev kMirrorState : Nat := 0x448002
abbrev kMirrorTimeout : Nat := 0x448003
abbrev kMirrorRelease : Nat := 0x448004
abbrev kMirrorResync : Nat := 0x448005
abbrev kMirrorTakeover : Nat := 0x448006
abbrev kJournalSeq : Nat := 0x448007
abbrev kStallMirror : Nat := 0x448008
abbrev kTakeoverJobsLost : Nat := 0x448009

/-- Table 4.11. -/
def objs04a : List Obj := [
  ⟨0x440001, 2, .ro, false, false, 0x000000, 0, 2 ^ 16 - 1, 0⟩,
  ⟨0x440002, 2, .rw, false, true, 0x000000, 0, 4095, 0⟩,
  ⟨0x440003, 16, .ro, false, false, 0x440002, 0, 2 ^ 128 - 1, 0⟩,
  ⟨0x440004, 4, .ro, false, false, 0x000000, 0, 2 ^ 32 - 1, 0⟩,
  ⟨0x440005, 8, .ro, false, false, 0x000000, 0, 2 ^ 64 - 1, 0⟩,
  ⟨0x440006, 8, .ro, false, false, 0x000000, 0, 2 ^ 64 - 1, 0⟩,
  ⟨0x440007, 8, .ro, false, false, 0x000000, 0, 2 ^ 64 - 1, 0⟩,
  ⟨0x444001, 64, .wo, false, false, 0x000000, 0, 2 ^ 512 - 1, 0⟩,
  ⟨0x444002, 8, .ro, false, false, 0x000000, 0, 2 ^ 64 - 1, 0⟩,
  ⟨0x444003, 2, .rw, false, true, 0x000000, 0, 16383, 0⟩,
  ⟨0x444004, 80, .ro, false, false, 0x444003, 0, 2 ^ 640 - 1, 0⟩,
  ⟨0x444005, 8, .ro, false, false, 0x000000, 0, 2 ^ 64 - 1, 0⟩,
  ⟨0x448001, 1, .rw, true, false, 0x000000, 0, 2 ^ 8 - 1, 255⟩,
  ⟨0x448002, 1, .ro, false, false, 0x000000, 0, 2 ^ 8 - 1, 0⟩,
  ⟨0x448003, 2, .rw, true, false, 0x000000, 20, 10000, 200⟩,
  ⟨0x448004, 1, .wo, false, false, 0x000000, 0, 2 ^ 8 - 1, 0⟩,
  ⟨0x448005, 1, .wo, false, false, 0x000000, 0, 2 ^ 8 - 1, 0⟩,
  ⟨0x448006, 1, .wo, false, false, 0x000000, 0, 2 ^ 8 - 1, 0⟩,
  ⟨0x448007, 8, .ro, false, false, 0x000000, 0, 2 ^ 64 - 1, 0⟩,
  ⟨0x448008, 8, .ro, false, false, 0x000000, 0, 2 ^ 64 - 1, 0⟩,
  ⟨0x448009, 2, .ro, false, false, 0x000000, 0, 2 ^ 16 - 1, 0⟩]

abbrev kHensInService : Nat := 0x600001
abbrev kHensMappedOut : Nat := 0x600002
abbrev kUnitmapStatus : Nat := 0x600003
abbrev kUnitmapVersion : Nat := 0x600004
abbrev kHenSelect : Nat := 0x601001
abbrev kHenState : Nat := 0x601002
abbrev kHenCounters : Nat := 0x601003
abbrev kLarderSelect : Nat := 0x602001
abbrev kLarderStatus : Nat := 0x602002
abbrev kLsCorrected : Nat := 0x608001
abbrev kLsUncorrected : Nat := 0x608002
abbrev kIllegalInsn : Nat := 0x608003
abbrev kAccessFaults : Nat := 0x608004
abbrev kMsgBackpressure : Nat := 0x608005

/-- Table 5.10. -/
def objs05a : List Obj := [
  ⟨0x600001, 2, .ro, false, false, 0x000000, 0, 2 ^ 16 - 1, 0⟩,
  ⟨0x600002, 2, .ro, false, false, 0x000000, 0, 2 ^ 16 - 1, 0⟩,
  ⟨0x600003, 1, .ro, false, false, 0x000000, 0, 2 ^ 8 - 1, 0⟩,
  ⟨0x600004, 4, .ro, false, false, 0x000000, 0, 2 ^ 32 - 1, 0⟩,
  ⟨0x601001, 2, .rw, false, true, 0x000000, 0, 2 ^ 16 - 1, 0⟩,
  ⟨0x601002, 8, .ro, false, false, 0x601001, 0, 2 ^ 64 - 1, 0⟩,
  ⟨0x601003, 32, .ro, false, false, 0x601001, 0, 2 ^ 256 - 1, 0⟩,
  ⟨0x602001, 1, .rw, false, true, 0x000000, 0, 11, 0⟩,
  ⟨0x602002, 16, .ro, false, false, 0x602001, 0, 2 ^ 128 - 1, 0⟩,
  ⟨0x608001, 8, .ro, false, false, 0x000000, 0, 2 ^ 64 - 1, 0⟩,
  ⟨0x608002, 4, .ro, false, false, 0x000000, 0, 2 ^ 32 - 1, 0⟩,
  ⟨0x608003, 4, .ro, false, false, 0x000000, 0, 2 ^ 32 - 1, 0⟩,
  ⟨0x608004, 4, .ro, false, false, 0x000000, 0, 2 ^ 32 - 1, 0⟩,
  ⟨0x608005, 8, .ro, false, false, 0x000000, 0, 2 ^ 64 - 1, 0⟩]

abbrev kQueueCmd : Nat := 0x610001
abbrev kQueueResult : Nat := 0x610002
abbrev kQueueSelect : Nat := 0x610003
abbrev kQueueInfo : Nat := 0x610004
abbrev kQueuesUsed : Nat := 0x610005
abbrev kJobHens : Nat := 0x614001
abbrev kJobHensResult : Nat := 0x614002
abbrev kJobHensSelect : Nat := 0x614003
abbrev kJobHensEntry : Nat := 0x614004
abbrev kStealNs : Nat := 0x618001
abbrev kSliverLimitUs : Nat := 0x618002
abbrev kItemsInFlight : Nat := 0x618003
abbrev kItemsAdmitted : Nat := 0x61c001
abbrev kItemsRefused : Nat := 0x61c002
abbrev kAdmitStall : Nat := 0x61c003
abbrev kDoorbellUnordered : Nat := 0x61c004
abbrev kSliversStolen : Nat := 0x61c005
abbrev kSliverLimitHits : Nat := 0x61c006
abbrev kGangWait : Nat := 0x61c007
abbrev kImageLoads : Nat := 0x61c008

/-- Table 6.12. -/
def objs06a : List Obj := [
  ⟨0x610001, 32, .wo, false, false, 0x000000, 0, 2 ^ 256 - 1, 0⟩,
  ⟨0x610002, 8, .ro, false, false, 0x000000, 0, 2 ^ 64 - 1, 0⟩,
  ⟨0x610003, 2, .rw, false, true, 0x000000, 0, 16383, 0⟩,
  ⟨0x610004, 32, .ro, false, false, 0x610003, 0, 2 ^ 256 - 1, 0⟩,
  ⟨0x610005, 2, .ro, false, false, 0x000000, 0, 2 ^ 16 - 1, 0⟩,
  ⟨0x614001, 16, .wo, false, false, 0x000000, 0, 2 ^ 128 - 1, 0⟩,
  ⟨0x614002, 2, .ro, false, false, 0x000000, 0, 2 ^ 16 - 1, 0⟩,
  ⟨0x614003, 2, .rw, false, true, 0x000000, 0, 2 ^ 16 - 1, 0⟩,
  ⟨0x614004, 16, .ro, false, false, 0x614003, 0, 2 ^ 128 - 1, 0⟩,
  ⟨0x618001, 2, .rw, true, false, 0x000000, 0, 2 ^ 16 - 1, 2000⟩,
  ⟨0x618002, 4, .rw, true, false, 0x000000, 1, 1000000, 10000⟩,
  ⟨0x618003, 4, .ro, false, false, 0x000000, 0, 2 ^ 32 - 1, 0⟩,
  ⟨0x61c001, 8, .ro, false, false, 0x000000, 0, 2 ^ 64 - 1, 0⟩,
  ⟨0x61c002, 8, .ro, false, false, 0x000000, 0, 2 ^ 64 - 1, 0⟩,
  ⟨0x61c003, 8, .ro, false, false, 0x000000, 0, 2 ^ 64 - 1, 0⟩,
  ⟨0x61c004, 8, .ro, false, false, 0x000000, 0, 2 ^ 64 - 1, 0⟩,
  ⟨0x61c005, 8, .ro, false, false, 0x000000, 0, 2 ^ 64 - 1, 0⟩,
  ⟨0x61c006, 4, .ro, false, false, 0x000000, 0, 2 ^ 32 - 1, 0⟩,
  ⟨0x61c007, 8, .ro, false, false, 0x000000, 0, 2 ^ 64 - 1, 0⟩,
  ⟨0x61c008, 8, .ro, false, false, 0x000000, 0, 2 ^ 64 - 1, 0⟩]

abbrev kCodebooksUsed : Nat := 0x700001
abbrev kCbSelect : Nat := 0x700002
abbrev kCbInfo : Nat := 0x700003
abbrev kStallExpand : Nat := 0x700004
abbrev kSlowImported : Nat := 0x700005
abbrev kRecoded : Nat := 0x700006
abbrev kRecodeNoRoom : Nat := 0x700007
abbrev kRecodeDropped : Nat := 0x700008
abbrev kCbFetches : Nat := 0x700009
abbrev kCheckFails : Nat := 0x70000a
abbrev kCodebookBusyCount : Nat := 0x70000b
abbrev kAtticRetrains : Nat := 0x70000c
abbrev kPortBlocksDecoded : Nat := 0x70000d

/-- Table 7.11. -/
def objs07a : List Obj := [
  ⟨0x700001, 2, .ro, false, false, 0x000000, 0, 2 ^ 16 - 1, 0⟩,
  ⟨0x700002, 2, .rw, false, true, 0x000000, 0, 16383, 0⟩,
  ⟨0x700003, 16, .ro, false, false, 0x700002, 0, 2 ^ 128 - 1, 0⟩,
  ⟨0x700004, 8, .ro, false, false, 0x000000, 0, 2 ^ 64 - 1, 0⟩,
  ⟨0x700005, 8, .ro, false, false, 0x000000, 0, 2 ^ 64 - 1, 0⟩,
  ⟨0x700006, 8, .ro, false, false, 0x000000, 0, 2 ^ 64 - 1, 0⟩,
  ⟨0x700007, 8, .ro, false, false, 0x000000, 0, 2 ^ 64 - 1, 0⟩,
  ⟨0x700008, 8, .ro, false, false, 0x000000, 0, 2 ^ 64 - 1, 0⟩,
  ⟨0x700009, 8, .ro, false, false, 0x000000, 0, 2 ^ 64 - 1, 0⟩,
  ⟨0x70000a, 4, .ro, false, false, 0x000000, 0, 2 ^ 32 - 1, 0⟩,
  ⟨0x70000b, 8, .ro, false, false, 0x000000, 0, 2 ^ 64 - 1, 0⟩,
  ⟨0x70000c, 4, .ro, false, false, 0x000000, 0, 2 ^ 32 - 1, 0⟩,
  ⟨0x70000d, 8, .ro, false, false, 0x000000, 0, 2 ^ 64 - 1, 0⟩]

abbrev kCollCmd : Nat := 0x800001
abbrev kCollResult : Nat := 0x800002
abbrev kCollSelect : Nat := 0x800003
abbrev kCollInfo : Nat := 0x800004
abbrev kCollsUsed : Nat := 0x800005
abbrev kRstoreFree : Nat := 0x804001
abbrev kContribAccepted : Nat := 0x808001
abbrev kContribDuplicate : Nat := 0x808002
abbrev kContribRetry : Nat := 0x808003
abbrev kContribStale : Nat := 0x808004
abbrev kMembersExcluded : Nat := 0x808005
abbrev kRstoreWait : Nat := 0x808006
abbrev kElementsReduced : Nat := 0x808007
abbrev kPeerPartialsDiscarded : Nat := 0x808008
abbrev kUpdatesRun : Nat := 0x810001
abbrev kClipsApplied : Nat := 0x810002
abbrev kUpdatesSkipped : Nat := 0x810003
abbrev kGatherRows : Nat := 0x840001
abbrev kGatherCombined : Nat := 0x840002
abbrev kGatherOob : Nat := 0x840003
abbrev kFilterRecords : Nat := 0x840004
abbrev kFilterMatches : Nat := 0x840005

/-- Table 8.12. -/
def objs08a : List Obj := [
  ⟨0x800001, 64, .wo, false, false, 0x000000, 0, 2 ^ 512 - 1, 0⟩,
  ⟨0x800002, 8, .ro, false, false, 0x000000, 0, 2 ^ 64 - 1, 0⟩,
  ⟨0x800003, 2, .rw, false, true, 0x000000, 0, 4095, 0⟩,
  ⟨0x800004, 64, .ro, false, false, 0x800003, 0, 2 ^ 512 - 1, 0⟩,
  ⟨0x800005, 2, .ro, false, false, 0x000000, 0, 2 ^ 16 - 1, 0⟩,
  ⟨0x804001, 2, .ro, false, false, 0x000000, 0, 2 ^ 16 - 1, 1636⟩,
  ⟨0x808001, 8, .ro, false, false, 0x000000, 0, 2 ^ 64 - 1, 0⟩,
  ⟨0x808002, 8, .ro, false, false, 0x000000, 0, 2 ^ 64 - 1, 0⟩,
  ⟨0x808003, 8, .ro, false, false, 0x000000, 0, 2 ^ 64 - 1, 0⟩,
  ⟨0x808004, 8, .ro, false, false, 0x000000, 0, 2 ^ 64 - 1, 0⟩,
  ⟨0x808005, 8, .ro, false, false, 0x000000, 0, 2 ^ 64 - 1, 0⟩,
  ⟨0x808006, 8, .ro, false, false, 0x000000, 0, 2 ^ 64 - 1, 0⟩,
  ⟨0x808007, 8, .ro, false, false, 0x000000, 0, 2 ^ 64 - 1, 0⟩,
  ⟨0x808008, 4, .ro, false, false, 0x000000, 0, 2 ^ 32 - 1, 0⟩,
  ⟨0x810001, 8, .ro, false, false, 0x000000, 0, 2 ^ 64 - 1, 0⟩,
  ⟨0x810002, 8, .ro, false, false, 0x000000, 0, 2 ^ 64 - 1, 0⟩,
  ⟨0x810003, 4, .ro, false, false, 0x000000, 0, 2 ^ 32 - 1, 0⟩,
  ⟨0x840001, 8, .ro, false, false, 0x000000, 0, 2 ^ 64 - 1, 0⟩,
  ⟨0x840002, 8, .ro, false, false, 0x000000, 0, 2 ^ 64 - 1, 0⟩,
  ⟨0x840003, 8, .ro, false, false, 0x000000, 0, 2 ^ 64 - 1, 0⟩,
  ⟨0x840004, 8, .ro, false, false, 0x000000, 0, 2 ^ 64 - 1, 0⟩,
  ⟨0x840005, 8, .ro, false, false, 0x000000, 0, 2 ^ 64 - 1, 0⟩]

abbrev kWalksLive : Nat := 0x880001
abbrev kReclaimPending : Nat := 0x880002
abbrev kReclaimFull : Nat := 0x880003
abbrev kPagesReleased : Nat := 0x880004
abbrev kPageRingFull : Nat := 0x880005
abbrev kEditsDone : Nat := 0x880006
abbrev kBlocksWalked : Nat := 0x880007
abbrev kBlocksSkipped : Nat := 0x880008
abbrev kPadRows : Nat := 0x880009
abbrev kSplitsMerged : Nat := 0x88000a
abbrev kProjectTmmas : Nat := 0x88000b

/-- Table 9.11. -/
def objs09a : List Obj := [
  ⟨0x880001, 4, .ro, false, false, 0x000000, 0, 2 ^ 32 - 1, 0⟩,
  ⟨0x880002, 4, .ro, false, false, 0x000000, 0, 2 ^ 32 - 1, 0⟩,
  ⟨0x880003, 4, .ro, false, false, 0x000000, 0, 2 ^ 32 - 1, 0⟩,
  ⟨0x880004, 8, .ro, false, false, 0x000000, 0, 2 ^ 64 - 1, 0⟩,
  ⟨0x880005, 4, .ro, false, false, 0x000000, 0, 2 ^ 32 - 1, 0⟩,
  ⟨0x880006, 8, .ro, false, false, 0x000000, 0, 2 ^ 64 - 1, 0⟩,
  ⟨0x880007, 8, .ro, false, false, 0x000000, 0, 2 ^ 64 - 1, 0⟩,
  ⟨0x880008, 8, .ro, false, false, 0x000000, 0, 2 ^ 64 - 1, 0⟩,
  ⟨0x880009, 8, .ro, false, false, 0x000000, 0, 2 ^ 64 - 1, 0⟩,
  ⟨0x88000a, 8, .ro, false, false, 0x000000, 0, 2 ^ 64 - 1, 0⟩,
  ⟨0x88000b, 8, .ro, false, false, 0x000000, 0, 2 ^ 64 - 1, 0⟩]

abbrev kSearchesDone : Nat := 0x8c0001
abbrev kQueriesShort : Nat := 0x8c0002
abbrev kWidenRounds : Nat := 0x8c0003
abbrev kEntriesScanned : Nat := 0x8c0004
abbrev kEntriesFiltered : Nat := 0x8c0005
abbrev kWaypoints : Nat := 0x8c0006
abbrev kWalkCapped : Nat := 0x8c0007
abbrev kShardPartialsDiscarded : Nat := 0x8c0008
abbrev kShardsMissing : Nat := 0x8c0009
abbrev kMergesDone : Nat := 0x8c000a
abbrev kMergeRetry : Nat := 0x8c000b
abbrev kAppendFull : Nat := 0x8c000c

/-- Table 10.12. -/
def objs10a : List Obj := [
  ⟨0x8c0001, 8, .ro, false, false, 0x000000, 0, 2 ^ 64 - 1, 0⟩,
  ⟨0x8c0002, 8, .ro, false, false, 0x000000, 0, 2 ^ 64 - 1, 0⟩,
  ⟨0x8c0003, 8, .ro, false, false, 0x000000, 0, 2 ^ 64 - 1, 0⟩,
  ⟨0x8c0004, 8, .ro, false, false, 0x000000, 0, 2 ^ 64 - 1, 0⟩,
  ⟨0x8c0005, 8, .ro, false, false, 0x000000, 0, 2 ^ 64 - 1, 0⟩,
  ⟨0x8c0006, 8, .ro, false, false, 0x000000, 0, 2 ^ 64 - 1, 0⟩,
  ⟨0x8c0007, 4, .ro, false, false, 0x000000, 0, 2 ^ 32 - 1, 0⟩,
  ⟨0x8c0008, 4, .ro, false, false, 0x000000, 0, 2 ^ 32 - 1, 0⟩,
  ⟨0x8c0009, 4, .ro, false, false, 0x000000, 0, 2 ^ 32 - 1, 0⟩,
  ⟨0x8c000a, 8, .ro, false, false, 0x000000, 0, 2 ^ 64 - 1, 0⟩,
  ⟨0x8c000b, 4, .ro, false, false, 0x000000, 0, 2 ^ 32 - 1, 0⟩,
  ⟨0x8c000c, 4, .ro, false, false, 0x000000, 0, 2 ^ 32 - 1, 0⟩]

abbrev kLinkSelect : Nat := 0x200001
abbrev kPortConfig : Nat := 0x200002
abbrev kPortStatus : Nat := 0x200003
abbrev kPortExpect : Nat := 0x200004
abbrev kPortIdent : Nat := 0x200005
abbrev kPortCmd : Nat := 0x200006
abbrev kPortCredits : Nat := 0x200007
abbrev kReplayTimeout : Nat := 0x208001
abbrev kReplayLimit : Nat := 0x208002
abbrev kFecCorrected : Nat := 0x210001
abbrev kFecUncorrected : Nat := 0x210002
abbrev kCrcErrors : Nat := 0x210003
abbrev kNaksSent : Nat := 0x210004
abbrev kReplays : Nat := 0x210005
abbrev kRetrains : Nat := 0x210006
abbrev kHolds : Nat := 0x210007
abbrev kLinkupFail : Nat := 0x210008
abbrev kFramingErr : Nat := 0x210009
abbrev kCreditOverrun : Nat := 0x21000a
abbrev kPeerProtoErr : Nat := 0x21000b
abbrev kPreActiveDrops : Nat := 0x21000c
abbrev kTlinkSelect : Nat := 0x220001
abbrev kTlinkStatus : Nat := 0x220002
abbrev kTlinkIdent : Nat := 0x220003
abbrev kTlinkCmd : Nat := 0x220004
abbrev kTlinkCounters : Nat := 0x220005

/-- Table 11.11. -/
def objs11a : List Obj := [
  ⟨0x200001, 1, .rw, false, true, 0x000000, 0, 191, 0⟩,
  ⟨0x200002, 8, .rw, true, false, 0x200001, 0, 2 ^ 64 - 1, 0⟩,
  ⟨0x200003, 16, .ro, false, false, 0x200001, 0, 2 ^ 128 - 1, 0⟩,
  ⟨0x200004, 64, .rw, true, false, 0x200001, 0, 2 ^ 512 - 1, 0xfff00000000000000000000000000000000000000000000000000000000000000000000000000000000000000000000000000000000000000000000000000000⟩,
  ⟨0x200005, 64, .ro, false, false, 0x200001, 0, 2 ^ 512 - 1, 0⟩,
  ⟨0x200006, 1, .wo, false, false, 0x200001, 0, 2 ^ 8 - 1, 0⟩,
  ⟨0x200007, 32, .ro, false, false, 0x200001, 0, 2 ^ 256 - 1, 0⟩,
  ⟨0x208001, 2, .rw, true, false, 0x000000, 1000, 2 ^ 16 - 1, 4000⟩,
  ⟨0x208002, 1, .rw, true, false, 0x000000, 1, 16, 4⟩,
  ⟨0x210001, 8, .ro, false, false, 0x200001, 0, 2 ^ 64 - 1, 0⟩,
  ⟨0x210002, 64, .ro, false, false, 0x200001, 0, 2 ^ 512 - 1, 0⟩,
  ⟨0x210003, 8, .ro, false, false, 0x200001, 0, 2 ^ 64 - 1, 0⟩,
  ⟨0x210004, 8, .ro, false, false, 0x200001, 0, 2 ^ 64 - 1, 0⟩,
  ⟨0x210005, 8, .ro, false, false, 0x200001, 0, 2 ^ 64 - 1, 0⟩,
  ⟨0x210006, 4, .ro, false, false, 0x200001, 0, 2 ^ 32 - 1, 0⟩,
  ⟨0x210007, 4, .ro, false, false, 0x200001, 0, 2 ^ 32 - 1, 0⟩,
  ⟨0x210008, 4, .ro, false, false, 0x200001, 0, 2 ^ 32 - 1, 0⟩,
  ⟨0x210009, 4, .ro, false, false, 0x200001, 0, 2 ^ 32 - 1, 0⟩,
  ⟨0x21000a, 4, .ro, false, false, 0x200001, 0, 2 ^ 32 - 1, 0⟩,
  ⟨0x21000b, 4, .ro, false, false, 0x200001, 0, 2 ^ 32 - 1, 0⟩,
  ⟨0x21000c, 4, .ro, false, false, 0x200001, 0, 2 ^ 32 - 1, 0⟩,
  ⟨0x220001, 1, .rw, false, true, 0x000000, 0, 15, 0⟩,
  ⟨0x220002, 16, .ro, false, false, 0x220001, 0, 2 ^ 128 - 1, 0⟩,
  ⟨0x220003, 64, .ro, false, false, 0x220001, 0, 2 ^ 512 - 1, 0⟩,
  ⟨0x220004, 1, .wo, false, false, 0x220001, 0, 2 ^ 8 - 1, 0⟩,
  ⟨0x220005, 64, .ro, false, false, 0x220001, 0, 2 ^ 512 - 1, 0⟩]

abbrev kXportSelect : Nat := 0x230001
abbrev kTrackMin : Nat := 0x230002
abbrev kTrackOpen : Nat := 0x230003
abbrev kPortEpoch : Nat := 0x230004
abbrev kPortSeqState : Nat := 0x230005
abbrev kTrackTotalOpen : Nat := 0x230006
abbrev kTrackStall : Nat := 0x230007
abbrev kReplayHits : Nat := 0x238001
abbrev kReplayStale : Nat := 0x238002
abbrev kEpochDiscards : Nat := 0x238003
abbrev kTagDuplicate : Nat := 0x238004
abbrev kFormatRefused : Nat := 0x238005
abbrev kHotThreshold : Nat := 0x240001
abbrev kHotLineEvents : Nat := 0x240002
abbrev kHotLineLast : Nat := 0x240003
abbrev kStoresCoalesced : Nat := 0x240004
abbrev kLineWriteouts : Nat := 0x240005
abbrev kReadsCombined : Nat := 0x240006
abbrev kAtomicsCombined : Nat := 0x240007
abbrev kLineQueueFull : Nat := 0x240008
abbrev kPeerProtoKind : Nat := 0x240009

/-- Table 12.9. -/
def objs12a : List Obj := [
  ⟨0x230001, 1, .rw, false, true, 0x000000, 0, 191, 0⟩,
  ⟨0x230002, 2, .rw, true, false, 0x230001, 0, 2048, 256⟩,
  ⟨0x230003, 2, .ro, false, false, 0x230001, 0, 2 ^ 16 - 1, 0⟩,
  ⟨0x230004, 4, .ro, false, false, 0x230001, 0, 2 ^ 32 - 1, 0⟩,
  ⟨0x230005, 16, .ro, false, false, 0x230001, 0, 2 ^ 128 - 1, 0⟩,
  ⟨0x230006, 4, .ro, false, false, 0x000000, 0, 2 ^ 32 - 1, 0⟩,
  ⟨0x230007, 8, .ro, false, false, 0x000000, 0, 2 ^ 64 - 1, 0⟩,
  ⟨0x238001, 8, .ro, false, false, 0x000000, 0, 2 ^ 64 - 1, 0⟩,
  ⟨0x238002, 8, .ro, false, false, 0x000000, 0, 2 ^ 64 - 1, 0⟩,
  ⟨0x238003, 8, .ro, false, false, 0x000000, 0, 2 ^ 64 - 1, 0⟩,
  ⟨0x238004, 4, .ro, false, false, 0x000000, 0, 2 ^ 32 - 1, 0⟩,
  ⟨0x238005, 8, .ro, false, false, 0x000000, 0, 2 ^ 64 - 1, 0⟩,
  ⟨0x240001, 2, .rw, true, false, 0x000000, 100, 2000, 1000⟩,
  ⟨0x240002, 4, .ro, false, false, 0x000000, 0, 2 ^ 32 - 1, 0⟩,
  ⟨0x240003, 16, .ro, false, false, 0x000000, 0, 2 ^ 128 - 1, 0⟩,
  ⟨0x240004, 8, .ro, false, false, 0x000000, 0, 2 ^ 64 - 1, 0⟩,
  ⟨0x240005, 8, .ro, false, false, 0x000000, 0, 2 ^ 64 - 1, 0⟩,
  ⟨0x240006, 8, .ro, false, false, 0x000000, 0, 2 ^ 64 - 1, 0⟩,
  ⟨0x240007, 8, .ro, false, false, 0x000000, 0, 2 ^ 64 - 1, 0⟩,
  ⟨0x240008, 8, .ro, false, false, 0x000000, 0, 2 ^ 64 - 1, 0⟩,
  ⟨0x240009, 4, .ro, false, false, 0x000000, 0, 2 ^ 32 - 1, 0⟩]

abbrev kCohWindowSelect : Nat := 0x900001
abbrev kCohWindow : Nat := 0x900002
abbrev kCohWindowResult : Nat := 0x900003
abbrev kCohPortSelect : Nat := 0x900004
abbrev kCohPortCaching : Nat := 0x900005
abbrev kCohPortCounters : Nat := 0x900006
abbrev kSnoopTimeoutUs : Nat := 0x900007
abbrev kMigrateStreak : Nat := 0x900008
abbrev kFilterInUse : Nat := 0x900009
abbrev kFilterCoarse : Nat := 0x90000a
abbrev kSnoopsSent : Nat := 0x900010
abbrev kSnoopMisses : Nat := 0x900011
abbrev kForwards : Nat := 0x900012
abbrev kInvalidationBatches : Nat := 0x900013
abbrev kMigrations : Nat := 0x900014
abbrev kMigrationRecalls : Nat := 0x900015
abbrev kFilterVictims : Nat := 0x900016
abbrev kFilterSetWaits : Nat := 0x900017
abbrev kEvicts : Nat := 0x900018
abbrev kEvictStale : Nat := 0x900019
abbrev kSnoopTimeouts : Nat := 0x90001a
abbrev kLinesLost : Nat := 0x90001b
abbrev kCohProtoErr : Nat := 0x90001c
abbrev kFilterScans : Nat := 0x90001d

/-- Table 13.10. -/
def objs13a : List Obj := [
  ⟨0x900001, 1, .rw, false, true, 0x000000, 0, 63, 0⟩,
  ⟨0x900002, 16, .rw, false, false, 0x900001, 0, 2 ^ 128 - 1, 0⟩,
  ⟨0x900003, 2, .ro, false, false, 0x000000, 0, 2 ^ 16 - 1, 0⟩,
  ⟨0x900004, 1, .rw, false, true, 0x000000, 0, 191, 0⟩,
  ⟨0x900005, 1, .rw, true, false, 0x900004, 0, 1, 0⟩,
  ⟨0x900006, 32, .ro, false, false, 0x900004, 0, 2 ^ 256 - 1, 0⟩,
  ⟨0x900007, 1, .rw, true, false, 0x000000, 5, 100, 20⟩,
  ⟨0x900008, 1, .rw, true, false, 0x000000, 0, 7, 4⟩,
  ⟨0x900009, 4, .ro, false, false, 0x000000, 0, 2 ^ 32 - 1, 0⟩,
  ⟨0x90000a, 4, .ro, false, false, 0x000000, 0, 2 ^ 32 - 1, 0⟩,
  ⟨0x900010, 8, .ro, false, false, 0x000000, 0, 2 ^ 64 - 1, 0⟩,
  ⟨0x900011, 8, .ro, false, false, 0x000000, 0, 2 ^ 64 - 1, 0⟩,
  ⟨0x900012, 8, .ro, false, false, 0x000000, 0, 2 ^ 64 - 1, 0⟩,
  ⟨0x900013, 8, .ro, false, false, 0x000000, 0, 2 ^ 64 - 1, 0⟩,
  ⟨0x900014, 8, .ro, false, false, 0x000000, 0, 2 ^ 64 - 1, 0⟩,
  ⟨0x900015, 8, .ro, false, false, 0x000000, 0, 2 ^ 64 - 1, 0⟩,
  ⟨0x900016, 8, .ro, false, false, 0x000000, 0, 2 ^ 64 - 1, 0⟩,
  ⟨0x900017, 8, .ro, false, false, 0x000000, 0, 2 ^ 64 - 1, 0⟩,
  ⟨0x900018, 8, .ro, false, false, 0x000000, 0, 2 ^ 64 - 1, 0⟩,
  ⟨0x900019, 8, .ro, false, false, 0x000000, 0, 2 ^ 64 - 1, 0⟩,
  ⟨0x90001a, 4, .ro, false, false, 0x000000, 0, 2 ^ 32 - 1, 0⟩,
  ⟨0x90001b, 4, .ro, false, false, 0x000000, 0, 2 ^ 32 - 1, 0⟩,
  ⟨0x90001c, 4, .ro, false, false, 0x000000, 0, 2 ^ 32 - 1, 0⟩,
  ⟨0x90001d, 4, .ro, false, false, 0x000000, 0, 2 ^ 32 - 1, 0⟩]

abbrev kSliceSelect : Nat := 0x300001
abbrev kSliceStatus : Nat := 0x300002
abbrev kSliceCmd : Nat := 0x300003
abbrev kSharedFree : Nat := 0x300004
abbrev kGuaranteedTotal : Nat := 0x300005
abbrev kRoundTripNs : Nat := 0x301001
abbrev kGwGuarantee : Nat := 0x301002
abbrev kEngineGuarantee : Nat := 0x301003
abbrev kHaGuarantee : Nat := 0x301004
abbrev kShareAlpha : Nat := 0x301005
abbrev kVoqSharedMax : Nat := 0x301006
abbrev kAttachSelect : Nat := 0x301007
abbrev kAttachBuffer : Nat := 0x301008
abbrev kBucketSelect : Nat := 0x302001
abbrev kBucketSlice : Nat := 0x302002
abbrev kRebalance : Nat := 0x302003
abbrev kRepins : Nat := 0x302004
abbrev kWarmCells : Nat := 0x303001
abbrev kWarmUs : Nat := 0x303002
abbrev kReadmits : Nat := 0x303003
abbrev kCyclicCells : Nat := 0x303004
abbrev kReseqFull : Nat := 0x303005
abbrev kGoosePeriodMs : Nat := 0x304001
abbrev kGooseSweeps : Nat := 0x304002
abbrev kGooseLeaks : Nat := 0x304003
abbrev kGooseDuplicates : Nat := 0x304004
abbrev kGooseCountFixes : Nat := 0x304005
abbrev kCellDiscards : Nat := 0x305001
abbrev kRemoteCells : Nat := 0x305002
abbrev kSheepdogFaults : Nat := 0x305003
abbrev kCaptureSelect : Nat := 0x310001
abbrev kCaptureSession : Nat := 0x310002
abbrev kCaptureResult : Nat := 0x310003
abbrev kCaptureCounters : Nat := 0x310004

/-- Table 14.10. -/
def objs14a : List Obj := [
  ⟨0x300001, 1, .rw, false, true, 0x000000, 0, 3, 0⟩,
  ⟨0x300002, 16, .ro, false, false, 0x300001, 0, 2 ^ 128 - 1, 0⟩,
  ⟨0x300003, 1, .wo, false, false, 0x300001, 0, 2 ^ 8 - 1, 0⟩,
  ⟨0x300004, 4, .ro, false, false, 0x000000, 0, 2 ^ 32 - 1, 0⟩,
  ⟨0x300005, 4, .ro, false, false, 0x000000, 0, 2 ^ 32 - 1, 0⟩,
  ⟨0x301001, 2, .rw, true, false, 0x000000, 500, 3000, 1500⟩,
  ⟨0x301002, 2, .rw, true, false, 0x000000, 128, 4096, 512⟩,
  ⟨0x301003, 2, .rw, true, false, 0x000000, 64, 1024, 128⟩,
  ⟨0x301004, 2, .rw, true, false, 0x000000, 256, 8192, 1024⟩,
  ⟨0x301005, 1, .rw, true, false, 0x000000, 0, 6, 3⟩,
  ⟨0x301006, 2, .rw, true, false, 0x000000, 256, 49152, 4096⟩,
  ⟨0x301007, 1, .rw, false, true, 0x000000, 0, 240, 0⟩,
  ⟨0x301008, 16, .ro, false, false, 0x301007, 0, 2 ^ 128 - 1, 0⟩,
  ⟨0x302001, 1, .rw, false, true, 0x000000, 0, 2 ^ 8 - 1, 0⟩,
  ⟨0x302002, 1, .rw, false, false, 0x302001, 0, 3, 0⟩,
  ⟨0x302003, 1, .rw, true, false, 0x000000, 0, 1, 1⟩,
  ⟨0x302004, 8, .ro, false, false, 0x000000, 0, 2 ^ 64 - 1, 0⟩,
  ⟨0x303001, 4, .rw, true, false, 0x000000, 1024, 1048576, 65536⟩,
  ⟨0x303002, 2, .rw, true, false, 0x000000, 10, 10000, 100⟩,
  ⟨0x303003, 8, .ro, false, false, 0x000000, 0, 2 ^ 64 - 1, 0⟩,
  ⟨0x303004, 8, .ro, false, false, 0x000000, 0, 2 ^ 64 - 1, 0⟩,
  ⟨0x303005, 8, .ro, false, false, 0x000000, 0, 2 ^ 64 - 1, 0⟩,
  ⟨0x304001, 2, .rw, true, false, 0x000000, 1, 1000, 10⟩,
  ⟨0x304002, 8, .ro, false, false, 0x000000, 0, 2 ^ 64 - 1, 0⟩,
  ⟨0x304003, 4, .ro, false, false, 0x000000, 0, 2 ^ 32 - 1, 0⟩,
  ⟨0x304004, 4, .ro, false, false, 0x000000, 0, 2 ^ 32 - 1, 0⟩,
  ⟨0x304005, 4, .ro, false, false, 0x000000, 0, 2 ^ 32 - 1, 0⟩,
  ⟨0x305001, 8, .ro, false, false, 0x000000, 0, 2 ^ 64 - 1, 0⟩,
  ⟨0x305002, 8, .ro, false, false, 0x000000, 0, 2 ^ 64 - 1, 0⟩,
  ⟨0x305003, 4, .ro, false, false, 0x000000, 0, 2 ^ 32 - 1, 0⟩,
  ⟨0x310001, 1, .rw, false, true, 0x000000, 0, 7, 0⟩,
  ⟨0x310002, 32, .rw, false, false, 0x310001, 0, 2 ^ 256 - 1, 0⟩,
  ⟨0x310003, 2, .ro, false, false, 0x000000, 0, 2 ^ 16 - 1, 0⟩,
  ⟨0x310004, 16, .ro, false, false, 0x310001, 0, 2 ^ 128 - 1, 0⟩]

abbrev kTcMap : Nat := 0x320001
abbrev kDeliverTc : Nat := 0x320002
abbrev kPeerTc : Nat := 0x320003
abbrev kHenTc : Nat := 0x320004
abbrev kTrayTc : Nat := 0x320005
abbrev kQuantum : Nat := 0x320006
abbrev kCtrlPermille : Nat := 0x320007
abbrev kTcPortSelect : Nat := 0x321001
abbrev kTcClassSelect : Nat := 0x321002
abbrev kPolicer : Nat := 0x321003
abbrev kPolicerCounters : Nat := 0x321004
abbrev kShaper : Nat := 0x321005
abbrev kShaperState : Nat := 0x321006
abbrev kPortGateList : Nat := 0x321007
abbrev kTcResult : Nat := 0x321008
abbrev kGateSelect : Nat := 0x330001
abbrev kGateAdmin : Nat := 0x330002
abbrev kGateCommit : Nat := 0x330003
abbrev kGateOper : Nat := 0x330004
abbrev kGateStatus : Nat := 0x330005
abbrev kGateResult : Nat := 0x330006
abbrev kClassInherited : Nat := 0x338001
abbrev kCtrlDemoted : Nat := 0x338002
abbrev kGateOverruns : Nat := 0x338003
abbrev kGateChanges : Nat := 0x338004
abbrev kGateTruncated : Nat := 0x338005

/-- Table 15.5. -/
def objs15a : List Obj := [
  ⟨0x320001, 2, .rw, true, false, 0x000000, 0, 2 ^ 16 - 1, 42304⟩,
  ⟨0x320002, 1, .rw, true, false, 0x000000, 0, 7, 3⟩,
  ⟨0x320003, 1, .rw, true, false, 0x000000, 0, 7, 6⟩,
  ⟨0x320004, 1, .rw, true, false, 0x000000, 0, 7, 4⟩,
  ⟨0x320005, 1, .rw, true, false, 0x000000, 0, 7, 5⟩,
  ⟨0x320006, 16, .rw, true, false, 0x000000, 0, 2 ^ 128 - 1, 0x400040004000400040004000400040⟩,
  ⟨0x320007, 1, .rw, true, false, 0x000000, 1, 100, 10⟩,
  ⟨0x321001, 1, .rw, false, true, 0x000000, 0, 191, 0⟩,
  ⟨0x321002, 1, .rw, false, true, 0x000000, 0, 7, 0⟩,
  ⟨0x321003, 16, .rw, true, false, 0x321001, 0, 2 ^ 128 - 1, 0⟩,
  ⟨0x321004, 32, .ro, false, false, 0x321001, 0, 2 ^ 256 - 1, 0⟩,
  ⟨0x321005, 16, .rw, true, false, 0x321001, 0, 2 ^ 128 - 1, 0⟩,
  ⟨0x321006, 16, .ro, false, false, 0x321001, 0, 2 ^ 128 - 1, 0⟩,
  ⟨0x321007, 1, .rw, true, false, 0x321001, 0, 2 ^ 8 - 1, 255⟩,
  ⟨0x321008, 2, .ro, false, false, 0x000000, 0, 2 ^ 16 - 1, 0⟩,
  ⟨0x330001, 1, .rw, false, true, 0x000000, 0, 15, 0⟩,
  ⟨0x330002, 528, .rw, true, false, 0x330001, 0, 2 ^ 4224 - 1, 0⟩,
  ⟨0x330003, 1, .wo, false, false, 0x000000, 0, 2 ^ 8 - 1, 0⟩,
  ⟨0x330004, 528, .ro, false, false, 0x330001, 0, 2 ^ 4224 - 1, 0⟩,
  ⟨0x330005, 16, .ro, false, false, 0x330001, 0, 2 ^ 128 - 1, 0⟩,
  ⟨0x330006, 2, .ro, false, false, 0x000000, 0, 2 ^ 16 - 1, 0⟩,
  ⟨0x338001, 8, .ro, false, false, 0x000000, 0, 2 ^ 64 - 1, 0⟩,
  ⟨0x338002, 8, .ro, false, false, 0x000000, 0, 2 ^ 64 - 1, 0⟩,
  ⟨0x338003, 4, .ro, false, false, 0x000000, 0, 2 ^ 32 - 1, 0⟩,
  ⟨0x338004, 4, .ro, false, false, 0x000000, 0, 2 ^ 32 - 1, 0⟩,
  ⟨0x338005, 4, .ro, false, false, 0x000000, 0, 2 ^ 32 - 1, 0⟩]

abbrev kDeviceTag : Nat := 0x100001
abbrev kVendor : Nat := 0x100002
abbrev kPart : Nat := 0x100003
abbrev kStepping : Nat := 0x100004
abbrev kFwVersion : Nat := 0x100005
abbrev kNode : Nat := 0x100006
abbrev kHomeIndex : Nat := 0x100007
abbrev kSerial : Nat := 0x100008
abbrev kRingState : Nat := 0x104001
abbrev kRingPortSelect : Nat := 0x104002
abbrev kRingPortStatus : Nat := 0x104003
abbrev kRingPortCounters : Nat := 0x104004
abbrev kRingWraps : Nat := 0x104005
abbrev kHopsExpired : Nat := 0x104006
abbrev kHealMs : Nat := 0x104007
abbrev kRingNodes : Nat := 0x104008
abbrev kTimeNow : Nat := 0x108001
abbrev kTimeState : Nat := 0x108002
abbrev kTimeSource : Nat := 0x108003
abbrev kPtpDomain : Nat := 0x108004
abbrev kTimeOffset : Nat := 0x108005
abbrev kFreqAdj : Nat := 0x108006
abbrev kStepNs : Nat := 0x108007
abbrev kSyncLoss : Nat := 0x108008
abbrev kTimeSteps : Nat := 0x108009
abbrev kSyncAccepted : Nat := 0x10800a
abbrev kSyncRejected : Nat := 0x10800b
abbrev kPpsOutEnable : Nat := 0x10800c
abbrev kSessionTable : Nat := 0x110001
abbrev kSessionIdleMs : Nat := 0x110002
abbrev kEventResendUs : Nat := 0x110003
abbrev kEventsRaised : Nat := 0x110004
abbrev kEventsDropped : Nat := 0x110005
abbrev kReplayResponses : Nat := 0x110006
abbrev kAborts : Nat := 0x110007
abbrev kSealFails : Nat := 0x110008
abbrev kSessionsEnded : Nat := 0x110009
abbrev kConfigSave : Nat := 0x118001
abbrev kConfigClear : Nat := 0x118002
abbrev kConfigResult : Nat := 0x118003
abbrev kConfigGeneration : Nat := 0x118004
abbrev kConfigSkipped : Nat := 0x118005
abbrev kCommits : Nat := 0x118006

/-- Table 16.12, part 1. -/
def objs16a : List Obj := [
  ⟨0x100001, 8, .ro, false, false, 0x000000, 0, 2 ^ 64 - 1, 0⟩,
  ⟨0x100002, 4, .ro, false, false, 0x000000, 0, 2 ^ 32 - 1, 1498892080⟩,
  ⟨0x100003, 2, .ro, false, false, 0x000000, 0, 2 ^ 16 - 1, 2448⟩,
  ⟨0x100004, 1, .ro, false, false, 0x000000, 0, 2 ^ 8 - 1, 0⟩,
  ⟨0x100005, 4, .ro, false, false, 0x000000, 0, 2 ^ 32 - 1, 0⟩,
  ⟨0x100006, 1, .ro, false, false, 0x000000, 0, 2 ^ 8 - 1, 0⟩,
  ⟨0x100007, 1, .rw, true, false, 0x000000, 0, 2 ^ 8 - 1, 255⟩,
  ⟨0x100008, 16, .ro, false, false, 0x000000, 0, 2 ^ 128 - 1, 0⟩,
  ⟨0x104001, 1, .ro, false, false, 0x000000, 0, 2 ^ 8 - 1, 0⟩,
  ⟨0x104002, 1, .rw, false, true, 0x000000, 0, 1, 0⟩,
  ⟨0x104003, 16, .ro, false, false, 0x104002, 0, 2 ^ 128 - 1, 0⟩,
  ⟨0x104004, 32, .ro, false, false, 0x104002, 0, 2 ^ 256 - 1, 0⟩,
  ⟨0x104005, 4, .ro, false, false, 0x000000, 0, 2 ^ 32 - 1, 0⟩,
  ⟨0x104006, 4, .ro, false, false, 0x000000, 0, 2 ^ 32 - 1, 0⟩,
  ⟨0x104007, 2, .rw, true, false, 0x000000, 100, 60000, 1000⟩,
  ⟨0x104008, 4, .ro, false, false, 0x000000, 0, 2 ^ 32 - 1, 0⟩,
  ⟨0x108001, 8, .ro, false, false, 0x000000, 0, 2 ^ 64 - 1, 0⟩,
  ⟨0x108002, 1, .ro, false, false, 0x000000, 0, 2 ^ 8 - 1, 0⟩,
  ⟨0x108003, 1, .rw, true, false, 0x000000, 0, 1, 0⟩,
  ⟨0x108004, 1, .rw, true, false, 0x000000, 0, 2 ^ 8 - 1, 0⟩,
  ⟨0x108005, 8, .ro, false, false, 0x000000, 0, 2 ^ 64 - 1, 0⟩,
  ⟨0x108006, 4, .ro, false, false, 0x000000, 0, 2 ^ 32 - 1, 0⟩,
  ⟨0x108007, 4, .rw, true, false, 0x000000, 100, 1000000000, 1000⟩,
  ⟨0x108008, 1, .rw, true, false, 0x000000, 2, 2 ^ 8 - 1, 3⟩,
  ⟨0x108009, 4, .ro, false, false, 0x000000, 0, 2 ^ 32 - 1, 0⟩,
  ⟨0x10800a, 8, .ro, false, false, 0x000000, 0, 2 ^ 64 - 1, 0⟩,
  ⟨0x10800b, 8, .ro, false, false, 0x000000, 0, 2 ^ 64 - 1, 0⟩,
  ⟨0x10800c, 1, .rw, true, false, 0x000000, 0, 1, 1⟩,
  ⟨0x110001, 64, .ro, false, false, 0x000000, 0, 2 ^ 512 - 1, 0⟩,
  ⟨0x110002, 4, .rw, true, false, 0x000000, 1000, 600000, 10000⟩,
  ⟨0x110003, 2, .rw, true, false, 0x000000, 1000, 2 ^ 16 - 1, 10000⟩,
  ⟨0x110004, 8, .ro, false, false, 0x000000, 0, 2 ^ 64 - 1, 0⟩,
  ⟨0x110005, 8, .ro, false, false, 0x000000, 0, 2 ^ 64 - 1, 0⟩,
  ⟨0x110006, 8, .ro, false, false, 0x000000, 0, 2 ^ 64 - 1, 0⟩,
  ⟨0x110007, 8, .ro, false, false, 0x000000, 0, 2 ^ 64 - 1, 0⟩,
  ⟨0x110008, 8, .ro, false, false, 0x000000, 0, 2 ^ 64 - 1, 0⟩,
  ⟨0x110009, 4, .ro, false, false, 0x000000, 0, 2 ^ 32 - 1, 0⟩,
  ⟨0x118001, 1, .wo, false, false, 0x000000, 0, 2 ^ 8 - 1, 0⟩,
  ⟨0x118002, 1, .wo, false, false, 0x000000, 0, 2 ^ 8 - 1, 0⟩,
  ⟨0x118003, 8, .ro, false, false, 0x000000, 0, 2 ^ 64 - 1, 0⟩]

/-- Table 16.12, part 2. -/
def objs16b : List Obj := [
  ⟨0x118004, 4, .ro, false, false, 0x000000, 0, 2 ^ 32 - 1, 0⟩,
  ⟨0x118005, 4, .ro, false, false, 0x000000, 0, 2 ^ 32 - 1, 0⟩,
  ⟨0x118006, 8, .ro, false, false, 0x000000, 0, 2 ^ 64 - 1, 0⟩]

abbrev kIdentityStatus : Nat := 0xa00001
abbrev kDeviceCert : Nat := 0xa00002
abbrev kBootSlot : Nat := 0xa00003
abbrev kSecurityVersion : Nat := 0xa00004
abbrev kMeasurementSelect : Nat := 0xa00005
abbrev kMeasurement : Nat := 0xa00006
abbrev kKeyLoad : Nat := 0xa04001
abbrev kKeyLoadResult : Nat := 0xa04002
abbrev kKeyCheckSelect : Nat := 0xa04003
abbrev kKeyCheck : Nat := 0xa04004
abbrev kKeysLoaded : Nat := 0xa04005
abbrev kFwImage : Nat := 0xa08001
abbrev kFwResult : Nat := 0xa08002
abbrev kRoleSelect : Nat := 0xa0c001
abbrev kRoleEntry : Nat := 0xa0c002
abbrev kRoleResult : Nat := 0xa0c003
abbrev kDebugNonce : Nat := 0xa10001
abbrev kDebugToken : Nat := 0xa10002
abbrev kDebugState : Nat := 0xa10003
abbrev kDebugEnd : Nat := 0xa10004
abbrev kDebugResult : Nat := 0xa10005
abbrev kIsoSelect : Nat := 0xa14001
abbrev kIsoJob : Nat := 0xa14002
abbrev kIsoState : Nat := 0xa14003
abbrev kIsoLate : Nat := 0xa14004
abbrev kIsoResult : Nat := 0xa14005
abbrev kSpdmSessionsOpened : Nat := 0xa18001
abbrev kSpdmErrors : Nat := 0xa18002
abbrev kFinishRejected : Nat := 0xa18003

/-- Table 17.10. -/
def objs17a : List Obj := [
  ⟨0xa00001, 1, .ro, false, false, 0x000000, 0, 2 ^ 8 - 1, 0⟩,
  ⟨0xa00002, 0, .ro, false, false, 0x000000, 0, 0, 0⟩,
  ⟨0xa00003, 1, .ro, false, false, 0x000000, 0, 2 ^ 8 - 1, 0⟩,
  ⟨0xa00004, 2, .ro, false, false, 0x000000, 0, 2 ^ 16 - 1, 0⟩,
  ⟨0xa00005, 1, .rw, false, true, 0x000000, 1, 9, 1⟩,
  ⟨0xa00006, 80, .ro, false, false, 0xa00005, 0, 2 ^ 640 - 1, 0⟩,
  ⟨0xa04001, 96, .wo, false, false, 0x000000, 0, 2 ^ 768 - 1, 0⟩,
  ⟨0xa04002, 32, .ro, false, false, 0x000000, 0, 2 ^ 256 - 1, 0⟩,
  ⟨0xa04003, 2, .rw, false, true, 0x000000, 0, 4095, 0⟩,
  ⟨0xa04004, 16, .ro, false, false, 0xa04003, 0, 2 ^ 128 - 1, 0⟩,
  ⟨0xa04005, 2, .ro, false, false, 0x000000, 0, 2 ^ 16 - 1, 0⟩,
  ⟨0xa08001, 0, .wo, false, false, 0x000000, 0, 0, 0⟩,
  ⟨0xa08002, 8, .ro, false, false, 0x000000, 0, 2 ^ 64 - 1, 0⟩,
  ⟨0xa0c001, 1, .rw, false, true, 0x000000, 0, 7, 0⟩,
  ⟨0xa0c002, 528, .rw, false, false, 0xa0c001, 0, 2 ^ 4224 - 1, 0⟩,
  ⟨0xa0c003, 2, .ro, false, false, 0x000000, 0, 2 ^ 16 - 1, 0⟩,
  ⟨0xa10001, 32, .ro, false, false, 0x000000, 0, 2 ^ 256 - 1, 0⟩,
  ⟨0xa10002, 640, .wo, false, false, 0x000000, 0, 2 ^ 5120 - 1, 0⟩,
  ⟨0xa10003, 1, .ro, false, false, 0x000000, 0, 2 ^ 8 - 1, 0⟩,
  ⟨0xa10004, 1, .wo, false, false, 0x000000, 0, 2 ^ 8 - 1, 0⟩,
  ⟨0xa10005, 2, .ro, false, false, 0x000000, 0, 2 ^ 16 - 1, 0⟩,
  ⟨0xa14001, 2, .rw, false, true, 0x000000, 0, 2 ^ 16 - 1, 0⟩,
  ⟨0xa14002, 16, .rw, false, false, 0xa14001, 0, 2 ^ 128 - 1, 0⟩,
  ⟨0xa14003, 1, .ro, false, false, 0xa14001, 0, 2 ^ 8 - 1, 0⟩,
  ⟨0xa14004, 8, .ro, false, false, 0xa14001, 0, 2 ^ 64 - 1, 0⟩,
  ⟨0xa14005, 2, .ro, false, false, 0x000000, 0, 2 ^ 16 - 1, 0⟩,
  ⟨0xa18001, 8, .ro, false, false, 0x000000, 0, 2 ^ 64 - 1, 0⟩,
  ⟨0xa18002, 4, .ro, false, false, 0x000000, 0, 2 ^ 32 - 1, 0⟩,
  ⟨0xa18003, 4, .ro, false, false, 0x000000, 0, 2 ^ 32 - 1, 0⟩]

abbrev kStartState : Nat := 0xb00001
abbrev kResetCmd : Nat := 0xb00002
abbrev kLastReset : Nat := 0xb00003
abbrev kAutoWarm : Nat := 0xb00004
abbrev kWatchdogMs : Nat := 0xb00005
abbrev kQuiesceUs : Nat := 0xb00006
abbrev kResetCounts : Nat := 0xb00007
abbrev kResetsAbsorbed : Nat := 0xb00008
abbrev kJobReset : Nat := 0xb04001
abbrev kJobResetResult : Nat := 0xb04002
abbrev kLarderCmd : Nat := 0xb08001
abbrev kLarderResult : Nat := 0xb08002
abbrev kHenCmd : Nat := 0xb08003
abbrev kHenResult : Nat := 0xb08004
abbrev kHenFaultLimit : Nat := 0xb08005
abbrev kHensOutFault : Nat := 0xb08006
abbrev kStallLarder : Nat := 0xb08007
abbrev kLedgerHead : Nat := 0xb0c001
abbrev kLedgerSelect : Nat := 0xb0c002
abbrev kLedgerEntry : Nat := 0xb0c003
abbrev kLedger : Nat := 0xb0c004
abbrev kLedgerAck : Nat := 0xb0c005
abbrev kLedgerUnread : Nat := 0xb0c006
abbrev kLedgerOverwritten : Nat := 0xb0c007
abbrev kLedgerClear : Nat := 0xb0c008
abbrev kPoisonEntries : Nat := 0xb10001
abbrev kPoisonLines : Nat := 0xb10002
abbrev kPoisonCleared : Nat := 0xb10003
abbrev kFatalCount : Nat := 0xb10004

/-- Table 18.9. -/
def objs18a : List Obj := [
  ⟨0xb00001, 1, .ro, false, false, 0x000000, 0, 2 ^ 8 - 1, 0⟩,
  ⟨0xb00002, 1, .wo, false, false, 0x000000, 0, 2 ^ 8 - 1, 0⟩,
  ⟨0xb00003, 32, .ro, false, false, 0x000000, 0, 2 ^ 256 - 1, 0⟩,
  ⟨0xb00004, 1, .rw, true, false, 0x000000, 0, 1, 1⟩,
  ⟨0xb00005, 2, .rw, true, false, 0x000000, 10, 10000, 1000⟩,
  ⟨0xb00006, 2, .rw, true, false, 0x000000, 100, 50000, 1000⟩,
  ⟨0xb00007, 32, .ro, false, false, 0x000000, 0, 2 ^ 256 - 1, 0⟩,
  ⟨0xb00008, 4, .ro, false, false, 0x000000, 0, 2 ^ 32 - 1, 0⟩,
  ⟨0xb04001, 2, .wo, false, false, 0x000000, 0, 2 ^ 16 - 1, 0⟩,
  ⟨0xb04002, 4, .ro, false, false, 0x000000, 0, 2 ^ 32 - 1, 0⟩,
  ⟨0xb08001, 2, .wo, false, false, 0x000000, 0, 2 ^ 16 - 1, 0⟩,
  ⟨0xb08002, 2, .ro, false, false, 0x000000, 0, 2 ^ 16 - 1, 0⟩,
  ⟨0xb08003, 4, .wo, false, false, 0x000000, 0, 2 ^ 32 - 1, 0⟩,
  ⟨0xb08004, 2, .ro, false, false, 0x000000, 0, 2 ^ 16 - 1, 0⟩,
  ⟨0xb08005, 1, .rw, true, false, 0x000000, 1, 2 ^ 8 - 1, 3⟩,
  ⟨0xb08006, 2, .ro, false, false, 0x000000, 0, 2 ^ 16 - 1, 0⟩,
  ⟨0xb08007, 8, .ro, false, false, 0x000000, 0, 2 ^ 64 - 1, 0⟩,
  ⟨0xb0c001, 4, .ro, false, false, 0x000000, 0, 2 ^ 32 - 1, 0⟩,
  ⟨0xb0c002, 4, .rw, false, true, 0x000000, 0, 2 ^ 32 - 1, 0⟩,
  ⟨0xb0c003, 64, .ro, false, false, 0xb0c002, 0, 2 ^ 512 - 1, 0⟩,
  ⟨0xb0c004, 0, .ro, false, false, 0x000000, 0, 0, 0⟩,
  ⟨0xb0c005, 4, .wo, false, false, 0x000000, 0, 2 ^ 32 - 1, 0⟩,
  ⟨0xb0c006, 4, .ro, false, false, 0x000000, 0, 2 ^ 32 - 1, 0⟩,
  ⟨0xb0c007, 8, .ro, false, false, 0x000000, 0, 2 ^ 64 - 1, 0⟩,
  ⟨0xb0c008, 1, .wo, false, false, 0x000000, 0, 2 ^ 8 - 1, 0⟩,
  ⟨0xb10001, 4, .ro, false, false, 0x000000, 0, 2 ^ 32 - 1, 0⟩,
  ⟨0xb10002, 8, .ro, false, false, 0x000000, 0, 2 ^ 64 - 1, 0⟩,
  ⟨0xb10003, 8, .ro, false, false, 0x000000, 0, 2 ^ 64 - 1, 0⟩,
  ⟨0xb10004, 4, .ro, false, false, 0x000000, 0, 2 ^ 32 - 1, 0⟩]

abbrev kPowerCap : Nat := 0xc00001
abbrev kPowerGuard : Nat := 0xc00002
abbrev kPowerNow : Nat := 0xc00003
abbrev kIssueFraction : Nat := 0xc00004
abbrev kThrottleLimit : Nat := 0xc00005
abbrev kThrottleFraction : Nat := 0xc00006
abbrev kThrottleState : Nat := 0xc00007
abbrev kThrottleClear : Nat := 0xc00008
abbrev kThrottleIgnored : Nat := 0xc00009
abbrev kPinGlitches : Nat := 0xc0000a
abbrev kVrSelect : Nat := 0xc04001
abbrev kVrMap : Nat := 0xc04002
abbrev kVrStatus : Nat := 0xc04003
abbrev kThermWarn : Nat := 0xc08001
abbrev kStackHot : Nat := 0xc08002
abbrev kThermSelect : Nat := 0xc08003
abbrev kThermReading : Nat := 0xc08004
abbrev kTempMax : Nat := 0xc08005
abbrev kClockSelect : Nat := 0xc0c001
abbrev kClockStatus : Nat := 0xc0c002
abbrev kPpsStatus : Nat := 0xc0c003
abbrev kPpsRejected : Nat := 0xc0c004

/-- Table 19.9. -/
def objs19a : List Obj := [
  ⟨0xc00001, 2, .rw, true, false, 0x000000, 1600, 3200, 3200⟩,
  ⟨0xc00002, 2, .rw, true, false, 0x000000, 50, 400, 150⟩,
  ⟨0xc00003, 16, .ro, false, false, 0x000000, 0, 2 ^ 128 - 1, 0⟩,
  ⟨0xc00004, 32, .ro, false, false, 0x000000, 0, 2 ^ 256 - 1, 0⟩,
  ⟨0xc00005, 1, .rw, true, false, 0x000000, 1, 16, 16⟩,
  ⟨0xc00006, 1, .rw, true, false, 0x000000, 1, 16, 4⟩,
  ⟨0xc00007, 1, .ro, false, false, 0x000000, 0, 2 ^ 8 - 1, 0⟩,
  ⟨0xc00008, 1, .wo, false, false, 0x000000, 0, 2 ^ 8 - 1, 0⟩,
  ⟨0xc00009, 4, .ro, false, false, 0x000000, 0, 2 ^ 32 - 1, 0⟩,
  ⟨0xc0000a, 4, .ro, false, false, 0x000000, 0, 2 ^ 32 - 1, 0⟩,
  ⟨0xc04001, 1, .rw, false, true, 0x000000, 0, 8, 0⟩,
  ⟨0xc04002, 1, .rw, true, false, 0xc04001, 0, 127, 0⟩,
  ⟨0xc04003, 16, .ro, false, false, 0xc04001, 0, 2 ^ 128 - 1, 0⟩,
  ⟨0xc08001, 1, .rw, true, false, 0x000000, 80, 100, 95⟩,
  ⟨0xc08002, 1, .rw, true, false, 0x000000, 80, 95, 90⟩,
  ⟨0xc08003, 1, .rw, false, true, 0x000000, 0, 73, 0⟩,
  ⟨0xc08004, 4, .ro, false, false, 0xc08003, 0, 2 ^ 32 - 1, 0⟩,
  ⟨0xc08005, 4, .ro, false, false, 0x000000, 0, 2 ^ 32 - 1, 0⟩,
  ⟨0xc0c001, 1, .rw, false, true, 0x000000, 0, 39, 0⟩,
  ⟨0xc0c002, 8, .ro, false, false, 0xc0c001, 0, 2 ^ 64 - 1, 0⟩,
  ⟨0xc0c003, 16, .ro, false, false, 0x000000, 0, 2 ^ 128 - 1, 0⟩,
  ⟨0xc0c004, 4, .ro, false, false, 0x000000, 0, 2 ^ 32 - 1, 0⟩]

/-- The whole dictionary. -/
def objects : List Obj :=
  objs02a ++ objs03a ++ objs04a ++ objs05a ++ objs06a ++ objs07a ++ objs08a ++ objs09a ++ objs10a ++ objs11a ++ objs12a ++ objs13a ++ objs14a ++ objs15a ++ objs16a ++ objs16b ++ objs17a ++ objs18a ++ objs19a

/-- The object of a key, if the 2448 implements it (R511). -/
def obj? (key : Nat) : Option Obj := objects.find? (fun o => o.key == key)

end Sys2Proof.Machine
end

