-- ==== Sys2Proof/Machine/Ops.lean ====
section
/-!
DEFINITION. The named operations over the state's plain data: sparse tables, bit fields (R3), bytes, the canonical
memory, dictionary registers and counters, events, the fault ledger, and what the block sends.
-/
namespace Sys2Proof.Machine

/-! ### Sparse tables -/

/-- The value of a key. -/
def tget {α : Type} : Tbl α → Nat → Option α
  | [], _ => none
  | (k, v) :: r, x => if k = x then some v else tget r x

/-- The value of a key, or a default. -/
def tgetD {α : Type} (t : Tbl α) (k : Nat) (d : α) : α := (tget t k).getD d

/-- A table without a key. -/
def tdel {α : Type} : Tbl α → Nat → Tbl α
  | [], _ => []
  | (k, v) :: r, x => if k = x then tdel r x else (k, v) :: tdel r x

/-- A table with a key set. -/
def tput {α : Type} (t : Tbl α) (k : Nat) (v : α) : Tbl α := (k, v) :: tdel t k

/-- Change the value of a key that is present. -/
def tmod {α : Type} (t : Tbl α) (k : Nat) (f : α → α) : Tbl α :=
  t.map (fun e => if e.1 = k then (k, f e.2) else e)

/-- Change every value. -/
def tmap {α : Type} (t : Tbl α) (f : Nat → α → α) : Tbl α := t.map (fun e => (e.1, f e.1 e.2))

/-- Is a key present? -/
def thas {α : Type} (t : Tbl α) (k : Nat) : Bool := (tget t k).isSome

/-- The lowest number below n that is no key. -/
def freeKey {α : Type} (t : Tbl α) (n : Nat) : Option Nat :=
  ((List.range (min n (t.length + 1))).filter (fun i => !thas t i)).head?

/-- The first index at or above a start, of the next n, that is no key. -/
def freeFrom {α : Type} (t : Tbl α) (start : Nat) : Nat → Nat
  | 0 => start
  | n + 1 => if thas t start then freeFrom t (start + 1) n else start

/-- Set the i-th entry of a list. -/
def lset {α : Type} (l : List α) (i : Nat) (a : α) : List α := l.set i a

/-- The sum of a list. -/
def lsum (l : List Nat) : Nat := l.foldl (· + ·) 0

/-- Add to a list without repeating. -/
def ladd (l : List Nat) (a : Nat) : List Nat := if l.contains a then l else l ++ [a]

/-! ### Bit fields and bytes (R3) -/

/-- The field [hi:lo] of a number. -/
def fld (v hi lo : Nat) : Nat := v / 2 ^ lo % 2 ^ (hi + 1 - lo)

/-- Bit i of a number. -/
def bit (v i : Nat) : Bool := v.testBit i

/-- A number with the field [hi:lo] replaced. -/
def setFld (v hi lo x : Nat) : Nat :=
  v / 2 ^ (hi + 1) * 2 ^ (hi + 1) + x % 2 ^ (hi + 1 - lo) * 2 ^ lo + v % 2 ^ lo

/-- A record from its fields: value and lowest bit. -/
def pack : List (Nat × Nat) → Nat
  | [] => 0
  | (x, lo) :: r => x * 2 ^ lo + pack r

/-- A truth value as a bit. -/
def b2n (b : Bool) : Nat := if b then 1 else 0

/-- Two's complement of n bits as an integer. -/
def toS (n v : Nat) : Int := if v.testBit (n - 1) then (v : Int) - 2 ^ n else v

/-- An integer as two's complement of n bits. -/
def ofS (n : Nat) (i : Int) : Nat := (i % 2 ^ n).toNat

/-- The n low bytes of a number, least significant first. -/
def bytesOf : Nat → Nat → List Byte
  | 0, _ => []
  | n + 1, v => BitVec.ofNat 8 v :: bytesOf n (v / 256)

/-- The number of little-endian bytes. -/
def natOf : List Byte → Nat
  | [] => 0
  | b :: r => b.toNat + 256 * natOf r

/-- The set bits of a map below n. -/
def bitsOf (v n : Nat) : List Nat := (List.range n).filter (fun i => v.testBit i)

/-- The number of set bits below n. -/
def popcount (v n : Nat) : Nat := (bitsOf v n).length

/-- A map from a list of bit numbers. -/
def mapOf (l : List Nat) : Nat := l.foldl (fun a i => if a.testBit i then a else a + 2 ^ i) 0

/-- CRC-32C (polynomial 0x1EDC6F41, reflected) over bytes. -/
def crc32c (l : List Byte) : Nat :=
  let stepBit (c : Nat) : Nat := if c % 2 = 1 then (c / 2) ^^^ 0x82F63B78 else c / 2
  (l.foldl (fun c b =>
    let c := c ^^^ b.toNat
    stepBit (stepBit (stepBit (stepBit (stepBit (stepBit (stepBit (stepBit c)))))))) 0xFFFFFFFF) ^^^ 0xFFFFFFFF

/-! ### Canonical memory: rising addresses, no zero byte listed -/

/-- One byte; an unlisted byte reads zero (R32). -/
def memGet : List Host.Cell → Nat → Byte
  | [], _ => 0
  | (k, b) :: r, a => if a < k then 0 else if a = k then b else memGet r a

/-- Write one byte, keeping the canonical form. -/
def memPut : List Host.Cell → Nat → Byte → List Host.Cell
  | [], a, b => if b = 0 then [] else [(a, b)]
  | (k, c) :: r, a, b =>
    if a < k then (if b = 0 then (k, c) :: r else (a, b) :: (k, c) :: r)
    else if a = k then (if b = 0 then r else (a, b) :: r)
    else (k, c) :: memPut r a b

/-- Every address listed is at or above a bound, addresses rise strictly, no byte is zero. -/
def Memory.from (lo : Nat) : List Host.Cell → Bool
  | [] => true
  | (k, b) :: r => decide (lo ≤ k) && b != 0 && Memory.from (k + 1) r

/-- The canonical form. -/
def Memory.wf (m : List Host.Cell) : Bool := Memory.from 0 m

/-- Write bytes from an address up. -/
def memWrite : List Host.Cell → Nat → List Byte → List Host.Cell
  | m, _, [] => m
  | m, a, b :: r => memWrite (memPut m a b) (a + 1) r

/-- Write some of the bytes from an address up. -/
def memWriteSome : List Host.Cell → Nat → List (Option Byte) → List Host.Cell
  | m, _, [] => m
  | m, a, none :: r => memWriteSome m (a + 1) r
  | m, a, some b :: r => memWriteSome (memPut m a b) (a + 1) r

/-- Read n bytes from an address up. -/
def memRead (m : List Host.Cell) (a : Nat) : Nat → List Byte
  | 0 => []
  | n + 1 => memGet m a :: memRead m (a + 1) n

/-- Clear the bytes from lo up to below hi. -/
def memClear (m : List Host.Cell) (lo hi : Nat) : List Host.Cell :=
  m.filter (fun c => decide (c.1 < lo) || decide (hi ≤ c.1))

/-! ### Dictionary registers -/

/-- Default of an object (R6). -/
def regDflt (key : Nat) : Nat :=
  match obj? key with
  | some o => o.dflt
  | none => 0

/-- Largest value an object's size holds. -/
def regMax (key : Nat) : Nat :=
  match obj? key with
  | some o => 256 ^ o.size - 1
  | none => 0

/-- The fields that a writable record has: the rest of it is Reserved (R4, R5). An object not listed is whole. -/
def keptFields (key : Nat) : List (Nat × Nat) :=
  if key = kPortConfig then [(63, 53)]
  else if key = kPortExpect then [(511, 500), (255, 0)]
  else if key = kCohWindow then [(127, 127), (123, 56)]
  else if key = kCohPortCaching then [(0, 0)]
  else if key = kCaptureSession then [(255, 252), (249, 216), (207, 115)]
  else if key = kPolicer then [(127, 15)]
  else if key = kShaper then [(127, 56)]
  else if key = kRoleEntry then [(4223, 4220), (4127, 0)]
  else if key = kIsoJob then [(127, 111), (95, 48)]
  else if key = kCrateSelect then [(63, 48), (35, 0)]
  else []
/-- A written value as the 2448 takes it: what stands in Reserved fields is ignored (R5), and reads back zero (R4). -/
def unreserved (key v : Nat) : Nat :=
  match keptFields key with
  | [] => v
  | l => pack (l.map (fun f => (fld v f.1 f.2, f.2)))

/-- A register's instance. -/
def rgeti (key inst : Nat) (s : State) : Nat := tgetD s.dict.regs (key * 65536 + inst) (regDflt key)
/-- A register. -/
def rget (key : Nat) (s : State) : Nat := rgeti key 0 s
/-- Set a register's instance. -/
def rseti (key inst v : Nat) (s : State) : State :=
  { s with dict := { s.dict with regs := tput s.dict.regs (key * 65536 + inst) v } }
/-- Set a register. -/
def rset (key v : Nat) (s : State) : State := rseti key 0 v s
/-- Count n events: counters saturate at their maximum. -/
def bumpi (key inst n : Nat) (s : State) : State :=
  rseti key inst (min (rgeti key inst s + n) (regMax key)) s
/-- Count one event. -/
def bump (key : Nat) (s : State) : State := bumpi key 0 1 s
/-- Count n events on the single instance. -/
def bumpN (key n : Nat) (s : State) : State := bumpi key 0 n s

/-- Several changes in order. -/
def each {α : Type} (l : List α) (f : α → State → State) (s : State) : State := l.foldl (fun t a => f a t) s

/-- A change made on a condition. -/
def onlyIf (b : Bool) (f : State → State) (s : State) : State := if b then f s else s

/-! ### What the block sends, free values, events, ledger -/

/-- Send a message. -/
def send (o : Out) (s : State) : State := { s with out := s.out ++ [o] }

/-- Draw a free value (log 3). -/
def draw (s : State) : Nat × State := (Config.freeValue s.freeCtr, { s with freeCtr := s.freeCtr + 1 })

/-- The rate at which a phase correction slews, ppb: with the frequency correction never more than 100 ppm (R516). -/
def slewPpb (f : Int) : Int := 100000 - f.natAbs
/-- Timebase units of 10^-9 ns gone by in k ns, the frequency and the phase correction among them. -/
def slewed (t : Time) (k : Int) : Int :=
  let c := min (t.corr.natAbs * 1000000000 : Int) (slewPpb t.freq * k)
  k * (1000000000 + t.freq) + if t.corr < 0 then -c else c
/-- The timebase, ns (R516). -/
def timebase (s : State) : Nat :=
  ((s.time.corrAt : Int) + s.tbOff + slewed s.time ((s.now : Int) - s.time.corrAt) / 1000000000).toNat
/-- Quotient rounded up. -/
def cdivInt (a b : Int) : Int := -(-a / b)
/-- When the timebase reaches a value that it has not yet reached. -/
def timebaseAt (t : Nat) (s : State) : Nat :=
  let x := s.time
  let m : Int := ((t : Int) - x.corrAt - s.tbOff) * 1000000000
  let c : Int := (x.corr.natAbs : Int) * 1000000000
  let p := slewPpb x.freq
  let f := 1000000000 + x.freq
  let k := if x.corr < 0 then min (cdivInt m (f - p)) (cdivInt (m + c) f) else max (cdivInt m (f + p)) (cdivInt (m - c) f)
  (x.corrAt + k).toNat
/-- Time moves forward only. -/
def timeTo (t : Nat) (s : State) : State := { s with now := max s.now t }

/-- The first copy of the helper data whose CRC-32C holds (R527). -/
def helperData (f : Flash) : Option (List Byte) :=
  ([f.helperA, f.helperB].find? (fun h => crc32c h.data == h.crc)).map (·.data)
/-- The output that the identity key pair comes from. -/
def identityKey (s : State) : Nat := identitySeed ((helperData s.sec.flash).getD [])

/-- Events queued per session at most (R509). -/
abbrev eventMax : Nat := 1024

/-- Does a session subscribe to events of a source index (R507)? -/
def subscribes (x : Session) (src : Nat) : Bool :=
  x.subs.any (fun u => u.mode == 2 && decide (u.key / 256 ≤ src) && decide (src ≤ u.last))

/-- Queue one event for one session, or drop and count it (R509). -/
def queueEvent (e : Event) (i : Nat) (s : State) : State :=
  match s.dict.sessions[i]? with
  | none => s
  | some x =>
    if !subscribes x e.src then s
    else if x.events.length < eventMax then
      let y := { x with events := x.events ++ [(x.nextEvent, e)], nextEvent := x.nextEvent + 1 }
      send (.event x.id x.nextEvent e) { s with dict := { s.dict with sessions := s.dict.sessions.set i y } }
    else
      let y := { x with dropped := x.dropped + 1 }
      bump kEventsDropped { s with dict := { s.dict with sessions := s.dict.sessions.set i y } }

/-- Raise an event (R509, R510). -/
def raise (src num plen payload : Nat) (s : State) : State :=
  let e : Event := { time := timebase s, src := src, num := num, plen := plen, payload := payload }
  each (List.range s.dict.sessions.length) (queueEvent e) (bump kEventsRaised s)

/-- Ledger entries held (The fault ledger). -/
abbrev ledgerMax : Nat := 16384

/-- Write a ledger entry (R569, Table 18.5). -/
def ledger (src kind cls body : Nat) (s : State) : State :=
  let e := pack [(timebase s % 2 ^ 64, 448), (s.rst.entrySeq % 2 ^ 32, 416), (src, 400), (kind, 392), (cls, 388),
    (s.rst.life % 2 ^ 32, 352), (body % 2 ^ 256, 0)]
  let full := decide (ledgerMax ≤ s.rst.ledger.length)
  let l := (if full then s.rst.ledger.drop 1 else s.rst.ledger) ++ [(s.rst.entrySeq, e)]
  onlyIf full (bump kLedgerOverwritten)
    { s with rst := { s.rst with ledger := l, entrySeq := (s.rst.entrySeq + 1) % 2 ^ 32 } }

/-- A FATAL record and its event (Table 18.4, Table 18.10). -/
def fatalRecord (unitN detail : Nat) (s : State) : State :=
  raise 0xB000 0x03 1 unitN
    (bump kFatalCount (ledger 0xB000 ldFatal clsFatal (pack [(unitN, 248), (detail % 2 ^ 240, 0)]) s))

/-- Post a status in a 16-bit result object: Status [15:8]. -/
def post16 (key : Nat) (st : Status) (s : State) : State := rset key (statusCode st * 256) s

/-- Ceiling division. -/
def cdiv (a b : Nat) : Nat := (a + b - 1) / b

/-- A millisecond, a microsecond and a second in ns. -/
abbrev nsMs : Nat := 1000000
abbrev nsUs : Nat := 1000
abbrev nsS : Nat := 1000000000

end Sys2Proof.Machine
end

