-- ==== Sys2Proof/Machine/Float.lean ====
section
/-!
DEFINITION. Number formats and exact arithmetic (05_hens_and_arithmetic.md, Tables 5.4 and 5.5, R152 to R162).
A finite value is sign, magnitude and power of two; sums and products are exact integers, rounded once.
-/
namespace Sys2Proof.Machine

/-- A decoded value: NaN, an infinity, or (negative, m, e) = ± m * 2^e, zeros included. -/
inductive Fv where
  | nan
  | inf (neg : Bool)
  | fin (neg : Bool) (m : Nat) (e : Int)
  deriving DecidableEq, Repr

/-- A binary format: exponent and fraction bits; does it have infinities, and NaNs as all-ones exponents? -/
structure Fmt where
  ebits : Nat
  mbits : Nat
  hasInf : Bool
  hasNan : Bool
  deriving DecidableEq, Repr

def fmt32 : Fmt := ⟨8, 23, true, true⟩
def fmtBf16 : Fmt := ⟨8, 7, true, true⟩
def fmtFp16 : Fmt := ⟨5, 10, true, true⟩
def fmtE4m3 : Fmt := ⟨4, 3, false, true⟩
def fmtE5m2 : Fmt := ⟨5, 2, true, true⟩
def fmtE3m2 : Fmt := ⟨3, 2, false, false⟩
def fmtE2m3 : Fmt := ⟨2, 3, false, false⟩
def fmtE2m1 : Fmt := ⟨2, 1, false, false⟩

def fmtBias (f : Fmt) : Nat := 2 ^ (f.ebits - 1) - 1
/-- Weight of the lowest subnormal bit. -/
def fmtLsb (f : Fmt) : Int := 1 - (fmtBias f : Int) - f.mbits
def fmtBits (f : Fmt) : Nat := 1 + f.ebits + f.mbits

/-- Decode a bit pattern (R158, R159). -/
def decodeF (f : Fmt) (b : Nat) : Fv :=
  let neg := b.testBit (f.ebits + f.mbits)
  let x := fld b (f.ebits + f.mbits - 1) f.mbits
  let m := b % 2 ^ f.mbits
  let top := 2 ^ f.ebits - 1
  if x = top && f.hasInf then (if m = 0 then .inf neg else .nan)
  else if x = top && f.hasNan && m = 2 ^ f.mbits - 1 then .nan
  else if x = 0 then .fin neg m (fmtLsb f)
  else .fin neg (m + 2 ^ f.mbits) (fmtLsb f + x - 1)

/-- m * 2^e rounded to nearest, ties to even, at a multiple of 2^q: the multiple. -/
def roundAt (m : Nat) (e q : Int) : Nat :=
  if q ≤ e then m * 2 ^ (e - q).toNat
  else
    let d := 2 ^ (q - e).toNat
    let k := m / d
    let r := m % d
    if d < 2 * r || (2 * r = d && k % 2 = 1) then k + 1 else k

/-- Precision-p rounding with lowest weight lsb: (k, q) stands for k * 2^q. -/
def roundPrec (m : Nat) (e : Int) (p : Nat) (lsb : Int) : Nat × Int :=
  let q := max lsb (e + Nat.log2 m - (p - 1 : Nat))
  let k := roundAt m e q
  if k = 2 ^ p then (2 ^ (p - 1), q + 1) else (k, q)

/-- Bits of the largest finite magnitude. -/
def maxFinite (f : Fmt) : Nat :=
  if f.hasInf then (2 ^ f.ebits - 1) * 2 ^ f.mbits - 1
  else if f.hasNan then 2 ^ (f.ebits + f.mbits) - 2
  else 2 ^ (f.ebits + f.mbits) - 1
/-- Canonical NaN of a format (R152, R160). -/
def canonNan (f : Fmt) : Nat :=
  if f.hasInf then (2 ^ f.ebits - 1) * 2 ^ f.mbits + 2 ^ (f.mbits - 1) else 2 ^ (f.ebits + f.mbits) - 1
/-- E5M2's canonical NaN is 0x7F (R160). -/
def fmtNan (f : Fmt) : Nat := if f = fmtE5m2 then 0x7F else canonNan f

/-- Narrow an exact value (R160): rounded once, overflow judged after rounding with an unbounded exponent. -/
def encodeF (f : Fmt) (sat : Bool) (v : Fv) : Nat :=
  let sgn (n : Bool) : Nat := if n then 2 ^ (f.ebits + f.mbits) else 0
  let ovf (n : Bool) : Nat :=
    if sat then sgn n + maxFinite f
    else if f.hasInf then sgn n + (2 ^ f.ebits - 1) * 2 ^ f.mbits
    else if f.hasNan then fmtNan f
    else sgn n + maxFinite f
  match v with
  | .nan => fmtNan f
  | .inf n => ovf n
  | .fin n m e =>
    if m = 0 then sgn n
    else
      let (k, q) := roundPrec m e (f.mbits + 1) (fmtLsb f)
      let b := (q - fmtLsb f).toNat * 2 ^ f.mbits + k
      if maxFinite f < b then ovf n else sgn n + b

def dec32 (w : W32) : Fv := decodeF fmt32 w.toNat
/-- round32 of the spec: overflow to infinity, subnormals kept. -/
def enc32 (v : Fv) : W32 := BitVec.ofNat 32 (encodeF fmt32 false v)
def nan32 : W32 := 0x7FC00000#32

/-- Signed magnitude at a common exponent. -/
def finInt (neg : Bool) (m : Nat) (e lo : Int) : Int :=
  let k : Int := (m : Int) * 2 ^ (e - lo).toNat
  if neg then -k else k
/-- An exact integer times 2^e as a value; zero positive. -/
def ofInt (i e : Int) : Fv := .fin (decide (i < 0)) i.natAbs e

def negF : Fv → Fv
  | .nan => .nan
  | .inf n => .inf (!n)
  | .fin n m e => .fin (!n) m e

/-- Exact sum; the sign of an exact zero follows IEEE 754 round to nearest. -/
def addF (a b : Fv) : Fv :=
  match a, b with
  | .nan, _ => .nan
  | _, .nan => .nan
  | .inf x, .inf y => if x = y then .inf x else .nan
  | .inf x, _ => .inf x
  | _, .inf y => .inf y
  | .fin x m e, .fin y n f =>
    let lo := min e f
    let t := finInt x m e lo + finInt y n f lo
    if t = 0 then .fin (x && y && m == 0 && n == 0 || (x && y)) 0 0 else ofInt t lo

/-- Exact product. -/
def mulF (a b : Fv) : Fv :=
  match a, b with
  | .nan, _ => .nan
  | _, .nan => .nan
  | .inf x, .inf y => .inf (x != y)
  | .inf x, .fin y n _ => if n = 0 then .nan else .inf (x != y)
  | .fin x m _, .inf y => if m = 0 then .nan else .inf (x != y)
  | .fin x m e, .fin y n f => .fin (x != y) (m * n) (e + f)

def fadd32 (a b : W32) : W32 := enc32 (addF (dec32 a) (dec32 b))
def fsub32 (a b : W32) : W32 := enc32 (addF (dec32 a) (negF (dec32 b)))
def fmul32 (a b : W32) : W32 := enc32 (mulF (dec32 a) (dec32 b))
/-- a * b + c, rounded once (R153). -/
def ffma32 (a b c : W32) : W32 := enc32 (addF (mulF (dec32 a) (dec32 b)) (dec32 c))

/-- Order of two values that are no NaN: less, by exact value; zeros equal. -/
def ltF (a b : Fv) : Bool :=
  match a, b with
  | .nan, _ => false
  | _, .nan => false
  | .inf x, .inf y => x && !y
  | .inf x, _ => x
  | _, .inf y => !y
  | .fin x m e, .fin y n f => let lo := min e f; decide (finInt x m e lo < finInt y n f lo)
def eqF (a b : Fv) : Bool :=
  match a, b with
  | .nan, _ => false
  | _, .nan => false
  | a, b => !ltF a b && !ltF b a
def isNan (a : Fv) : Bool := a == .nan
def signF : Fv → Bool
  | .nan => false
  | .inf n => n
  | .fin n _ _ => n
def isZero : Fv → Bool
  | .fin _ 0 _ => true
  | _ => false

/-- minimum and maximum of IEEE 754-2019 (R154). -/
def fmin32 (a b : W32) : W32 :=
  let x := dec32 a; let y := dec32 b
  if isNan x || isNan y then nan32
  else if isZero x && isZero y then (if signF x then a else b)
  else if ltF x y then a else b
def fmax32 (a b : W32) : W32 :=
  let x := dec32 a; let y := dec32 b
  if isNan x || isNan y then nan32
  else if isZero x && isZero y then (if signF x then b else a)
  else if ltF x y then b else a

/-- Power of two 2^k as a value. -/
def pow2F (k : Int) : Fv := .fin false 1 k

/-! ### Special functions (Table 5.4): special values as stated, and a fixed function within the stated error -/

/-- The implementation's own result where it lies within Table 5.4's bound, else one that does (DESIGN CHOICE, log 33). -/
def within (ok : Fv → Bool) (own best : W32) : W32 := if ok (dec32 own) then own else best
/-- Compare a * 2^p with b * 2^q, exactly: less or equal. -/
def leScaled (a : Int) (p : Int) (b : Int) (q : Int) : Bool :=
  let lo := min p q
  decide (a * 2 ^ (p - lo).toNat ≤ b * 2 ^ (q - lo).toNat)
/-- A finite result m * 2^e lies within k units of its last place of v * 2^p, which is known to d * 2^p. -/
def nearF (neg : Bool) (k : Nat) (v d : Int) (p : Int) : Fv → Bool
  | .fin n m e => n == neg && leScaled ((m : Int) - k) e (v + d) p && leScaled (v - d) p ((m : Int) + k) e
  | _ => false
/-- The largest finite binary32 is 2^128 less 2^104. -/
def topF : Int := 2 ^ 24 - 1

/-- 1 / (m * 2^e) for m not zero: within one unit in the last place, an infinity only beyond the largest finite value. -/
def rcpOk (neg : Bool) (m : Nat) (e : Int) : Fv → Bool
  | .fin n c f => n == neg && leScaled (((c : Int) - 1) * m) (f + e) 1 0 && leScaled 1 0 (((c : Int) + 1) * m) (f + e)
  | .inf n => n == neg && leScaled (topF * m) (104 + e) 1 0
  | .nan => false
def rcpBest (neg : Bool) (m : Nat) (e : Int) : W32 := enc32 (.fin neg (2 * (2 ^ 64 / m) + 1) (-e - 65))
/-- 1 / sqrt(m * 2^e) for m not zero. -/
def rsqrtOk (m : Nat) (e : Int) : Fv → Bool
  | .fin n c f => !n && leScaled (((c : Int) - 1) ^ 2 * m) (2 * f + e) 1 0 && leScaled 1 0 (((c : Int) + 1) ^ 2 * m) (2 * f + e)
  | _ => false
def rsqrtBest (m : Nat) (e : Int) : W32 :=
  let k : Nat := if e % 2 = 0 then 128 else 129
  enc32 (.fin false (2 * Nat.sqrt (2 ^ k / m) + 1) ((-e - k) / 2 - 1))

/-- 2^(2^-j) for j from 1 to n, in units of 2^-128. -/
def roots2 : Nat → Nat → List Nat
  | 0, _ => []
  | n + 1, r => let q := Nat.sqrt (r * 2 ^ 128); q :: roots2 n q
/-- 2^(f / 2^64) for f below 2^64, in units of 2^-128; too low by less than 2^70 of them. -/
def pow2Frac (f : Nat) : Nat :=
  ((List.range 64).zip (roots2 64 (2 ^ 129))).foldl
    (fun p x => if f.testBit (63 - x.1) then p * x.2 / 2 ^ 128 else p) (2 ^ 128)
/-- Whole part and 64 bits of the fraction of m * 2^e. -/
def splitF (neg : Bool) (m : Nat) (e : Int) : Int × Nat :=
  let x : Int := if 0 ≤ e + 64 then finInt neg m (e + 64) 0 else (finInt neg m 0 0).fdiv (2 ^ (-(e + 64)).toNat)
  (x.fdiv (2 ^ 64), (x.fmod (2 ^ 64)).toNat)
/-- Two units in the last place; one spacing where the result is subnormal. -/
def exp2Ok (i : Int) (p : Nat) (v : Fv) : Bool :=
  nearF false (match v with | .fin _ m _ => if m < 2 ^ 23 then 1 else 2 | _ => 2) p (2 ^ 70) (i - 128) v
def exp2Best (i : Int) (p : Nat) : W32 := enc32 (.fin false (2 * p + 1) (i - 129))

/-- The first n bits of log2 of a value from 1 to below 2, in units of 2^-160. -/
def log2Bits : Nat → Nat → Nat → Nat
  | 0, _, a => a
  | n + 1, x, a =>
    let y := x * x / 2 ^ 160
    if 2 ^ 161 ≤ y then log2Bits n (y / 2) (2 * a + 1) else log2Bits n y (2 * a)
/-- log2 of m * 2^e, in units of 2^-90; off by less than four of them. -/
def log2Fix (m : Nat) (e : Int) : Int :=
  let k := Nat.log2 m
  (e + k) * 2 ^ 90 + log2Bits 90 (m * 2 ^ 160 / 2 ^ k) 0
/-- One unit in the last place, from the least normal value on. -/
def log2Ok (m : Nat) (e : Int) (v : Fv) : Bool :=
  let l := log2Fix m e
  decide (e + Nat.log2 m < -126) || nearF (decide (l < 0)) 1 (if l < 0 then -l else l) 4 (-90) v

def vsfExp2Lane (w : W32) : W32 :=
  match dec32 w with
  | .nan => nan32
  | .inf true => 0
  | .inf false => 0x7F800000#32
  | .fin n m e =>
    if m = 0 then 0x3F800000#32
    else if !ltF (.fin n m e) (.fin false 128 0) then 0x7F800000#32
    else if ltF (.fin n m e) (.fin true 150 0) then 0
    else
      let (i, f) := splitF n m e
      within (exp2Ok i (pow2Frac f)) (Config.exp2 w) (exp2Best i (pow2Frac f))
/-- The exponent of an exact power of two. -/
def powerOf (m : Nat) (e : Int) : Option Int := if 0 < m && 2 ^ Nat.log2 m = m then some (e + Nat.log2 m) else none
def vsfLog2Lane (w : W32) : W32 :=
  match dec32 w with
  | .nan => nan32
  | .inf true => nan32
  | .inf false => 0x7F800000#32
  | .fin n m e =>
    if m = 0 then 0xFF800000#32
    else if n then nan32
    else match powerOf m e with
      | some k => enc32 (ofInt k 0)
      | none => within (log2Ok m e) (Config.log2 w) (enc32 (ofInt (log2Fix m e) (-90)))
def vsfRcpLane (w : W32) : W32 :=
  match dec32 w with
  | .nan => nan32
  | .inf n => if n then 0x80000000#32 else 0
  | .fin n m e =>
    if m = 0 then (if n then 0xFF800000#32 else 0x7F800000#32)
    else within (rcpOk n m e) (Config.rcp w) (rcpBest n m e)
def vsfRsqrtLane (w : W32) : W32 :=
  match dec32 w with
  | .nan => nan32
  | .inf true => nan32
  | .inf false => 0
  | .fin n m e =>
    if m = 0 then (if n then 0xFF800000#32 else 0x7F800000#32)
    else if n then nan32
    else within (rsqrtOk m e) (Config.rsqrt w) (rsqrtBest m e)

/-! ### Formats by code (Table 5.5) -/

/-- Element format of a code; MX codes name their elements; 0xA is INT8, which has none. -/
def fmtOf (code : Nat) : Option Fmt :=
  match code with
  | 0 => some fmt32 | 1 => some fmtBf16 | 2 => some fmtFp16 | 3 => some fmtE4m3 | 4 => some fmtE5m2
  | 5 => some fmtE4m3 | 6 => some fmtE5m2 | 7 => some fmtE3m2 | 8 => some fmtE2m3 | 9 => some fmtE2m1
  | _ => none
def fmtValid (code : Nat) : Bool := decide (code ≤ 10)
def isMx (code : Nat) : Bool := decide (5 ≤ code) && decide (code ≤ 10)
/-- Bits of one stored element. -/
def elemBits (code : Nat) : Nat :=
  match code with
  | 0 => 32 | 1 => 16 | 2 => 16 | 7 => 6 | 8 => 6 | 9 => 4 | _ => 8
/-- One element's value without its scale. -/
def decodeElem (code b : Nat) : Fv :=
  if code = 10 then ofInt (toS 8 b) (-6)
  else match fmtOf code with
    | some f =>
      -- MX element formats: E4M3 keeps its NaN, E5M2 its infinities
      decodeF f b
    | none => .nan
/-- An E8M0 scale: 0xFF is NaN. -/
def scaleOf (b : Nat) : Option Int := if b = 0xFF then none else some ((b : Int) - 127)
/-- Value times 2^k. -/
def scaleF (k : Int) : Fv → Fv
  | .fin n m e => .fin n m (e + k)
  | x => x
/-- Widen one element to binary32 (R159). -/
def widen (code b : Nat) (scale : Option Int) : W32 :=
  match scale with
  | none => nan32
  | some k => enc32 (scaleF k (decodeElem code b))
/-- Narrow one binary32 value to a format without scale (R160). -/
def narrow (code : Nat) (sat : Bool) (w : W32) : Nat :=
  match fmtOf code with
  | some f => encodeF f sat (dec32 w)
  | none => 0
/-- INT8 element of an exact value times 2^-k: an overflow becomes the largest finite magnitude, 127, with its sign (R160,
R161). -/
def encInt8 (v : Fv) : Nat :=
  match v with
  | .fin n m e =>
    let k := roundAt m e (-6)
    ofS 8 (if n then -(min k 127 : Nat) else (min k 127 : Nat))
  | _ => 0
/-- emax of R161. -/
def mxEmax (code : Nat) : Int :=
  match code with
  | 5 => 8 | 6 => 15 | 7 => 4 | 8 => 2 | 9 => 2 | _ => 0
/-- Narrow a block of 32 values to an MX format: scale byte and elements (R161). -/
def narrowMx (code : Nat) (ws : List W32) : Nat × List Nat :=
  let vs := ws.map dec32
  if vs.any (fun v => match v with | .fin _ _ _ => false | _ => true) then (0xFF, ws.map (fun _ => 0))
  else
    let logs := vs.filterMap (fun v => match v with | .fin _ m e => if m = 0 then none else some (e + (Nat.log2 m : Int)) | _ => none)
    match logs with
    | [] => (0, ws.map (fun _ => 0))
    | l :: r =>
      let x := r.foldl max l - mxEmax code
      -- the scale byte holds -127 to 127
      let x := max (-127) (min 127 x)
      ((x + 127).toNat, vs.map (fun v =>
        if code = 10 then encInt8 (scaleF (-x) v)
        else match fmtOf code with
          | some f => encodeF f true (scaleF (-x) v)
          | none => 0))

/-- binary32 to a 32-bit integer: toward zero, saturating, 0 for NaN (R162). -/
def toInt32 (w : W32) : Int :=
  let lim (i : Int) : Int := max (-(2 ^ 31)) (min (2 ^ 31 - 1) i)
  match dec32 w with
  | .nan => 0
  | .inf n => if n then -(2 ^ 31) else 2 ^ 31 - 1
  | .fin n m e =>
    let k : Nat := if 0 ≤ e then m * 2 ^ (min e.toNat 64) else m / 2 ^ (-e).toNat
    lim (if n then -(k : Int) else k)

/-! ### The matrix unit's chunk (Order of accumulation, R150) -/

/-- Truncate m * 2^e at weight 2^q, toward zero. -/
def truncAt (m : Nat) (e q : Int) : Nat := if q ≤ e then m * 2 ^ (e - q).toNat else m / 2 ^ (q - e).toNat

/-- One chunk of 32 products added to an accumulator element. -/
def chunkAdd (c : W32) (ps : List Fv) (sa sb : Option Int) : W32 :=
  match sa, sb with
  | some ka, some kb =>
    let posInf := ps.contains (.inf false)
    let negInf := ps.contains (.inf true)
    if ps.contains .nan || (posInf && negInf) then nan32
    else if posInf then enc32 (addF (dec32 c) (.inf false))
    else if negInf then enc32 (addF (dec32 c) (.inf true))
    else
      let logs := ps.filterMap (fun p => match p with | .fin _ m e => if m = 0 then none else some (e + (Nat.log2 m : Int)) | _ => none)
      match logs with
      | [] => c
      | l :: r =>
        let q := r.foldl max l - 80
        let t : Int := ps.foldl (fun (acc : Int) p => match p with
          | .fin n m e => if n then acc - (truncAt m e q : Int) else acc + (truncAt m e q : Int)
          | _ => acc) 0
        enc32 (addF (dec32 c) (ofInt t (q + ka + kb)))
  | _, _ => nan32

end Sys2Proof.Machine
end

