-- ==== Sys2Proof/Machine/Access.lean ====
section
/-!
DEFINITION. Jobs, members, extents and translation at the home, and the checks of Table 2.5 that need nothing but the
pool's tables (02_pool_memory.md).
-/
namespace Sys2Proof.Machine

/-! ### Tables' defaults -/

/-- A link as it stands after a cold reset. -/
def linkDflt : Link :=
  { st := .disabled, phase := .detect, width := 0, lanes := [], bound := none, identRec := 0, evidence := none, nonce := 0,
    phaseAt := 0, retrains := [], holdN := 0, holdUntil := 0, activeAt := 0, recoveryAt := 0, peerDepth := 0,
    txSeq := 0, unacked := [], ackAt := 0, lastReplay := none, sameReplays := 0, rxSeq := 0, nakPending := false, nakAt := 0,
    credits := [], advert := [], owed := [], stream := [], fecTimes := [], fecCorrected := 0, fecUncorrected := [], crcErrors := 0,
    naksSent := 0, replays := 0, retrainCount := 0, holds := 0, linkupFail := 0, framingErr := 0, creditOverrun := 0,
    peerProtoErr := 0, preActiveDrops := 0, discovery := 0, trayIdent := 0, downAt := 0, caching := false,
    tcMap := 0, cfg := 0 }

/-- Links 0 to 191 are fabric ports, 192 to 207 tray links. -/
def linkOf (p : Nat) (s : State) : Link := tgetD s.links p linkDflt
def setLink (p : Nat) (l : Link) (s : State) : State := { s with links := tput s.links p l }
def modLink (p : Nat) (f : Link → Link) (s : State) : State := setLink p (f (linkOf p s)) s
abbrev trayLink (t : Nat) : Nat := 192 + t
abbrev fabricPorts : Nat := 192

def portTxDflt : PortTx :=
  { epoch := 0, lastRel := none, highest := 0, lowDisc := none, discarded := 0, execAfter := [], execAll := 0,
    replay := [], draining := false, lossScan := false, msgTx := 0, msgRx := 0, msgAck := 0 }
def portTx (p : Nat) (s : State) : PortTx := tgetD s.txn.ports p portTxDflt
def setPortTx (p : Nat) (x : PortTx) (s : State) : State :=
  { s with txn := { s.txn with ports := tput s.txn.ports p x } }
def modPortTx (p : Nat) (f : PortTx → PortTx) (s : State) : State := setPortTx p (f (portTx p s)) s

/-- The port is in its epoch: ACTIVE, or RECOVERY, which ends no epoch (Port epochs). -/
def portLive (p : Nat) (s : State) : Bool :=
  decide (p < fabricPorts) && ((linkOf p s).st == .active || (linkOf p s).st == .recovery)

/-- PORT_CONFIG TYPE field and the port's roles are read in Links.lean; here the bound partner (R345). -/
def boundPartner (p : Nat) (s : State) : Option Nat := (linkOf p s).bound

/-- The PORT_CONFIG in force: a change takes effect when link-up next leaves DOWN (R326). -/
def portCfg (p : Nat) (s : State) : Nat :=
  let l := linkOf p s
  match l.st with
  | .disabled | .held => rgeti kPortConfig p s
  | .down => if l.phase == .detect then rgeti kPortConfig p s else l.cfg
  | _ => l.cfg
/-- PORT_CONFIG: ROLE is PEER, lanes, ENABLE (Table 11.11). -/
def portRolePeer (p : Nat) (s : State) : Bool := fld (portCfg p s) 59 58 == 1
def portWidth (p : Nat) (s : State) : Nat := fld (rgeti kPortConfig p s) 63 60
def portEnabled (p : Nat) (s : State) : Bool := bit (rgeti kPortConfig p s) 53
/-- The live PEER port bound to a home. -/
def peerPort (home : Nat) (s : State) : Option Nat :=
  (List.range fabricPorts).find? (fun p => portLive p s && portRolePeer p s && boundPartner p s == some home)
/-- A PARTNER port that is ACTIVE and caching (R395, R402). -/
def portCaches (p : Nat) (s : State) : Bool :=
  (linkOf p s).caching && portLive p s && !portRolePeer p s

/-! ### Hens -/

def henDflt : Hen :=
  { st := .idle, x := [], pc := 0, imem := [], ls := [], badWords := [], tiles := [], v := [], hfmt := 0, startAt := 0,
    instret := 0, job := 0, item := 0, sliver := 0, rank := 0, nranks := 0, lastJob := none, lastItem := none,
    image := none, slots := [], cbWait := none, topk := { k := 0, largest := false, cands := [] }, dma := [], late := [],
    answers := [], nextCmd := 0, msgs := [], sending := [], msgWait := none, faults := [], byFault := false, testAt := 0,
    permanentOut := false, outPending := false, busy := 0, retired := 0, corrected := 0, sent := 0, ran := 0 }
abbrev hensAll : Nat := 4608
def henOf (h : Nat) (s : State) : Hen := tgetD s.hens.hens h henDflt
def setHen (h : Nat) (x : Hen) (s : State) : State := { s with hens := { s.hens with hens := tput s.hens.hens h x } }
def modHen (h : Nat) (f : Hen → Hen) (s : State) : State := setHen h (f (henOf h s)) s

/-! ### Jobs and members -/

/-- The job slot and record of a job ID, active or closing. -/
def jobOf (id : Nat) (s : State) : Option (Nat × Job) := s.pool.jobs.find? (fun e => e.2.id == id)
/-- The same for an active job only. -/
def activeJob (id : Nat) (s : State) : Option (Nat × Job) :=
  s.pool.jobs.find? (fun e => e.2.id == id && !e.2.closing)
def isActive (id : Nat) (s : State) : Bool := (activeJob id s).isSome
def setJob (slot : Nat) (j : Job) (s : State) : State := { s with pool := { s.pool with jobs := tput s.pool.jobs slot j } }
/-- Change a job's record, active or closing. -/
def modJob (id : Nat) (f : Job → Job) (s : State) : State :=
  match jobOf id s with
  | some (slot, j) => setJob slot (f j) s
  | none => s

def memberOf (j : Job) (partner : Nat) : Option Nat := (j.members.find? (fun m => m.2 == partner)).map (·.1)
def partnerOf (j : Job) (m : Nat) : Option Nat := (j.members.find? (fun x => x.1 == m)).map (·.2)

/-- The member a port stands for in a job: its bound partner's index. -/
def portMember (p job : Nat) (s : State) : Option Nat :=
  match boundPartner p s, jobOf job s with
  | some q, some (_, j) => memberOf j q
  | _, _ => none

/-- PORT_JOBS: the job slots a port may act for (R21). -/
def portJobs (p : Nat) (s : State) : List Nat :=
  match boundPartner p s with
  | some q => (s.pool.jobs.filter (fun e => (memberOf e.2 q).isSome)).map (·.1)
  | none => []

/-! ### Addresses and extents -/

/-- SLOT, granule and low part of an FVA (Table 2.1). -/
def fvaSlot (a : Nat) : Nat := fld a 55 52
def fvaGran (a : Nat) : Nat := fld a 51 28
def fvaLow (a : Nat) : Nat := a % 2 ^ 28

/-- Bytes of an extent granule, a crate and a line. -/
abbrev granBytes : Nat := 2 ^ 28
abbrev crateBytes : Nat := 65536
abbrev lineBytes : Nat := 128

/-- Allocation flags (Table 2.9). -/
def fShared (e : Extent) : Bool := bit e.flags 0
def fVersioned (e : Extent) : Bool := bit e.flags 1
def fMirror (e : Extent) : Bool := bit e.flags 2
def fCoded (e : Extent) : Bool := bit e.flags 3
def fKv (e : Extent) : Bool := bit e.flags 4
def fIndex (e : Extent) : Bool := bit e.flags 5
def fDurable (e : Extent) : Bool := bit e.flags 6
def fScratch (e : Extent) : Bool := bit e.flags 7
def fLatency (e : Extent) : Bool := bit e.flags 8
def fNoVault (e : Extent) : Bool := bit e.flags 9

/-- The extent that holds a granule of a job's slot: the leaf of the radix walk (R24). -/
def extAt (job slot gran : Nat) (s : State) : Option (Nat × Extent) :=
  s.pool.extents.find? (fun e => e.2.job == job && e.2.slot == slot && decide (e.2.base ≤ gran) &&
    decide (gran < e.2.base + e.2.len))
def extOf (ext : Nat) (s : State) : Option Extent := tget s.pool.extents ext
def setExt (ext : Nat) (e : Extent) (s : State) : State :=
  { s with pool := { s.pool with extents := tput s.pool.extents ext e } }
def extActive (ext : Nat) (s : State) : Bool :=
  match extOf ext s with
  | some e => e.st == .active
  | none => false
/-- Byte offset of an FVA within its extent. -/
def extOff (e : Extent) (a : Nat) : Nat := (fvaGran a - e.base) * granBytes + fvaLow a
/-- FVA of a byte offset of an extent. -/
def fvaOf (e : Extent) (off : Nat) : Nat := e.slot * 2 ^ 52 + e.base * granBytes + off
def extBytes (e : Extent) : Nat := e.len * granBytes

def aclOf (l : Nat) (s : State) : Nat × Nat := tgetD s.pool.acls l (0, 0)
/-- May a member read (false) or write (true) under a list (R36)? -/
def aclGrants (l m : Nat) (write : Bool) (s : State) : Bool :=
  if write then bit (aclOf l s).2 m else bit (aclOf l s).1 m

/-! ### Translation caches (R23, R24) -/

abbrev xlateMax : Nat := 65536
/-- A walk: a miss is counted and the entry kept; when a cache is full a free value picks the entry replaced. The home
agent that translates is picked by the unpublished flow hash. -/
def translate (jslot addr : Nat) (s : State) : State :=
  let agent := Config.flowHash (addr / lineBytes) % 4
  let k := (agent, jslot, addr / 2 ^ 21)
  if s.pool.xlate.contains k then s
  else
    let mine := s.pool.xlate.filter (fun e => e.1 == agent)
    let t := bump kXlateMiss s
    if mine.length < xlateMax then { t with pool := { t.pool with xlate := k :: t.pool.xlate } }
    else
      let (v, t) := draw t
      let gone := mine[v % xlateMax]?
      { t with pool := { t.pool with xlate := k :: t.pool.xlate.filter (fun e => some e != gone) } }
/-- Drop the entries of a range of granules (R24). -/
def untranslate (jslot slot base len : Nat) (s : State) : State :=
  { s with pool := { s.pool with xlate := s.pool.xlate.filter (fun e =>
      !(e.2.1 == jslot && e.2.2 / 2 ^ 31 == slot && decide (base ≤ e.2.2 / 128 % 2 ^ 24) &&
        decide (e.2.2 / 128 % 2 ^ 24 < base + len))) } }

/-! ### Checks 1 to 5 of Table 2.5 -/

/-- What a request is granted by checks 1 to 5. -/
structure Grant where
  ext : Nat
  e : Extent
  member : Nat
  partner : Nat
  jslot : Nat
  off : Nat
  deriving DecidableEq, Repr

/-- An extent of a failed primary that was not mirrored holds the address (R137), or its job was lost (R138). -/
def stateLost (job addr : Nat) (s : State) : Bool :=
  s.vers.mirror.lostJobs.any (fun x => x.1 == job && x.2 == fvaSlot addr) ||
  s.vers.mirror.shadows.any (fun h => h.takenOver && h.unmirrored.any (fun u =>
    u.1 == job && u.2.1 == fvaSlot addr && decide (u.2.2.1 ≤ fvaGran addr) && decide (fvaGran addr < u.2.2.1 + u.2.2.2)))

/-- A shadow extent held for a living primary: no job of this home has it (R125). -/
def isShadow (ext : Nat) (s : State) : Bool :=
  s.vers.mirror.shadows.any (fun h => !h.takenOver && h.exts.any (fun x => x.2.1 == ext))

/-- The shadow of a failed primary that a taken-over extent came from. -/
def shadowOf (ext : Nat) (s : State) : Option Shadow :=
  s.vers.mirror.shadows.find? (fun h => h.takenOver && h.exts.any (fun x => x.2.1 == ext))
/-- A partner's member index as the failed primary journalled it (R133); a member added since the takeover has its own, where
the primary's index was nobody's. -/
def originMember (ext job partner : Nat) (member : Option Nat) (s : State) : Option Nat :=
  match shadowOf ext s with
  | some h =>
    match h.members.find? (fun x => x.1 == job && x.2.2 == partner) with
    | some x => some x.2.1
    | none => member.filter (fun m => !h.members.any (fun x => x.1 == job && x.2.1 == m))
  | none => none
/-- The partner of a member index of a job. -/
def partnerAt (job member : Nat) (s : State) : Option Nat :=
  match jobOf job s with | some (_, j) => partnerOf j member | none => none
/-- The member index under which a member's rights in an extent stand: the primary's where it was taken over (R133). -/
def rightsMember (ext : Nat) (e : Extent) (member partner : Nat) (s : State) : Nat :=
  if e.origin.isSome then (originMember ext e.job partner (some member) s).getD 256 else member
/-- The index under which a member's binding to a region stands. -/
def bindIndex (region member partner : Nat) (s : State) : Nat :=
  match tget s.vers.regions region with
  | some r => match extOf r.ext s with
    | some e => rightsMember r.ext e member partner s
    | none => member
  | none => member
/-- The member a port stands for at an address: the primary's index where the extent was taken over. -/
def memberAt (p job addr : Nat) (s : State) : Option Nat :=
  match extAt job (fvaSlot addr) (fvaGran addr) s, boundPartner p s with
  | some (ext, e), some q => if e.origin.isSome then originMember ext job q (portMember p job s) s else portMember p job s
  | _, _ => portMember p job s

/-- Checks 2 to 5, for a member of a job (R25). The counter of the failed check is returned with its status. -/
def checks25 (job member partner addr : Nat) (write : Bool) (s : State) : Except (Status × Nat) Grant :=
  match activeJob job s with
  | none => .error (.denied, kDeniedSlot)
  | some (jslot, j) =>
    if !bit j.slots (fvaSlot addr) then .error (.denied, kDeniedSlot)
    else match extAt job (fvaSlot addr) (fvaGran addr) s with
      | none => .error (.denied, kDeniedMap)
      | some (ext, e) =>
        let member := rightsMember ext e member partner s
        if e.st != .active then .error (.revoked, kRevokedCount)
        else if !aclGrants e.acl member write s then .error (.denied, kDeniedAcl)
        else .ok { ext := ext, e := e, member := member, partner := partner, jslot := jslot, off := extOff e addr }

/-- Check 1 for a port, then checks 2 to 5. STATE_LOST stands before check 1, so a port whose partner is no member of a job
whose state was lost gets it too: Table 2.5 does not place it (DESIGN CHOICE, log 91). -/
def checkPort (p job addr : Nat) (write : Bool) (s : State) : Except (Status × Nat) Grant :=
  if stateLost job addr s then .error (.stateLost, 0)
  else match memberAt p job addr s with
    | none => .error (.denied, kDeniedPort)
    | some m => checks25 job m ((boundPartner p s).getD 0) addr write s

/-- Check 1 for a work item's request (The checks a request passes), then checks 2 to 5. -/
def checkItem (job member partner addr : Nat) (write : Bool) (s : State) : Except (Status × Nat) Grant :=
  if stateLost job addr s then .error (.stateLost, 0)
  else match jobOf job s with
    | none => .error (.denied, kDeniedPort)
    | some (_, j) =>
      if partnerOf j member != some partner then .error (.denied, kDeniedPort)
      else checks25 job member partner addr write s

/-- Count a failed check; key 0 has no counter. -/
def countCheck (key : Nat) (s : State) : State := if key = 0 then s else bump key s

end Sys2Proof.Machine
end

