-- ==== Sys2Proof/Machine/Cipher.lean ====
section
/-!
DEFINITION. AES-256 (FIPS 197) and XTS over whole 16-byte blocks (IEEE 1619), as the home agents, the tray links and the
attic coders use them (02_pool_memory.md R41, 03_tiers_and_placement.md R71).
-/
namespace Sys2Proof.Machine

/-! ### The field of 256 elements and the substitution -/

/-- Times x modulo x^8 + x^4 + x^3 + x + 1. -/
def aesDouble (a : Nat) : Nat := if a < 128 then 2 * a else (2 * a - 256) ^^^ 0x1B
def aesTimes (k a : Nat) : Nat :=
  let b := aesDouble a
  let c := aesDouble b
  let d := aesDouble c
  (if k.testBit 0 then a else 0) ^^^ (if k.testBit 1 then b else 0) ^^^ (if k.testBit 2 then c else 0) ^^^
    (if k.testBit 3 then d else 0)
/-- The S-box. -/
def aesSBox : List Nat :=
  [0x63, 0x7C, 0x77, 0x7B, 0xF2, 0x6B, 0x6F, 0xC5, 0x30, 0x01, 0x67, 0x2B, 0xFE, 0xD7, 0xAB, 0x76] ++
  [0xCA, 0x82, 0xC9, 0x7D, 0xFA, 0x59, 0x47, 0xF0, 0xAD, 0xD4, 0xA2, 0xAF, 0x9C, 0xA4, 0x72, 0xC0] ++
  [0xB7, 0xFD, 0x93, 0x26, 0x36, 0x3F, 0xF7, 0xCC, 0x34, 0xA5, 0xE5, 0xF1, 0x71, 0xD8, 0x31, 0x15] ++
  [0x04, 0xC7, 0x23, 0xC3, 0x18, 0x96, 0x05, 0x9A, 0x07, 0x12, 0x80, 0xE2, 0xEB, 0x27, 0xB2, 0x75] ++
  [0x09, 0x83, 0x2C, 0x1A, 0x1B, 0x6E, 0x5A, 0xA0, 0x52, 0x3B, 0xD6, 0xB3, 0x29, 0xE3, 0x2F, 0x84] ++
  [0x53, 0xD1, 0x00, 0xED, 0x20, 0xFC, 0xB1, 0x5B, 0x6A, 0xCB, 0xBE, 0x39, 0x4A, 0x4C, 0x58, 0xCF] ++
  [0xD0, 0xEF, 0xAA, 0xFB, 0x43, 0x4D, 0x33, 0x85, 0x45, 0xF9, 0x02, 0x7F, 0x50, 0x3C, 0x9F, 0xA8] ++
  [0x51, 0xA3, 0x40, 0x8F, 0x92, 0x9D, 0x38, 0xF5, 0xBC, 0xB6, 0xDA, 0x21, 0x10, 0xFF, 0xF3, 0xD2] ++
  [0xCD, 0x0C, 0x13, 0xEC, 0x5F, 0x97, 0x44, 0x17, 0xC4, 0xA7, 0x7E, 0x3D, 0x64, 0x5D, 0x19, 0x73] ++
  [0x60, 0x81, 0x4F, 0xDC, 0x22, 0x2A, 0x90, 0x88, 0x46, 0xEE, 0xB8, 0x14, 0xDE, 0x5E, 0x0B, 0xDB] ++
  [0xE0, 0x32, 0x3A, 0x0A, 0x49, 0x06, 0x24, 0x5C, 0xC2, 0xD3, 0xAC, 0x62, 0x91, 0x95, 0xE4, 0x79] ++
  [0xE7, 0xC8, 0x37, 0x6D, 0x8D, 0xD5, 0x4E, 0xA9, 0x6C, 0x56, 0xF4, 0xEA, 0x65, 0x7A, 0xAE, 0x08] ++
  [0xBA, 0x78, 0x25, 0x2E, 0x1C, 0xA6, 0xB4, 0xC6, 0xE8, 0xDD, 0x74, 0x1F, 0x4B, 0xBD, 0x8B, 0x8A] ++
  [0x70, 0x3E, 0xB5, 0x66, 0x48, 0x03, 0xF6, 0x0E, 0x61, 0x35, 0x57, 0xB9, 0x86, 0xC1, 0x1D, 0x9E] ++
  [0xE1, 0xF8, 0x98, 0x11, 0x69, 0xD9, 0x8E, 0x94, 0x9B, 0x1E, 0x87, 0xE9, 0xCE, 0x55, 0x28, 0xDF] ++
  [0x8C, 0xA1, 0x89, 0x0D, 0xBF, 0xE6, 0x42, 0x68, 0x41, 0x99, 0x2D, 0x0F, 0xB0, 0x54, 0xBB, 0x16]
def aesSub (a : Nat) : Nat := (aesSBox[a]?).getD 0
def aesUnsub (a : Nat) : Nat := aesSBox.findIdx (fun x => x == a)

/-! ### A block: 16 numbers below 256, column by column -/

def nth (l : List Nat) (i : Nat) : Nat := (l[i]?).getD 0
def xorAll (a b : List Nat) : List Nat := List.zipWith (fun x y => x ^^^ y) a b
/-- Row r of column c comes from column c + r. -/
def aesShift (l : List Nat) : List Nat := (List.range 16).map (fun i => nth l (i % 4 + 4 * ((i / 4 + i % 4) % 4)))
def aesUnshift (l : List Nat) : List Nat := (List.range 16).map (fun i => nth l (i % 4 + 4 * ((i / 4 + 4 - i % 4) % 4)))
/-- Each column times the circulant matrix whose first row is given. -/
def aesMix (m : List Nat) (l : List Nat) : List Nat :=
  (List.range 16).map (fun i =>
    (List.range 4).foldl (fun a k => a ^^^ aesTimes (nth m ((k + 4 - i % 4) % 4)) (nth l (i / 4 * 4 + k))) 0)

/-- Words of the key schedule, newest first: rounds of 256-bit keys. -/
def aesExpand : Nat → Nat → List (List Nat) → List (List Nat)
  | 0, _, w => w
  | n + 1, i, w =>
    let t := (w[0]?).getD []
    let rcon := (List.range (i / 8 - 1)).foldl (fun a _ => aesDouble a) 1
    let u := if i % 8 = 0 then xorAll ((t.drop 1 ++ t.take 1).map aesSub) [rcon, 0, 0, 0]
             else if i % 8 = 4 then t.map aesSub else t
    aesExpand n (i + 1) (xorAll ((w[7]?).getD []) u :: w)
/-- The fifteen round keys of a 32-byte key. -/
def aesKeys (k : List Nat) : List (List Nat) :=
  let w0 := (List.range 8).map (fun i => (k.drop (4 * i)).take 4)
  let w := (aesExpand 52 8 w0.reverse).reverse
  (List.range 15).map (fun r => ((w.drop (4 * r)).take 4).flatten)

def aesEnc (keys : List (List Nat)) (b : List Nat) : List Nat :=
  let mid := (keys.drop 1).take 13
  let s := mid.foldl (fun s k => xorAll (aesMix [2, 3, 1, 1] (aesShift (s.map aesSub))) k) (xorAll b ((keys[0]?).getD []))
  xorAll (aesShift (s.map aesSub)) ((keys[14]?).getD [])
def aesDec (keys : List (List Nat)) (b : List Nat) : List Nat :=
  let s := (aesUnshift (xorAll b ((keys[14]?).getD []))).map aesUnsub
  let mid := ((keys.drop 1).take 13).reverse
  let s := mid.foldl (fun s k => (aesUnshift (aesMix [14, 11, 13, 9] (xorAll s k))).map aesUnsub) s
  xorAll s ((keys[0]?).getD [])

/-! ### XTS -/

def numsOf (l : List Byte) : List Nat := l.map (·.toNat)
/-- The tweak times x, as a little-endian number of 128 bits. -/
def xtsNext (t : Nat) : Nat := if t < 2 ^ 127 then 2 * t else (2 * t - 2 ^ 128) ^^^ 0x87
/-- The blocks of a data unit, in order, under the running tweak. -/
def xtsBlocks (f : List Nat → List Nat) : Nat → Nat → List Byte → List Byte
  | 0, _, _ => []
  | n + 1, t, d =>
    let k := numsOf (bytesOf 16 t)
    (xorAll (f (xorAll (numsOf (d.take 16)) k)) k).map (BitVec.ofNat 8) ++ xtsBlocks f n (xtsNext t) (d.drop 16)
/-- The first tweak block: the 128-bit tweak, little-endian, under the second key of the pair. -/
def xtsStart (key2 tweak : Nat) : Nat :=
  natOf ((aesEnc (aesKeys (numsOf (bytesOf 32 key2))) (numsOf (bytesOf 16 tweak))).map (BitVec.ofNat 8))
def xtsEncrypt (key1 key2 tweak : Nat) (d : List Byte) : List Byte :=
  xtsBlocks (aesEnc (aesKeys (numsOf (bytesOf 32 key1)))) (d.length / 16) (xtsStart key2 tweak) d
def xtsDecrypt (key1 key2 tweak : Nat) (d : List Byte) : List Byte :=
  xtsBlocks (aesDec (aesKeys (numsOf (bytesOf 32 key1)))) (d.length / 16) (xtsStart key2 tweak) d

end Sys2Proof.Machine
end

