-- ==== Sys2Proof/Machine/Content.lean ====
section
/-!
DEFINITION. What a line holds: crate map, forms of versioned crates, open batches over memory, poison
(03_tiers_and_placement.md, 12_transactions_and_ordering.md R372, 18_resets_and_faults.md Poisoned lines).
A line key is ((extent * 2^44 + form) * 2^45 + line); a crate key is the line key of its first line over 512.
-/
namespace Sys2Proof.Machine

def crateKey (ext form idx : Nat) : Nat := (ext * 2 ^ 44 + form) * 2 ^ 36 + idx
def lineKey (ext form line : Nat) : Nat := (ext * 2 ^ 44 + form) * 2 ^ 45 + line
def lkExt (lk : Nat) : Nat := lk / 2 ^ 89
def lkForm (lk : Nat) : Nat := lk / 2 ^ 45 % 2 ^ 44
/-- Line number within the extent (Table 2.11). -/
def lkLine (lk : Nat) : Nat := lk % 2 ^ 45
def lkCrate (lk : Nat) : Nat := lk / 512
def ckExt (ck : Nat) : Nat := ck / 2 ^ 80
def ckForm (ck : Nat) : Nat := ck / 2 ^ 36 % 2 ^ 44
/-- Crate index within the extent. -/
def ckIdx (ck : Nat) : Nat := ck % 2 ^ 36

/-- The identity that an extent's tweaks carry: its ID and generation, or those of the primary's extent for a mirror's copy,
before and after its takeover (R128, R134). -/
def tweakId (ext : Nat) (e : Extent) (s : State) : Nat × Nat :=
  match e.origin with
  | some o => o
  | none => match (s.vers.mirror.shadows.flatMap (·.exts)).find? (fun x => x.2.1 == ext) with
    | some x => (x.1, x.2.2)
    | none => (ext, e.gen)
/-- The XTS tweak of a line (R41, Table 2.11). -/
def lineTweak (lk : Nat) (s : State) : Nat :=
  match extOf (lkExt lk) s with
  | none => 0
  | some e =>
    let (x, g) := tweakId (lkExt lk) e s
    pack [(e.slot % 16, 77), (x % 2 ^ 16, 61), (g % 2 ^ 16, 45), (lkLine lk, 0)]
/-- The tweak of a 1 KiB unit of a crate's attic slot (R71, Table 3.6). -/
def atticTweak (ck unitN : Nat) (s : State) : Nat :=
  match extOf (ckExt ck) s with
  | none => 0
  | some e =>
    let (x, g) := tweakId (ckExt ck) e s
    pack [(1, 127), (e.slot % 16, 77), (x % 2 ^ 16, 61), (g % 2 ^ 16, 45), ((ckIdx ck * 64 + unitN) % 2 ^ 45, 0)]
/-- The key pair of an extent; the zero pair where no key is loaded in its slot. -/
def extKeyPair (ext : Nat) (s : State) : Nat × Nat :=
  match (extOf ext s).bind (fun e => tget s.pool.keys e.key) with
  | some k => (k.key1, k.key2)
  | none => (0, 0)
/-- A line's ciphertext: its data unit is the whole line (R41). -/
def lineCipher (lk : Nat) (d : List Byte) (s : State) : List Byte :=
  let (a, b) := extKeyPair (lkExt lk) s
  xtsEncrypt a b (lineTweak lk s) d
def lineClear (lk : Nat) (c : List Byte) (s : State) : List Byte :=
  let (a, b) := extKeyPair (lkExt lk) s
  xtsDecrypt a b (lineTweak lk s) c

/-! ### Crate map (Table 3.2) -/

def crateDflt : Crate :=
  { tier := 0, dirty := false, vcopy := false, moving := false, redirty := false, incomp := false, heat := 0, idle := 0,
    loc := 0, vtray := 0, vloc := 0, agen := 0 }
def crateOf (ck : Nat) (s : State) : Crate := tgetD s.tiers.crates ck crateDflt
def setCrate (ck : Nat) (c : Crate) (s : State) : State :=
  { s with tiers := { s.tiers with crates := tput s.tiers.crates ck c } }
def modCrate (ck : Nat) (f : Crate → Crate) (s : State) : State := setCrate ck (f (crateOf ck s)) s
/-- Crates of an extent that have an entry. -/
def extCrates (ext : Nat) (s : State) : Tbl Crate := s.tiers.crates.filter (fun c => ckExt c.1 == ext)

abbrev tierShelf : Nat := 1
abbrev tierAttic : Nat := 2
abbrev tierCellar : Nat := 3
abbrev tierVault : Nat := 4

/-- One access to a crate: HEAT rises, IDLE clears (Heat and placement). -/
def heatUp (ck : Nat) (s : State) : State := modCrate ck (fun c => { c with heat := min 255 (c.heat + 1), idle := 0 }) s

/-- A write to a crate: the tier's copy differs from the vault's, and a move under way is told (R62). -/
def dirtyCrate (ck : Nat) (s : State) : State :=
  if (crateOf ck s).tier = 0 then s
  else modCrate ck (fun c => { c with dirty := true, redirty := c.redirty || c.moving }) s

/-! ### Poison (R564 to R568) -/

def poisoned (lk : Nat) (s : State) : Bool := s.tiers.poison.contains lk
abbrev poisonEntriesMax : Nat := 65536
/-- Crates with an entry in the poison table. -/
def poisonCrates (s : State) : List Nat := (s.tiers.poison.map lkCrate).eraseDups

/-- Causes of Table 18.6. -/
abbrev causeCode : Nat := 0
abbrev causeVault : Nat := 1
abbrev causeTray : Nat := 2
abbrev causeHolder : Nat := 3

/-- Poison a line: entry, POISON_LINES and a ledger record (R564); a full table revokes the extent (R568). -/
def poisonLine (lk cause : Nat) (s : State) : State :=
  if poisoned lk s then s
  else
    let e := extOf (lkExt lk) s
    let job := match e with | some e => e.job | none => 0
    let gen := match e with | some e => e.gen | none => 0
    let body := pack [(lkExt lk, 240), (gen, 224), (job, 208), ((crateOf (lkCrate lk) s).tier, 205), (cause, 202),
      (lkLine lk, 155)]
    let crates := poisonCrates s
    if !crates.contains (lkCrate lk) && decide (poisonEntriesMax ≤ crates.length) then
      if s.pool.overflow.contains (lkExt lk) then s
      else
        let s := fatalRecord 0x30 (pack [(job, 224), (lkExt lk, 208), (gen, 192)]) s
        raise 0xB000 0x06 0 0 { s with pool := { s.pool with overflow := s.pool.overflow ++ [lkExt lk] } }
    else
      let s := { s with tiers := { s.tiers with poison := s.tiers.poison ++ [lk] } }
      ledger 0xB000 ldPoison clsData body (bump kPoisonLines s)

/-- The line code has found an error in the slot that holds a line's crate (R92). -/
def noteSlotErr (lk : Nat) (hard : Bool) (s : State) : State :=
  let c := crateOf (lkCrate lk) s
  if c.tier = tierShelf ∨ c.tier = tierCellar then
    { s with tiers := { s.tiers with slotErrs := s.tiers.slotErrs ++ [{ tier := c.tier, loc := c.loc, at_ := s.now, hard := hard }] } }
  else s
/-- A line is about to be read: one whose line code fails is poisoned, and the error noted (R42). -/
def meetLine (lk : Nat) (s : State) : State :=
  if s.tiers.failing.contains lk then
    poisonLine lk causeCode (noteSlotErr lk true
      { s with tiers := { s.tiers with failing := s.tiers.failing.filter (fun x => x != lk) } })
  else s
/-- Every line of a crate is read. -/
def meetCrate (ck : Nat) (s : State) : State := each (s.tiers.failing.filter (fun x => lkCrate x == ck)) meetLine s

/-- A write of a whole line clears its poison (R90, R567), and its stored code is good again. -/
def cleanLine (lk : Nat) (s : State) : State :=
  let s := { s with tiers := { s.tiers with failing := s.tiers.failing.filter (fun x => x != lk) } }
  if poisoned lk s then
    bump kPoisonCleared { s with tiers := { s.tiers with poison := s.tiers.poison.filter (fun x => x != lk) } }
  else s

/-- Free every poison entry of an extent (R567). -/
def cleanExt (ext : Nat) (s : State) : State :=
  { s with tiers := { s.tiers with poison := s.tiers.poison.filter (fun x => lkExt x != ext),
                                   failing := s.tiers.failing.filter (fun x => lkExt x != ext) } }

/-- The cipher text of a crate, line by line. -/
def crateCipher (ck : Nat) (s : State) : List Byte :=
  (List.range 512).flatMap (fun i => lineCipher (ck * 512 + i) (memRead s.mem ((ck * 512 + i) * 128) 128) s)

/-- Poison every line of a crate. -/
def poisonCrate (ck cause : Nat) (s : State) : State :=
  each ((List.range 512).map (fun i => ck * 512 + i)) (fun lk => poisonLine lk cause) s

/-! ### Batches over memory (R372) -/

def batchOf (lk : Nat) (s : State) : Option Batch := s.txn.batches.find? (fun b => b.line == lk)
def batchByte (b : Batch) (off : Nat) : Option Byte := tget b.bytes off

/-- The byte at an offset of a line: the open batch's, else memory's (R365). -/
def lineByte (lk off : Nat) (s : State) : Byte :=
  match batchOf lk s with
  | some b => (batchByte b off).getD (memGet s.mem (lk * 128 + off))
  | none => memGet s.mem (lk * 128 + off)

/-- Bytes of a line. -/
def lineRead (lk off n : Nat) (s : State) : List Byte := (List.range n).map (fun i => lineByte lk (off + i) s)

/-- Bytes of a batch with new ones merged over. -/
def mergeBytes : Tbl Byte → Nat → List (Option Byte) → Tbl Byte
  | t, _, [] => t
  | t, o, none :: r => mergeBytes t (o + 1) r
  | t, o, some b :: r => mergeBytes (tput t o b) (o + 1) r

/-- Bytes merge into the line's batch, or open one. -/
def batchOpen (lk off : Nat) (d : List (Option Byte)) (s : State) : State :=
  match batchOf lk s with
  | some b =>
    let b' := { b with bytes := mergeBytes b.bytes off d, merged := b.merged + 1 }
    { s with txn := { s.txn with batches := s.txn.batches.map (fun x => if x.line = lk then b' else x) } }
  | none =>
    let b : Batch := { line := lk, at_ := s.now, bytes := mergeBytes [] off d, merged := 1 }
    { s with txn := { s.txn with batches := s.txn.batches ++ [b] } }
/-- A store or atomic merges into the line's batch, or opens one (R372, R373). -/
def batchStore (lk off : Nat) (d : List (Option Byte)) (s : State) : State :=
  onlyIf (batchOf lk s).isSome (bump kStoresCoalesced) (batchOpen lk off d s)

/-- The 2448's own write: over the open batch where there is one, else to memory. -/
def poke (lk off : Nat) (d : List (Option Byte)) (s : State) : State :=
  match batchOf lk s with
  | some b =>
    { s with txn := { s.txn with batches := s.txn.batches.map (fun x =>
        if x.line = lk then { b with bytes := mergeBytes b.bytes off d } else x) } }
  | none => { s with mem := memWriteSome s.mem (lk * 128 + off) d }

/-- Write a batch to memory and close it (R372, R373). -/
def writeBatch (lk : Nat) (s : State) : State :=
  match batchOf lk s with
  | none => s
  | some b =>
    let m := b.bytes.foldl (fun m e => memPut m (lk * 128 + e.1) e.2) s.mem
    bump kLineWriteouts
      { s with mem := m, txn := { s.txn with batches := s.txn.batches.filter (fun x => x.line != lk) } }

/-- Write the open batches of a crate (R376). -/
def writeBatchesOf (p : Nat → Bool) (s : State) : State :=
  each ((s.txn.batches.map (·.line)).filter p) writeBatch s

/-- Copy the contents of one crate to another, poison included (R101, R565). -/
def copyCrate (src dst : Nat) (s : State) : State :=
  let s := meetCrate src (writeBatchesOf (fun lk => lkCrate lk == src || lkCrate lk == dst) s)
  let lo := src * crateBytes
  let cells := s.mem.filter (fun c => decide (lo ≤ c.1) && decide (c.1 < lo + crateBytes))
  let m := cells.foldl (fun m c => memPut m (dst * crateBytes + (c.1 - lo)) c.2)
    (memClear s.mem (dst * crateBytes) (dst * crateBytes + crateBytes))
  let keep := s.tiers.poison.filter (fun x => lkCrate x != dst)
  let more := (keep.filter (fun x => lkCrate x == src)).map (fun x => dst * 512 + x % 512)
  { s with mem := m, tiers := { s.tiers with poison := keep ++ more } }

/-- Clear a crate: contents zero, no batch, no poison. -/
def zeroCrate (ck : Nat) (s : State) : State :=
  { s with mem := memClear s.mem (ck * crateBytes) (ck * crateBytes + crateBytes),
           tiers := { s.tiers with poison := s.tiers.poison.filter (fun x => lkCrate x != ck),
                                   failing := s.tiers.failing.filter (fun x => lkCrate x != ck) },
           txn := { s.txn with batches := s.txn.batches.filter (fun b => lkCrate b.line != ck) } }

/-! ### Forms of versioned crates (R99, R101) -/

def regionOfExt (ext : Nat) (s : State) : Option (Nat × Region) := s.vers.regions.find? (fun r => r.2.ext == ext)
def verOf (r : Region) (v : Nat) : Option Ver := r.live.find? (fun x => x.num == v)
/-- The form of a crate in a version; 0 where the version holds the base content. -/
def verForm (r : Region) (v idx : Nat) : Nat :=
  match verOf r v with
  | some x => tgetD x.forms idx 0
  | none => 0
def bindingOf (job member region : Nat) (s : State) : Option Binding :=
  s.vers.bindings.find? (fun b => b.job == job && b.member == member && b.region == region)
/-- The form a read of a crate under a binding sees (R99). -/
def readForm (r : Region) (b : Option Binding) (idx : Nat) : Nat :=
  match b with
  | none => verForm r r.cur idx
  | some b => if b.draft then (tget b.forms idx).getD (verForm r b.base idx) else verForm r b.base idx

/-- Crates in the version pool in use (Versioned regions): forms beyond one of each crate. -/
def poolCrates (rid : Nat) (r : Region) (s : State) : Nat :=
  let drafts := s.vers.bindings.filter (fun b => b.region == rid && b.draft)
  let idxs := ((r.live.flatMap (fun v => v.forms.map (·.1))) ++ drafts.flatMap (fun b => b.forms.map (·.1))).eraseDups
  lsum (idxs.map (fun i =>
    ((r.live.map (fun v => tgetD v.forms i 0)) ++ drafts.filterMap (fun b => tget b.forms i)).eraseDups.length - 1))

/-- Does a request that has passed its checks still wait to use a form of a crate (R99)? -/
def formAwaited (ck : Nat) (s : State) : Bool :=
  s.txn.txs.any (fun t => t.parts.any (fun p => p.res.isNone && lkCrate p.line == ck)) ||
  s.txn.held.any (fun h => ckExt ck == h.ext && (lkCrate h.line == ck || h.passed.any (fun p => p.2.2 == ckForm ck)))
/-- Free the forms of a region that no live version or draft names, once no request uses them any more (R113). -/
def sweepForms (rid : Nat) (s : State) : State :=
  match tget s.vers.regions rid with
  | none => s
  | some r =>
    let drafts := s.vers.bindings.filter (fun b => b.region == rid && b.draft)
    let used (i f : Nat) : Bool := r.live.any (fun v => tgetD v.forms i 0 == f) ||
      drafts.any (fun b => tget b.forms i == some f)
    let gone := (extCrates r.ext s).filter (fun c => !used (ckIdx c.1) (ckForm c.1) && !formAwaited c.1 s)
    each (gone.map (·.1)) (fun ck s =>
      let s := zeroCrate ck s
      { s with tiers := { s.tiers with crates := tdel s.tiers.crates ck } }) s

end Sys2Proof.Machine
end

