-- ==== Sys2Proof/Machine/Place.lean ====
section
/-!
DEFINITION. Tiers: capacities, slots, moves, fetches and tray commands (03_tiers_and_placement.md).
-/
namespace Sys2Proof.Machine

/-! ### Larders and trays -/

def larderDflt : Larder :=
  { out := false, trained := false, failed := false, resetting := false, lastQueue := [], stackBytes := 0, gwBytes := 0 }
def larderOf (l : Nat) (s : State) : Larder := tgetD s.hens.larders l larderDflt
def setLarder (l : Nat) (x : Larder) (s : State) : State :=
  { s with hens := { s.hens with larders := tput s.hens.larders l x } }
def modLarder (l : Nat) (f : Larder → Larder) (s : State) : State := setLarder l (f (larderOf l s)) s

def trayDflt : Tray :=
  { present := false, lost := false, worn := false, dramGib := 0, nandGb := 0, chans := 0, luns := 0, lunBlocks := 0, pages := 0,
    blocksAll := 0, blocksBad := 0, serial := 0, usableNand := false, rebuilding := false }
def trayOf (t : Nat) (s : State) : Tray := tgetD s.tiers.trays t trayDflt
def setTray (t : Nat) (x : Tray) (s : State) : State :=
  { s with tiers := { s.tiers with trays := tput s.tiers.trays t x } }
def modTray (t : Nat) (f : Tray → Tray) (s : State) : State := setTray t (f (trayOf t s)) s
def trayUp (t : Nat) (s : State) : Bool := (linkOf (trayLink t) s).st == .active
def trayServes (t : Nat) (s : State) : Bool := (trayOf t s).present && !(trayOf t s).lost

/-! ### Locations (Table 3.3) -/

def shelfLoc (stack slot : Nat) : Nat := stack * 2 ^ 20 + slot
def locStack (loc : Nat) : Nat := fld loc 24 20
def atticLoc (cls slot : Nat) : Nat := cls * 2 ^ 32 + slot
def locClass (loc : Nat) : Nat := fld loc 34 32
def cellarLoc (tray slot : Nat) : Nat := tray * 2 ^ 23 + slot
def locTray (loc : Nat) : Nat := fld loc 26 23

/-- Bytes of a crate go to or come from a requester: through its tier's stacks, and through the gateways of a hen and of
stacks that are not in one larder (R7, LARDER_STATUS). -/
def noteMoved (hen : Option Nat) (c : Crate) (n : Nat) (s : State) : State :=
  let home := if c.tier = tierShelf then some (locStack c.loc / 2) else none
  let from_ := hen.map (· / 512)
  let gate (l : Option Nat) (s : State) : State :=
    match l with | some l => modLarder l (fun x => { x with gwBytes := x.gwBytes + n }) s | none => s
  let s := match home with | some l => modLarder l (fun x => { x with stackBytes := x.stackBytes + n }) s | none => s
  if home = from_ then s else gate from_ (gate home s)

/-- Locations of a tier that hold a crate, receive one, wait to be freed, or belong to an extent not yet FREE (R52). -/
def usedLocs (tier : Nat) (s : State) : List Nat :=
  (s.tiers.crates.filterMap (fun c => if c.2.tier = tier then some c.2.loc else none)) ++
  (s.tiers.moves.filterMap (fun m => if m.tier = tier then some m.loc else none)) ++
  (s.tiers.fetches.filterMap (fun m => if m.tier = tier then some m.loc else none)) ++
  (s.tiers.sources.filterMap (fun m => if m.tier = tier then some m.loc else none)) ++
  (s.tiers.kept.filterMap (fun k => if k.2.1 = tier then some k.2.2 else none))
/-- Slots taken out of placement: retired, or about to be. -/
def retiredLocs (tier : Nat) (s : State) : List Nat :=
  (s.tiers.retired ++ s.tiers.retiring).filterMap (fun r => if r.1 = tier then some r.2 else none)

/-- The lowest location at or above a start, among n, that is not taken. -/
def lowestFree (taken : List Nat) (start : Nat) : Nat → Option Nat
  | 0 => none
  | n + 1 => if taken.contains start then lowestFree taken (start + 1) n else some start
/-- The lowest free location in [lo, lo + n). -/
def pickIn (taken : List Nat) (lo n : Nat) : Option Nat :=
  lowestFree taken lo (min n ((taken.filter (fun x => decide (lo ≤ x) && decide (x < lo + n))).length + 1))

/-! ### Capacities -/

def shelfUsableB (s : State) : Nat := rget kShelfUsable s * granBytes
def cellarUsableB (s : State) : Nat := rget kCellarUsable s * granBytes
def shelfFree (s : State) : Nat := shelfUsableB s - crateBytes * (usedLocs tierShelf s).length
def cellarFree (s : State) : Nat := cellarUsableB s - crateBytes * (usedLocs tierCellar s).length
/-- Attic space in effect (R55) and what is free of it. -/
def atticB (s : State) : Nat := s.tiers.atticGib * 2 ^ 30
def atticUnits (s : State) : Nat := lsum ((usedLocs tierAttic s).map locClass)
def atticFree (s : State) : Nat := atticB s - 8192 * atticUnits s
/-- Crate slots of a stack outside the metadata reserve and the attic. -/
def stackSlots (s : State) : Nat := (64 * 2 ^ 30 - 2 ^ 30 - atticB s / 24) / crateBytes
/-- Crate slots of a tray outside the cellar reserve. -/
def traySlots (t : Nat) (s : State) : Nat := (trayOf t s).dramGib * 2 ^ 30 * 31 / 32 / crateBytes
def trayFree (t : Nat) (s : State) : Nat :=
  traySlots t s - ((usedLocs tierCellar s ++ retiredLocs tierCellar s).filter (fun l => locTray l == t)).length

/-! ### Where a job's crates may lie (R544) -/

def jobLarders (j : Job) : List Nat := bitsOf j.hens.larders 12
def stackOk (job stack : Nat) (s : State) : Bool :=
  let others := s.pool.jobs.any (fun e => e.2.id != job && e.2.iso.enable && e.2.hens.larders.testBit (stack / 2))
  match jobOf job s with
  | some (_, j) => if j.iso.enable then j.hens.larders.testBit (stack / 2) else !others
  | none => !others
def trayOk (job tray : Nat) (s : State) : Bool :=
  let others := s.pool.jobs.any (fun e => e.2.id != job && e.2.iso.enable && e.2.iso.trays.testBit tray)
  match jobOf job s with
  | some (_, j) => if j.iso.enable then j.iso.trays.testBit tray else !others
  | none => !others

def crateJob (ck : Nat) (s : State) : Nat := ((extOf (ckExt ck) s).map (·.job)).getD 0
def crateExt (ck : Nat) (p : Extent → Bool) (s : State) : Bool := ((extOf (ckExt ck) s).map p).getD false

/-- A shelf slot for a crate: stack (EXTENT + n) mod 24, else the next with a free slot (R61). -/
def pickShelf (ck : Nat) (s : State) : Option Nat :=
  if shelfFree s < crateBytes then none
  else
    let start := (ckExt ck + ckIdx ck) % 24
    let taken := usedLocs tierShelf s ++ retiredLocs tierShelf s
    ((List.range 24).map (fun i => (start + i) % 24)).findSome? (fun st =>
      if stackOk (crateJob ck s) st s && !(larderOf (st / 2) s).failed then
        pickIn taken (shelfLoc st 0) (stackSlots s) else none)

/-- The tray with the most free space, lowest number on a tie, among those that may take the crate. -/
def bestTray (ok : Nat → Bool) (s : State) : Option Nat :=
  let ts := (List.range 16).filter (fun t => trayServes t s && ok t && decide (0 < trayFree t s))
  ts.foldl (fun b t => match b with
    | none => some t
    | some u => if trayFree u s < trayFree t s then some t else some u) none
def pickTraySlot (t : Nat) (s : State) : Option Nat :=
  pickIn (usedLocs tierCellar s ++ retiredLocs tierCellar s) (cellarLoc t 0) (traySlots t s)
def pickCellar (ck : Nat) (s : State) : Option Nat :=
  match bestTray (fun t => trayOk (crateJob ck s) t s) s with
  | some t => pickTraySlot t s
  | none => none
/-- The tray for a vault copy: the crate's own cellar tray unless it is worn or may not be used, else the first that may
(R86). -/
def pickVaultTray (ck : Nat) (s : State) : Option Nat :=
  let c := crateOf ck s
  let ok (t : Nat) : Bool := trayServes t s && (trayOf t s).usableNand && !(trayOf t s).worn && trayOk (crateJob ck s) t s
  let own := locTray c.loc
  if c.tier = tierCellar && ok own then some own else (List.range 16).find? ok

/-! ### Tray commands (R79, R80, Table 3.10) -/

abbrev opDramRead : Nat := 0x01
abbrev opDramWrite : Nat := 0x02
abbrev opDramZero : Nat := 0x03
abbrev opNandRead : Nat := 0x10
abbrev opNandProgram : Nat := 0x11
abbrev opNandErase : Nat := 0x12
abbrev opNandCopy : Nat := 0x13
abbrev opSetRetry : Nat := 0x14
abbrev opIdentify : Nat := 0x20
abbrev opHealth : Nat := 0x21
abbrev opTrayFence : Nat := 0x22
abbrev trayOpenMax : Nat := 1024

/-- Put a tray command on its link. -/
def sendTray (c : TrayCmd) (s : State) : State := send (.tray (trayLink c.tray) c.op c.tag c.flags c.count c.addr c.data) s
/-- Give the tray a command under a tag; at most 1,024 are open per link, later ones wait their turn (Table 3.9). -/
def trayCmd (t op flags count addr : Nat) (data : List Byte) (why : TrayWhy) (s : State) : State :=
  let tag := s.tiers.nextTag
  let c : TrayCmd := { tray := t, tag := tag, op := op, flags := flags, count := count, addr := addr, data := data, why := why,
                       got := [] }
  let opened := (s.tiers.cmds.filter (fun x => x.tray == t)).length
  let s := { s with tiers := { s.tiers with cmds := s.tiers.cmds ++ [c], nextTag := (tag + 1) % 65536 } }
  onlyIf (decide (opened < trayOpenMax)) (sendTray c) s

/-- DRAM byte address of a cellar location on its tray, and as a second address (Table 3.9). -/
def trayAddr (loc : Nat) : Nat := loc % 2 ^ 23 * crateBytes
def second (a : Nat) : List Byte := bytesOf 8 a

/-! ### Moves (R62 to R65) -/

def movingCrate (ck : Nat) (s : State) : Bool := s.tiers.moves.any (fun m => m.crate == ck)
def dropMove (ck : Nat) (s : State) : State :=
  { s with tiers := { s.tiers with moves := s.tiers.moves.filter (fun m => m.crate != ck) } }

/-- The commands a copy to a tier sends to the trays it concerns: what crosses a link is ciphertext. -/
def moveCmds (ck tier loc : Nat) (s : State) : State :=
  let c := crateOf ck s
  let t := loc / 2 ^ 44
  let read (s : State) : State := trayCmd (locTray c.loc) opDramRead 0 512 (trayAddr c.loc) [] (.move ck) s
  if tier = tierVault then
    if c.tier = tierCellar && locTray c.loc = t then
      trayCmd t opNandProgram 6 4 (loc % 2 ^ 44) (second (trayAddr c.loc)) (.move ck) s
    else trayCmd t opNandProgram 4 4 (loc % 2 ^ 44) (crateCipher ck s) (.move ck) (onlyIf (c.tier == tierCellar) read s)
  else
    let s := onlyIf (c.tier == tierCellar) read s
    onlyIf (tier == tierCellar) (trayCmd (locTray loc) opDramWrite 0 512 (trayAddr loc) (crateCipher ck s) (.move ck)) s

/-- Begin a move to a tier's location; open batches are written first (R62, R376). A vault location carries its tray in
the bits above 44. -/
def startMoveTo (ck tier loc gen : Nat) (why : MoveWhy) (s : State) : State :=
  let s := meetCrate ck (writeBatchesOf (fun lk => lkCrate lk == ck) s)
  let s := moveCmds ck tier loc s
  let s := modCrate ck (fun c => { c with moving := true, redirty := false }) s
  let m : Move := { crate := ck, tier := tier, loc := loc, gen := gen, why := why }
  { s with tiers := { s.tiers with moves := s.tiers.moves ++ [m] } }
def startMove (ck tier loc : Nat) (why : MoveWhy) (s : State) : State := startMoveTo ck tier loc 0 why s

/-! ### The log-structured vault (R82) -/

/-- The block of four planes that a NAND address lies in: its channel and LUN, and its number within the LUN. A row address
is taken as block * pages + page (PRESUMED, log 45). -/
def blockOf (t a : Nat) (s : State) : Nat := a / 2 ^ 36 * 2 ^ 36 + a % 2 ^ 36 / (trayOf t s).pages
def blockAddr (t b : Nat) (s : State) : Nat := b / 2 ^ 36 * 2 ^ 36 + b % 2 ^ 36 * (trayOf t s).pages
def trayBlocks (t : Nat) (s : State) : List Block := s.tiers.blocks.filter (fun b => b.tray == t)
def blockOfTray (t id : Nat) (s : State) : Block :=
  (s.tiers.blocks.find? (fun b => b.tray == t && b.id == id)).getD
    { tray := t, id := id, valid := [], erases := 0, reads := 0, bad := false, written := false, reclaim := false,
      scannedAt := s.now }
def setBlock (b : Block) (s : State) : State :=
  { s with tiers := { s.tiers with
      blocks := s.tiers.blocks.filter (fun x => !(x.tray == b.tray && x.id == b.id)) ++ [b] } }
/-- The pages of a crate's vault copy are no longer valid. -/
def dropCopy (ck : Nat) (s : State) : State :=
  { s with tiers := { s.tiers with blocks := s.tiers.blocks.map (fun b => { b with valid := b.valid.filter (· != ck) }) } }
/-- A crate's copy has been written at a NAND address (R82). A location carries its tray in the bits above 44. -/
def noteCopy (ck loc : Nat) (s : State) : State :=
  let t := loc / 2 ^ 44
  let s := dropCopy ck s
  let b := blockOfTray t (blockOf t (loc % 2 ^ 44) s) s
  setBlock { b with valid := b.valid ++ [ck], written := true } s
def blockUsed (t b : Nat) (s : State) : Bool :=
  s.tiers.blocks.any (fun x => x.tray == t && x.id == b && (x.written || x.bad))
/-- A location carries its tray in the bits above 44. -/
def vaultAt (t lun block page : Nat) (s : State) : Nat := t * 2 ^ 44 + lun * 2 ^ 36 + block * (trayOf t s).pages + page
/-- A free block of a LUN, the search beginning at a block; the open blocks are in use. -/
def freeBlockFrom (t lun start : Nat) (s : State) : Option Nat :=
  let n := (trayOf t s).lunBlocks
  ((List.range (min n (s.tiers.blocks.length + s.tiers.logs.length + 1))).map (fun i => (start + i) % n)).find? (fun b =>
    !blockUsed t (lun * 2 ^ 36 + b) s && !s.tiers.logs.any (fun l => l.1 == t * 256 + lun && l.2.1 == b))
/-- The next row of a tray's log for a crate's copy: the next page of a LUN's open block, or the first of a fresh one. Which
LUN and which free block is not given, so a free value picks them (log 21); none where the LUN has no block left. -/
def vaultLoc (t : Nat) (s : State) : Option Nat × State :=
  let x := trayOf t s
  let n := x.chans * x.luns
  if n = 0 || x.pages = 0 || x.lunBlocks = 0 then (none, s)
  else
    let (v, s) := draw s
    let lun := v % n / x.luns * 16 + v % n % x.luns
    let key := t * 256 + lun
    let put (b p : Nat) : State := { s with tiers := { s.tiers with logs := tput s.tiers.logs key (b, p + 1) } }
    let fresh : Option Nat × State := match freeBlockFrom t lun (v / n) s with
      | some b => (some (vaultAt t lun b 0 s), put b 0)
      | none => (none, s)
    match tget s.tiers.logs key with
    | some (b, p) => if p < x.pages then (some (vaultAt t lun b p s), put b p) else fresh
    | none => fresh

/-- Journal a map change to the tray's journal blocks (R82): where they lie and what a page of them holds is not given (log 21). -/
def journalMap (ck loc : Nat) (old : Option Nat) (s : State) : State :=
  let (a, s) := draw s
  let (d, s) := draw s
  trayCmd (loc / 2 ^ 44) opNandProgram 0 1 (a % 2 ^ 44) (bytesOf 16384 d) (.journal ck loc old) s

/-- The granule whose crate-map group an entry belongs to. -/
def groupOf (ck : Nat) : Nat := ck / 32
/-- Keep a group where it belongs: in a tray's cellar reserve when every crate of it that holds data is in the vault, else in
the shelf's metadata reserve. Which tray is not given: a free value picks one that serves (log 21). -/
def regroup (ck : Nat) (s : State) : State :=
  let g := groupOf ck
  let cs := s.tiers.crates.filter (fun c => groupOf c.1 == g && c.2.tier != 0)
  let deep := !cs.isEmpty && cs.all (fun c => c.2.tier == tierVault)
  if !deep then { s with tiers := { s.tiers with groupTray := tdel s.tiers.groupTray g } }
  else if thas s.tiers.groupTray g then s
  else
    let ts := (List.range 16).filter (fun t => trayServes t s)
    let (v, s) := draw s
    match ts[v % ts.length]? with
    | some t => { s with tiers := { s.tiers with groupTray := tput s.tiers.groupTray g t } }
    | none => s

/-- A crate has left a location: it is freed when the requests open now have completed (R64), at once when none is. -/
def leaveLoc (ck tier loc : Nat) (s : State) : State :=
  let ids := (s.txn.txs.filter (fun t => t.parts.any (fun p => lkCrate p.line == ck))).map (·.id) ++
    (s.txn.held.filter (fun h => lkCrate h.line == ck)).map (·.id)
  if ids.isEmpty then s
  else { s with tiers := { s.tiers with sources := s.tiers.sources ++ [{ crate := ck, tier := tier, loc := loc, txs := ids }] } }

/-! ### The attic coder (R69, R227) -/

def bookOf (cb : Nat) (s : State) : Option Codebook := tget s.coding.books cb
def setBook (cb : Nat) (b : Codebook) (s : State) : State :=
  { s with coding := { s.coding with books := tput s.coding.books cb b } }
def cbNewest (b : Codebook) : Option CbGen := b.gens.head?
def cbGenOf (b : Codebook) (g : Nat) : Option CbGen := b.gens.find? (fun x => x.gen == g)
/-- The attic codebook of a job slot. -/
abbrev atticBook (slot : Nat) : Nat := 0x3000 + slot

/-- The 8-byte tuples of a crate that are not zero, by index. -/
def crateTuples (ck : Nat) (s : State) : List (Nat × Nat) :=
  let lo := ck * crateBytes
  (s.mem.filter (fun c => decide (lo ≤ c.1) && decide (c.1 < lo + crateBytes))).foldl (fun l c =>
    let i := (c.1 - lo) / 8
    let v := c.2.toNat * 256 ^ ((c.1 - lo) % 8)
    match l with
    | (j, w) :: r => if i = j then (j, w + v) :: r else (i, v) :: l
    | [] => [(i, v)]) []
/-- Bytes of one inline block of 1,024 tuples with e literals: coded, or raw where the encoder's rule says so (R221). -/
def byteBlock (e : Nat) : Nat := if 128 < e then 8192 + 16 else cdiv (1536 + 8 * e) 16 * 16 + 16
/-- Escaped tuples of a crate's block. -/
def blockLits (entries : List Nat) (ts : List (Nat × Nat)) (b : Nat) : Nat :=
  (ts.filter (fun t => t.1 / 1024 == b && !entries.contains t.2)).length
/-- The size class of a crate's coded form, 8 blocks; 0 when it needs more than 48 KiB. -/
def atticClass (entries : List Nat) (ts : List (Nat × Nat)) : Nat :=
  let cls := cdiv (lsum ((List.range 8).map (fun b => byteBlock (blockLits entries ts b)))) 8192
  if cls ≤ 6 then cls else 0
/-- Blocks of a crate's coded form that name the codebook: those the encoder's rule codes (R223). -/
def atticBlocks (entries : List Nat) (ck : Nat) (s : State) : Nat :=
  let ts := crateTuples ck s
  ((List.range 8).filter (fun b => decide (blockLits entries ts b ≤ 128))).length

/-- Put a tuple with its count where counts fall, and values rise among equal counts. -/
def insertTuple (a : Nat × Nat) : List (Nat × Nat) → List (Nat × Nat)
  | [] => [a]
  | b :: r => if b.2 < a.2 || (b.2 == a.2 && decide (a.1 < b.1)) then a :: b :: r else b :: insertTuple a r
/-- Entries of a trained generation: zero, the most frequent tuples of the sample, zeros. -/
def trainedEntries (sample : List Nat) (s : State) : List Nat :=
  let count (t : Tbl Nat) (v : Nat) : Tbl Nat := tput t v (tgetD t v 0 + 1)
  let counts := (sample.flatMap (fun ck => (crateTuples ck s).map (·.2))).foldl count []
  let best := ((counts.foldl (fun l c => insertTuple c l) []).map (·.1)).take 4094
  0 :: best ++ List.replicate (4094 - best.length) 0

/-- A crate ranks before another when it is colder; ties go to the lower extent, then the lower index. -/
def colder (a b : Nat × Crate) : Bool := a.2.heat < b.2.heat || (a.2.heat == b.2.heat && decide (a.1 < b.1))
def insertCrate (a : Nat × Crate) : Tbl Crate → Tbl Crate
  | [] => [a]
  | b :: r => if colder a b then a :: b :: r else b :: insertCrate a r
/-- Crates ranked coldest first. -/
def rankCold (l : Tbl Crate) : Tbl Crate := l.foldl (fun r c => insertCrate c r) []

/-- Crates of a tier that a demotion may take: of an ACTIVE extent, not moving, not kept by a flag. -/
def demotable (tier : Nat) (keep : Extent → Bool) (s : State) : Tbl Crate :=
  s.tiers.crates.filter (fun c => c.2.tier == tier && !c.2.moving && extActive (ckExt c.1) s && !crateExt c.1 keep s)
/-- The coldest crate: ties to the lower extent, then the lower index. -/
def coldest (l : Tbl Crate) : Option (Nat × Crate) :=
  l.foldl (fun b c => match b with
    | none => some c
    | some d => if colder c d then some c else some d) none

/-- Train a generation of a job's attic codebook on up to 256 of its demotion candidates (R227). -/
def trainAttic (slot job : Nat) (s : State) : State :=
  let mine := (demotable tierShelf fLatency s).filter (fun c => crateJob c.1 s == job)
  let es := trainedEntries (((rankCold mine).take 256).map (·.1)) s
  let b := (bookOf (atticBook slot) s).getD { owner := job, fmt := 3, tuple := 8, cw := 2, dropping := false, gens := [] }
  let g := match cbNewest b with | some x => (x.gen + 1) % 16 | none => 0
  setBook (atticBook slot) { b with gens := { gen := g, entries := es } :: b.gens } s

/-- The attic trial of a crate: the class its coded form fits, 1 to 6, or 0 when it needs more than 48 KiB, and the
generation it is coded under (R69). The job's first trial trains its codebook. -/
def atticTrial (ck : Nat) (s : State) : Nat × Nat × State :=
  let job := crateJob ck s
  match jobOf job s with
  | none => (0, 0, s)
  | some (slot, _) =>
    let s := writeBatchesOf (fun lk => lkCrate lk == ck) s
    let s := if (bookOf (atticBook slot) s).isNone then
        let s := trainAttic slot job s
        { s with tiers := { s.tiers with atticTrials := tput s.tiers.atticTrials job (s.tiers.epoch, 0, 0) } }
      else s
    match (bookOf (atticBook slot) s).bind cbNewest with
    | none => (0, 0, s)
    | some g =>
      let cls := atticClass g.entries (crateTuples ck s)
      let (e, n, f) := tgetD s.tiers.atticTrials job (s.tiers.epoch, 0, 0)
      let f := if cls = 0 then f + 1 else f
      (cls, g.gen, { s with tiers := { s.tiers with atticTrials := tput s.tiers.atticTrials job (e, n + 1, f) } })
def pickAttic (cls : Nat) (s : State) : Option Nat :=
  if atticFree s < cls * 8192 then none else pickIn (usedLocs tierAttic s) (atticLoc cls 0) (2 ^ 32)

/-- Begin moving a crate to a tier if a place is found there; the truth value says whether a move began or, for a clean
crate with a vault copy, the crate passed to the vault at once (Write-back and durable flush). -/
def moveTo (ck tier : Nat) (why : MoveWhy) (s : State) : Bool × State :=
  let c := crateOf ck s
  if c.moving then (false, s)
  else if tier = tierVault then
    if c.vcopy && !c.dirty && c.tier = tierCellar && why == .place then
      let s := leaveLoc ck c.tier c.loc (writeBatchesOf (fun lk => lkCrate lk == ck) s)
      (true, regroup ck (bump kMovesDone (modCrate ck (fun c => { c with tier := tierVault, loc := 0 }) s)))
    else match pickVaultTray ck s with
      | none => (false, s)
      | some t =>
        match vaultLoc t s with
        | (none, s) => (false, s)
        | (some v, s) => (true, startMove ck tierVault v why s)
  else if tier = tierShelf then
    match pickShelf ck s with
    | none => (false, s)
    | some l => (true, startMove ck tierShelf l why s)
  else if tier = tierCellar then
    match pickCellar ck s with
    | none => (false, s)
    | some l => (true, startMove ck tierCellar l why s)
  else (false, s)

/-- demote of the pseudocode: to the attic when its trial fits, else to the cellar (R59, R69). -/
def demote (ck : Nat) (s : State) : State :=
  let c := crateOf ck s
  if rget kAtticMinHeat s ≤ c.heat && !c.incomp && !crateExt ck fCoded s then
    let (cls, gen, s) := atticTrial ck s
    if cls = 0 then (moveTo ck tierCellar .place (modCrate ck (fun c => { c with incomp := true }) s)).2
    else match pickAttic cls s with
      | some l => startMoveTo ck tierAttic l gen .place s
      | none => (moveTo ck tierCellar .place s).2
  else (moveTo ck tierCellar .place s).2

def keepLatency (e : Extent) : Bool := fLatency e
def keepVault (e : Extent) : Bool := fLatency e || fNoVault e || fScratch e

/-- A slot is on its way to a crate that waits: the crate demoted for it still moves, or has left a slot not free yet. -/
def slotComing (ck : Nat) (s : State) : Bool :=
  match tget s.tiers.making ck with
  | some v => movingCrate v s || s.tiers.sources.any (fun x => x.crate == v)
  | none => false
def noteMaking (ck v : Nat) (s : State) : State := { s with tiers := { s.tiers with making := tput s.tiers.making ck v } }
def dropMaking (ck : Nat) (s : State) : State := { s with tiers := { s.tiers with making := tdel s.tiers.making ck } }

/-- Place a crate in a shelf or cellar slot, dirty and without a vault copy. -/
def putCrate (ck tier loc : Nat) (s : State) : Bool × State :=
  (true, regroup ck (dropMaking ck (modCrate ck (fun c => { c with tier := tier, loc := loc, dirty := true, vcopy := false }) s)))

/-- Place an UNMAPPED crate whose shelf slot, if any, is known (R61). -/
def placeAt (shelf : Option Nat) (ck : Nat) (s : State) : Bool × State :=
  match shelf with
  | some l => putCrate ck tierShelf l s
  | none =>
    if crateExt ck fLatency s then
      if slotComing ck s then (false, s)
      else match coldest (demotable tierShelf keepLatency s) with
      | some v => (false, noteMaking ck v.1 (demote v.1 s))
      | none => (false, s)
    else match pickCellar ck s with
      | some l => putCrate ck tierCellar l s
      | none =>
        if slotComing ck s then (false, s)
        else match coldest (demotable tierCellar keepVault s) with
        | none => (false, s)
        | some v =>
          let s := noteMaking ck v.1 (moveTo v.1 tierVault .place s).2
          match pickCellar ck s with
          | some l => putCrate ck tierCellar l s
          | none => (false, s)

/-- Place an UNMAPPED crate for its first write (R61): none while the write must wait for a demotion. -/
def placeNew (ck : Nat) (s : State) : Bool × State := placeAt (pickShelf ck s) ck s

/-! ### Fetch on demand (R66, R67, R606) -/

def fetching (ck : Nat) (s : State) : Bool := s.tiers.fetches.any (fun f => f.crate == ck)

/-- A destination for a crate fetched from the vault (R606). -/
def vaultDest (ck : Nat) (s : State) : Option Nat × State :=
  let c := crateOf ck s
  let own := if trayServes c.vtray s && trayOk (crateJob ck s) c.vtray s && decide (0 < trayFree c.vtray s) then
    pickTraySlot c.vtray s else none
  match own with
  | some l => (some l, s)
  | none =>
    match pickCellar ck s with
    | some l => (some l, s)
    | none =>
      if slotComing ck s then (none, s)
      else match coldest (demotable tierCellar (fun e => fNoVault e || fScratch e) s) with
      | none => (none, s)
      | some v =>
        let s := noteMaking ck v.1 (moveTo v.1 tierVault .place s).2
        (pickCellar ck s, s)

/-- A fetch begins; tier 0 marks one without a destination yet. -/
def addFetch (ck tier loc : Nat) (s : State) : State :=
  { s with tiers := { s.tiers with
      fetches := s.tiers.fetches ++ [{ crate := ck, tier := tier, loc := loc, since := s.now, level := 0 }] } }
/-- A fetch from the attic, whose shelf slot, if any, is known. -/
def fetchAttic (shelf : Option Nat) (ck : Nat) (s : State) : State :=
  match shelf with
  | some l => addFetch ck tierShelf l s
  | none => addFetch ck 0 0 s
/-- A fetch from the vault. -/
def fetchVault (ck : Nat) (s : State) : State :=
  let c := crateOf ck s
  match vaultDest ck s with
  | (none, s) => addFetch ck 0 0 s
  | (some l, s) =>
    let near := locTray l = c.vtray
    let s := trayCmd c.vtray opNandRead (if near then 5 else 4) 4 c.vloc (if near then second (trayAddr l) else []) (.fetch ck)
      (dropMaking ck s)
    addFetch ck tierCellar l s
/-- Start the one fetch of a crate in the attic or the vault (R66, R67). -/
def startFetch (ck : Nat) (s : State) : State :=
  if fetching ck s then s
  else if (crateOf ck s).tier = tierAttic then fetchAttic (pickShelf ck s) ck s
  else fetchVault ck s

/-- A crate's map entry lies in the cellar reserve of a tray that is down, or is being rebuilt (R88, R91). -/
def groupAway (ck : Nat) (s : State) : Bool :=
  match tget s.tiers.groupTray (groupOf ck) with
  | some t => (trayOf t s).rebuilding || !trayUp t s
  | none => false
/-- Why a request to a crate waits on its tier, if it does (R61, R66, R88, R91, R556). -/
def tierWait (ck : Nat) (write : Bool) (s : State) : Wait :=
  let c := crateOf ck s
  if groupAway ck s then .tray
  else if c.tier = tierAttic then .attic
  else if c.tier = tierVault then .vault
  else if c.tier = tierCellar then (if trayUp (locTray c.loc) s then .none else .tray)
  else if c.tier = tierShelf then (if (larderOf (locStack c.loc / 2) s).resetting then .larder else .none)
  else if write then .space else .none

/-- The stall counter of a wait (R78). -/
def stallKey (w : Wait) : Nat :=
  match w with
  | .attic => kStallAttic | .vault => kStallVault | .space => kStallSpace | .tray => kStallTray
  | .larder => kStallLarder | .mirror => kStallMirror
  | _ => 0


end Sys2Proof.Machine
end

