-- ==== Sys2Proof/Machine/Journal.lean ====
section
/-!
DEFINITION. Sending journal records to the mirror (R126 to R130, Tables 4.7 and 4.8).
-/
namespace Sys2Proof.Machine

abbrev jLine : Nat := 0x01
abbrev jCopy : Nat := 0x02
abbrev jRegion : Nat := 0x03
abbrev jOwn : Nat := 0x04
abbrev jExtent : Nat := 0x05
abbrev jMember : Nat := 0x06
abbrev jAcl : Nat := 0x07
abbrev jZero : Nat := 0x08

/-- The home index in effect. -/
def homeIndex (s : State) : Nat := s.dict.homeIndex
/-- The mirror home, 0xFF = none. -/
def mirrorPeer (s : State) : Nat := rget kMirrorPeer s

/-- Bytes of a journal record (Tables 4.7 and 4.8). -/
def recBytes (r : JRec) (s : State) : List Byte :=
  bytesOf 32 (pack [(r.typ % 256, 248), (homeIndex s % 16, 244), (r.slot % 16, 240), (r.ext % 2 ^ 16, 224), (r.gen % 2 ^ 16, 208),
    (r.data.length % 2 ^ 16, 192), (r.seq % 2 ^ 64, 128), (r.arg0 % 2 ^ 64, 64), (r.arg1 % 2 ^ 64, 0)]) ++ r.data
/-- One query of a search partial (R321): its header's layout is not given, so a free value stands for its 16 B (log 42). -/
def partialBytes (q : PartialQ) (x : List Byte × State) : List Byte × State :=
  let (h, s) := draw x.2
  (x.1 ++ bytesOf 16 h ++ q.entries.flatMap (fun e => bytesOf 4 e.1 ++ bytesOf 4 0 ++ bytesOf 8 e.2), s)
/-- A message's body (Peer messages): records, partials, or one number in 48 B (8 B for a cumulative SEQ). -/
def peerBody (kind : Nat) (recs : List JRec) (res : List PartialQ) (num : Nat) (s : State) : List Byte × State :=
  if kind = 0x01 then (recs.flatMap (fun r => recBytes r s), s)
  else if kind = 0x02 then (bytesOf 8 num, s)
  else if kind = 0x05 then res.foldl (fun x q => partialBytes q x) ([], s)
  else if kind = 0x06 then ([], s)
  else (bytesOf 48 num, s)
/-- Fragments of up to 4,064 B. -/
def fragsOf (body : List Byte) : Nat := max 1 (cdiv body.length 4064)
/-- Send a message to a home over the peer port that reaches it (R388). -/
def sendPeer (home kind key job : Nat) (recs : List JRec) (res : List PartialQ) (num : Nat) (s : State) : State :=
  match peerPort home s with
  | none => s
  | some p =>
    let id := s.txn.nextMsg
    let (body, s) := peerBody kind recs res num s
    let q := (portTx p s).msgTx
    send (.peer p kind q id key job home body)
      (modPortTx p (fun x => { x with msgTx := q + fragsOf body }) { s with txn := { s.txn with nextMsg := id + 1 } })

/-- Journal one change: the record takes the next SEQ and waits for its acknowledgement (R126 to R128). -/
def journalRec (typ slot ext gen arg0 arg1 : Nat) (data : List Byte) (s : State) : Nat × State :=
  let q := s.vers.mirror.nextSeq
  let r : JRec := { typ := typ, slot := slot, ext := ext, gen := gen, seq := q, arg0 := arg0, arg1 := arg1, data := data }
  let m := { s.vers.mirror with nextSeq := q + 1, unacked := s.vers.mirror.unacked ++ [(r, s.now)] }
  (q, sendPeer (mirrorPeer s) 0x01 0 0 [r] [] 0 { s with vers := { s.vers with mirror := m } })

/-- A change that is journalled whatever the extent's flags (R127). What DEGRADED keeps from the mirror is journalled when the
relation is SYNC again. -/
def journalAny (typ slot ext gen arg0 arg1 : Nat) (data : List Byte) (s : State) : State :=
  match s.vers.mirror.rel with
  | .sync | .lost => (journalRec typ slot ext gen arg0 arg1 data s).2
  | .degraded =>
    let r : JRec := { typ := typ, slot := slot, ext := ext, gen := gen, seq := 0, arg0 := arg0, arg1 := arg1, data := data }
    { s with vers := { s.vers with mirror := { s.vers.mirror with missed := s.vers.mirror.missed ++ [r] } } }
  | .none => s

/-- Is the extent journalled now: MIRROR, not running unmirrored, and the relation journals (R129)? -/
def journalled (ext : Nat) (s : State) : Bool :=
  match extOf ext s with
  | none => false
  | some e => fMirror e && !s.vers.mirror.unmirrored.contains ext && !s.vers.mirror.copying &&
      (s.vers.mirror.rel == .sync || s.vers.mirror.rel == .lost)
/-- A MIRROR change waits: the relation is LOST (Table 4.9). -/
def mirrorHolds (ext : Nat) (s : State) : Bool := journalled ext s && s.vers.mirror.rel == .lost
/-- Note a crate written without a journal record (R129, R130). -/
def markCrate (ck : Nat) (s : State) : State :=
  match extOf (ckExt ck) s with
  | none => s
  | some e =>
    if fMirror e && !journalled (ckExt ck) s then
      { s with vers := { s.vers with mirror := { s.vers.mirror with marked := ladd s.vers.mirror.marked ck } } }
    else s

/-- ARG1 of a LINE or COPY record: the binding whose draft holds the line, if one does (Table 4.8). -/
def lineArg (lk : Nat) (s : State) : Nat :=
  match regionOfExt (lkExt lk) s with
  | none => 0
  | some (rid, _) =>
    match s.vers.bindings.find? (fun b => b.region == rid && b.draft && b.forms.any (fun f => f.2 == lkForm lk)) with
    | some b => 2 ^ 16 + b.member
    | none => 0
/-- Journal a line as it stands, as the ciphertext that the mirror stores (R128): the record's SEQ. -/
def journalLk (lk : Nat) (s : State) : Nat × State :=
  match extOf (lkExt lk) s with
  | none => (0, s)
  | some e => journalRec jLine e.slot (lkExt lk) e.gen (lkLine lk) (lineArg lk s) (lineCipher lk (lineRead lk 0 128 s) s) s
/-- A line that the 2448 has changed: its crate is dirty (R62), and a MIRROR line is journalled (R126) or its crate
noted. -/
def ownChanged (lk : Nat) (s : State) : State :=
  let s := markCrate (lkCrate lk) (dirtyCrate (lkCrate lk) s)
  if journalled (lkExt lk) s then (journalLk lk s).2 else s
/-- Bytes the 2448 itself puts into a line. Where the crate cannot be written now they wait in the line's batch, a fetch or
a placement of the crate begun (R61, R66, R88). -/
def ownLine (lk off : Nat) (d : List (Option Byte)) (s : State) : State :=
  let ck := lkCrate lk
  let s := if (crateOf ck s).tier = 0 then (placeNew ck s).2 else s
  let w := tierWait ck true s
  if w = .none then poke lk off d s
  else batchOpen lk off d (if w = .attic || w = .vault then startFetch ck s else s)
/-- A write of the 2448's own to a line of pool memory. -/
def ownPut (lk off : Nat) (d : List (Option Byte)) (s : State) : State := ownChanged lk (ownLine lk off d s)
/-- May the 2448 use a range of an extent's base content now? What is away is fetched, what is unmapped placed. -/
def ownReach (ext off n : Nat) (write : Bool) (s : State) : Bool × State :=
  ((List.range ((off + max 1 n - 1) / crateBytes - off / crateBytes + 1)).map (fun i => crateKey ext 0 (off / crateBytes + i))).foldl
    (fun (ok, s) ck =>
      let s := if write && (crateOf ck s).tier = 0 then (placeNew ck s).2 else s
      let w := tierWait ck write s
      (ok && w == .none, if w = .attic || w = .vault then startFetch ck s else s)) (true, s)

/-- The state code of an extent entry (Table 2.6). -/
def extStCode : ExtState → Nat
  | .active => 1 | .draining => 2 | .scrubbing => 3
/-- The extent entry (Table 2.6) as a number; in-flight count and crates given. -/
def extEntry (e : Extent) (inflight crates : Nat) : Nat :=
  pack [(e.job, 240), (e.base, 216), (e.len, 192), (e.acl % 16384, 176), (e.key, 160), (extStCode e.st, 156), (e.slot, 152),
    (e.flags, 142), (e.mirrorHome, 138), (e.gen, 96), (inflight, 64), (crates, 0)]

/-- Journal an extent's change to a state (R127); an extent held for another home is no extent of a job served here. -/
def journalExtAs (ext st : Nat) (s : State) : State :=
  match extOf ext s with
  | none => s
  | some e => if isShadow ext s then s else journalAny jExtent e.slot ext e.gen ext st (bytesOf 32 (extEntry e 0 0)) s
def journalExt (ext : Nat) (s : State) : State :=
  match extOf ext s with
  | none => s
  | some e => journalExtAs ext (extStCode e.st) s

end Sys2Proof.Machine
end

