-- ==== Sys2Proof/Machine/Coh.lean ====
section
/-!
DEFINITION. The coherent window and the duplicate-tag filter: entries, snoops, lost holders, held EVICTs, filter scans
(13_coherence.md). Requests that wait are taken up again by Txn.lean.
-/
namespace Sys2Proof.Machine

/-! ### Windows (Table 13.1, R391) -/

def winValid (w : Nat) : Bool := bit w 127
def winSlot (w : Nat) : Nat := fld w 123 120
def winJob (w : Nat) : Nat := fld w 119 104
def winBase (w : Nat) : Nat := fld w 103 80
def winLen (w : Nat) : Nat := fld w 79 56

def winHas (w job slot gran : Nat) : Bool :=
  winValid w && winJob w == job && winSlot w == slot && decide (winBase w ≤ gran) && decide (gran < winBase w + winLen w)

/-- Is a line in the coherent window (R391)? -/
def inWindow (lk : Nat) (s : State) : Bool :=
  match extOf (lkExt lk) s with
  | none => false
  | some e => e.st == .active && !fVersioned e && !fMirror e && !fCoded e && !fKv e && !fIndex e &&
      s.coh.windows.any (fun w => winHas w.2 e.job e.slot (e.base + lkLine lk / 2 ^ 21))

/-- Write a window's record; one that is all zero is the Default. -/
def putWindow (w v : Nat) (s : State) : State :=
  { s with coh := { s.coh with windows := if v = 0 then tdel s.coh.windows w else tput s.coh.windows w v } }

/-! ### Entries -/

/-- The slice whose line unit orders a line (Ordering). -/
def lineSlice (lk : Nat) : Nat := (lkExt lk + lkLine lk) % 4

def entOf (lk : Nat) (s : State) : Option FEnt := s.coh.ents.find? (fun e => e.line == lk)
def dropEnt (lk : Nat) (s : State) : State :=
  { s with coh := { s.coh with ents := s.coh.ents.filter (fun e => e.line != lk) } }
def putEnt (x : FEnt) (s : State) : State :=
  { s with coh := { s.coh with ents := s.coh.ents.filter (fun e => e.line != x.line) ++ [x] } }

def octetOf (p : Nat) : Nat := p / 4
/-- Ports an entry may be held by: exact holders and owner, or every caching port of a marked octet (R399). -/
def entPorts (x : FEnt) (s : State) : List Nat :=
  match x.coarse with
  | none => match x.owner with
    | some o => [o]
    | none => x.holders
  | some m => (List.range fabricPorts).filter (fun p => m.testBit (octetOf p) && portCaches p s)

/-- Add a holder; a fifth makes the entry coarse. -/
def addHolder (p : Nat) (x : FEnt) : FEnt :=
  match x.coarse with
  | some m => { x with coarse := some (if m.testBit (octetOf p) then m else m + 2 ^ octetOf p) }
  | none =>
    if x.holders.contains p then x
    else if x.holders.length < 4 then { x with holders := x.holders ++ [p] }
    else { x with holders := [], coarse := some (mapOf ((x.holders ++ [p]).map octetOf)) }

/-- Take a port from an entry; an exact entry without holders is freed. -/
def dropHolder (lk p : Nat) (s : State) : State :=
  match entOf lk s with
  | none => s
  | some x =>
    if x.coarse.isSome then s
    else
      let y := { x with holders := x.holders.filter (fun q => q != p), owner := if x.owner == some p then none else x.owner }
      if y.holders.isEmpty && y.owner.isNone then dropEnt lk s else putEnt y s

def lineSnoops (lk : Nat) (s : State) : List Snoop := s.coh.snoops.filter (fun x => x.line == lk)
/-- A line with an open snoop, forward or migration. -/
def lineOpen (lk : Nat) (s : State) : Bool := s.coh.snoops.any (fun x => x.line == lk)

/-! ### Snoops -/

def cohCount (p : Nat) (f : Nat × Nat × Nat → Nat × Nat × Nat) (s : State) : State :=
  { s with coh := { s.coh with counters := tput s.coh.counters p (f (tgetD s.coh.counters p (0, 0, 0))) } }

/-- The address and job of a line as coherence frames carry them. -/
def lineAddr (lk : Nat) (s : State) : Nat × Nat :=
  match extOf (lkExt lk) s with
  | some e => (e.job, fvaOf e (lkLine lk * 128))
  | none => (0, 0)

/-- Open a snoop to a port (R399, Table 13.4). LSEQ goes to an M owner only. -/
def sendSnoop (kind : SnpKind) (p lk : Nat) (discard all : Bool) (drainOf : Option Nat) (s : State) : State :=
  let q := lineSlice lk
  let n := tgetD s.coh.ctag q 0
  let ctag := q * 2 ^ 14 + n
  let lseq := match entOf lk s with
    | some x => if x.owner == some p then x.lseq else 0
    | none => 0
  let (job, addr) := lineAddr lk s
  let op := match kind with | .inv => 0x60 | .share => 0x61 | .migrate => 0x62
  let sn : Snoop := { ctag := ctag, port := p, line := lk, kind := kind, at_ := s.now, discard := discard, all := all,
                      drainOf := drainOf }
  let s := { s with coh := { s.coh with ctag := tput s.coh.ctag q ((n + 1) % 2 ^ 14), snoops := s.coh.snoops ++ [sn] } }
  let s := cohCount p (fun c => (c.1 + 1, c.2.1, c.2.2)) (bump kSnoopsSent s)
  send (.coh p op job addr ctag lseq 0 []) s

/-- Data that a cache gives back merges into the line's batch (Table 13.5) and counts as a write of its crate (R407). -/
def mergeBack (lk : Nat) (data : List Byte) (s : State) : State :=
  let d := data.map some
  let s := dirtyCrate (lkCrate lk) (cleanLine lk s)
  match batchOf lk s with
  | some _ => poke lk 0 d s
  | none => { s with txn := { s.txn with batches := s.txn.batches ++
      [{ line := lk, at_ := s.now, bytes := mergeBytes [] 0 d, merged := 0 }] } }

/-- A holder's copy is lost (R426): an S copy goes; a lost M copy leaves the line poisoned. -/
def loseHolder (lk p : Nat) (s : State) : State :=
  match entOf lk s with
  | none => s
  | some x =>
    if x.owner == some p then
      bump kLinesLost (poisonLine lk causeHolder (dropEnt lk s))
    else dropHolder lk p s

/-- A snoop's answer will not come: its copy is lost, and the line is free when it was the last of those asked to give it up
(R425, R426). -/
def loseSnoop (x : Snoop) (s : State) : State :=
  let s := loseHolder x.line x.port s
  onlyIf (x.kind == .inv && x.all && !lineOpen x.line s) (dropEnt x.line) s

/-- Invalidate the copies of a line, all but one port's: snoops to those that can answer, losses for the rest. -/
def invalidate (lk : Nat) (but : Option Nat) (discard : Bool) (drainOf : Option Nat) (s : State) : State :=
  match entOf lk s with
  | none => s
  | some x =>
    let ports := (entPorts x s).filter (fun p => but != some p)
    let (live, dead) := ports.partition (fun p => portCaches p s)
    let s := each dead (fun p => loseHolder lk p) s
    let s := if x.coarse.isNone then (match but with | some p => dropHolder lk p s | none => s) else s
    let s := each live (fun p => sendSnoop .inv p lk discard true drainOf) s
    if live.isEmpty then dropEnt lk s else s

/-! ### Allocation of an entry (R422 to R424) -/

abbrev filterWays : Nat := 16
def setEnts (q set : Nat) (s : State) : List FEnt := s.coh.ents.filter (fun e => lineSlice e.line == q && e.set == set)

/-- What became of an allocation. -/
inductive Alloc where
  | ok (way : Nat)
  /-- a victim is being invalidated -/
  | victim
  /-- every way has an open transaction -/
  | full
  deriving DecidableEq, Repr

/-- The way that pseudo-LRU points to, or the next in ascending order with wrap that has no open transaction. -/
def victimOf (l : List FEnt) (start : Nat) (s : State) : Option FEnt :=
  ((List.range filterWays).map (fun i => (start + i) % filterWays)).findSome? (fun w =>
    l.find? (fun e => e.way == w && !lineOpen e.line s))

/-- Find a way for a line (R422, R423, R424). -/
def findWay (lk : Nat) (s : State) : Alloc × State :=
  let q := lineSlice lk
  let set := Config.filterSet lk % 65536
  let l := setEnts q set s
  match (List.range filterWays).find? (fun w => !l.any (fun e => e.way == w)) with
  | some w => (.ok w, s)
  | none =>
    let k := q * 65536 + set
    match victimOf l (Config.plruVictim k (tgetD s.coh.plru k 0)) s with
    | none => (.full, s)
    | some v => (.victim, invalidate v.line none false none (bump kFilterVictims s))

/-- Install an entry in a way; the pseudo-LRU bits move on. -/
def installEnt (lk way : Nat) (owner : Option Nat) (holders : List Nat) (lseq : Nat) (s : State) : State :=
  let q := lineSlice lk
  let set := Config.filterSet lk % 65536
  let k := q * 65536 + set
  let (job, addr) := lineAddr lk s
  let s := { s with coh := { s.coh with plru := tput s.coh.plru k (tgetD s.coh.plru k 0 + 1) } }
  putEnt { line := lk, job := job, fva := addr, owner := owner, holders := holders, coarse := none, lseq := lseq,
           set := set, way := way } s

/-! ### The contention predictor (R416) -/

def predIdx (lk : Nat) : Nat := lineSlice lk * 16384 + Config.predictorHash lk % 16384
def predTag (lk : Nat) : Nat := Config.predictorHash lk / 16384
/-- The predictor after a request to a window line: an atomic from a caching port, or anything else from a source. -/
def predict (lk : Nat) (atomicPort : Option Nat) (src : Option Nat) (s : State) : State :=
  let i := predIdx lk
  let put (v : Nat × Nat × Nat) : State := { s with coh := { s.coh with pred := tput s.coh.pred i v } }
  match tget s.coh.pred i with
  | none => match atomicPort with
    | some p => put (predTag lk, p, 1)
    | none => s
  | some (t, port, k) =>
    if t = predTag lk then
      if atomicPort = some port then put (t, port, min 7 (k + 1))
      else if src = some port then s
      else put (t, port, 0)
    else match atomicPort with
      | some p => put (predTag lk, p, 1)
      | none => s
/-- STREAK of a port on a line. -/
def streakOf (lk p : Nat) (s : State) : Nat :=
  match tget s.coh.pred (predIdx lk) with
  | some (t, port, k) => if t = predTag lk && port = p then k else 0
  | none => 0

/-! ### Before a request executes on a window line (Table 13.5) -/

/-- Is an acquiring READ, or what else, about to execute? -/
inductive Access where
  | readAcq | readOnly | change
  deriving DecidableEq, Repr

/-- Snoop what a request needs; .none means it may execute now. -/
def cohPrep (lk : Nat) (src : Option Nat) (a : Access) (s : State) : Wait × State :=
  if lineOpen lk s then (.snoop, s)
  else match entOf lk s with
    | none =>
      if a = .readAcq then
        match findWay lk s with
        | (.ok _, s) => (.none, s)
        | (.victim, s) => (.filterSet, s)
        | (.full, s) => (.filterSet, s)
      else (.none, s)
    | some x =>
      match x.owner with
      | some o =>
        if !portCaches o s then
          -- R426: the owner has left ACTIVE
          (.none, loseHolder lk o s)
        else if src = some o || a = .change then
          (.snoop, sendSnoop .inv o lk false true none (onlyIf (a == .change) (bump kInvalidationBatches) s))
        else (.snoop, sendSnoop .share o lk false false none s)
      | none =>
        if a = .change then
          let t := invalidate lk src false none s
          if lineOpen lk t then (.snoop, bump kInvalidationBatches t) else (.none, t)
        else (.none, s)

/-- After an acquiring READ executed: the port holds a shared copy (R397, Table 13.5). -/
def acquire (lk p : Nat) (s : State) : State :=
  match entOf lk s with
  | some x => putEnt (addHolder p x) s
  | none =>
    match findWay lk s with
    | (.ok w, s) => installEnt lk w none [p] 0 s
    | (_, s) => s

/-! ### Held EVICTs (R421, R607) -/

def cohAck (p lk result lseq : Nat) (s : State) : State :=
  let (job, addr) := lineAddr lk s
  let s := onlyIf (result == 1) (bump kEvictStale) s
  send (.coh p 0x63 job addr 0 lseq result []) s

/-- Process an EVICT against the entry as it stands (Table 13.5). -/
def doEvict (e : HeldEvict) (s : State) : State :=
  match entOf e.line s with
  | none => cohAck e.port e.line 1 e.lseq s
  | some x =>
    if e.dirty then
      if x.owner == some e.port && x.lseq == e.lseq then
        cohAck e.port e.line 0 e.lseq (dropEnt e.line (mergeBack e.line e.data s))
      else cohAck e.port e.line 1 e.lseq s
    else if x.owner.isNone && (entPorts x s).contains e.port then
      cohAck e.port e.line 0 e.lseq (dropHolder e.line e.port s)
    else cohAck e.port e.line 1 e.lseq s

/-- Process the EVICTs held for lines whose transactions have closed (R421), after the requests before them (R414). -/
def releaseEvicts (s : State) : State :=
  let held (e : HeldEvict) : Bool := lineOpen e.line s || e.behind.any (fun id =>
    s.txn.txs.any (fun t => t.id == id && t.parts.any (fun p => p.line == e.line && p.res.isNone)))
  let ready := s.coh.evicts.filter (fun e => !held e)
  each ready doEvict { s with coh := { s.coh with evicts := s.coh.evicts.filter held } }

/-! ### Scans (R400) -/

/-- Queue a purpose; a scan starts when none runs. -/
def queueScan (x : Scan) (s : State) : State :=
  if s.coh.running.isEmpty then { s with coh := { s.coh with running := [x] } }
  else { s with coh := { s.coh with scans := s.coh.scans ++ [x] } }

def scanPending (x : Scan) (s : State) : Bool := s.coh.scans.contains x || s.coh.running.contains x

/-- Is any line of an extent in a valid window? -/
def extInWindow (e : Extent) (s : State) : Bool :=
  !fVersioned e && !fMirror e && !fCoded e && !fKv e && !fIndex e &&
  s.coh.windows.any (fun w => winValid w.2 && winJob w.2 == e.job && winSlot w.2 == e.slot &&
    decide (winBase w.2 < e.base + e.len) && decide (e.base < winBase w.2 + winLen w.2))

/-- Lines of entries that a purpose concerns. -/
def scanLines (x : Scan) (s : State) : List Nat :=
  let all := s.coh.ents
  let ls (p : FEnt → Bool) : List Nat := (all.filter p).map (·.line)
  match x with
  | .window w => ls (fun e => match extOf (lkExt e.line) s with
      | some ex => winHas (tgetD s.coh.windows w 0) ex.job ex.slot (fvaGran e.fva) &&
          !s.coh.removing.any (fun r => r.1 == w && winHas r.2.1 ex.job ex.slot (fvaGran e.fva))
      | none => false)
  | .drain ext => ls (fun e => lkExt e.line == ext)
  | .give obj => match tget s.vers.owned obj with
      | some o => ls (fun e => o.ranges.any (fun r => r.1 == lkExt e.line && decide (r.2.1 ≤ ckIdx (lkCrate e.line)) &&
          decide (ckIdx (lkCrate e.line) < r.2.1 + r.2.2)))
      | none => []
  | .acl l m => ls (fun e => match extOf (lkExt e.line) s with
      | some ex => ex.acl == l && !aclGrants l m false s
      | none => false)
  | .portLoss p => ls (fun e => e.coarse.isNone && (e.owner == some p || e.holders.contains p))
  | .quiesce => ls (fun e => e.owner.isSome)

/-- Apply one purpose at the end of its scan. A line with an open transaction is passed over, and the scan runs again for
it. -/
def scanApply (x : Scan) (s : State) : State :=
  let again := (match x with | .portLoss _ => false | _ => true) && (scanLines x s).any (fun lk => lineOpen lk s)
  onlyIf again (queueScan x) <| each (scanLines x s) (fun lk s =>
    match x with
    | .portLoss p => loseHolder lk p s
    | .drain ext => if lineOpen lk s then s else invalidate lk none true (some ext) s
    | .acl l m =>
      -- R401: only the copies of ports bound to the member's partner
      match entOf lk s with
      | none => s
      | some e =>
        let ports := (entPorts e s).filter (fun p => portMember p (crateJob (lkCrate lk) s) s == some m && l == l)
        if lineOpen lk s then s else each ports (fun p => sendSnoop .inv p lk false false none) s
    | _ => if lineOpen lk s then s else invalidate lk none false none s) s

/-- Recalls of windows leaving that have ended: the new value takes effect and the result is posted (R393, R394). -/
def settleWindows (s : State) : State :=
  each s.coh.removing (fun r s =>
    let left := scanLines (.window r.1) s
    if scanPending (.window r.1) s || left.any (fun lk => lineOpen lk s) then s
    else if !left.isEmpty then queueScan (.window r.1) s
    else
      let s := putWindow r.1 r.2.1 { s with coh := { s.coh with removing := s.coh.removing.filter (fun x => x.1 != r.1) } }
      onlyIf r.2.2 (post16 kCohWindowResult .done) s) s

end Sys2Proof.Machine
end

