-- ==== Sys2Proof/Machine/Regions.lean ====
section
/-!
DEFINITION. Versioned regions: bindings, drafts, the region commands of Table 4.1 (R96 to R116), and owned objects'
commands of Table 4.5 (R117 to R124), as the home executes them.
-/
namespace Sys2Proof.Machine

/-! ### Regions -/

def setRegion (rid : Nat) (r : Region) (s : State) : State :=
  { s with vers := { s.vers with regions := tput s.vers.regions rid r } }
/-- A member's binding replaced, or removed. -/
def setBinding (job member rid : Nat) (b : Option Binding) (s : State) : State :=
  let keep := s.vers.bindings.filter (fun x => !(x.job == job && x.member == member && x.region == rid))
  { s with vers := { s.vers with bindings := keep ++ b.toList } }

/-- Does a binding, the binding that an unfinished item or a request of its slivers uses (R103), or a FLUSH under way
(R115) hold a version (R113)? -/
def versionHeld (rid v ext : Nat) (s : State) : Bool :=
  let uses (l : List (Nat × Bool × Nat)) : Bool := l.any (fun b => b.1 == rid && b.2.2 == v)
  s.vers.bindings.any (fun b => b.region == rid && b.base == v) ||
  s.work.items.any (fun i => uses i.2.binds) || s.hens.hens.any (fun h => h.2.late.any (fun e => uses e.2.binds)) ||
  s.tiers.flushes.any (fun f => f.ext == ext && f.version == some v)

/-- Retire the versions that are neither current nor held, and return their crates (R113). -/
def retireVersions (rid : Nat) (s : State) : State :=
  match tget s.vers.regions rid with
  | none => s
  | some r =>
    let live := r.live.filter (fun v => v.num == r.cur || versionHeld rid v.num r.ext s)
    sweepForms rid (setRegion rid { r with live := live } s)
/-- Versions that nothing holds any more, after items have ended and waiting requests have read them. -/
def settleVersions (s : State) : State := each (s.vers.regions.map (·.1)) retireVersions s

def regionLive (r : Region) (v : Nat) : Bool := (verOf r v).isSome
abbrev liveMax : Nat := 16
abbrev bindingsMax : Nat := 65536

/-- An admitted item that is unfinished works under the member's draft (R110). -/
def draftBusy (job member rid : Nat) (s : State) : Bool :=
  s.work.items.any (fun i => i.2.job == job && i.2.member == member && i.2.binds.any (fun b => b.1 == rid && b.2.1))

/-- Do two forms of a crate hold different bytes (R111)? -/
def formsDiffer (ext idx f g : Nat) (s : State) : Bool :=
  if f = g then false
  else
    let a := crateKey ext f idx * crateBytes
    let b := crateKey ext g idx * crateBytes
    let cells (lo : Nat) : List (Nat × Byte) :=
      (s.mem.filter (fun c => decide (lo ≤ c.1) && decide (c.1 < lo + crateBytes))).map (fun c => (c.1 - lo, c.2))
    cells a != cells b

/-- What a region command answers: status, version, base, live versions, crates (Table 4.2). -/
structure RegionRsp where
  st : Status
  version : Nat
  base : Nat
  live : Nat
  crates : Nat
  deriving DecidableEq, Repr

def regionData (op : Nat) (r : RegionRsp) : List Byte :=
  bytesOf 16 (pack [(statusCode r.st, 120), (op, 112), (r.version, 64), (r.base, 32), (r.live, 27), (r.crates, 0)])

/-- The binding part of a response after a command. -/
def boundRsp (st : Status) (job member rid crates : Nat) (s : State) : RegionRsp :=
  let r := tget s.vers.regions rid
  let live := match r with | some r => r.live.length | none => 0
  let cur := match r with | some r => r.cur | none => 0
  let b := bindingOf job member rid s
  let bound := match b with | some b => b.base | none => 0
  let base := match b with | some b => (if b.draft then b.base else 0) | none => 0
  let v := if st = .conflict || st = .stale then cur else bound
  { st := st, version := v, base := base, live := live, crates := crates }

abbrev opOpen : Nat := 1
abbrev opClose : Nat := 2
abbrev opDraft : Nat := 3
abbrev opPublish : Nat := 4
abbrev opRebase : Nat := 5
abbrev opDiscard : Nat := 6

/-- OPEN and DRAFT bind a live version (R104, R112). A command is judged where it is received; where its journal record
decides, at the mirror or at the acknowledgement, it is not judged again (R126, R128). -/
def regionBind (judged draft : Bool) (job member rid v : Nat) (s : State) : Status × Nat × State :=
  match tget s.vers.regions rid with
  | none => (.refusedFormat, 0, s)
  | some r =>
    if !regionLive r v then (.stale, 0, s)
    else if judged && (bindingOf job member rid s).isNone && decide (bindingsMax ≤ s.vers.bindings.length) then
      (.refusedQuota, 0, s)
    else
      let b : Binding := { job := job, member := member, region := rid, draft := draft, base := v, forms := [] }
      (.done, 0, retireVersions rid (setBinding job member rid (some b) s))

/-- PUBLISH of a draft (R107 to R110). -/
def regionPublish (judged : Bool) (job member rid v : Nat) (b : Binding) (s : State) : Status × Nat × State :=
  match tget s.vers.regions rid with
  | none => (.refusedFormat, 0, s)
  | some r =>
    if judged && draftBusy job member rid s then (.retry, 0, s)
    else if v != r.cur || b.base != r.cur then (.conflict, 0, bump kConflicts s)
    else if judged && r.cur == 2 ^ 32 - 1 then (.versionBusy, 0, bump kVersionBusyCount s)
    else
      let old := match verOf r r.cur with | some x => x.forms | none => []
      let forms := b.forms ++ old.filter (fun f => !thas b.forms f.1)
      let n : Ver := { num := r.cur + 1, forms := forms }
      let r' := { r with cur := r.cur + 1, live := n :: r.live }
      let b' : Binding := { b with draft := false, base := r.cur + 1, forms := [] }
      let t := setBinding job member rid (some b') (setRegion rid r' s)
      let live := (r'.live.filter (fun x => x.num == r'.cur || versionHeld rid x.num r'.ext t)).length
      if judged && decide (liveMax < live) then (.versionBusy, 0, bump kVersionBusyCount s)
      else (.done, b.forms.length, retireVersions rid t)

/-- REBASE of a draft (R111). One that names a version not live while an item of the draft is unfinished meets both R112 and
R110, whose order the spec does not give: STALE (DESIGN CHOICE, log 94). -/
def regionRebase (judged : Bool) (job member rid v : Nat) (b : Binding) (s : State) : Status × Nat × State :=
  match tget s.vers.regions rid with
  | none => (.refusedFormat, 0, s)
  | some r =>
    if !regionLive r v then (.stale, 0, s)
    else if judged && draftBusy job member rid s then (.retry, 0, s)
    else
      let s := writeBatchesOf (fun lk => lkExt lk == r.ext) s
      let n := (b.forms.filter (fun f => formsDiffer r.ext f.1 (verForm r b.base f.1) (verForm r v f.1) s)).length
      (.done, n, retireVersions rid (setBinding job member rid (some { b with base := v }) s))

/-- A region command executed by the home (Table 4.3, R105, R114). -/
def regionCmd (judged : Bool) (ext job member op : Nat) (current : Bool) (version : Nat) (s : State) : RegionRsp × State :=
  match extOf ext s, regionOfExt ext s with
  | some e, some (rid, r) =>
    if e.st != .active then ({ st := .revoked, version := 0, base := 0, live := 0, crates := 0 }, s)
    else
      let b := bindingOf job member rid s
      let v := if current then r.cur else version
      let (st, n, t) : Status × Nat × State :=
        match b with
        | none =>
          if op = opOpen then regionBind judged false job member rid v s
          else if op = opDraft then regionBind judged true job member rid v s
          else (.refusedFormat, 0, s)
        | some b =>
          if b.draft then
            if op = opPublish then regionPublish judged job member rid version b s
            else if op = opRebase then regionRebase judged job member rid version b s
            else if op = opDiscard then
              if judged && draftBusy job member rid s then (.retry, 0, s)
              else (.done, 0, retireVersions rid (setBinding job member rid none s))
            else (.refusedFormat, 0, s)
          else if op = opOpen then regionBind judged false job member rid v s
          else if op = opDraft then regionBind judged true job member rid v s
          else if op = opClose then (.done, 0, retireVersions rid (setBinding job member rid none s))
          else (.refusedFormat, 0, s)
      (boundRsp st job member rid n t, t)
  | some e, none =>
    ({ st := if e.st == .active then .refusedFormat else .revoked, version := 0, base := 0, live := 0, crates := 0 }, s)
  | none, _ => ({ st := .revoked, version := 0, base := 0, live := 0, crates := 0 }, s)

/-- The crate a draft's store goes to: its own copy, made on the first store (R101); none when the version pool is full
(R102). -/
def draftCrate (rid idx : Nat) (b : Binding) (s : State) : Option Nat × State :=
  match tget b.forms idx, tget s.vers.regions rid with
  | some f, _ => (some f, s)
  | none, none => (none, s)
  | none, some r =>
    let size := match extOf r.ext s with | some e => e.len * 4096 | none => 0
    if size ≤ poolCrates rid r s then (none, bump kVpoolFull s)
    else
      let f := r.nextForm
      let s := copyCrate (crateKey r.ext (verForm r b.base idx) idx) (crateKey r.ext f idx) s
      let s := setRegion rid { r with nextForm := f + 1 } s
      let s := setBinding b.job b.member rid (some { b with forms := (idx, f) :: b.forms }) s
      let s := match extOf r.ext s with
        | some e => if journalled r.ext s then (journalRec jCopy e.slot r.ext e.gen idx (2 ^ 16 + b.member) [] s).2 else s
        | none => s
      (some f, s)

/-- Clear every binding of a region, or a member's in a job, and free the drafts (R114). -/
def clearBindings (p : Binding → Bool) (s : State) : State :=
  let rids := ((s.vers.bindings.filter p).map (·.region)).eraseDups
  each rids retireVersions
    { s with vers := { s.vers with bindings := s.vers.bindings.filter (fun b => !p b) } }

/-! ### Owned objects -/

def ownOf (o : Nat) (s : State) : Option OwnObj := tget s.vers.owned o
def setOwn (o : Nat) (x : OwnObj) (s : State) : State := { s with vers := { s.vers with owned := tput s.vers.owned o x } }
def delOwn (o : Nat) (s : State) : State := { s with vers := { s.vers with owned := tdel s.vers.owned o } }

/-- The key of an object named at an extent: a failed primary's objects stand beside this home's own (R133). -/
def ownKey (ext obj : Nat) (s : State) : Nat :=
  match shadowOf ext s with
  | some h => obj + 16384 * (1 + h.primary)
  | none => obj

/-- The object an ID names at the dictionary: this home's own, else one taken over (R139). -/
def ownKeyOf (id : Nat) (s : State) : Nat :=
  if (ownOf id s).isSome then id
  else match s.vers.owned.find? (fun o => o.1 % 16384 == id) with
    | some o => o.1
    | none => id

/-- The ranges in use. -/
def ownRanges (o : OwnObj) : List (Nat × Nat × Nat) := o.ranges.filter (fun r => r.2.2 != 0)
def rangeHas (r : Nat × Nat × Nat) (ext idx : Nat) : Bool :=
  r.1 == ext && decide (r.2.1 ≤ idx) && decide (idx < r.2.1 + r.2.2)
def ownHas (o : OwnObj) (ext idx : Nat) : Bool := o.ranges.any (fun r => rangeHas r ext idx)
/-- The object that covers a crate. -/
def ownAt (ext idx : Nat) (s : State) : Option (Nat × OwnObj) := s.vers.owned.find? (fun o => ownHas o.2 ext idx)
/-- Is a member named in a list, for reading or writing? -/
def listNames (l m : Nat) (s : State) : Bool := aclGrants l m false s || aclGrants l m true s

/-- Check 6 for a crate inside an owned object (R118). -/
def ownCheck (ext idx member : Nat) (write : Bool) (s : State) : Option Status :=
  match ownAt ext idx s with
  | none => none
  | some (_, o) =>
    if o.transit then
      if listNames o.owner member s || listNames o.taker member s then some .inTransit else some .notOwner
    else if aclGrants o.owner member write s then none else some .notOwner

/-- Time left of a transit in whole µs, rounded down (DESIGN CHOICE, log 95: the spec gives the unit, no rounding). -/
def remainUs (o : OwnObj) (s : State) : Nat := if o.transit then (o.expiry - s.now) / nsUs else 0

/-- The response of an OWN command (Table 4.5). -/
def ownData (op obj : Nat) (st : Status) (s : State) : List Byte :=
  match ownOf obj s with
  | none => bytesOf 16 (pack [(statusCode st, 120), (op, 112), (obj % 16384, 96)])
  | some o => bytesOf 16 (pack [(statusCode st, 120), (op, 112), (b2n o.transit, 110), (obj % 16384, 96), (o.epoch, 64),
      (o.owner % 16384, 48), (if o.transit then o.taker % 16384 else 0x3FFF, 32), (remainUs o s, 0)])

/-- OWNED_ENTRY (Table 4.11). -/
def ownEntry (obj : Nat) (o : OwnObj) (s : State) : Nat :=
  let obj := obj % 16384
  let rng (i : Nat) : Nat := match o.ranges[i]? with
    | some r => pack [(r.1, 80), (r.2.1, 36), (r.2.2, 0)]
    | none => 0
  let pm (i : Nat) : Nat := (o.permit[i]?).getD 0x3FFF
  let cmd := pack [(obj, 480), (o.job, 464), (o.owner % 16384, 448), (pm 0 % 16384, 432), (pm 1 % 16384, 416), (pm 2 % 16384, 400), (o.timeout, 384),
    (rng 0, 288), (rng 1, 192), (rng 2, 96), (rng 3, 0)]
  pack [(cmd, 128), (b2n o.transit, 126), (if o.transit then o.taker % 16384 else 0x3FFF, 96), (o.epoch, 64), (remainUs o s, 32)]

/-- Is the object journalled: its ranges lie in MIRROR extents (R117, R126)? -/
def ownJournalled (o : OwnObj) (s : State) : Bool := (ownRanges o).any (fun r => journalled r.1 s)
/-- Journal a record of an object, its ranges lying where another record of it says; the SEQ to wait for. -/
def journalOwnAs (obj : Nat) (o rec_ : OwnObj) (s : State) : Option Nat × State :=
  if ownJournalled o s then
    let ext := match ownRanges o with | r :: _ => r.1 | [] => 0
    match extOf ext s with
    | none => (none, s)
    | some e =>
      let (q, s) := journalRec jOwn e.slot ext e.gen (obj % 16384) rec_.epoch (bytesOf 80 (ownEntry obj rec_ s)) s
      (some q, s)
  else (none, s)
/-- Journal an object's record as it stands. -/
def journalOwn (obj : Nat) (s : State) : Option Nat × State :=
  match ownOf obj s with
  | none => (none, s)
  | some o => journalOwnAs obj o o s
/-- Journal that an object is no more: its record has no range in use. -/
def journalGone (obj : Nat) (s : State) : Option Nat × State :=
  match ownOf obj s with
  | none => (none, s)
  | some o => journalOwnAs obj o { o with ranges := [] } s

/-- A TAKE that arrived at or before the expiry edge and is still to take effect wins (R124). -/
def takeWaits (obj : Nat) (o : OwnObj) (s : State) : Bool :=
  s.txn.txs.any (fun t => match t.kind with
    | .own 2 _ x epoch => ownKey t.ext x s == obj && decide (t.acc ≤ o.expiry) && epoch == o.epoch &&
        aclGrants o.taker t.member true s
    | _ => false)
/-- The transit timer expires: OWNED by the giver at the next epoch, where no TAKE has come in time (R122, R124). -/
def ownRevert (obj : Nat) (s : State) : State :=
  match ownOf obj s with
  | none => s
  | some o =>
    if !o.transit || takeWaits obj o s then s
    else
      let s := setOwn obj { o with transit := false, taker := 0x3FFF, epoch := (o.epoch + 1) % 2 ^ 32 } s
      let s := (journalOwn obj s).2
      raise 0x4440 0x01 6 (pack [((o.epoch + 1) % 2 ^ 32, 16), (obj % 16384, 0)]) (bump kOwnRevertedCount s)
/-- An object whose timer has passed is back with its giver before anything else is done to it (R124). -/
def ownExpire (obj : Nat) (s : State) : State :=
  match ownOf obj s with
  | some o => if o.transit && decide (o.expiry < s.now) then ownRevert obj s else s
  | none => s

/-- An unfinished item admitted under a member of the owner list works on crates of the object's ranges (R120). -/
def giveBusy (o : OwnObj) (s : State) : Bool :=
  s.work.items.any (fun i => i.2.job == o.job && listNames o.owner i.2.member s &&
    (ownRanges o).any (fun r => i.2.touch.any (fun t =>
      t.1 == r.1 && decide (t.2.1 < r.2.1 + r.2.2) && decide (r.2.1 < t.2.1 + t.2.2))))

/-- Whether a GIVE may start, and its refusal otherwise (R119, Table 4.6). The spec gives no status to a GIVE that names a
permit slot unused or out of range: REFUSED_FORMAT; nor to one at the right epoch from a member of the owner list's READ map
only: NOT_OWNER, as R118 answers a WRITE (DESIGN CHOICE, log 96). -/
def giveCheck (obj member permit epoch : Nat) (busy : Bool) (s : State) : Status :=
  match ownOf obj s with
  | none => .refusedFormat
  | some o =>
    if o.transit then .inTransit
    else if !listNames o.owner member s then .notOwner
    else if epoch != o.epoch then .stale
    else if !aclGrants o.owner member true s then .notOwner
    else if decide (3 ≤ permit) || (o.permit[permit]?).getD 0x3FFF == 0x3FFF then .refusedFormat
    else if busy then .retry
    else .done

/-- Steps 3 and 4 of R119. -/
def giveFinish (obj permit : Nat) (s : State) : State :=
  match ownOf obj s with
  | none => s
  | some o =>
    let us := if o.timeout = 0 then 1000 else o.timeout
    setOwn obj { o with transit := true, taker := (o.permit[permit]?).getD 0x3FFF, epoch := (o.epoch + 1) % 2 ^ 32,
                        expiry := s.now + us * nsUs } s

/-- TAKE (R121, Table 4.6). A taker-list member in its READ map only is a member of the list but not one R121 lets take:
IN_TRANSIT during transit, and DONE without a change once its list owns the object (DESIGN CHOICE, log 96). -/
def takeCmd (obj member epoch : Nat) (s : State) : Status × State :=
  match ownOf obj s with
  | none => (.refusedFormat, s)
  | some o =>
    if o.transit then
      if listNames o.taker member s && epoch != o.epoch then (.stale, s)
      else if aclGrants o.taker member true s then
        (.done, setOwn obj { o with transit := false, owner := o.taker, taker := 0x3FFF } s)
      else if listNames o.owner member s || listNames o.taker member s then (.inTransit, s)
      else (.notOwner, s)
    else if listNames o.owner member s then (.done, s)
    else (.notOwner, s)

/-- QUERY (R123). -/
def queryCmd (obj member : Nat) (s : State) : Status :=
  match ownOf obj s with
  | none => .refusedFormat
  | some o =>
    if o.transit then
      if listNames o.owner member s || listNames o.taker member s then .inTransit else .notOwner
    else if listNames o.owner member s then .done else .notOwner

end Sys2Proof.Machine
end

