-- ==== Sys2Proof/Machine/Txn.lean ====
section
/-!
DEFINITION. Loads, stores and atomic operations at the home (12_transactions_and_ordering.md): acceptance, checks,
execution line by line, waiting and its end, answers, epochs.
-/
namespace Sys2Proof.Machine

/-! ### Queues' control blocks, as far as stores concern them (Table 6.2, R182 to R185) -/

def queueOf (q : Nat) (s : State) : Option Queue := tget s.work.queues q
def setQueue (q : Nat) (x : Queue) (s : State) : State := { s with work := { s.work with queues := tput s.work.queues q x } }
/-- The line key of an address of a job, outside version forms. -/
def addrLine (job addr : Nat) (s : State) : Option Nat :=
  (extAt job (fvaSlot addr) (fvaGran addr) s).map (fun e => lineKey e.1 0 (extOff e.2 addr / 128))
/-- The queue whose QCB is a line. -/
def qcbAt (lk : Nat) (s : State) : Option (Nat × Queue) :=
  s.work.queues.find? (fun q => addrLine q.2.job q.2.qcb s == some lk)
def qcbLine (q : Queue) (s : State) : Option Nat := addrLine q.job q.qcb s
/-- A 32-bit field of a queue's QCB by its byte offset. -/
def qcbGet (q : Queue) (off : Nat) (s : State) : Nat :=
  match qcbLine q s with
  | some lk => natOf (lineRead lk off 4 s)
  | none => 0
def qcbPut (q : Queue) (off n v : Nat) (s : State) : State :=
  match qcbLine q s with
  | some lk => ownPut lk off ((bytesOf n v).map some) s
  | none => s
abbrev offProducer : Nat := 0
abbrev offConsumer : Nat := 4
abbrev offCompleted : Nat := 8
abbrev offConsumed : Nat := 12
abbrev offState : Nat := 19
def qStCode : QSt → Nat
  | .active => 1 | .stopped => 2 | .error => 3 | .draining => 4
/-- Move a queue to a state: the QCB's STATE follows, in an extent that is ACTIVE, and loading ends outside ACTIVE. Whether a
descriptor's read is under way as loading ends is a free value (R608). -/
def queueTo (q : Nat) (st : QSt) (s : State) : State :=
  match queueOf q s with
  | none => s
  | some x =>
    let ends := x.st == .active && st != .active
    let live := match x.loadTo with | some p => ends && !x.paused && qcbGet x offConsumer s != p | none => false
    let (n, s) := if live then draw s else (0, s)
    let y := { x with st := st, loadTo := if st = .active then x.loadTo else none, paused := x.paused && st == .active,
                      late := x.late || n % 2 == 1 }
    let s := setQueue q y s
    match qcbLine y s with
    | some lk => onlyIf (extActive (lkExt lk) s) (qcbPut y offState 1 (qStCode st)) s
    | none => s
/-- QUEUE_ERROR with LOST. -/
def queueError (q : Nat) (lost : Bool) (s : State) : State :=
  raise 0x6100 0x01 3 (pack [(b2n lost, 16), (q, 0)]) (queueTo q .error s)
/-- a - b modulo 2^32. -/
def sub32 (a b : Nat) : Nat := (a + 2 ^ 32 - b % 2 ^ 32) % 2 ^ 32
/-- The doorbell (R185). -/
def doorbell (q : Nat) (s : State) : State :=
  match queueOf q s with
  | none => s
  | some x =>
    if x.st != .active then s
    else
      let p := qcbGet x offProducer s
      if sub32 p (qcbGet x offConsumer s) ≤ 2 ^ x.log2 then setQueue q { x with loadTo := some p } s
      else queueError q false s

/-! ### Answers -/

def opCodeOf (k : TxKind) : Nat :=
  match k with
  | .read => 0x01 | .write false _ => 0x02 | .write true _ => 0x03 | .fence => 0x04 | .atomic _ _ _ _ => 0x10
  | .region _ _ _ _ => 0x20 | .own _ _ _ _ => 0x21 | .contrib _ _ _ _ _ => 0x28

/-- SEQ a lies above SEQ b, modulo 2^32 (R357). -/
def seqAbove (a b : Nat) : Bool := decide (0 < sub32 a b) && decide (sub32 a b < 2 ^ 31)

/-- Send a response, or pace it for an isolated job (R546). -/
def respond (port tag seq job op flags tc acc : Nat) (st : Status) (data : List Byte) (s : State) : State :=
  let now (s : State) : State := send (.response port tag seq job (statusCode st) op flags tc data) s
  match activeJob job s with
  | some (slot, j) =>
    if j.iso.enable then
      if s.now < acc + j.iso.latency then
        let p : Paced := { port := port, tag := tag, seq := seq, status := statusCode st, op := op, flags := flags,
                           tc := tc, job := job, data := data, due := acc + j.iso.latency }
        { s with txn := { s.txn with paced := s.txn.paced ++ [p] } }
      else now (setJob slot { j with iso := { j.iso with late := j.iso.late + 1 } } s)
    else now s
  | none => now s

/-- A request of a port's epoch has executed (Port epochs, Table 12.6). -/
def countExec (p seq : Nat) (s : State) : State :=
  modPortTx p (fun x =>
    let above := match x.lastRel with | some r => seqAbove seq r | none => true
    { x with execAll := x.execAll + 1, execAfter := if above then x.execAfter ++ [seq] else x.execAfter }) s
/-- A release store or FENCE completed DONE. -/
def countRelease (p seq : Nat) (s : State) : State :=
  modPortTx p (fun x =>
    { x with lastRel := some seq, execAfter := x.execAfter.filter (fun q => seqAbove q seq) }) s

/-- Answer a port's request that is refused before it becomes a transaction. -/
def refuse (h : Hdr) (k : TxKind) (st : Status) (data : List Byte) (s : State) : State :=
  respond h.port h.tag h.seq h.job (opCodeOf k) 0 h.tc s.now st data (countExec h.port h.seq s)

def txOf (id : Nat) (s : State) : Option Tx := s.txn.txs.find? (fun t => t.id == id)
def setTx (t : Tx) (s : State) : State :=
  { s with txn := { s.txn with txs := s.txn.txs.map (fun x => if x.id = t.id then t else x) } }
def delTx (id : Nat) (s : State) : State :=
  { s with txn := { s.txn with txs := s.txn.txs.filter (fun x => x.id != id) } }

def heldOf (who : Holder) (s : State) : Option Held := s.txn.held.find? (fun h => h.who == who)
def dropHeld (who : Holder) (s : State) : State :=
  { s with txn := { s.txn with held := s.txn.held.filter (fun h => h.who != who) } }

def isChange (k : TxKind) : Bool := match k with | .write _ _ => true | .atomic _ _ _ _ => true | _ => false

/-- The home answers a hen's request: the answer is on its way, through the gateway where the request came that way (R7,
R140). A request whose sliver has ended gets none. -/
def answerHen (h id : Nat) (st : Status) (data : List Byte) (s : State) : State :=
  let x := henOf h s
  match x.dma.find? (fun r => r.id == id) with
  | none => s
  | some r =>
    let y := { x with answers := x.answers ++ [(r.node, id)],
                      dma := x.dma.map (fun q => if q.id = id then
                        { q with res := some st, data := if r.write then r.data else data } else q) }
    onlyIf (r.node == 2) (send (.henAnswer h (if r.write then 0 else data.length))) (setHen h y s)

/-- Complete a transaction whose answer stands: a port's is sent, a hen's is given to its DMA request. -/
def completeTx (t : Tx) (st : Status) (data : List Byte) (s : State) : State :=
  let s := delTx t.id s
  match t.src with
  | .port p =>
    let flags := b2n t.combined
    let s := respond p t.tag t.seq t.job t.opcode flags t.tc t.acc st data s
    onlyIf ((t.rel || t.kind == .fence) && st == .done) (countRelease p t.seq) s
  | .hen h => answerHen h t.tag st data s
  | _ => s

/-- A transaction's status is decided (R362); a MIRROR change waits for its acknowledgement (R126, R375). -/
def finishTx (t : Tx) (st : Status) (data : List Byte) (s : State) : State :=
  let s := match t.src with | .port p => countExec p t.seq s | _ => s
  if t.jlines.isEmpty && t.jseq.isNone then completeTx t st data s
  else setTx { t with ans := some (st, data), wait := .mirror } s

/-! ### Parts -/

/-- Lines of a byte range of an extent: (line, offset within it, bytes, position of the first byte). -/
def splitLines (off len : Nat) : List (Nat × Nat × Nat × Nat) :=
  if len = 0 then []
  else (List.range ((off + len - 1) / 128 - off / 128 + 1)).map (fun i =>
    let l := off / 128 + i
    let a := max off (l * 128)
    let b := min (off + len) ((l + 1) * 128)
    (l, a - l * 128, b - a, a - off))

def partsOf (ext form off len : Nat) (d : List (Option Byte)) : List Part :=
  (splitLines off len).map (fun x =>
    { line := lineKey ext form x.1, off := x.2.1, len := x.2.2.1,
      wdata := (d.drop x.2.2.2).take x.2.2.1, res := none, rdata := [], undo := [] })

/-! ### Atomic operations (Table 12.4) -/

def atomEval (op : AtomOp) (width old a b : Nat) : Nat :=
  let m := 2 ^ (8 * width)
  match op with
  | .add => (old + a) % m
  | .and => old &&& a
  | .or => old ||| a
  | .xor => old ^^^ a
  | .smin => if toS (8 * width) a < toS (8 * width) old then a else old
  | .smax => if toS (8 * width) old < toS (8 * width) a then a else old
  | .umin => min old a
  | .umax => max old a
  | .swap => a
  | .cas => if old = a then b else old

/-- LENGTH, width and alignment that Table 12.4 allows. -/
def atomFormat (op : AtomOp) (width len addr : Nat) : Bool :=
  let w := match op with
    | .swap | .cas => width == 4 || width == 8 || width == 16
    | _ => width == 4 || width == 8
  w && len == (if op = .cas then 2 * width else width) && addr % width == 0

/-! ### Hot lines (R378) -/

def countHot (lk : Nat) (s : State) : State :=
  let h := (s.txn.hots.find? (fun h => h.line == lk)).getD { line := lk, times := [], raisedAt := none }
  let h := { h with times := h.times.filter (fun t => decide (s.now ≤ t + nsUs)) ++ [s.now] }
  let quiet := match h.raisedAt with | some t => decide (t + nsMs ≤ s.now) | none => true
  let fire := decide (rget kHotThreshold s < h.times.length) && quiet
  let h := if fire then { h with raisedAt := some s.now } else h
  let s := { s with txn := { s.txn with hots := s.txn.hots.filter (fun x => x.line != lk) ++ [h] } }
  let r := pack [((crateJob (lkCrate lk) s), 112), (lkExt lk, 96), (lkLine lk, 32), (h.times.length, 0)]
  onlyIf fire (fun s => raise 0x2400 0x01 16 r (rset kHotLineLast r (bump kHotLineEvents s))) s

/-! ### KV arenas: what a store may write (R276) -/

/-- Bytes of an extent's base content. -/
def extRead (ext off n : Nat) (s : State) : List Byte :=
  (List.range n).map (fun i => lineByte (lineKey ext 0 ((off + i) / 128)) ((off + i) % 128) s)
def extNat (ext off n : Nat) (s : State) : Nat := natOf (extRead ext off n s)
/-- The arena header (Table 9.1) as a number. -/
def arenaHdr (ext : Nat) (s : State) : Nat := extNat ext 0 128 s
abbrev arenaMagic : Nat := 0x4B564131
def kvSeqs (h : Nat) : Nat := fld h 943 920
def kvChunks (h : Nat) : Nat := fld h 919 896
def kvPages (h : Nat) : Nat := fld h 895 864
def kvLayers (h : Nat) : Nat := fld h 959 944
def kvDirOff (h : Nat) : Nat := fld h 863 816
def kvRingOff (h : Nat) : Nat := fld h 815 768
def kvChunkOff (h : Nat) : Nat := fld h 767 720
def kvDataOff (h : Nat) : Nat := fld h 719 672
def kvSlot (h : Nat) : Nat := fld h 671 640
/-- May a store write a byte of a KV extent? -/
def kvByteOk (ext h off : Nat) (s : State) : Bool :=
  decide (56 ≤ off && off < 60) ||
  (decide (kvChunkOff h ≤ off) && decide (off < kvChunkOff h + kvChunks h * 4096)) ||
  (decide (kvDataOff h ≤ off) && decide (off < kvDataOff h + kvLayers h * kvPages h * kvSlot h)) ||
  (decide (kvDirOff h ≤ off) && decide (off < kvDirOff h + kvSeqs h * 64) && decide (60 ≤ (off - kvDirOff h) % 64) &&
    extNat ext (kvDirOff h + (off - kvDirOff h) / 64 * 64 + 52) 1 s == 1)
def kvStoreOk (ext : Nat) (offs : List Nat) (s : State) : Bool :=
  let h := arenaHdr ext s
  fld h 1023 992 == arenaMagic && offs.all (fun o => kvByteOk ext h o s)

/-! ### Check 6 of Table 2.5 -/

/-- Offsets within the extent of the bytes a change writes. -/
def writtenOffs (k : TxKind) (off : Nat) : List Nat :=
  match k with
  | .write _ d => (List.range d.length).filterMap (fun i => match d[i]? with | some (some _) => some (off + i) | _ => none)
  | .atomic _ w _ _ => (List.range w).map (fun i => off + i)
  | _ => []

/-- Rules of the extent's flags, of owned objects and of queues' control blocks. -/
def check6 (g : Grant) (k : TxKind) (drafting : Bool) (s : State) : Option Status :=
  let idx := g.off / crateBytes
  if isChange k then
    if fCoded g.e || fIndex g.e then some .denied
    else if fKv g.e && !kvStoreOk g.ext (writtenOffs k g.off) s then some .denied
    else if fVersioned g.e && !drafting then some .denied
    else match ownCheck g.ext idx g.member true s with
      | some st => some st
      | none =>
        let lines := ((splitLines g.off (max 1 (writtenOffs k g.off).length)).map (fun x => lineKey g.ext 0 x.1))
        match lines.findSome? (fun lk => qcbAt lk s) with
        | none => none
        | some (_, q) =>
          let okByte (o : Nat) : Bool := decide (o % 128 < 4) || (decide (12 ≤ o % 128) && decide (o % 128 < 16))
          if partnerAt q.job q.member s == some g.partner && lines.length == 1 && (writtenOffs k g.off).all okByte then none
          else some .denied
  else ownCheck g.ext idx g.member false s

/-! ### Execution of one line -/

/-- An executed change: the crate is dirty, the mirror hears of the batch, hot lines are watched (R62, R375, R378). -/
def afterChange (t : Tx) (lk : Nat) (s : State) : State :=
  let s := countHot lk (dirtyCrate (lkCrate lk) (markCrate (lkCrate lk) s))
  match qcbAt lk s with
  | none => s
  | some (q, _) =>
    let touches := t.parts.any (fun p => p.line == lk && p.off < 4 &&
      (match t.kind with | .write _ _ => (p.wdata.take (4 - p.off)).any Option.isSome | _ => true))
    if !touches then s
    else if t.rel then doorbell q s
    else bump kDoorbellUnordered s

def portSrc (t : Tx) : Option Nat := match t.src with | .port p => some p | _ => none

/-- Execute one line of a request: its status, the bytes it returns (R362, R363, R365, R90, R566). -/
def execLine (t : Tx) (p : Part) (s : State) : Status × List Byte × State :=
  let win := inWindow p.line s
  match t.kind with
  | .read =>
    let s := meetLine p.line (onlyIf win (predict p.line none (portSrc t)) s)
    if poisoned p.line s then (.poisoned, [], s)
    else
      let data := lineRead p.line p.off p.len s
      let full := p.off == 0 && p.len == 128
      match portSrc t with
      | some q => (.done, data, onlyIf (win && full && portCaches q s) (acquire p.line q) s)
      | none => (.done, data, s)
  | .write _ _ =>
    let s := onlyIf win (predict p.line none (portSrc t)) s
    let whole := p.off == 0 && p.len == 128 && p.wdata.all Option.isSome
    let s := onlyIf (!whole) (meetLine p.line) s
    if poisoned p.line s && !whole then (.poisoned, [], s)
    else
      let s := batchStore p.line p.off p.wdata (onlyIf whole (cleanLine p.line) s)
      (.done, [], afterChange t p.line s)
  | .atomic op w a b =>
    let s := meetLine p.line s
    if poisoned p.line s then (.poisoned, [], s)
    else
      let old := natOf (lineRead p.line p.off w s)
      let new := atomEval op w old a b
      let s := batchStore p.line p.off ((bytesOf w new).map some) s
      (.done, bytesOf w old, afterChange t p.line s)
  | _ => (.done, [], s)

/-- Does an atomic migrate (R420)? The predictor has been updated. -/
def migrates (t : Tx) (lk : Nat) (behind : Bool) (s : State) : Bool :=
  match portSrc t with
  | none => false
  | some q => portCaches q s && inWindow lk s && !poisoned lk s && !behind &&
      rget kMigrateStreak s != 0 && decide (rget kMigrateStreak s ≤ streakOf lk q s)

/-- Grant the line M to a port after its atomic: MIGRATE with the new data and a new LSEQ (R417, R420). -/
def migrate (lk p way : Nat) (s : State) : State :=
  let q := lineSlice lk
  let n := (tgetD s.coh.lseq q 0 + 1) % 2 ^ 24
  let s := { s with coh := { s.coh with lseq := tput s.coh.lseq q n } }
  let s := installEnt lk way (some p) [] n s
  let (job, addr) := lineAddr lk s
  let sn : Snoop := { ctag := 0, port := p, line := lk, kind := .migrate, at_ := s.now, discard := false, all := false,
                      drainOf := none }
  let s := { s with coh := { s.coh with snoops := s.coh.snoops ++ [sn] } }
  let s := cohCount p (fun c => (c.1, c.2.1, c.2.2 + 1)) (bump kMigrations s)
  send (.coh p 0x62 job addr 0 n 0 (lineRead lk 0 128 s)) s

/-- The predictor's update for an atomic executed at the home (R416). -/
def predictAtomic (t : Tx) (lk : Nat) (s : State) : State :=
  if !inWindow lk s then s
  else match portSrc t with
    | some q => if portCaches q s then predict lk (some q) (some q) s else predict lk none (some q) s
    | none => predict lk none none s

/-! ### Waiting -/

/-- Earlier requests whose line, or whose release, this one stands behind. -/
def earlierOn (t : Tx) (lk : Nat) (s : State) : Bool :=
  (s.txn.txs.takeWhile (fun x => x.id != t.id)).any (fun x =>
    (x.src == t.src || x.wait != .release) && x.parts.any (fun p => p.line == lk && p.res.isNone))
/-- Later requests that wait for the line. -/
def behindOn (t : Tx) (lk : Nat) (s : State) : Bool :=
  (s.txn.txs.dropWhile (fun x => x.id != t.id)).any (fun x =>
    x.id != t.id && x.parts.any (fun p => p.line == lk && p.res.isNone))
/-- Earlier stores and atomics of the same source that have not executed (R366, R367). -/
def earlierStores (t : Tx) (s : State) : Bool :=
  (s.txn.txs.takeWhile (fun x => x.id != t.id)).any (fun x =>
    x.src == t.src && isChange x.kind && x.parts.any (fun p => p.res.isNone))

/-- An earlier command of the same region has not completed (R105). -/
def regionAhead (t : Tx) (s : State) : Bool :=
  (s.txn.txs.takeWhile (fun x => x.id != t.id)).any (fun x =>
    x.ext == t.ext && (match x.kind with | .region _ _ _ _ => true | _ => false))
/-- A region command that the mirror is yet to acknowledge stands before later stores to the region (R107, R126). -/
def regionLanding (ext : Nat) (s : State) : Bool :=
  s.txn.txs.any (fun x => x.ext == ext && x.ans.isSome && (match x.kind with | .region _ _ _ _ => true | _ => false))

/-- Hold a request for a cause. Its first wait on a tier, or on the mirror, is counted and starts its time (R77, R78). -/
def holdTx (t : Tx) (w : Wait) (s : State) : State :=
  let tier := stallKey w != 0 && !t.counted
  let s := onlyIf tier (bump (stallKey w)) s
  setTx { t with wait := w, counted := t.counted || tier, since := if tier || t.wait == .none then s.now else t.since } s

/-- A READ joins the fetch that an earlier READ of the line waits for, with no store between them (R371). -/
def joinsFetch (t : Tx) (lk : Nat) (s : State) : Bool :=
  let before := (s.txn.txs.takeWhile (fun x => x.id != t.id)).filter (fun x =>
    x.parts.any (fun p => p.line == lk && p.res.isNone))
  t.kind == .read && !before.isEmpty && before.all (fun x => x.kind == .read)

/-- A SNP_SHARE whose data requests await. -/
def forwardOpen (lk : Nat) (s : State) : Bool := s.coh.snoops.any (fun x => x.line == lk && x.kind == .share)
/-- Why a line of a request cannot execute yet; .none when it can. Fetches and snoops it needs are started. -/
def lineReady (t : Tx) (p : Part) (s : State) : Wait × State :=
  let ck := lkCrate p.line
  let change := isChange t.kind
  let held := match portSrc t with
    | some q => s.coh.evicts.any (fun e => e.port == q && e.line == p.line && !e.behind.contains t.id)
    | none => false
  let behind := tierWait ck change s
  -- behind a request that its crate holds, it is held on the crate too (R77, R78)
  if earlierOn t p.line s then (if behind = .none then .line else behind, s)
  else if held then (.line, s)
  else
    let w := behind
    if w = .attic || w = .vault then (w, startFetch ck s)
    else if w != .none then (w, s)
    else if change && regionLanding (lkExt p.line) s then (.line, s)
    else if change && mirrorHolds (lkExt p.line) s then (.mirror, s)
    else if inWindow p.line s || (entOf p.line s).isSome then
      let q := portSrc t
      let acq := match q with | some q => portCaches q s && p.off == 0 && p.len == 128 | none => false
      cohPrep p.line q (if change then .change else if acq && !poisoned p.line s then .readAcq else .readOnly) s
    else (.none, s)

/-- Bytes of a line that a request's change writes, at most. -/
def changeLen (t : Tx) (p : Part) : Nat := match t.kind with | .atomic _ w _ _ => w | _ => p.len
/-- The bytes that a change has put into a line. -/
def changeBytes (t : Tx) (p : Part) : List (Option Byte) :=
  match t.kind with
  | .atomic op w a b => (bytesOf w (atomEval op w (natOf p.undo) a b)).map some
  | _ => p.wdata
/-- Take back a change whose record the mirror has not acknowledged, where nothing later has changed the byte (R130). -/
def undoPart (t : Tx) (p : Part) (s : State) : State :=
  let now := lineRead p.line p.off p.undo.length s
  let back := (List.range p.undo.length).map (fun i =>
    match (changeBytes t p)[i]? with
    | some (some b) => if now[i]? = some b then p.undo[i]? else none
    | _ => none)
  onlyIf (!p.undo.isEmpty) (batchStore p.line p.off back) s
/-- Execute the lines of a request that can, in order; atoms lists the lines a combined pass has served. -/
def runParts (id : Nat) : List Part → List Nat × State → List Nat × State
  | [], x => x
  | p :: r, (atoms, s) =>
    match txOf id s with
    | none => (atoms, s)
    | some t =>
      let old := s
      match lineReady t p s with
      | (.none, s) =>
        let isAtomic := match t.kind with | .atomic _ _ _ _ => true | _ => false
        let isCas := match t.kind with | .atomic .cas _ _ _ => true | _ => false
        let s := onlyIf isAtomic (predictAtomic t p.line) s
        let mig := isAtomic && migrates t p.line (behindOn t p.line s) s
        -- a migration needs a filter way first (R422)
        let (way, s) : Option Alloc × State := if mig then (let (a, s) := findWay p.line s; (some a, s)) else (none, s)
        match way with
        | some .victim => (atoms, holdTx t .filterSet s)
        | some .full => (atoms, holdTx t .filterSet (onlyIf (t.wait != .filterSet) (bump kFilterSetWaits) s))
        | way =>
          let before := lineRead p.line p.off (changeLen t p) s
          let (st, data, s) := execLine t p s
          let hen := match t.src with | .hen h => some h | _ => none
          let s := onlyIf (st == .done) (noteMoved hen (crateOf (lkCrate p.line) s) p.len) s
          let joined := (t.kind == .read && joinsFetch t p.line s) ||
            (isAtomic && !isCas && t.wait != .none && atoms.contains p.line)
          let s := onlyIf (isAtomic && joined) (bump kAtomicsCombined) s
          let s := match way, portSrc t with
            | some (.ok w), some q => if st = .done then migrate p.line q w s else s
            | _, _ => s
          let jl := if isChange t.kind && st == .done && journalled (lkExt p.line) s then [p.line] else []
          let s := { s with vers := { s.vers with mirror := { s.vers.mirror with jpend := jl.foldl ladd s.vers.mirror.jpend } } }
          let t' := { t with combined := t.combined || joined, jlines := t.jlines ++ jl,
                             parts := t.parts.map (fun x => if x.line = p.line then
                               { x with res := some st, rdata := data, undo := if jl.isEmpty then [] else before } else x) }
          runParts id r (if isAtomic && !isCas then p.line :: atoms else atoms, setTx t' s)
      | (w, s) =>
        -- a READ joins an earlier one's fetch, or its forward (Table 13.5)
        let j := joinsFetch t p.line s && (stallKey w != 0 || forwardOpen p.line s) && !t.combined
        -- a set without a free way is counted once for a request (R423)
        let full := w == .filterSet && t.wait != .filterSet && (findWay p.line old).1 == .full
        let s := onlyIf full (bump kFilterSetWaits) s
        let s := holdTx { t with combined := t.combined || j } (if w = .line && t.wait != .none then t.wait else w)
          (onlyIf j (bump kReadsCombined) s)
        runParts id r (atoms, s)

/-- Status and data of a request all of whose lines are decided (R362). -/
def txResult (t : Tx) : Status × List Byte :=
  match t.parts.findSome? (fun p => match p.res with | some .done => none | x => x) with
  | some st => (st, [])
  | none => (.done, t.parts.flatMap (·.rdata))

/-- A region command that executes. What a MIRROR region's command changes waits for its journal record to be acknowledged,
and takes effect then (R126, R130). -/
def runRegion (t : Tx) (op version : Nat) (current : Bool) (s : State) : State :=
  let (r, u) := regionCmd true t.ext t.job t.member op current version s
  let data := regionData op r
  match extOf t.ext s, regionOfExt t.ext s with
  | some e, some (rid, _) =>
    if r.st == .done && journalled t.ext s then
      let pay := bytesOf 32 (pack [(op, 248), (b2n current, 240), (version, 192), (t.addr, 136)])
      let (q, s) := journalRec jRegion e.slot t.ext e.gen rid t.member (pay ++ data) s
      finishTx { t with jseq := some q } .done data s
    else finishTx t r.st data u
  | _, _ => finishTx t r.st data u

/-- Take up one waiting request (R366, R367, R106). Release waits end by their own commands. -/
def runTx (id : Nat) (x : List Nat × State) : List Nat × State :=
  let (atoms, s) := x
  match txOf id s with
  | none => x
  | some t =>
    if t.ans.isSome || t.wait == .release || t.wait == .table then x
    else match t.kind with
      | .fence => x
      | .contrib _ _ _ _ _ => x
      | .own _ _ _ _ => x
      | .region op current version _ =>
        let waits := (op == opPublish || op == opRebase || op == opDiscard) && earlierStores t s
        if waits || regionAhead t s then (atoms, holdTx t .line s)
        else if mirrorHolds t.ext s then (atoms, holdTx t .mirror s)
        else (atoms, runRegion t op version current s)
      | _ =>
        let (atoms, s) := runParts id (t.parts.filter (fun p => p.res.isNone)) (atoms, s)
        match txOf id s with
        | none => (atoms, s)
        | some t =>
          if t.parts.all (fun p => p.res.isSome) then
            let (st, data) := txResult t
            -- the replay table keeps the atomic's outcome (R380)
            let s := match t.kind, t.src with
              | .atomic _ _ _ _, .port p =>
                modPortTx p (fun x => { x with replay := x.replay.filter (fun r => r.slot != t.seq % 256) ++
                  [{ slot := t.seq % 256, seq := t.seq, at_ := s.now, old := natOf data, status := st }] }) s
              | _, _ => s
            (atoms, finishTx t st data s)
          else (atoms, s)

/-- Take up every waiting request in the order the link accepted them, after something has changed. -/
def pump (s : State) : State :=
  ((s.txn.txs.map (·.id)).foldl (fun x id => runTx id x) ([], releaseEvicts s)).2

/-! ### The line units' wait queues (R377) -/

abbrev lineQueueMax : Nat := 4096
/-- Requests that wait in a home agent's line unit for lines that are busy or being fetched. -/
def lineWaits (q : Nat) (s : State) : Nat :=
  let ts := s.txn.txs.filter (fun t => t.ans.isNone && t.wait != .none && t.wait != .release && t.wait != .table &&
    t.parts.any (fun p => p.res.isNone && lineSlice p.line == q))
  -- the filter retry queue holds 1,024 of them (R423)
  (ts.filter (fun t => t.wait != .filterSet)).length + ((ts.filter (fun t => t.wait == .filterSet)).length - 1024)
/-- The home agent that orders the line of an address, where there is such a line. -/
def homeOf (job addr : Nat) (s : State) : Option Nat := (addrLine job addr s).map lineSlice
/-- Does the home agent take no more requests for now? -/
def homeFull (home : Option Nat) (s : State) : Bool :=
  match home with
  | some q => decide (lineQueueMax ≤ lineWaits q s)
  | none => false

/-! ### Acceptance (R358, R360, R386) -/

def openOf (p : Nat) (s : State) : Nat :=
  (s.txn.txs.filter (fun t => t.src == .port p)).length + (s.txn.paced.filter (fun x => x.port == p)).length
def trackMinOf (p : Nat) (s : State) : Nat := rgeti kTrackMin p s
abbrev trackerSize : Nat := 262144
def trackMinSum (s : State) : Nat := lsum ((List.range fabricPorts).map (fun p => trackMinOf p s))
def sharedUsed (s : State) : Nat := lsum ((List.range fabricPorts).map (fun p => openOf p s - trackMinOf p s))
/-- Can a port's request have a tracker entry (R386)? -/
def trackerRoom (p : Nat) (s : State) : Bool :=
  decide (openOf p s < 2048) &&
  (decide (openOf p s < trackMinOf p s) || decide (sharedUsed s < trackerSize - trackMinSum s))

def tagOpen (p tag : Nat) (s : State) : Bool :=
  s.txn.txs.any (fun t => t.src == .port p && t.tag == tag) || s.txn.paced.any (fun x => x.port == p && x.tag == tag) ||
  (s.txn.stalled ++ s.txn.jammed).any (fun x => x.1.port == p && x.1.tag == tag)

/-- The channel a class maps to under the map in force for a port (R457, R458). -/
def tcVc (p tc : Nat) (s : State) : Nat := 4 + fld (linkOf p s).tcMap (2 * tc + 1) (2 * tc)

/-- The rules of R360. -/
def formatOk (h : Hdr) (k : TxKind) (s : State) : Bool :=
  decide (h.tag ≤ 2047) && h.resZero && h.lenOk && h.vc == tcVc h.port h.tc s &&
  (match k with
   | .read => !h.rel && !h.coded && decide (0 < h.length) && decide (h.length ≤ 4096) &&
       decide (h.addr % 4096 + h.length ≤ 4096)
   | .write false d => !h.coded && decide (0 < h.length) && decide (h.length ≤ 4096) &&
       decide (h.addr % 4096 + h.length ≤ 4096) && d.length == h.length
   | .write true d => !h.coded && h.length == 128 && h.addr % 128 == 0 && d.length == 128
   | .fence => !h.coded && h.addr == 0
   | .atomic op w _ _ => !h.coded && atomFormat op w h.length h.addr
   | .region op _ _ fva => !h.rel && !h.coded && h.addr == fva && decide (1 ≤ op) && decide (op ≤ 6)
   | .own op permit obj _ => !h.rel && !h.coded && decide (1 ≤ op) && decide (op ≤ 3) && decide (permit ≤ 3) &&
       decide (obj < 16384)
   | .contrib _ _ _ _ _ => !h.rel)

/-- An OWN's ADDR lies in the ranges of the object it names (R360). -/
def ownAddrOk (job addr obj : Nat) (s : State) : Bool :=
  match extAt job (fvaSlot addr) (fvaGran addr) s with
  | none => false
  | some (ext, e) => match ownOf (ownKey ext obj s) s with
    | some o => ownHas o ext (extOff e addr / crateBytes)
    | none => false

/-- The transaction of an accepted request. -/
def newTx (h : Hdr) (k : TxKind) (g : Grant) (parts : List Part) (s : State) : Tx :=
  { id := s.txn.nextTx, counted := false, src := .port h.port, epoch := (portTx h.port s).epoch, seq := h.seq, tag := h.tag, job := h.job,
    member := g.member, ext := g.ext, addr := h.addr, opcode := opCodeOf k, tc := h.tc, kind := k, rel := h.rel,
    parts := parts, wait := .none, since := s.now, acc := s.now, combined := false, jseq := none, jlines := [],
    ans := none }
def addTx (t : Tx) (s : State) : State :=
  { s with txn := { s.txn with txs := s.txn.txs ++ [t], nextTx := s.txn.nextTx + 1 } }

/-- The replay table's answer to a retried atomic (R380, R136), if it answers. -/
def replayAnswer (h : Hdr) (k : TxKind) (g : Grant) (s : State) : Option (State) :=
  match k with
  | .atomic _ w _ _ =>
    if !h.retry then none
    else match (portTx h.port s).replay.find? (fun r => r.slot == h.seq % 256) with
      | some r =>
        if r.seq = h.seq then
          if s.now < r.at_ + 64 * nsUs then
            some (respond h.port h.tag h.seq h.job 0x10 2 h.tc s.now r.status (if r.status = .done then bytesOf w r.old else [])
              (countExec h.port h.seq (bump kReplayHits s)))
          else some (refuse h k .stale [] (bump kReplayStale s))
        else if g.e.origin.isSome then some (refuse h k .stale [] (bump kReplayStale s))
        else none
      | none => if g.e.origin.isSome then some (refuse h k .stale [] (bump kReplayStale s)) else none
  | _ => none

/-- A walk reads the two copies of a granule's radix table and crate-map group, some of which turn out uncorrectable: with
one good copy it goes on from that one and rewrites the other; answers whether it can go on (R561). -/
def readTables (gran copies : Nat) (s : State) : Bool × State :=
  let bad := (List.range 2).filter (fun c => copies.testBit c || s.tiers.metaBad.contains (gran, c))
  let rest := s.tiers.metaBad.filter (fun m => m.1 != gran)
  if bad.length = 2 then (false, { s with tiers := { s.tiers with metaBad := rest ++ [(gran, 0), (gran, 1)] } })
  else (true, { s with tiers := { s.tiers with metaBad := rest } })
/-- What the line code finds in the lines of a request: a corrected line is noted against its slot (R92), one beyond
correction fails as it is read (R42). -/
def meetErrs (m : MemErr) (parts : List Part) (s : State) : State :=
  each ((List.range parts.length).zip parts) (fun e s =>
    let s := onlyIf (m.fixed.testBit e.1) (noteSlotErr e.2.line false) s
    onlyIf (m.bad.testBit e.1)
      (fun s => { s with tiers := { s.tiers with failing := ladd s.tiers.failing e.2.line } }) s) s

/-- Start the memory request of an accepted READ, WRITE or ATOMIC: heat, form, lines (R26, R99, R101). A request whose
walk meets no readable table waits (R561). VPOOL_FULL keeps its count where no draft form can be made (R102). -/
def startAccess (t : Tx) (g : Grant) (bind : Option Binding) (len : Nat) (m : MemErr) (s : State) : Except Status Unit × State :=
  let idx := g.off / crateBytes
  let d := match t.kind with | .write _ d => d | _ => []
  let go (form : Nat) (s : State) : Except Status Unit × State :=
    let s := heatUp (crateKey g.ext form idx) s
    let t := { t with id := s.txn.nextTx, parts := partsOf g.ext form g.off len d }
    let (ok, s) := readTables (crateKey g.ext 0 idx / 32) m.copies (meetErrs m t.parts s)
    let s := addTx t s
    (.ok (),
      if !ok then holdTx t .table s
      else if t.rel && earlierStores t s then holdTx t .release s
      else (runTx t.id ([], s)).2)
  match regionOfExt g.ext s with
  | none => go 0 s
  | some (rid, r) =>
    if isChange t.kind then
      match bind with
      | none => (.error .denied, s)
      | some b =>
        match draftCrate rid idx b s with
        | (some f, s) => go f s
        | (none, s) => (.error .refusedFit, s)
    else go (readForm r bind idx) s

/-- An extent entry that names nothing. -/
def noExt : Extent :=
  { job := 0, base := 0, len := 0, acl := 0, key := 0, st := .active, slot := 0, flags := 0, mirrorHome := 0, gen := 0,
    drainAt := 0, origin := none }
/-- The grant of a request that names no memory (FENCE, CONTRIB). -/
def noGrant : Grant := { ext := 0, e := noExt, member := 0, partner := 0, jslot := 0, off := 0 }

/-- A request that has its tracker entry: checks and start (R25, R360). -/
def enterTracker (h : Hdr) (k : TxKind) (s : State) : State :=
  let bad := !formatOk h k s ||
    (match k with | .own _ _ obj _ => !stateLost h.job h.addr s && !ownAddrOk h.job h.addr obj s | _ => false)
  if bad then refuse h k .refusedFormat [] (bump kFormatRefused s)
  else match k with
  | .fence =>
    match portMember h.port h.job s with
    | none => refuse h k .denied [] (bump kDeniedPort s)
    | some m =>
      let g := { noGrant with member := m }
      let t := newTx h k g [] s
      let s := addTx t s
      if earlierStores t s then holdTx t .release s else finishTx t .done [] s
  | .contrib _ _ _ _ _ =>
    match portMember h.port h.job s with
    | none => refuse h k .denied [] (bump kDeniedPort s)
    | some m =>
      let g := { noGrant with member := m }
      addTx (newTx h k g [] s) s
  | _ =>
    match checkPort h.port h.job h.addr (isChange k) s with
    | .error (st, key) => refuse h k st [] (countCheck key s)
    | .ok g =>
      let s := translate g.jslot h.addr s
      match k with
      | .region _ _ _ _ =>
        let t := newTx h k g [] s
        (runTx t.id ([], addTx t s)).2
      | .own _ _ _ _ => addTx (newTx h k g [] s) s
      | _ =>
        let bind := match regionOfExt g.ext s with
          | some (rid, _) => bindingOf h.job g.member rid s
          | none => none
        let drafting := match bind with | some b => b.draft | none => false
        match check6 g k drafting s with
        | some st => refuse h k st [] s
        | none =>
          match replayAnswer h k g s with
          | some s => s
          | none =>
            let len := match k with | .atomic _ w _ _ => w | _ => h.length
            match startAccess (newTx h k g [] s) g bind len h.mem s with
            | (.ok _, s) => s
            | (.error st, s) => refuse h k st [] s

/-- A request that may have its tracker entry goes to the home, unless the wait queue there is full or an earlier request
of the port waits for that: then it waits in the cell buffer (R377). -/
def enterHome (h : Hdr) (k : TxKind) (s : State) : State :=
  if homeFull (homeOf h.job h.addr s) s || s.txn.jammed.any (fun x => x.1.port == h.port) then
    { s with txn := { s.txn with jammed := s.txn.jammed ++ [(h, k)] } }
  else enterTracker h k s
/-- A request arrives on a live PARTNER port under a fresh TAG: it takes a tracker entry or waits for one (R386). -/
def accept (h : Hdr) (k : TxKind) (s : State) : State :=
  let s := modPortTx h.port (fun x => { x with highest := h.seq }) s
  if !trackerRoom h.port s || s.txn.stalled.any (fun x => x.1.port == h.port) then
    bump kTrackStall { s with txn := { s.txn with stalled := s.txn.stalled ++ [(h, k)] } }
  else enterHome h k s
/-- Requests that a home agent had no room for enter as its wait queue empties, each port's in order (R364, R377). -/
def takeJammed (s : State) : State :=
  each s.txn.jammed (fun x s =>
    let first := s.txn.jammed.find? (fun y => y.1.port == x.1.port)
    if first == some x && trackerRoom x.1.port s && !homeFull (homeOf x.1.job x.1.addr s) s then
      enterTracker x.1 x.2 { s with txn := { s.txn with jammed := s.txn.jammed.erase x } }
    else s) s

/-! ### Epoch end (R382 to R385) -/

/-- The epoch record (Table 12.6). -/
def epochRecord (p : Nat) (x : PortTx) (s : State) : Nat :=
  pack [(p, 248), (x.epoch % 2 ^ 32, 208), ((boundPartner p s).getD 0 % 2 ^ 12, 196), (x.lastRel.getD 0, 160),
    (x.highest, 128), (x.lowDisc.getD 0, 96), (x.discarded, 64),
    ((if x.lastRel.isSome then x.execAfter.length else x.execAll), 32), (b2n x.lastRel.isSome, 31),
    (b2n x.lowDisc.isSome, 30)]

/-- End a port's epoch: unexecuted requests are discarded, responses of executed ones are not sent, the record is
written, the replay table emptied; a caching port's copies are lost by a scan (R382 to R385, R427). -/
def endEpoch (p cls : Nat) (s : State) : State :=
  let mine := s.txn.txs.filter (fun t => t.src == .port p)
  let lost := (mine.filter (fun t => t.ans.isNone)).map (·.seq) ++
    ((s.txn.stalled ++ s.txn.jammed).filter (fun x => x.1.port == p)).map (fun x => x.1.seq)
  let low := lost.foldl (fun a q => match a with | none => some q | some b => some (if seqAbove b q then q else b)) none
  let x := { portTx p s with lowDisc := low, discarded := lost.length }
  let caching := (linkOf p s).caching && fld (linkOf p s).cfg 59 58 != 1
  -- a command whose record is with the mirror takes effect though nobody hears of it (R126)
  let keep (t : Tx) : Option Tx :=
    if t.src != .port p then some t
    else if t.jseq.isSome && !isChange t.kind then some { t with src := .loft } else none
  let s := { s with txn := { s.txn with txs := s.txn.txs.filterMap keep,
                                          stalled := s.txn.stalled.filter (fun x => x.1.port != p),
                                          jammed := s.txn.jammed.filter (fun x => x.1.port != p),
                                          paced := s.txn.paced.filter (fun x => x.port != p),
                                          frags := s.txn.frags.filter (fun f => f.1 != p) } }
  let s := bumpN kEpochDiscards lost.length s
  let s := ledger 0x2300 ldEpoch cls (epochRecord p x s) s
  let s := setPortTx p { portTxDflt with epoch := x.epoch, draining := true, lossScan := caching } s
  if caching then
    let mineSn := (s.coh.snoops.filter (fun n => n.port == p))
    let s := { s with coh := { s.coh with snoops := s.coh.snoops.filter (fun n => n.port != p),
                                            evicts := s.coh.evicts.filter (fun e => e.port != p) } }
    let s := each mineSn loseSnoop s
    queueScan (.portLoss p) s
  else s

/-- A live port leaves ACTIVE for a state: epoch end, binding and stream state lost, PORT_DOWN (Table 11.9). -/
def portLeaves (p : Nat) (st : LSt) (cls : Nat) (s : State) : State :=
  let was := portLive p s
  let trayWas := decide (fabricPorts ≤ p) && ((linkOf p s).st == .active || (linkOf p s).st == .recovery)
  let s := modLink p (fun l => { l with st := st, phase := .detect, phaseAt := s.now, downAt := s.now }) s
  let s := onlyIf was (fun s => raise 0x2000 0x02 1 p (endEpoch p cls s)) s
  let s := onlyIf trayWas (raise 0x2000 0x02 1 p) s
  modLink p (fun l => { l with bound := none, evidence := none, unacked := [], stream := [], txSeq := 0, rxSeq := 0,
                               nakPending := false, lastReplay := none, sameReplays := 0, width := 0, lanes := [],
                               credits := [], advert := [], owed := [] }) s

/-- A port reset (Table 18.2): counted, absorbed in a warm or cold reset in progress (R554), else in progress until the
port is ACTIVE again, or is disabled or held. Causes of Table 18.6: 0 command, 5 fault. -/
def portReset (p cause : Nat) (s : State) : State :=
  if s.rst.inProgress.any (fun r => r.scope == .warm || r.scope == .cold || (r.scope == .port && r.target == p)) then bump kResetsAbsorbed s
  else
    let r : ResetRec := { scope := .port, target := p, cause := cause, at_ := s.now, ended := 0, unrec := s.rst.unrecorded }
    let n := rget kResetCounts s
    let s := rset kResetCounts (setFld n 63 0 (min (2 ^ 64 - 1) (n % 2 ^ 64 + 1))) s
    portLeaves p .down (if cause = 0 then clsInfo else clsUnit) { s with rst := { s.rst with inProgress := s.rst.inProgress ++ [r] } }

end Sys2Proof.Machine
end

