-- ==== Sys2Proof/Machine/Items.lean ====
section
/-!
DEFINITION. Work items: descriptors, admission (Table 6.7), stopping and completion, completion records, queue states
(06_work_queues.md).
-/
namespace Sys2Proof.Machine

def itemOf (i : Nat) (s : State) : Option Item := tget s.work.items i
def setItem (i : Nat) (x : Item) (s : State) : State := { s with work := { s.work with items := tput s.work.items i x } }
def modItem (i : Nat) (f : Item → Item) (s : State) : State :=
  match itemOf i s with
  | some x => { s with work := { s.work with items := tmod s.work.items i (fun _ => f x) } }
  | none => s

abbrev ocNop : Nat := 0x00
abbrev ocRun : Nat := 0x01
abbrev ocCancel : Nat := 0x02
abbrev ocReduce : Nat := 0x10
abbrev ocAllreduce : Nat := 0x11
abbrev ocUpdate : Nat := 0x12
abbrev ocNormSq : Nat := 0x13
abbrev ocGather : Nat := 0x18
abbrev ocGatherBags : Nat := 0x19
abbrev ocFilter : Nat := 0x1C
abbrev ocAttend : Nat := 0x20
abbrev ocEditPages : Nat := 0x21
abbrev ocPageFree : Nat := 0x22
abbrev ocProject : Nat := 0x24
abbrev ocSearchIvf : Nat := 0x30
abbrev ocSearchGraph : Nat := 0x31
abbrev ocAppend : Nat := 0x32
abbrev ocDelete : Nat := 0x33
abbrev ocMerge : Nat := 0x34
abbrev ocBuild : Nat := 0x35
abbrev ocEncode : Nat := 0x40
abbrev ocDecode : Nat := 0x41
abbrev ocCodebook : Nat := 0x42
/-- The opcodes of Table 6.5. -/
def opcodes : List Nat :=
  [ocNop, ocRun, ocCancel, ocReduce, ocAllreduce, ocUpdate, ocNormSq, ocGather, ocGatherBags, ocFilter, ocAttend,
   ocEditPages, ocPageFree, ocProject, ocSearchIvf, ocSearchGraph, ocAppend, ocDelete, ocMerge, ocBuild, ocEncode,
   ocDecode, ocCodebook]
/-- The opcodes whose slivers run on slice engines, not on hens. -/
def onEngine (op : Nat) : Bool :=
  op == ocReduce || op == ocAllreduce || op == ocNormSq || op == ocGather || op == ocGatherBags || op == ocFilter

/-! ### Completion -/

/-- Has an item's reduction ended other than DONE: no update sliver runs or counts after that (R263)? -/
def roundFailed (x : Item) : Bool := match x.extra with | .coll _ p _ _ _ _ => p == 5 | _ => false
/-- PREFIX: the lowest sliver at or above a start that is not among those done. -/
def prefixFrom (doneS : List Nat) (start : Nat) : Nat → Nat
  | 0 => start
  | n + 1 => if doneS.contains start then prefixFrom doneS (start + 1) n else start
def itemPrefix (x : Item) : Nat := min x.total (prefixFrom x.doneS x.resume (x.doneS.length + 1))
/-- CAUSE: the status of the lowest-indexed sliver that ended other than DONE (Table 6.8). -/
def itemCause (x : Item) : Nat :=
  match x.ended.foldl (fun b e => match b with
    | none => some e
    | some c => if e.1 < c.1 then some e else some c) none with
  | some e => statusCode e.2
  | none => 0
/-- STATUS of an item whose slivers have all ended or that was stopped (R44, R196, R197). -/
def itemStatus (x : Item) : Status :=
  match x.stop with
  | none => x.fin
  | some .part => if x.doneS.isEmpty then statusOf (itemCause x) else .part
  | some .revoked => if x.started then .part else .revoked
  | some st => st

/-- The completion record on its way (Table 6.8). -/
def itemRec (x : Item) (st : Status) : CRec :=
  { queue := x.queue, status := st, opcode := x.opcode, cause := itemCause x, limit := x.limit, tag := x.tag,
    index := x.index, pre := if x.total = 0 then 0 else itemPrefix x, doneN := x.doneS.length, total := x.total,
    detail := if x.opcode = ocRun then (if itemPrefix x = x.total then 2 ^ 32 - 1 else itemPrefix x) else x.detail,
    stopOnFault := x.stopOnFault }

/-- The record as 256 bits, with its PHASE. -/
def recBits (r : CRec) (phase : Bool) : Nat :=
  pack [(statusCode r.status, 248), (r.opcode, 240), (r.cause, 232), (b2n phase, 231), (b2n r.limit, 230),
    (r.tag % 2 ^ 64, 160), (r.index % 2 ^ 32, 128), (r.pre % 2 ^ 32, 96), (r.doneN % 2 ^ 32, 64), (r.total % 2 ^ 32, 32),
    (r.detail % 2 ^ 32, 0)]

/-- An ITEM ledger record (Table 18.7, R571). -/
def itemLedger (r : CRec) (job : Nat) (s : State) : State :=
  ledger 0x6100 ldItem clsUnit (pack [(job, 240), (r.queue, 226), (r.index % 2 ^ 32, 192), (r.tag % 2 ^ 64, 128),
    (statusCode r.status, 120), (r.opcode, 112), (r.pre % 2 ^ 32, 64), (r.doneN % 2 ^ 32, 32), (r.total % 2 ^ 32, 0)]) s

/-- Has every sliver of the item's run ended? -/
def allEnded (x : Item) : Bool :=
  x.running.isEmpty && decide (x.total - x.resume ≤ x.doneS.length + x.ended.length)

/-- Stop an item for a cause, unless one has reached it first or all its slivers have ended (R197, R205). -/
def stopItem (i : Nat) (st : Status) (s : State) : State :=
  modItem i (fun x => if x.stop.isSome || (decide (0 < x.total) && allEnded x) then x else { x with stop := some st }) s

/-- Put a completion record on its way; a queue that lost an extent gets none, but a ledger record (Table 6.3, R571). -/
def pushRec (r : CRec) (s : State) : State :=
  match queueOf r.queue s with
  | none => s
  | some q =>
    if q.lostExt then
      itemLedger r q.job { s with rst := { s.rst with unrecorded := s.rst.unrecorded + 1 } }
    else { s with work := { s.work with records := s.work.records ++ [r] } }

/-- A status with which STOP_ON_FAULT does not stop the queue. -/
def noFaultStatus (st : Status) : Bool := st == .done || st == .short || st == .excluded

/-- Items of the queue of a number or later that have not started complete CANCELLED; started ones stop when asked to. -/
def cancelQueue (q : Nat) (started : Bool) (from_ : Nat) (s : State) : State :=
  let ids := (s.work.items.filter (fun e => e.2.queue == q && (started || !e.2.started) && decide (from_ ≤ e.2.order))).map (·.1)
  each ids (fun i => stopItem i .cancelled) s

/-- STOP_ON_FAULT: the queue stops, and its items of a number or later, those that follow the record's, are cancelled (Table
6.3). -/
def stopOnFault (r : CRec) (from_ : Nat) (s : State) : State :=
  match queueOf r.queue s with
  | none => s
  | some q =>
    if q.st == .active && r.stopOnFault && !noFaultStatus r.status then
      raise 0x6100 0x02 3 r.queue (cancelQueue r.queue false from_ (queueTo r.queue .stopped s))
    else s

/-- Every earlier item of the same queue, a CANCEL among them, has completed (R190, R191). -/
def fenceMet (i : Nat) (x : Item) (s : State) : Bool :=
  !x.fence || (!s.work.items.any (fun e => e.2.queue == x.queue && decide (e.2.order < x.order) && e.1 != i) &&
    !s.work.cancels.any (fun c => c.queue == x.queue && decide (c.order ≤ x.order)))

/-- Complete an item: it leaves the admitted items and its record goes out. -/
def completeItem (i : Nat) (s : State) : State :=
  match itemOf i s with
  | none => s
  | some x =>
    let r := itemRec x (itemStatus x)
    let s := onlyIf (x.opcode == ocEditPages && itemStatus x == .done) (bump kEditsDone) s
    let s := { s with work := { s.work with items := tdel s.work.items i },
                      txn := { s.txn with held := s.txn.held.filter (fun h => h.item != i) } }
    stopOnFault r (x.order + 1) (pushRec r s)

/-- Opcodes that write once more when every sliver has ended DONE: ENCODE, IMPORT and RECODE their READY (R229), INDEX_BUILD
its (R305), APPEND_COMMIT the LENs (R287). -/
def hasFinal (x : Item) : Bool :=
  (x.opcode == ocEncode && fld x.body 767 766 != 3) || x.opcode == ocBuild ||
  (x.opcode == ocAttend && fld x.body 519 518 == 2)
/-- An item has more to do after its slivers: its last writes, NORM_SQ the exchange and its result record (phase 4 ends
it), a search whose results are not final. -/
def itemOpen (x : Item) : Bool :=
  (hasFinal x && !x.closed) ||
  match x.extra with
  | .coll _ ph _ _ _ _ => x.opcode == ocNormSq && ph != 4
  | .search z => !z.closed
  | _ => false

/-- Has the mirror acknowledged what the item's slivers wrote (R126)? -/
def itemAcked (x : Item) (s : State) : Bool :=
  match x.jseq with
  | some q => !s.vers.mirror.unacked.any (fun r => decide (r.1.seq ≤ q))
  | none => true
/-- Can the item complete now: nothing runs, no delivery of its is unanswered (R253), what it wrote is acknowledged, and it
is stopped or every sliver has ended? -/
def itemOver (i : Nat) (x : Item) (s : State) : Bool :=
  x.running.isEmpty && itemAcked x s && !s.eng.delivers.any (fun d => d.item == i) &&
    (x.stop.isSome || (allEnded x && fenceMet i x s && !itemOpen x))

/-- Complete every item that can, in the order of admission; each completion can let a fenced one complete. -/
def completeOver : Nat → State → State
  | 0, s => s
  | n + 1, s =>
    let ready := s.work.items.filter (fun e => itemOver e.1 e.2 s)
    match ready.foldl (fun b e => match b with
      | none => some e
      | some c => if e.2.order < c.2.order then some e else some c) none with
    | none => s
    | some e => completeOver n (completeItem e.1 s)

/-- CANCEL descriptors whose targets' records are out get their own (R205). -/
def completeCancels (s : State) : State :=
  let (fin, rest) := s.work.cancels.partition (fun c => c.items.all (fun i => (itemOf i s).isNone))
  let r (c : CancelWait) : CRec :=
    { queue := c.queue, status := .done, opcode := ocCancel, cause := 0, limit := false, tag := c.tag, index := c.index,
      pre := 0, doneN := 0, total := 0, detail := c.count, stopOnFault := false }
  each fin (fun c => pushRec (r c))
    { s with work := { s.work with cancels := rest } }

/-- A DRAINING queue whose last record is written is gone (Table 6.3). -/
def dropQueues (s : State) : State :=
  let gone := s.work.queues.filter (fun q => q.2.st == .draining && !q.2.late &&
    !s.work.items.any (fun i => i.2.queue == q.1) && !s.work.records.any (fun r => r.queue == q.1) &&
    !s.work.cancels.any (fun c => c.queue == q.1))
  each gone (fun q s =>
    raise 0x6100 0x03 3 (pack [(b2n q.2.lostExt, 16), (q.1, 0)])
      { s with work := { s.work with queues := tdel s.work.queues q.1 } }) s

/-- Items that can complete, then the CANCELs they were the last to hold, then the items those held. -/
def completeAll : Nat → State → State
  | 0, s => s
  | n + 1, s => completeAll n (completeCancels (completeOver (s.work.items.length + 1) s))
/-- Items, CANCELs and queues brought up to date after something ended. -/
def settleItems (s : State) : State := dropQueues (completeAll (s.work.cancels.length + 1) s)

/-! ### Descriptors -/

/-- A loaded descriptor (Table 6.4) with its queue and index. -/
structure Desc where
  q : Nat
  qu : Queue
  index : Nat
  bits : Nat
  deriving DecidableEq, Repr
/-- Items and CANCELs admitted and not complete, of the queues that a test picks (R187, Table 6.12). -/
def admittedIn (p : Nat → Bool) (s : State) : Nat :=
  (s.work.items.filter (fun e => p e.2.queue)).length + (s.work.cancels.filter (fun c => p c.queue)).length
def dTag (d : Desc) : Nat := fld d.bits 255 192
def dResume (d : Desc) : Nat := fld d.bits 191 160
def dLimit (d : Desc) : Nat := fld d.bits 159 128
def dOpcode (d : Desc) : Nat := fld d.bits 7 0
def dBody (d : Desc) : Nat := d.bits / 2 ^ 256
def dHeaderOk (d : Desc) : Bool :=
  fld d.bits 23 16 == 1 && opcodes.contains (dOpcode d) && fld d.bits 127 24 == 0 && fld d.bits 15 10 == 0

/-- Address of a ring slot. -/
def descAddr (q : Queue) (index : Nat) : Nat := q.desc + index % 2 ^ q.log2 * 128
def compAddr (q : Queue) (n : Nat) : Nat := q.comp + n % 2 ^ q.log2 * 32

/-- The 2448's read of a queue's memory for its producer: the status of the first check that fails and its counter, or the
bytes. -/
def queueRead (q : Queue) (addr n : Nat) (s : State) : Except (Status × Nat) (List Byte) :=
  match jobOf q.job s with
  | none => .error (.denied, kDeniedPort)
  | some (_, j) =>
    match partnerOf j q.member with
    | none => .error (.denied, kDeniedPort)
    | some p =>
      match checks25 q.job q.member p addr false s with
      | .error e => .error e
      | .ok g =>
        let lk := lineKey g.ext 0 (g.off / 128)
        if (larderOf (locStack (crateOf (lkCrate lk) s).loc / 2) s).resetting && (crateOf (lkCrate lk) s).tier == 1 then
          .error (.tierTimeout, 0)
        else if poisoned lk s then .error (.poisoned, 0)
        else .ok (lineRead lk (g.off % 128) n s)

/-- Why loading pauses (R187). -/
def loadPaused (x : Queue) (s : State) : Bool :=
  let job := match activeJob x.job s with | some (_, j) => j.hens.workMax | none => 4096
  let wmax := if job = 0 then 65536 else job
  let ofJob (q : Nat) : Bool := match queueOf q s with | some y => y.job == x.job | none => false
  sub32 (qcbGet x offConsumer s) (qcbGet x offConsumed s) == 2 ^ x.log2 ||
  decide (wmax ≤ admittedIn ofJob s) || decide (65536 ≤ admittedIn (fun _ => true) s)

/-- Is the load of the descriptor at CONSUMER under way: the queue is loading and not paused (R185 to R187), or the read had
begun when the queue left ACTIVE (R608)? -/
def loading (x : Queue) (s : State) : Bool :=
  x.late || (match x.loadTo with
    | none => false
    | some p => x.st == .active && qcbGet x offConsumer s != p && !x.paused && !loadPaused x s)
/-- The descriptor a queue would load now (R186). -/
def nextDesc (q : Nat) (s : State) : Option Desc :=
  match queueOf q s with
  | none => none
  | some x =>
    let c := qcbGet x offConsumer s
    if !loading x s then none
    else match queueRead x (descAddr x c) 128 s with
      | .ok b => some { q := q, qu := x, index := c, bits := natOf b }
      | .error _ => none

/-- CONSUMER passes the descriptor; loading ends at PRODUCER. A pause that now holds is counted (R186, R187). -/
def consumed (d : Desc) (s : State) : State :=
  let c := (d.index + 1) % 2 ^ 32
  let s := qcbPut d.qu offConsumer 4 c s
  let last := d.qu.loadTo == some c
  setQueue d.q { d.qu with loadTo := if last then none else d.qu.loadTo, late := false } s
/-- Count a pause that begins. -/
def notePause (q : Nat) (s : State) : State :=
  match queueOf q s with
  | none => s
  | some x =>
    if x.loadTo.isSome && !x.paused && loadPaused x s then bump kAdmitStall (setQueue q { x with paused := true } s) else s

/-! ### Admission (Table 6.7) -/

/-- What an opcode's chapter says of a descriptor, check by check. -/
structure Adm where
  /-- check 2 but for RESUME -/
  bodyOk : Bool
  total : Nat
  resumable : Bool
  /-- check 3: address, bytes, write -/
  ranges : List (Nat × Nat × Bool)
  /-- check 4 -/
  fit : Bool
  /-- check 5 -/
  quota : Bool
  /-- check 6: the status of the condition that fails -/
  special : Option Status
  extra : Extra
  detail : Nat
  deriving DecidableEq, Repr

/-- Check 3 for one range: every granule it touches (checks 2 to 5 of Table 2.5). -/
def rangeCheck (job member : Nat) (r : Nat × Nat × Bool) (s : State) : Option (Status × Nat) :=
  if r.2.1 = 0 then none
  else
    let first := r.1 / granBytes
    let last := (r.1 + r.2.1 - 1) / granBytes
    (List.range (last - first + 1)).findSome? (fun i =>
      let a := if i = 0 then r.1 else (first + i) * granBytes
      match checks25 job member ((partnerAt job member s).getD 0) a r.2.2 s with
      | .error e => some e
      | .ok _ => none)
/-- Extents that a range lies in. -/
def rangeExts (job : Nat) (r : Nat × Nat × Bool) (s : State) : List Nat :=
  if r.2.1 = 0 then []
  else
    let first := r.1 / granBytes
    let last := (r.1 + r.2.1 - 1) / granBytes
    ((List.range (last - first + 1)).filterMap (fun i =>
      (extAt job (fvaSlot r.1) ((first + i) % 2 ^ 24) s).map (·.1))).eraseDups
/-- The crates that a range covers, by granule: extent, first index, count. -/
def rangeCrates (job : Nat) (r : Nat × Nat × Bool) (s : State) : List (Nat × Nat × Nat) :=
  if r.2.1 = 0 then []
  else
    let first := r.1 / granBytes
    let last := (r.1 + r.2.1 - 1) / granBytes
    (List.range (last - first + 1)).filterMap (fun i =>
      let a := max r.1 ((first + i) * granBytes)
      let b := min (r.1 + r.2.1) ((first + i + 1) * granBytes) - 1
      (extAt job (fvaSlot a) (fvaGran a) s).map (fun e =>
        (e.1, extOff e.2 a / crateBytes, extOff e.2 b / crateBytes + 1 - extOff e.2 a / crateBytes)))

/-- The first check of Table 6.7 that fails (R193), and the counter of Table 2.5 it counts in. -/
def admitStatus (d : Desc) (a : Adm) (s : State) : Option (Status × Nat) :=
  if !dHeaderOk d then some (.refusedFormat, 0)
  else if !a.bodyOk then some (.refusedFormat, 0)
  else if dResume d != 0 && !(a.resumable && decide (dResume d < a.total)) then some (.refusedFormat, 0)
  else match a.ranges.findSome? (fun r => rangeCheck d.qu.job d.qu.member r s) with
    | some st => some st
    | none =>
      if !a.fit then some (.refusedFit, 0)
      else if !a.quota then some (.refusedQuota, 0)
      else a.special.map (fun st => (st, 0))

/-- Bindings of a member at admission (R103); in a taken-over extent they stand under the primary's index (R133). -/
def memberBinds (job member : Nat) (s : State) : List (Nat × Bool × Nat) :=
  let p := (partnerAt job member s).getD 0
  (s.vers.bindings.filter (fun b => b.job == job && b.member == bindIndex b.region member p s)).map
    (fun b => (b.region, b.draft, b.base))

/-- As whom the home reads a descriptor's memory at admission: the member's bindings are those of the item (R99, R103). -/
def descAsker (d : Desc) (s : State) : Asker :=
  { job := d.qu.job, member := d.qu.member, partner := (partnerAt d.qu.job d.qu.member s).getD 0,
    binds := memberBinds d.qu.job d.qu.member s }
/-- May the descriptor's member read a range (check 3)? What it may not read is not judged by its content. -/
def descReads (d : Desc) (addr n : Nat) (s : State) : Bool := (rangeCheck d.qu.job d.qu.member (addr, n, false) s).isNone

/-- The item of an admitted descriptor. -/
def newItem (d : Desc) (a : Adm) (s : State) : Item :=
  let partner := (partnerAt d.qu.job d.qu.member s).getD 0
  { queue := d.q, job := d.qu.job, member := d.qu.member, partner := partner, index := d.index, opcode := dOpcode d,
    tag := dTag d, resume := dResume d, limitUs := dLimit d, fence := bit d.bits 8, stopOnFault := bit d.bits 9,
    body := dBody d, binds := memberBinds d.qu.job d.qu.member s, at_ := s.now, order := s.work.nextItem,
    total := a.total, homes := [], running := [], doneS := [], ended := [], stop := none,
    limit := false, started := false, fin := .done, detail := a.detail,
    exts := ((a.ranges.flatMap (fun r => rangeExts d.qu.job r s)).eraseDups),
    touch := a.ranges.flatMap (fun r => rangeCrates d.qu.job r s), extra := a.extra, jseq := none, closed := false }

/-- A refused descriptor: its record, and STOP_ON_FAULT (R193). -/
def refuseDesc (d : Desc) (st : Status) (s : State) : State :=
  let r : CRec := { queue := d.q, status := st, opcode := dOpcode d, cause := 0, limit := false, tag := dTag d,
                    index := d.index, pre := 0, doneN := 0, total := 0, detail := 0, stopOnFault := bit d.bits 9 }
  stopOnFault r s.work.nextItem (pushRec r (bump kItemsRefused s))
/-- A descriptor whose load ends after its queue has left ACTIVE completes CANCELLED, with its own TAG and OPCODE (R608). -/
def lateDesc (d : Desc) (s : State) : State :=
  pushRec { queue := d.q, status := .cancelled, opcode := dOpcode d, cause := 0, limit := false, tag := dTag d, index := d.index,
            pre := 0, doneN := 0, total := 0, detail := 0, stopOnFault := false } (consumed d s)

/-- Admit or refuse a descriptor (R193, R194); the item's number is returned when it is admitted. -/
def admitDesc (d : Desc) (a : Adm) (s : State) : Option Nat × State :=
  if d.qu.late then (none, lateDesc d s)
  else match admitStatus d a s with
  | some (st, key) => (none, notePause d.q (refuseDesc d st (countCheck key (consumed d s))))
  | none =>
    let i := s.work.nextItem
    let x := newItem d a s
    let s := consumed d s
    let s := { s with work := { s.work with items := s.work.items ++ [(i, x)], nextItem := i + 1 } }
    (some i, notePause d.q (bump kItemsAdmitted s))

/-- Is the opcode byte, or the operation the row stands for, the descriptor's? An opcode outside Table 6.5 belongs to
every row, which refuses it (R189). -/
def descIs (d : Desc) (oc : Nat) : Bool := dOpcode d == oc || !opcodes.contains (dOpcode d)

/-! ### Hens in service (HENS_IN_SERVICE, R175, R176) -/

def henId (larder i : Nat) : Nat := larder * 512 + i
def henLarder (h : Nat) : Nat := h / 512
def mappedIn (l : Nat) (s : State) : List Nat :=
  match s.hens.unitMap with
  | none => []
  | some m => m.filter (fun n => n / 384 == l)
def mappedOut (h : Nat) (s : State) : Bool :=
  match s.hens.unitMap with
  | none => true
  | some m => m.contains (henLarder h * 384 + h % 512)
/-- A hen's own state lets it serve. -/
def henReady (x : Hen) : Bool :=
  (x.st == .idle || x.st == .assigned || x.st == .running || x.st == .held) && !x.outPending
def larderServes (l : Nat) (s : State) : Bool :=
  (larderOf l s).trained && !(larderOf l s).resetting && !(larderOf l s).out && s.hens.unitMap.isSome
def henServes (h : Nat) (s : State) : Bool :=
  decide (h % 512 < 384) && decide (henLarder h < 12) && !mappedOut h s && larderServes (henLarder h) s &&
    henReady (henOf h s)
/-- Hens in service in some larders: those of each larder less the mapped out and those that do not serve. -/
def hensIn (larders : Nat) (s : State) : Nat :=
  lsum ((List.range 12).map (fun l =>
    if larders.testBit l && larderServes l s then
      384 - (mappedIn l s).length -
        (s.hens.hens.filter (fun e => henLarder e.1 == l && !mappedOut e.1 s && !henReady e.2)).length
    else 0))
def hensInService (s : State) : Nat := hensIn 0xFFF s

end Sys2Proof.Machine
end

