-- ==== Sys2Proof/Machine/SlMem.lean ====
section
/-!
DEFINITION. Memory as a sliver of a built-in item, a slice engine or the loft uses it for an item: checked reads, and
writes applied together when all of them may be (R26, R166, R194, R369). A computation that meets a tier or a snoop
waits: the fetch or snoop is started, the request is held (R77, R78), and the computation runs again when its command is
given again. A request that has passed the checks is not checked a second time, and counts once (R26).
-/
namespace Sys2Proof.Machine

/-- A request that has to wait at the home, and for what. -/
structure Want where
  ext : Nat
  addr : Nat
  line : Nat
  write : Bool
  wait : Wait
  deriving DecidableEq, Repr

/-- Outcome of a sliver's step. -/
inductive SlOut (α : Type) where
  | ok (a : α)
  | fail (st : Status)
  | wait (q : Want)
  deriving DecidableEq, Repr

/-- A sliver's computation over the state. -/
abbrev Sl (α : Type) := State → SlOut α × State

def slPure {α : Type} (a : α) : Sl α := fun s => (.ok a, s)
def slFail {α : Type} (st : Status) : Sl α := fun s => (.fail st, s)
def slBind {α β : Type} (m : Sl α) (f : α → Sl β) : Sl β := fun s =>
  match m s with
  | (.ok a, s) => f a s
  | (.fail st, s) => (.fail st, s)
  | (.wait q, s) => (.wait q, s)
/-- The results of a computation for each entry of a list, in order. -/
def slMap {α β : Type} (f : α → Sl β) : List α → Sl (List β)
  | [] => slPure []
  | a :: r => slBind (f a) (fun b => slBind (slMap f r) (fun l => slPure (b :: l)))
/-- Fold a computation over a list. -/
def slFold {α β : Type} (f : β → α → Sl β) : β → List α → Sl β
  | b, [] => slPure b
  | b, a :: r => slBind (f b a) (fun c => slFold f c r)

/-- Lines of a byte range of an FVA: (address of the first byte, bytes, position). -/
def addrLines (addr n : Nat) : List (Nat × Nat × Nat) :=
  (splitLines addr n).map (fun x => (x.1 * 128 + x.2.1, x.2.2.1, x.2.2.2))

/-- A built-in sliver's expander holds a codebook's generation; a fill is counted, and frees the slot filled first (R223,
R226). -/
def noteSlot (cb gen : Nat) (s : State) : State :=
  match s.txn.runner with
  | none => s
  | some h =>
    let x := henOf h s
    if x.slots.contains (cb, gen) then s
    else
      let keep := if x.slots.length < 2 then x.slots else x.slots.drop 1
      bump kCbFetches (setHen h { x with slots := keep ++ [(cb, gen)] } s)

/-- Whose access an item's requests are checked as (R194). -/
def askerOf (x : Item) : Asker := { job := x.job, member := x.member, partner := x.partner, binds := x.binds }
/-- The binding that an item's requests use in a region (R103). -/
def boundOf (a : Asker) (rid : Nat) (s : State) : Option Binding :=
  match a.binds.find? (fun b => b.1 == rid) with
  | none => none
  | some (_, draft, v) =>
    let m := bindIndex rid a.member a.partner s
    if draft then bindingOf a.job m rid s
    else some { job := a.job, member := m, region := rid, draft := false, base := v, forms := [] }
def itemBind (x : Item) (rid : Nat) (s : State) : Option Binding := boundOf (askerOf x) rid s

/-! ### Requests held for a computation (R26, R47, R77) -/

def setRuns (passed made : List (Nat × Bool × Nat)) (s : State) : State :=
  { s with txn := { s.txn with passed := passed, made := made } }
/-- The computation whose requests these are: a hen's, or none. -/
def setRunner (who : Option Holder) (s : State) : State :=
  { s with txn := { s.txn with passed := [], made := [], runner := match who with | some (.hen h) => some h | _ => none } }
/-- Bytes moved for the computation under way. -/
def runMoved (lk n : Nat) (s : State) : State := noteMoved s.txn.runner (crateOf (lkCrate lk) s) n s
/-- Keep a waiting request: the one that waited before goes on waiting, any other begins now. -/
def holdFor (who : Holder) (item : Nat) (q : Want) (s : State) : State :=
  let tier := stallKey q.wait != 0
  let fresh : Held := { id := s.txn.nextTx, who := who, item := item, ext := q.ext, addr := q.addr, line := q.line,
                        write := q.write, wait := q.wait, since := s.now, counted := false, passed := [], res := none }
  let old := match heldOf who s with
    | some h => if h.addr = q.addr && h.write == q.write then some h else none
    | none => none
  let h := old.getD fresh
  let first := tier && !h.counted
  let h := { h with ext := q.ext, line := q.line, wait := q.wait, counted := h.counted || tier,
                    since := if first then s.now else h.since, passed := s.txn.made }
  let s := onlyIf first (bump (stallKey q.wait)) (dropHeld who s)
  { s with txn := { s.txn with held := s.txn.held ++ [h],
                               nextTx := if old.isSome then s.txn.nextTx else s.txn.nextTx + 1 } }
/-- Run a computation for its holder: a request that has been completed meanwhile fails it (R49, R77), a wait holds one,
and the end of the computation holds none. -/
def slRun {α : Type} (who : Holder) (item : Nat) (m : Sl α) : Sl α := fun s =>
  let old := heldOf who s
  match old.bind (·.res) with
  | some st => (.fail st, dropHeld who s)
  | none =>
    let passed := match old with | some h => h.passed | none => []
    match m (setRuns passed [] (setRunner (some who) s)) with
    | (.wait q, s) => (.wait q, setRunner none (holdFor who item q s))
    | (.ok a, s) => (.ok a, setRunner none (dropHeld who s))
    | (.fail st, s) => (.fail st, setRunner none (dropHeld who s))

/-- Checks 1 to 5 for a request of an item, once: the grant, and the crate's form where the request is no new one. -/
def slGrant (x : Item) (a : Nat) (write : Bool) (s : State) : Except Status (Grant × Option Nat) × State :=
  match s.txn.passed.find? (fun p => p.1 == a && p.2.1 == write) with
  | some p =>
    let s := setRuns (s.txn.passed.erase p) s.txn.made s
    match extAt x.job (fvaSlot a) (fvaGran a) s with
    | none => (.error .revoked, s)
    | some (ext, e) =>
      let m := rightsMember ext e x.member x.partner s
      (.ok ({ ext := ext, e := e, member := m, partner := x.partner, jslot := 0, off := extOff e a }, some p.2.2), s)
  | none => match checkItem x.job x.member x.partner a write s with
    | .error (st, key) => (.error st, countCheck key s)
    | .ok g => (.ok (g, none), translate g.jslot a s)
/-- Note a request that has passed its checks, with the form of its crate (R26, R99). -/
def slMade (a : Nat) (write : Bool) (form : Nat) (s : State) : State :=
  setRuns s.txn.passed (s.txn.made ++ [(a, write, form)]) s

/-- One line read for an item. -/
def slReadLine (x : Item) (a n : Nat) : Sl (List Byte) := fun s =>
  match slGrant x a false s with
  | (.error st, s) => (.fail st, s)
  | (.ok (g, old), s) =>
    let fresh := old.isNone
    let idx := g.off / crateBytes
    let form := old.getD (match regionOfExt g.ext s with
      | some (rid, r) => readForm r (itemBind x rid s) idx
      | none => 0)
    let lk := lineKey g.ext form (g.off / 128)
    let ck := lkCrate lk
    let s := onlyIf fresh (heatUp ck) (slMade a false form s)
    match if fresh then ownCheck g.ext idx g.member false s else none with
    | some st => (.fail st, s)
    | none =>
      let wait (w : Wait) : SlOut (List Byte) := .wait { ext := g.ext, addr := a, line := lk, write := false, wait := w }
      let w := tierWait ck false s
      if w = .attic || w = .vault then (wait w, startFetch ck s)
      else if w != .none then (wait w, s)
      else
        let (c, s) := if (entOf lk s).isSome then cohPrep lk none .readOnly s else (.none, s)
        let s := onlyIf (c == .none) (fun s => meetLine lk (onlyIf (inWindow lk s) (predict lk none none) s)) s
        if c != .none then (wait c, s)
        else if poisoned lk s then (.fail .poisoned, s)
        else (.ok (lineRead lk (g.off % 128) n s), runMoved lk n s)

/-- Read a range of pool memory for an item. -/
def slRead (x : Item) (addr n : Nat) : Sl (List Byte) :=
  slBind (slMap (fun l => slReadLine x l.1 l.2.1) (addrLines addr n)) (fun ls => slPure ls.flatten)
/-- Read a little-endian number. -/
def slNat (x : Item) (addr n : Nat) : Sl Nat := slBind (slRead x addr n) (fun b => slPure (natOf b))

/-- A write of an item: address and bytes, none = left as it is. -/
abbrev SlWrite := Nat × List (Option Byte)
def wBytes (addr : Nat) (b : List Byte) : SlWrite := (addr, b.map some)
def wNat (addr n v : Nat) : SlWrite := wBytes addr (bytesOf n v)

/-- The flag of the extents whose content is an opcode's own: CODED, KV or INDEX. -/
def ownFlag (op : Nat) : Nat :=
  if op == ocEncode || op == ocCodebook || op == ocReduce || op == ocAllreduce || op == ocUpdate || op == ocNormSq ||
      op == ocGather || op == ocGatherBags || op == ocFilter then 3
  else if op == ocEditPages || op == ocPageFree || op == ocAttend then 4
  else 5
/-- Prepare one line of a write: the line key, when the write may be applied now. own: the opcode is the extent's own, so
the rule of check 6 for its flag does not stand in its way (R228, R276, R300). -/
def slPrepLine (x : Item) (own : Bool) (a : Nat) (d : List (Option Byte)) : Sl (Nat × Nat × List (Option Byte)) := fun s =>
  match slGrant x a true s with
  | (.error st, s) => (.fail st, s)
  | (.ok (g, old), s) =>
    let fresh := old.isNone
    let idx := g.off / crateBytes
    let bind := match regionOfExt g.ext s with | some (rid, _) => itemBind x rid s | none => none
    let drafting := match bind with | some b => b.draft | none => false
    let f := ownFlag x.opcode
    let g' := if own then { g with e := { g.e with flags := setFld g.e.flags f f 0 } } else g
    match if fresh then check6 g' (.write false d) drafting s else none with
    | some st => (.fail st, onlyIf fresh (heatUp (crateKey g.ext 0 idx)) s)
    | none =>
      let (form, s) : Option Nat × State := match old, regionOfExt g.ext s, bind with
        | some f, _, _ => (some f, s)
        | none, some (rid, _), some b => draftCrate rid idx b s
        | none, _, _ => (some 0, s)
      match form with
      | none => (.fail .refusedFit, s)
      | some f =>
        let lk := lineKey g.ext f (g.off / 128)
        let ck := lkCrate lk
        let s := onlyIf fresh (heatUp ck) (slMade a true f s)
        let wait (w : Wait) : SlOut (Nat × Nat × List (Option Byte)) :=
          .wait { ext := g.ext, addr := a, line := lk, write := true, wait := w }
        let (placed, s) := if (crateOf ck s).tier = 0 then placeNew ck s else (true, s)
        let w := tierWait ck true s
        if !placed then (wait .space, s)
        else if w = .attic || w = .vault then (wait w, startFetch ck s)
        else if w != .none then (wait w, s)
        else if mirrorHolds g.ext s then (wait .mirror, s)
        else
          let (c, s) := if (entOf lk s).isSome then cohPrep lk none .change s else (.none, s)
          let whole := g.off % 128 == 0 && d.length == 128 && d.all Option.isSome
          let s := onlyIf (c == .none && inWindow lk s) (predict lk none none) s
          let s := onlyIf (c == .none && !whole) (meetLine lk) s
          if c != .none then (wait c, s)
          else if poisoned lk s && !whole then (.fail .poisoned, s)
          else (.ok (lk, g.off % 128, d), s)

/-- Apply one prepared line: the line is executed when the home applies it (R369). A MIRROR line is journalled, and its
item waits for the record (R126); a store to a PRODUCER without release semantics is counted (R184). -/
def slApply (x : Item) (w : Nat × Nat × List (Option Byte)) (s : State) : State :=
  let (lk, off, d) := w
  let whole := off == 0 && d.length == 128 && d.all Option.isSome
  let s := runMoved lk d.length (poke lk off d (onlyIf whole (cleanLine lk) s))
  let s := markCrate (lkCrate lk) (dirtyCrate (lkCrate lk) s)
  let s := if journalled (lkExt lk) s then
      let (q, s) := journalLk lk s
      modItem x.order (fun y => { y with jseq := some q }) s
    else s
  onlyIf ((qcbAt lk s).isSome && (d.take (4 - off)).any Option.isSome) (bump kDoorbellUnordered) s

/-- The lines of a list of writes. -/
def writeLines (ws : List SlWrite) : List (Nat × List (Option Byte)) :=
  ws.flatMap (fun w => (addrLines w.1 w.2.length).map (fun l => (l.1, (w.2.drop l.2.2).take l.2.1)))

/-- Apply a sliver's writes together. -/
def slWrite (x : Item) (own : Bool) (ws : List SlWrite) : Sl Unit :=
  slBind (slMap (fun l => slPrepLine x own l.1 l.2) (writeLines ws)) (fun ls => fun s => (.ok (), each ls (slApply x) s))

/-- Draw a free value within a sliver's computation. -/
def slDraw : Sl Nat := fun s => let (v, s) := draw s; (.ok v, s)

end Sys2Proof.Machine
end

