-- ==== Sys2Proof/Machine/Hens.lean ====
section
/-!
DEFINITION. A hen's registers and local store, faults, the end of a sliver, zeroing (05_hens_and_arithmetic.md,
06_work_queues.md R196, R207, R210; 18_resets_and_faults.md R572 to R575).
-/
namespace Sys2Proof.Machine

/-! ### Registers and local store -/

abbrev lsBytes : Nat := 262144
abbrev imemBytes : Nat := 32768

/-- x registers as numbers; x0 reads zero and takes no write. -/
def xGet (x : Hen) (r : Nat) : Nat := if r = 0 then 0 else (tgetD x.x r 0).toNat
def xSet (x : Hen) (r v : Nat) : Hen := if r = 0 then x else { x with x := tput x.x r (BitVec.ofNat 64 v) }

/-- A lane of a V register, and a V register from its lanes. -/
def vLane (x : Hen) (r i : Nat) : W32 := tgetD x.v (r * 32 + i) 0
def vLanes (x : Hen) (r : Nat) : List W32 := (List.range 32).map (vLane x r)
def vSetLane (x : Hen) (r i : Nat) (w : W32) : Hen := { x with v := tput x.v (r * 32 + i) w }
def vSet (x : Hen) (r : Nat) (ws : List W32) : Hen :=
  (List.range ws.length).foldl (fun x i => vSetLane x r i ((ws[i]?).getD 0)) x

/-- Tile bytes: 2,048 of data, then 128 of sideband. -/
def tileByte (x : Hen) (t i : Nat) : Byte := memGet x.tiles (t * 4096 + i)
def tileSet (x : Hen) (t : Nat) (bs : List Byte) : Hen := { x with tiles := memWrite x.tiles (t * 4096) bs }
/-- An accumulator's element. -/
def accGet (x : Hen) (t i j : Nat) : W32 := BitVec.ofNat 32 (natOf (memRead x.tiles (t * 4096 + (i * 32 + j) * 4) 4))
/-- An accumulator from its elements, row by row. -/
def accSet (x : Hen) (t : Nat) (ws : List W32) : Hen := tileSet x t (ws.flatMap (fun w => bytesOf 4 w.toNat))
def accRows (x : Hen) (t : Nat) : List (List W32) :=
  (List.range 16).map (fun i => (List.range 32).map (fun j => accGet x t i j))

def lsRead (x : Hen) (a n : Nat) : List Byte := memRead x.ls a n
/-- A write covers whole words it no longer leaves in error. -/
def lsWrite (x : Hen) (a : Nat) (bs : List Byte) : Hen :=
  { x with ls := memWrite x.ls a bs,
           badWords := x.badWords.filter (fun w => !(decide (a ≤ w * 8) && decide (w * 8 + 8 ≤ a + bs.length))) }

/-! ### What a local-store access meets -/

/-- Why an instruction does not complete. -/
inductive Trap where
  | illegal
  | access (addr : Nat)
  | misaligned (addr : Nat)
  | bad (addr : Nat)
  | wait
  deriving DecidableEq, Repr

/-- Does a range overlap an outstanding DMA's (R145)? -/
def dmaHits (x : Hen) (a n : Nat) : Bool :=
  x.dma.any (fun d => decide (a < d.loc + d.bytes) && decide (d.loc < a + n))
/-- A range lies in the local store, meets no outstanding DMA, and, when read, no uncorrectable word (R143, R145,
R146). -/
def lsCheck (x : Hen) (a n : Nat) (read : Bool) : Option Trap :=
  if lsBytes < a + n then some (.access a)
  else if dmaHits x a n then some .wait
  else if read && x.badWords.any (fun w => decide (a < w * 8 + 8) && decide (w * 8 < a + n)) then some (.bad a)
  else none

/-! ### Leaving service (R572, R574) -/

abbrev day24 : Nat := 86400 * nsS
/-- HENS_IN_SERVICE against the reservations (R200): HEN_SHORT when it no longer covers them. -/
def henShort (s : State) : State :=
  let need := lsum ((s.pool.jobs.filter (fun j => !j.2.closing)).map (fun j => j.2.hens.min))
  onlyIf (decide (hensInService s < need)) (raise 0x6140 0x02 0 0) s

/-- A hen leaves service by a fault and begins its self-test; at HEN_FAULT_LIMIT it stays out (R572, R574). -/
def henLeave (h : Nat) (s : State) : State :=
  let x := henOf h s
  let recent := x.faults.filter (fun t => decide (s.now < t + day24))
  let times := recent ++ [s.now]
  let perm := decide (rget kHenFaultLimit s ≤ times.length)
  let s := setHen h { x with st := if perm then .out else .selfTest, faults := times, byFault := true, testAt := s.now,
                             outPending := x.outPending || x.st == .outCmd, permanentOut := x.permanentOut || perm } s
  henShort (onlyIf perm (raise 0xB000 0x04 2 h) s)

/-! ### The end of a sliver -/

/-- A HEN_FAULT record (Table 18.6). -/
def henFaultRec (h cause : Nat) (st : Status) (addr : Nat) (s : State) : State :=
  let x := henOf h s
  let it := itemOf x.item s
  let q := match it with | some i => i.queue | none => 0
  let di := match it with | some i => i.index | none => 0
  ledger 0xB000 ldHenFault clsUnit (pack [(h, 243), (x.job, 224), (q, 210), (di, 176), (x.sliver, 144),
    (statusCode st, 136), (cause, 128), (x.pc % 2 ^ 64, 64), (addr % 2 ^ 64, 0)]) s

/-- The item's own account of an ended sliver (R196). -/
def itemSliverEnd (i sliver : Nat) (st : Status) (s : State) : State :=
  let s := modItem i (fun x =>
    let x := { x with running := x.running.filter (fun n => n != sliver) }
    if roundFailed x then x
    else if st = .done then { x with doneS := x.doneS ++ [sliver] } else { x with ended := x.ended ++ [(sliver, st)] }) s
  if st = .done then s
  else modItem i (fun x => if x.stop.isSome then x else { x with stop := some .part }) s

/-- Is the item, and with it a gang's further slivers, still to run? -/
def itemRuns (i : Nat) (s : State) : Bool :=
  match itemOf i s with
  | some x => x.stop.isNone
  | none => false
/-- Has the item had a STOP for the sliver's next part: its total. -/
def itemTotal (i : Nat) (s : State) : Nat := match itemOf i s with | some x => x.total | none => 0

/-- Expander slots at the end of a sliver: those not of the newest generation, or being dropped, are emptied (R226). -/
def emptySlots (slots : List (Nat × Nat)) (s : State) : List (Nat × Nat) :=
  slots.filter (fun e => match bookOf e.1 s with
    | some b => !b.dropping && (cbNewest b).map (·.gen) == some e.2
    | none => false)
/-- Is the hen to receive no further sliver of the job it runs one of (R199)? -/
def drained (h : Nat) (s : State) : Bool := s.work.drains.any (fun d => d.2.contains h)

/-- A hen's sliver ends: its requests not yet issued are dropped, the item counts it, and the hen goes on to its rank's
next sliver, to idle, or out of service (R196, R199, R210, R226, R575). -/
def endSliver (h : Nat) (st : Status) (s : State) : State :=
  let x := henOf h s
  let s := itemSliverEnd x.item x.sliver st (dropHeld (.hen h) s)
  let next := x.sliver + x.nranks
  let more := decide (0 < x.nranks) && itemRuns x.item s && decide (next < itemTotal x.item s) && !drained h s
  let y := { x with dma := [], answers := [], msgWait := none, ran := x.ran + 1, lastJob := some x.job, lastItem := some x.item,
                    cbWait := none, slots := emptySlots x.slots s }
  if x.outPending then setHen h { y with st := .outCmd, outPending := false } s
  else if more then
    let s := modItem x.item (fun i => { i with running := i.running ++ [next] }) s
    setHen h { y with st := .assigned, sliver := next } s
  else setHen h { y with st := .idle } s

/-- A fault ends the sliver (R144, R146, R572): the record, the counter, the status. -/
def henFault (h : Nat) (t : Trap) (s : State) : State :=
  match t with
  | .wait => s
  | .illegal => endSliver h .refusedFormat (henFaultRec h 0 .refusedFormat 0 (bump kIllegalInsn s))
  | .access a => endSliver h .denied (henFaultRec h 1 .denied a (bump kAccessFaults s))
  | .misaligned a => endSliver h .refusedFormat (henFaultRec h 2 .refusedFormat a s)
  | .bad a => henLeave h (endSliver h .poisoned (henFaultRec h 3 .poisoned a (bump kLsUncorrected s)))

/-- Is a hen running a sliver? -/
def running (h : Nat) (s : State) : Bool := (henOf h s).st == .running

/-- An instruction that has executed: the new hen, the pc past its bytes, retired (R171). -/
def retire (h n : Nat) (y : Hen) (s : State) : State :=
  setHen h { y with pc := y.pc + n, instret := y.instret + 1, retired := y.retired + 1 } s

/-- Run a tile, vector or DMA instruction on a running hen: its effect, a wait, or a fault. -/
def henInsn (h : Nat) (f : Hen → Except Trap Hen) (s : State) : State :=
  if !running h s then s
  else match f (henOf h s) with
    | .ok y => retire h 4 y s
    | .error t => henFault h t s

/-- Zeroing of R147, which empties the expander's slots too (R226). -/
def henZero (x : Hen) : Hen :=
  { x with ls := [], badWords := [], imem := [], tiles := [], v := [], topk := { k := 0, largest := false, cands := [] },
           msgs := [], image := none, slots := [] }

end Sys2Proof.Machine
end

