-- ==== Sys2Proof/Machine/Scalar.lean ====
section
/-!
DEFINITION. The control pipe: RV64IMC and Zicsr (R142 to R144, Table 5.2), an instruction as it stands in the
instruction memory at the pc.
-/
namespace Sys2Proof.Machine

/-! ### Encodings -/

def iType (imm rs1 f3 rd op : Nat) : Nat := imm % 4096 * 2 ^ 20 + rs1 * 2 ^ 15 + f3 * 2 ^ 12 + rd * 2 ^ 7 + op
def rType (f7 rs2 rs1 f3 rd op : Nat) : Nat :=
  f7 * 2 ^ 25 + rs2 * 2 ^ 20 + rs1 * 2 ^ 15 + f3 * 2 ^ 12 + rd * 2 ^ 7 + op
def sType (imm rs2 rs1 f3 op : Nat) : Nat :=
  fld imm 11 5 * 2 ^ 25 + rs2 * 2 ^ 20 + rs1 * 2 ^ 15 + f3 * 2 ^ 12 + fld imm 4 0 * 2 ^ 7 + op
def bType (imm rs2 rs1 f3 : Nat) : Nat :=
  fld imm 12 12 * 2 ^ 31 + fld imm 10 5 * 2 ^ 25 + rs2 * 2 ^ 20 + rs1 * 2 ^ 15 + f3 * 2 ^ 12 + fld imm 4 1 * 2 ^ 8 +
    fld imm 11 11 * 2 ^ 7 + 0x63
def jType (imm rd : Nat) : Nat :=
  fld imm 20 20 * 2 ^ 31 + fld imm 10 1 * 2 ^ 21 + fld imm 11 11 * 2 ^ 20 + fld imm 19 12 * 2 ^ 12 + rd * 2 ^ 7 + 0x6F

/-- Quadrant 0 of the C extension: stack address, loads and stores. -/
def expand0 (c : Nat) : Option Nat :=
  let rd := 8 + fld c 4 2
  let rs := 8 + fld c 9 7
  let w := pack [(fld c 12 10, 3), (fld c 6 6, 2), (fld c 5 5, 6)]
  let d := pack [(fld c 12 10, 3), (fld c 6 5, 6)]
  match fld c 15 13 with
  | 0 =>
    let imm := pack [(fld c 12 11, 4), (fld c 10 7, 6), (fld c 6 6, 2), (fld c 5 5, 3)]
    if imm = 0 then none else some (iType imm 2 0 rd 0x13)
  | 2 => some (iType w rs 2 rd 0x03)
  | 3 => some (iType d rs 3 rd 0x03)
  | 6 => some (sType w rd rs 2 0x23)
  | 7 => some (sType d rd rs 3 0x23)
  | _ => none

/-- Quadrant 1: immediates, register arithmetic, jumps and branches. -/
def expand1 (c : Nat) : Option Nat :=
  let rd := fld c 11 7
  let r := 8 + fld c 9 7
  let r2 := 8 + fld c 4 2
  let sh := pack [(fld c 12 12, 5), (fld c 6 2, 0)]
  let imm := ofS 12 (toS 6 sh)
  let br := ofS 13 (toS 9 (pack [(fld c 12 12, 8), (fld c 11 10, 3), (fld c 6 5, 6), (fld c 4 3, 1), (fld c 2 2, 5)]))
  match fld c 15 13 with
  | 0 => some (iType imm rd 0 rd 0x13)
  | 1 => if rd = 0 then none else some (iType imm rd 0 rd 0x1B)
  | 2 => some (iType imm 0 0 rd 0x13)
  | 3 =>
    if rd = 2 then
      let k := pack [(fld c 12 12, 9), (fld c 6 6, 4), (fld c 5 5, 6), (fld c 4 3, 7), (fld c 2 2, 5)]
      if k = 0 then none else some (iType (ofS 12 (toS 10 k)) 2 0 2 0x13)
    else if sh = 0 then none
    else some (ofS 20 (toS 6 sh) * 2 ^ 12 + rd * 2 ^ 7 + 0x37)
  | 4 =>
    match fld c 11 10 with
    | 0 => some (iType sh r 5 r 0x13)
    | 1 => some (iType (0x400 + sh) r 5 r 0x13)
    | 2 => some (iType imm r 7 r 0x13)
    | _ =>
      match fld c 12 12, fld c 6 5 with
      | 0, 0 => some (rType 0x20 r2 r 0 r 0x33)
      | 0, 1 => some (rType 0 r2 r 4 r 0x33)
      | 0, 2 => some (rType 0 r2 r 6 r 0x33)
      | 0, _ => some (rType 0 r2 r 7 r 0x33)
      | _, 0 => some (rType 0x20 r2 r 0 r 0x3B)
      | _, 1 => some (rType 0 r2 r 0 r 0x3B)
      | _, _ => none
  | 5 =>
    let k := pack [(fld c 12 12, 11), (fld c 11 11, 4), (fld c 10 9, 8), (fld c 8 8, 10), (fld c 7 7, 6), (fld c 6 6, 7),
      (fld c 5 3, 1), (fld c 2 2, 5)]
    some (jType (ofS 21 (toS 12 k)) 0)
  | 6 => some (bType br 0 r 0)
  | _ => some (bType br 0 r 1)

/-- Quadrant 2: stack-pointer loads and stores, jumps through registers, moves. -/
def expand2 (c : Nat) : Option Nat :=
  let rd := fld c 11 7
  let rs2 := fld c 6 2
  match fld c 15 13 with
  | 0 => some (iType (pack [(fld c 12 12, 5), (fld c 6 2, 0)]) rd 1 rd 0x13)
  | 2 => if rd = 0 then none else some (iType (pack [(fld c 12 12, 5), (fld c 6 4, 2), (fld c 3 2, 6)]) 2 2 rd 0x03)
  | 3 => if rd = 0 then none else some (iType (pack [(fld c 12 12, 5), (fld c 6 5, 3), (fld c 4 2, 6)]) 2 3 rd 0x03)
  | 4 =>
    if fld c 12 12 = 0 then
      if rs2 = 0 then (if rd = 0 then none else some (iType 0 rd 0 0 0x67))
      else some (rType 0 rs2 0 0 rd 0x33)
    else if rs2 = 0 then (if rd = 0 then none else some (iType 0 rd 0 1 0x67))
    else some (rType 0 rs2 rd 0 rd 0x33)
  | 6 => some (sType (pack [(fld c 12 9, 2), (fld c 8 7, 6)]) rs2 2 2 0x23)
  | 7 => some (sType (pack [(fld c 12 10, 3), (fld c 9 7, 6)]) rs2 2 3 0x23)
  | _ => none

/-- The 32-bit instruction that a compressed one stands for. -/
def expand (c : Nat) : Option Nat :=
  match c % 4 with
  | 0 => expand0 c
  | 1 => expand1 c
  | 2 => expand2 c
  | _ => none

/-! ### Arithmetic on 64-bit values held as numbers -/

/-- Sign-extend the low n bits to 64. -/
def sext (n v : Nat) : Nat := ofS 64 (toS n (v % 2 ^ n))
def m64 : Nat := 2 ^ 64

/-- OP and OP-IMM (base), by funct3; alt is funct7 bit 5. -/
def aluOp (f3 : Nat) (alt : Bool) (a b : Nat) : Nat :=
  match f3 with
  | 0 => if alt then (a + m64 - b) % m64 else (a + b) % m64
  | 1 => a * 2 ^ (b % 64) % m64
  | 2 => b2n (decide (toS 64 a < toS 64 b))
  | 3 => b2n (decide (a < b))
  | 4 => a ^^^ b
  | 5 => if alt then ofS 64 (toS 64 a / 2 ^ (b % 64)) else a / 2 ^ (b % 64)
  | 6 => a ||| b
  | _ => a &&& b
/-- The W forms, where the ISA has them. -/
def aluOpW (f3 : Nat) (alt : Bool) (a b : Nat) : Option Nat :=
  let x := a % 2 ^ 32
  let y := b % 2 ^ 32
  match f3 with
  | 0 => some (sext 32 (if alt then x + 2 ^ 32 - y else x + y))
  | 1 => some (sext 32 (x * 2 ^ (y % 32)))
  | 5 => some (if alt then ofS 64 (toS 32 x / 2 ^ (y % 32)) else sext 32 (x / 2 ^ (y % 32)))
  | _ => none
/-- Quotient and remainder toward zero of n-bit values, with the M extension's corners. -/
def divS (n a b : Nat) : Int × Int :=
  let x := toS n a
  let y := toS n b
  if y = 0 then (-1, x) else (Int.tdiv x y, Int.tmod x y)
def divU (a b ones : Nat) : Nat × Nat := if b = 0 then (ones, a) else (a / b, a % b)
/-- The M extension. -/
def mulOp (f3 a b : Nat) : Nat :=
  match f3 with
  | 0 => a * b % m64
  | 1 => ofS 64 (toS 64 a * toS 64 b / 2 ^ 64)
  | 2 => ofS 64 (toS 64 a * (b : Int) / 2 ^ 64)
  | 3 => a * b / m64
  | 4 => ofS 64 (divS 64 a b).1
  | 5 => (divU a b (m64 - 1)).1
  | 6 => ofS 64 (divS 64 a b).2
  | _ => (divU a b (m64 - 1)).2
def mulOpW (f3 a b : Nat) : Option Nat :=
  let x := a % 2 ^ 32
  let y := b % 2 ^ 32
  match f3 with
  | 0 => some (sext 32 (x * y))
  | 4 => some (sext 32 (ofS 32 (divS 32 x y).1))
  | 5 => some (sext 32 (divU x y (2 ^ 32 - 1)).1)
  | 6 => some (sext 32 (ofS 32 (divS 32 x y).2))
  | 7 => some (sext 32 (divU x y (2 ^ 32 - 1)).2)
  | _ => none
def branchTaken (f3 a b : Nat) : Option Bool :=
  match f3 with
  | 0 => some (a == b)
  | 1 => some (a != b)
  | 4 => some (decide (toS 64 a < toS 64 b))
  | 5 => some (decide (toS 64 b ≤ toS 64 a))
  | 6 => some (decide (a < b))
  | 7 => some (decide (b ≤ a))
  | _ => none

/-! ### CSRs (Table 5.2) -/

def csrRead (h now tb csr : Nat) (x : Hen) : Option Nat :=
  match csr with
  | 0xF14 => some h
  | 0xC00 => some ((now - x.startAt) * 3 / 2 % m64)
  | 0xC01 => some (tb % m64)
  | 0xC02 => some (x.instret % m64)
  | 0x7C0 => some x.hfmt
  | 0xFC0 => some x.job
  | 0xFC1 => some x.sliver
  | 0xFC2 => some x.rank
  | 0xFC3 => some x.nranks
  | _ => none
/-- Zicsr: only hfmt takes a write; a write of a read-only CSR is illegal. -/
def csrInsn (h now tb w : Nat) (x : Hen) : Except Trap Hen :=
  let csr := fld w 31 20
  let f3 := fld w 14 12
  let rs := fld w 19 15
  let rd := fld w 11 7
  match csrRead h now tb csr x with
  | none => .error .illegal
  | some old =>
    let src := if f3 < 4 then xGet x rs else rs
    let writes := f3 % 4 == 1 || rs != 0
    let new := match f3 % 4 with
      | 1 => src
      | 2 => old ||| src
      | _ => old &&& (m64 - 1 - src)
    if f3 % 4 = 0 then .error .illegal
    else if writes && csr != 0x7C0 then .error .illegal
    else
      let x := if writes then { x with hfmt := new % 2 ^ 13 } else x
      .ok (xSet x rd old)

/-! ### Loads and stores (R143 to R146) -/

def scalarLoad (f3 rd a : Nat) (x : Hen) : Except Trap Hen :=
  let n := 2 ^ (f3 % 4)
  if f3 = 7 then .error .illegal
  else match lsCheck x a n true with
    | some (.access b) => .error (.access b)
    | t =>
      if a % n != 0 then .error (.misaligned a)
      else match t with
        | some t => .error t
        | none =>
          let v := natOf (lsRead x a n)
          .ok (xSet x rd (if f3 < 4 then sext (8 * n) v else v))
def scalarStore (f3 a v : Nat) (x : Hen) : Except Trap Hen :=
  let n := 2 ^ f3
  if 3 < f3 then .error .illegal
  else match lsCheck x a n false with
    | some (.access b) => .error (.access b)
    | t =>
      if a % n != 0 then .error (.misaligned a)
      else match t with
        | some t => .error t
        | none => .ok (lsWrite x a (bytesOf n v))

/-! ### One instruction -/

/-- Execute a 32-bit instruction of n bytes at the pc; the hen it gives has its next pc. -/
def scalar32 (h now tb n w : Nat) (x : Hen) : Except Trap Hen :=
  let rd := fld w 11 7
  let f3 := fld w 14 12
  let a := xGet x (fld w 19 15)
  let b := xGet x (fld w 24 20)
  let f7 := fld w 31 25
  let imm := sext 12 (fld w 31 20)
  let next (y : Hen) : Hen := { y with pc := x.pc + n }
  let jump (t : Nat) (y : Hen) : Hen := { y with pc := t % m64 }
  match fld w 6 0 with
  | 0x37 => .ok (next (xSet x rd (sext 32 (w / 2 ^ 12 * 2 ^ 12))))
  | 0x17 => .ok (next (xSet x rd ((x.pc + sext 32 (w / 2 ^ 12 * 2 ^ 12)) % m64)))
  | 0x6F =>
    let k := sext 21 (pack [(fld w 31 31, 20), (fld w 30 21, 1), (fld w 20 20, 11), (fld w 19 12, 12)])
    .ok (jump (x.pc + k) (xSet x rd (x.pc + n)))
  | 0x67 => if f3 = 0 then .ok (jump ((a + imm) % m64 / 2 * 2) (xSet x rd (x.pc + n))) else .error .illegal
  | 0x63 =>
    let k := sext 13 (pack [(fld w 31 31, 12), (fld w 30 25, 5), (fld w 11 8, 1), (fld w 7 7, 11)])
    match branchTaken f3 a b with
    | none => .error .illegal
    | some true => .ok (jump (x.pc + k) x)
    | some false => .ok (next x)
  | 0x03 => (scalarLoad f3 rd ((a + imm) % m64) x).map next
  | 0x23 => (scalarStore f3 ((a + sext 12 (f7 * 32 + rd)) % m64) b x).map next
  | 0x13 =>
    if f3 = 1 then (if f7 / 2 = 0 then .ok (next (xSet x rd (aluOp 1 false a (imm % 64)))) else .error .illegal)
    else if f3 = 5 then
      (if f7 / 2 = 0 || f7 / 2 = 0x10 then .ok (next (xSet x rd (aluOp 5 (f7 / 2 == 0x10) a (imm % 64))))
       else .error .illegal)
    else .ok (next (xSet x rd (aluOp f3 false a imm)))
  | 0x1B =>
    if f3 = 0 then .ok (next (xSet x rd (sext 32 (a + imm))))
    else if (f3 = 1 && f7 = 0) || (f3 = 5 && (f7 = 0 || f7 = 0x20)) then
      match aluOpW f3 (f7 == 0x20) a (fld w 24 20) with
      | some v => .ok (next (xSet x rd v))
      | none => .error .illegal
    else .error .illegal
  | 0x33 =>
    if f7 = 1 then .ok (next (xSet x rd (mulOp f3 a b)))
    else if f7 = 0 || (f7 = 0x20 && (f3 = 0 || f3 = 5)) then .ok (next (xSet x rd (aluOp f3 (f7 == 0x20) a b)))
    else .error .illegal
  | 0x3B =>
    let v := if f7 = 1 then mulOpW f3 a b
      else if f7 = 0 || (f7 = 0x20 && (f3 = 0 || f3 = 5)) then aluOpW f3 (f7 == 0x20) a b
      else none
    match v with
    | some v => .ok (next (xSet x rd v))
    | none => .error .illegal
  | 0x0F => if f3 = 0 then .ok (next x) else .error .illegal
  | 0x73 => if f3 = 0 then .error .illegal else (csrInsn h now tb w x).map next
  | _ => .error .illegal

/-- The operation a FUNCT7 names among those that Table 5.7 lists for an opcode and FUNCT3, in the table's order from 1, or
none: the values are the part's own (DESIGN CHOICE, log 113). An instruction that lists none has FUNCT7 0. -/
def funct7Op (op f3 f7 : Nat) : Option Nat :=
  let ops (n : Nat) : Option Nat := let k := Config.funct7 op f3 f7; if 1 ≤ k ∧ k ≤ n then some k else none
  match op, f3 with
  | 0x0B, 4 => if f7 < 2 then some (f7 + 1) else none
  -- add, sub, mul, fma, min, max, and the ten integer operations
  | 0x2B, 0 => ops 16
  | 0x2B, 1 => ops 4
  | 0x2B, 4 => ops 2
  | 0x2B, 6 => ops 4
  -- three comparisons and the select
  | 0x2B, 7 => ops 4
  | 0x7B, 0 => ops 2
  | _, _ => if f7 = 0 then some 1 else none
/-- FUNCT3 values of Table 5.7. -/
def funct3Ok (op f3 : Nat) : Bool :=
  match op with
  | 0x0B => f3 == 0 || f3 == 1 || f3 == 2 || f3 == 4
  | 0x2B => true
  | 0x5B => decide (f3 ≤ 5)
  | 0x7B => f3 == 0 || f3 == 1 || f3 == 2 || f3 == 4
  | _ => false
/-- The tile instructions' encodings (Table 5.6, Table 5.7, R170): FUNCT3, FUNCT7, and the tile fields, whose upper two bits
are zero. A tile that is written stands in RD, TMMA's A and a TSTORE's tile in RS2, the tile of VROW and of VMOVE's tile row
to V in RS1 (DEDUCED from the fields' meanings, log 32). -/
def customOk (w : Nat) : Bool :=
  let op := fld w 6 0
  let f3 := fld w 14 12
  let tile (r : Nat) : Bool := decide (r < 8)
  let rd := fld w 11 7
  let rs1 := fld w 19 15
  let rs2 := fld w 24 20
  funct3Ok op f3 && (match funct7Op op f3 (fld w 31 25) with
    | none => false
    | some k =>
      if op = 0x0B then (if f3 = 2 then tile rs2 else tile rd && (f3 != 4 || tile rs2))
      else if op = 0x2B then
        (if f3 = 4 then tile rs1 else if f3 = 5 then tile rd
         else if f3 = 6 then (if k = 1 then tile rs1 else if k = 2 then tile rd else true) else true)
      else true)

/-- The instruction at the pc: its bytes, length and 32-bit form, or why there is none. -/
def fetchInsn (x : Hen) : Except Trap (Nat × Nat) :=
  if imemBytes < x.pc + 2 then .error (.access x.pc)
  else
    let lo := natOf (memRead x.imem x.pc 2)
    if lo % 4 = 3 then
      if imemBytes < x.pc + 4 then .error (.access x.pc)
      else .ok (4, natOf (memRead x.imem x.pc 4))
    else match expand lo with
      | some w => .ok (2, w)
      | none => .error .illegal

/-- One scalar instruction of a running hen; a tile instruction at the pc is another row's. -/
def scalarInsn (h : Nat) (s : State) : State :=
  if !running h s then s
  else
    let x := henOf h s
    match fetchInsn x with
    | .error t => henFault h t s
    | .ok (n, w) =>
      if n = 4 && customOk w then s
      else match scalar32 h s.now (timebase s) n w x with
        | .ok y => setHen h { y with instret := y.instret + 1, retired := y.retired + 1 } s
        | .error t => henFault h t s

end Sys2Proof.Machine
end

