-- ==== Sys2Proof/Machine/Vector.lean ====
section
/-!
DEFINITION. Tile moves, the vector unit, special functions and the top-k unit (05_hens_and_arithmetic.md).
-/
namespace Sys2Proof.Machine

/-- FMT_A, FMT_B, FMT_OUT and SAT of hfmt (Table 5.2). -/
def fmtA (x : Hen) : Nat := fld x.hfmt 3 0
def fmtB (x : Hen) : Nat := fld x.hfmt 7 4
def fmtOut (x : Hen) : Nat := fld x.hfmt 11 8
def satOut (x : Hen) : Bool := bit x.hfmt 12

/-! ### Packed elements -/

/-- Bytes that n elements of a format take. -/
def packedBytes (code n : Nat) : Nat := (n * elemBits code + 7) / 8
/-- Pack elements at the format's width, the first lowest. -/
def packElems (code : Nat) (es : List Nat) : List Byte :=
  let b := elemBits code
  bytesOf (packedBytes code es.length) (es.foldr (fun e acc => acc * 2 ^ b + e % 2 ^ b) 0)
/-- The i-th packed element. -/
def elemAt (code : Nat) (bs : List Byte) (i : Nat) : Nat :=
  let b := elemBits code
  let lo := i * b
  natOf ((bs.drop (lo / 8)).take (lo % 8 / 8 + (lo % 8 + b + 7) / 8)) / 2 ^ (lo % 8) % 2 ^ b

/-- A block of 32 values as it stands in the local store: packed elements, then for MX the scale byte. -/
def blockBytes (code : Nat) : Nat := packedBytes code 32 + b2n (isMx code)
def narrowBlock (code : Nat) (sat : Bool) (ws : List W32) : List Byte :=
  if isMx code then
    let (sc, es) := narrowMx code ws
    packElems code es ++ [BitVec.ofNat 8 sc]
  else packElems code (ws.map (narrow code sat))
def widenBlock (code : Nat) (bs : List Byte) : List W32 :=
  let sc := if isMx code then scaleOf (natOf ((bs.drop (packedBytes code 32)).take 1)) else some 0
  (List.range 32).map (fun i => widen code (elemAt code bs i) sc)

/-! ### Tiles (R145, R160, R161) -/

def tzeroI (td : Nat) (x : Hen) : Except Trap Hen :=
  if 8 ≤ td then .error .illegal
  else .ok { x with tiles := memClear x.tiles (td * 4096) (td * 4096 + 4096) }
def tloadI (td rs1 : Nat) (x : Hen) : Except Trap Hen :=
  let a := xGet x rs1
  if 8 ≤ td then .error .illegal
  else match lsCheck x a 2176 true with
    | some t => .error t
    | none => .ok (tileSet x td (lsRead x a 2176))
/-- An accumulator narrowed to FMT_OUT, row by row: the packed data, then for MX one scale byte for each row. -/
def tileOut (x : Hen) (ts : Nat) : List Byte :=
  let rows := accRows x ts
  if isMx (fmtOut x) then
    let bs := rows.map (narrowMx (fmtOut x))
    bs.flatMap (fun b => packElems (fmtOut x) b.2) ++ bs.map (fun b => BitVec.ofNat 8 b.1)
  else rows.flatMap (fun r => packElems (fmtOut x) (r.map (narrow (fmtOut x) (satOut x))))
def tstoreI (ts rs1 : Nat) (x : Hen) : Except Trap Hen :=
  let a := xGet x rs1
  if 8 ≤ ts || !fmtValid (fmtOut x) then .error .illegal
  else
    let bs := tileOut x ts
    match lsCheck x a bs.length false with
    | some t => .error t
    | none => .ok (lsWrite x a bs)

/-! ### Vector arithmetic (R152 to R156) -/

def vMap1 (vd v1 : Nat) (f : W32 → W32) (x : Hen) : Except Trap Hen := .ok (vSet x vd ((vLanes x v1).map f))
def vMap2 (vd v1 v2 : Nat) (f : W32 → W32 → W32) (x : Hen) : Except Trap Hen :=
  .ok (vSet x vd (List.zipWith f (vLanes x v1) (vLanes x v2)))
/-- The third operand is the destination's old value (DESIGN CHOICE, log 30). -/
def vMap3 (vd v1 v2 : Nat) (f : W32 → W32 → W32 → W32) (x : Hen) : Except Trap Hen :=
  .ok (vSet x vd ((List.range 32).map (fun i => f (vLane x v1 i) (vLane x v2 i) (vLane x vd i))))

/-- A mask lane's reading and writing (log 31). -/
def maskLane (b : Bool) : W32 := if b then (if Config.maskT = Config.maskF then Config.maskF ^^^ 1 else Config.maskT)
  else Config.maskF
def maskHolds (w : W32) : Bool := if w = maskLane true then true else if w = maskLane false then false
  else Config.maskOther w
def selLane (m a b : W32) : W32 := if maskHolds m then a else b

/-- A 32-bit integer operation on a lane; d is the destination's old lane, the mask of a select. -/
def intLane (op : IntOp) (a b d : W32) : W32 :=
  let n := b.toNat
  match op with
  | .add => a + b
  | .sub => a - b
  | .cmpEq => maskLane (a == b)
  | .cmpLt => maskLane (decide (toS 32 a.toNat < toS 32 b.toNat))
  | .cmpLtu => maskLane (decide (a.toNat < b.toNat))
  | .shl => if n < 32 then a <<< n else Config.shiftWide 0 a b
  | .shr => if n < 32 then a >>> n else Config.shiftWide 1 a b
  | .sar => if n < 32 then BitVec.sshiftRight a n else Config.shiftWide 2 a b
  | .sel => selLane d a b
  | .cvt => BitVec.ofInt 32 (toInt32 a)
/-- Comparison of binary32 lanes; a NaN compares false. -/
def cmpLane (op : CmpOp) (a b : W32) : W32 :=
  let x := dec32 a
  let y := dec32 b
  if isNan x || isNan y then maskLane false
  else match op with
    | .eq => maskLane (eqF x y)
    | .lt => maskLane (ltF x y)
    | .le => maskLane (ltF x y || eqF x y)

/-- One row's sum: lanes j and j + 16, then 8, 4, 2, 1, each step rounded (R155). -/
def foldTree (f : W32 → W32 → W32) : Nat → List W32 → W32
  | 0, l => (l[0]?).getD 0
  | k + 1, l => foldTree f k (List.zipWith f (l.take (2 ^ k)) (l.drop (2 ^ k)))
def vrowI (vd ts : Nat) (f : W32 → W32 → W32) (x : Hen) : Except Trap Hen :=
  if 8 ≤ ts then .error .illegal
  else .ok (vSet x vd ((accRows x ts).map (foldTree f 5)))
def vscalerowsI (tc vs : Nat) (x : Hen) : Except Trap Hen :=
  if 8 ≤ tc then .error .illegal
  else .ok (accSet x tc ((List.range 16).flatMap (fun i =>
    (List.range 32).map (fun j => fmul32 (accGet x tc i j) (vLane x vs i)))))

/-- VMOVE (Table 5.7). -/
def vmoveI (m : MoveOp) (x : Hen) : Except Trap Hen :=
  match m with
  | .rowToV ts row vd =>
    if 8 ≤ ts || 16 ≤ row then .error .illegal
    else .ok (vSet x vd ((List.range 32).map (accGet x ts row)))
  | .vToRow vs td row =>
    if 8 ≤ td || 16 ≤ row then .error .illegal
    else .ok { x with tiles := memWrite x.tiles (td * 4096 + row * 128) ((vLanes x vs).flatMap (fun w => bytesOf 4 w.toNat)) }
  | .laneToX vs lane rd =>
    if 32 ≤ lane then .error .illegal
    else
      let w := vLane x vs lane
      .ok (xSet x rd ((Config.laneUpper w).toNat * 2 ^ 32 + w.toNat))
  | .xToLanes rs vd => .ok (vSet x vd (List.replicate 32 (BitVec.ofNat 32 (xGet x rs))))

/-! ### Vector loads and stores (R159, R160) -/

def vloadI (vd rs1 : Nat) (x : Hen) : Except Trap Hen :=
  let a := xGet x rs1
  if !fmtValid (fmtA x) then .error .illegal
  else match lsCheck x a (blockBytes (fmtA x)) true with
    | some t => .error t
    | none => .ok (vSet x vd (widenBlock (fmtA x) (lsRead x a (blockBytes (fmtA x)))))
def vstoreI (vs rs1 : Nat) (x : Hen) : Except Trap Hen :=
  let a := xGet x rs1
  if !fmtValid (fmtOut x) then .error .illegal
  else match lsCheck x a (blockBytes (fmtOut x)) false with
    | some t => .error t
    | none => .ok (lsWrite x a (narrowBlock (fmtOut x) (satOut x) (vLanes x vs)))

/-! ### The top-k unit (R163 to R165) -/

/-- A candidate ranks before another: by key in the direction, NaN last, ties to the lower ID; two of one ID whose keys
differ in bits only (a zero's sign, a NaN's payload) by those bits (DESIGN CHOICE, log 88). -/
def tkBefore (largest : Bool) (a b : W32 × W64) : Bool :=
  let x := dec32 a.1
  let y := dec32 b.1
  let idLess := decide (a.2.toNat < b.2.toNat) || (a.2 == b.2 && decide (a.1.toNat < b.1.toNat))
  if isNan x then isNan y && idLess
  else if isNan y then true
  else if eqF x y then idLess
  else if largest then ltF y x else ltF x y
def tkInsert (largest : Bool) (c : W32 × W64) : List (W32 × W64) → List (W32 × W64)
  | [] => [c]
  | d :: r => if tkBefore largest c d then c :: d :: r else d :: tkInsert largest c r
def tkOffer (t : TopK) (c : W32 × W64) : TopK := { t with cands := (tkInsert t.largest c t.cands).take t.k }
def tkinitI (k : Nat) (largest : Bool) (x : Hen) : Except Trap Hen :=
  if k = 0 || 1024 < k then .error .illegal
  else .ok { x with topk := { k := k, largest := largest, cands := [] } }
def tkinsI (vk vlo vhi : Nat) (x : Hen) : Except Trap Hen :=
  let cs := (List.range 32).map (fun i => (vLane x vk i,
    BitVec.ofNat 64 ((vLane x vhi i).toNat * 2 ^ 32 + (vLane x vlo i).toNat)))
  .ok { x with topk := cs.foldl tkOffer x.topk }
def tkreadI (rs1 : Nat) (x : Hen) : Except Trap Hen :=
  let a := xGet x rs1
  let bs := x.topk.cands.flatMap (fun c => bytesOf 4 c.1.toNat ++ bytesOf 4 0 ++ bytesOf 8 c.2.toNat)
  match lsCheck x a bs.length false with
  | some t => .error t
  | none => .ok (lsWrite x a bs)

/-! ### DMA and messages (R145, R166 to R168) -/

/-- The lines of a pattern: (pool address, local address, bytes). -/
def patLines (p : DmaPat) : List (Nat × Nat × Nat) :=
  (List.range p.rows).flatMap (fun r =>
    (splitLines (p.pool + r * p.poolStride) p.rowBytes).map (fun l =>
      (l.1 * 128 + l.2.1, p.loc + r * p.locStride + l.2.2.2, l.2.2.1)))
abbrev dmaCmds : Nat := 16
abbrev dmaOpen : Nat := 64
def dmaCount (x : Hen) : Nat := (x.dma.map (·.cmd)).eraseDups.length
/-- Queue a transfer; a DMAWR takes its bytes now. -/
def dmaI (write : Bool) (p : DmaPat) (x : Hen) : Except Trap Hen :=
  let ls := patLines p
  if 4096 < p.rows || 65536 < p.rows * p.rowBytes then .error .illegal
  else match ls.find? (fun l => decide (lsBytes < l.2.1 + l.2.2)) with
    | some l => .error (.access l.2.1)
    | none =>
      if dmaCmds ≤ dmaCount x then .error .wait
      else match ls.find? (fun l => write && x.badWords.any (fun w => decide (l.2.1 < w * 8 + 8) &&
          decide (w * 8 < l.2.1 + l.2.2))) with
        | some l => .error (.bad l.2.1)
        | none =>
          let reqs := (List.range ls.length).filterMap (fun i => (ls[i]?).map (fun l =>
            ({ cmd := x.nextCmd, id := x.nextCmd + i, node := 2, write := write, pool := l.1, loc := l.2.1, bytes := l.2.2,
               data := if write then lsRead x l.2.1 l.2.2 else [], issued := false, res := none } : DmaReq)))
          .ok { x with dma := x.dma ++ reqs, nextCmd := x.nextCmd + ls.length + 1 }
def dmawaitI (n : Nat) (x : Hen) : Except Trap Hen := if dmaCount x ≤ n then .ok x else .error .wait

def msgrecvI (loc : Nat) (x : Hen) : Except Trap Hen :=
  match x.msgs with
  | [] => .error .wait
  | (_, m) :: r =>
    match lsCheck x loc 64 false with
    | some t => .error t
    | none => .ok (lsWrite { x with msgs := r } loc m)
def msgpollI (rd : Nat) (x : Hen) : Except Trap Hen := .ok (xSet x rd (Config.pollWord x.msgs.length).toNat)

end Sys2Proof.Machine
end

