-- ==== Sys2Proof/Machine/Coding.lean ====
section
/-!
DEFINITION. Ebribry coding: blocks, codebooks and their references, coded tensors, the items ENCODE, DECODE and
CODEBOOK_SET, background recoding (07_ebribry_coding.md).
-/
namespace Sys2Proof.Machine

/-! ### The coded block (Tables 7.1 to 7.3) -/

def bMode (h : Nat) : Nat := fld h 127 126
def bSlow (h : Nat) : Bool := bit h 125
def bFmt (h : Nat) : Nat := fld h 123 120
def bTuple (h : Nat) : Nat := fld h 119 116
def bCw (h : Nat) : Nat := fld h 115 114
def bGen (h : Nat) : Nat := fld h 113 110
def bBook (h : Nat) : Nat := fld h 109 96
def bTuples (h : Nat) : Nat := fld h 95 85
def bEsc (h : Nat) : Nat := fld h 84 74
def bBase (h : Nat) : Nat := fld h 73 66
def bOffset (h : Nat) : Nat := fld h 63 32
def bLen (h : Nat) : Nat := fld h 31 16
def bCheck (h : Nat) : Nat := fld h 15 0

/-- Code width in bits. -/
def cwBits (cw : Nat) : Nat := 8 + 2 * cw
def escOf (cw : Nat) : Nat := 2 ^ cwBits cw - 1
/-- Exponent and mantissa bits of an EXPPLANE format. -/
def expBits (code : Nat) : Nat := if code = 2 then 5 else 8
def manBits (code : Nat) : Nat := if code = 0 then 23 else if code = 1 then 7 else 10
def scaleBytes (code n t : Nat) : Nat := if isMx code then n * t / 32 else 0
def rawLen (code n t : Nat) : Nat := cdiv (n * t * elemBits code) 8 + scaleBytes code n t
def tupleLen (code n t cw e : Nat) : Nat :=
  cdiv (n * cwBits cw) 8 + cdiv (e * t * elemBits code) 8 + scaleBytes code n t
def expLen (code n e : Nat) : Nat :=
  cdiv (12 * n) 8 + cdiv (4 * e * expBits code) 8 + cdiv (4 * n * (1 + manBits code)) 8

/-- A row of Table 7.1. BYTE blocks are the attic coders' alone. -/
def modeOk (mode fmt tuple cw book gen : Nat) : Bool :=
  match mode with
  | 0 => fmtValid fmt && decide (2 ≤ tuple) && decide (tuple ≤ 8) && cw == 0 && book == 0 && gen == 0
  | 1 => fmtValid fmt && decide (2 ≤ tuple) && decide (tuple ≤ 8) && decide (tuple * elemBits fmt ≤ 64) && decide (cw ≤ 2) &&
      decide (1 ≤ book) && decide (book ≤ 0x2FFF)
  | 2 => decide (fmt ≤ 2) && tuple == 4 && cw == 2 && book == 0 && gen == 0
  | _ => false

/-- Items of b bits from a section. -/
def secItems (b n : Nat) (v : Nat) : List Nat := (List.range n).map (fun i => v / 2 ^ (b * i) % 2 ^ b)
def secPack (b : Nat) (l : List Nat) : Nat := l.foldr (fun e acc => acc * 2 ^ b + e % 2 ^ b) 0
/-- A sectionOfs value and whether its padding is zero. -/
def sectionOf (bs : List Byte) (off bits : Nat) : Nat × Bool :=
  let v := natOf ((bs.drop off).take (cdiv bits 8))
  (v % 2 ^ bits, decide (v < 2 ^ bits))

/-- Fletcher-16 with modulus 255 (R216). -/
def fletcher (bs : List Byte) : Nat :=
  let (a, b) := bs.foldl (fun (x : Nat × Nat) c => ((x.1 + c.toNat) % 255, (x.2 + (x.1 + c.toNat) % 255) % 255)) (0, 0)
  b * 256 + a
/-- The RAW payload of tuples and scales. -/
def rawBytes (code t : Nat) (ts : List Nat) (scales : List Byte) : List Byte :=
  bytesOf (cdiv (ts.length * t * elemBits code) 8) (secPack (t * elemBits code) ts) ++ scales

/-- Put literals in the places of the escapes. -/
def fillEsc (esc : Nat) (f : Nat → Option Nat) : List Nat → List Nat → Option (List Nat)
  | [], _ => some []
  | c :: r, lits =>
    if c = esc then match lits with
      | [] => none
      | l :: ls => (fillEsc esc f r ls).map (fun x => l :: x)
    else match f c, fillEsc esc f r lits with
      | some v, some x => some (v :: x)
      | _, _ => none

/-- Why a block does not decode. -/
inductive BlockErr where
  | invalid | check
  deriving DecidableEq, Repr

/-- Decode a block's payload to its tuples and scales (R213, R217); entries are those of the generation it names. -/
def decodeBlock (h : Nat) (entries : Option (List Nat)) (bs : List Byte) : Except BlockErr (List Nat × List Byte) :=
  let f := bFmt h
  let t := bTuple h
  let n := bTuples h
  let e := bEsc h
  let w := elemBits f
  let s := scaleBytes f n t
  let fine := modeOk (bMode h) f t (bCw h) (bBook h) (bGen h) && !bit h 124 && fld h 65 64 == 0 && decide (1 ≤ n) &&
    decide (n ≤ 1024) && (!isMx f || n * t % 32 == 0) && (bMode h == 2 || bBase h == 0)
  if !fine then .error .invalid
  else
    let out : Option (List Nat × List Byte) :=
      match bMode h with
      | 0 =>
        let (v, ok) := sectionOf bs 0 (n * t * w)
        if ok && e == 0 && bLen h == rawLen f n t then
          some (secItems (t * w) n v, (bs.drop (cdiv (n * t * w) 8)).take s)
        else none
      | 1 =>
        match entries with
        | none => none
        | some es =>
          let cb := cwBits (bCw h)
          let (cv, ok1) := sectionOf bs 0 (n * cb)
          let (lv, ok2) := sectionOf bs (cdiv (n * cb) 8) (e * t * w)
          let codes := secItems cb n cv
          if ok1 && ok2 && bLen h == tupleLen f n t (bCw h) e && (codes.filter (· == escOf (bCw h))).length == e then
            (fillEsc (escOf (bCw h)) (fun c => es[c]?) codes (secItems (t * w) e lv)).map (fun ts =>
              (ts, (bs.drop (cdiv (n * cb) 8 + cdiv (e * t * w) 8)).take s))
          else none
      | _ =>
        let x := expBits f
        let m := manBits f
        let (cv, ok1) := sectionOf bs 0 (12 * n)
        let (lv, ok2) := sectionOf bs (cdiv (12 * n) 8) (4 * e * x)
        let (rv, ok3) := sectionOf bs (cdiv (12 * n) 8 + cdiv (4 * e * x) 8) (4 * n * (1 + m))
        let codes := secItems 12 n cv
        let exps (c : Nat) : Option Nat :=
          let ds := secItems 3 4 c
          if ds.all (fun d => decide (d ≤ bBase h) && decide (bBase h - d < 2 ^ x)) then
            some (secPack x (ds.map (fun d => bBase h - d))) else none
        if ok1 && ok2 && ok3 && bLen h == expLen f n e && (codes.filter (· == 4095)).length == e then
          (fillEsc 4095 exps codes (secItems (4 * x) e lv)).map (fun es =>
            let rs := secItems (1 + m) (4 * n) rv
            ((List.range n).map (fun i =>
              let ex := secItems x 4 ((es[i]?).getD 0)
              secPack w ((List.range 4).map (fun k =>
                let r := (rs[4 * i + k]?).getD 0
                r / 2 ^ m * 2 ^ (x + m) + (ex[k]?).getD 0 * 2 ^ m + r % 2 ^ m))), []))
        else none
    match out with
    | none => .error .invalid
    | some (ts, sc) => if fletcher (rawBytes f t ts sc) = bCheck h then .ok (ts, sc) else .error .check

/-- Does a valid block break the encoder rule (R236)? -/
def blockSlow (h : Nat) : Bool :=
  let n := bTuples h
  let raw := rawLen (bFmt h) n (bTuple h)
  bMode h != 0 && (decide (n < 8 * bEsc h) || decide (16 * ((raw : Int) - (bLen h : Int)) < (n : Int)))

/-- A header with OFFSET 0. -/
def mkHeader (mode fmt t cw gen book n e base len chk : Nat) : Nat :=
  pack [(mode, 126), (fmt, 120), (t, 116), (cw, 114), (gen, 110), (book, 96), (n, 85), (e, 74), (base, 66), (len, 16),
    (chk, 0)]

/-- The encoder's decision (R221, R233): header and payload of a block. -/
def encodeBlock (mode fmt t cw book gen : Nat) (entries : List Nat) (ts : List Nat) (scales : List Byte) :
    Nat × List Byte :=
  let n := ts.length
  let w := elemBits fmt
  let rb := rawBytes fmt t ts scales
  let chk := fletcher rb
  let raw := (mkHeader 0 fmt t 0 0 0 n 0 0 rb.length chk, rb)
  let decide' (e coded : Nat) : Bool := decide (n < 8 * e) || decide (16 * ((rb.length : Int) - (coded : Int)) < (n : Int))
  if mode = 1 then
    let codes := ts.map (fun x => (entries.findIdx? (· == x)).getD (escOf cw))
    let lits := (List.zip ts codes).filterMap (fun p => if p.2 = escOf cw then some p.1 else none)
    let len := tupleLen fmt n t cw lits.length
    if decide' lits.length len then raw
    else (mkHeader 1 fmt t cw gen book n lits.length 0 len chk,
      bytesOf (cdiv (n * cwBits cw) 8) (secPack (cwBits cw) codes) ++
      bytesOf (cdiv (lits.length * t * w) 8) (secPack (t * w) lits) ++ scales)
  else if mode = 2 then
    let x := expBits fmt
    let m := manBits fmt
    let exps := ts.map (fun v => (secItems w 4 v).map (fun el => el / 2 ^ m % 2 ^ x))
    let base := (exps.flatMap id).foldl max 0
    let code (es : List Nat) : Nat :=
      let c := secPack 3 (es.map (fun k => base - k))
      if es.any (fun k => decide (7 < base - k)) then 4095 else c
    let codes := exps.map code
    let lits := (List.zip exps codes).filterMap (fun p => if p.2 = 4095 then some (secPack x p.1) else none)
    let res := ts.flatMap (fun v => (secItems w 4 v).map (fun el => el / 2 ^ (x + m) * 2 ^ m + el % 2 ^ m))
    let len := expLen fmt n lits.length
    if decide' lits.length len then raw
    else (mkHeader 2 fmt 4 2 0 0 n lits.length base len chk,
      bytesOf (cdiv (12 * n) 8) (secPack 12 codes) ++ bytesOf (cdiv (4 * lits.length * x) 8) (secPack (4 * x) lits) ++
      bytesOf (cdiv (4 * n * (1 + m)) 8) (secPack (1 + m) res))
  else raw

/-! ### Codebooks and references (R219 to R226) -/

/-- The entries of a live generation that a job's work may decode with a block of a shape. -/
def entriesFor (job h : Nat) (s : State) : Option (List Nat) :=
  match bookOf (bBook h) s with
  | none => none
  | some b =>
    if b.owner = job && b.fmt = bFmt h && b.tuple = bTuple h && b.cw = bCw h then (cbGenOf b (bGen h)).map (·.entries)
    else none
/-- References of a generation (R223). No unit of the block sends tuple blocks inline through the switch core: in frames they
are opaque payload (R238), and an engine's buffer holds none. -/
def genRefs (cb g : Nat) (s : State) : Nat :=
  let stored := lsum (s.coding.tensors.flatMap (fun t =>
    t.refs.filterMap (fun r => if r.1 = cb && r.2.1 = g then some r.2.2 else none)))
  let items := (s.work.items.filter (fun i => match i.2.extra with
    | .code c w rs => (c == cb && w == g) || rs.contains (cb, g)
    | _ => false)).length
  let hens := (s.hens.hens.filter (fun h => h.2.slots.contains (cb, g))).length
  let attic := if 0x3000 ≤ cb then
      let mine (ck : Nat) : Bool := match jobOf (crateJob ck s) s with | some (sl, _) => atticBook sl == cb | none => false
      let cks := (s.tiers.crates.filter (fun c => c.2.tier == tierAttic && c.2.agen == g && mine c.1)).map (·.1) ++
        (s.tiers.moves.filter (fun m => m.tier == tierAttic && m.gen == g && mine m.crate)).map (·.crate)
      let entries := ((bookOf cb s).bind (fun b => cbGenOf b g)).map (·.entries)
      lsum (cks.map (fun ck => atticBlocks (entries.getD []) ck s))
    else 0
  stored + items + hens + attic
/-- Is an INSTALL of the ID admitted and unfinished? -/
def installing (cb : Nat) (s : State) : Bool :=
  s.work.items.any (fun i => i.2.opcode == ocCodebook && fld i.2.body 767 754 == cb && fld i.2.body 753 752 == 0)

/-- Retire the generations that nothing holds, and free IDs without one (R224). -/
def settleBooks (s : State) : State :=
  each (s.coding.books.map (·.1)) (fun cb s =>
    match bookOf cb s with
    | none => s
    | some b =>
      let newest := (cbNewest b).map (·.gen)
      let gone := b.gens.filter (fun g => genRefs cb g.gen s == 0 && (some g.gen != newest || b.dropping))
      let b' := { b with gens := b.gens.filter (fun g => !gone.contains g) }
      let s := if b'.gens.isEmpty && (!gone.isEmpty || !installing cb s) then
          { s with coding := { s.coding with books := tdel s.coding.books cb } }
        else if gone.isEmpty then s else setBook cb b' s
      each gone (fun g => raise 0x7000 0x01 3 (pack [(g.gen, 16), (cb, 0)])) s) s


/-! ### Tensors (Table 7.7) -/

abbrev tensorMagic : Nat := 0x45425431
def tMagic (t : Nat) : Nat := fld t 1023 992
def tVersion (t : Nat) : Nat := fld t 991 976
def tState (t : Nat) : Nat := fld t 975 974
def tFmt (t : Nat) : Nat := fld t 971 968
def tTuple (t : Nat) : Nat := fld t 967 964
def tMode (t : Nat) : Nat := fld t 963 962
def tCw (t : Nat) : Nat := fld t 961 960
def tBook (t : Nat) : Nat := fld t 959 946
def tGens (t : Nat) : Nat := fld t 945 930
def tTuples (t : Nat) : Nat := fld t 929 919
def tElems (t : Nat) : Nat := fld t 911 864
def tBlocks (t : Nat) : Nat := fld t 863 832
def tCap (t : Nat) : Nat := fld t 831 800
def tUsed (t : Nat) : Nat := fld t 799 768
def tSlow (t : Nat) : Nat := fld t 767 736
def tOk (t : Nat) : Bool := tMagic t == tensorMagic && tVersion t == 1
/-- Where a table entry, and the payload area, of a tensor at an address start. -/
def tEntry (a b : Nat) : Nat := a + 128 + b * 16
def tPay (a blocks : Nat) : Nat := a + 128 + cdiv blocks 8 * 128
/-- Bytes from the header to the end of the payload area. -/
def tBytes (blocks cap : Nat) : Nat := 128 + cdiv blocks 8 * 128 + cap * 128

/-- What the home reads of a descriptor's memory at admission: the content as its member sees it (R99), zero where nothing is
mapped. -/
def peek (d : Desc) (addr n : Nat) (s : State) : Nat :=
  let a := descAsker d s
  natOf ((addrLines addr n).flatMap (fun l =>
    match extAt a.job (fvaSlot l.1) (fvaGran l.1) s with
    | some (ext, e) =>
      let off := extOff e l.1
      let form := match regionOfExt ext s with
        | some (rid, r) => readForm r (boundOf a rid s) (off / crateBytes)
        | none => 0
      lineRead (lineKey ext form (off / 128)) (off % 128) l.2.1 s
    | none => List.replicate l.2.1 0))
/-- Does a range lie wholly in one extent that satisfies a condition? -/
def rangeIn (job addr n : Nat) (p : Extent → Bool) (s : State) : Bool :=
  match extAt job (fvaSlot addr) (fvaGran addr) s with
  | some (_, e) => p e && decide (extOff e addr + n ≤ extBytes e)
  | none => false
/-- Where a tensor's header lies. -/
def tensorAt (job addr : Nat) (s : State) : Nat × Nat :=
  match extAt job (fvaSlot addr) (fvaGran addr) s with
  | some (ext, e) => (ext, extOff e addr)
  | none => (0, 0)

def addRef (cb g n : Nat) (l : List (Nat × Nat × Nat)) : List (Nat × Nat × Nat) :=
  match l with
  | [] => [(cb, g, n)]
  | r :: t => if r.1 = cb && r.2.1 = g then (cb, g, r.2.2 + n) :: t else r :: addRef cb g n t
def subRef (cb g n : Nat) (l : List (Nat × Nat × Nat)) : List (Nat × Nat × Nat) :=
  l.map (fun r => if r.1 = cb && r.2.1 = g then (cb, g, r.2.2 - n) else r)
def modTensor (e : Nat × Nat) (f : List (Nat × Nat × Nat) → List (Nat × Nat × Nat)) (s : State) : State :=
  let old := ((s.coding.tensors.find? (fun t => (t.ext, t.off) == e)).map (·.refs)).getD []
  let rest := s.coding.tensors.filter (fun t => (t.ext, t.off) != e)
  let new := f old
  let more : List TensorRef := if new.isEmpty then [] else [{ ext := e.1, off := e.2, refs := new }]
  { s with coding := { s.coding with tensors := rest ++ more } }
/-- Release a tensor's references, and its blocks waiting for recoding. -/
def dropTensor (e : Nat × Nat) (s : State) : State :=
  { s with coding := { s.coding with tensors := s.coding.tensors.filter (fun t => (t.ext, t.off) != e),
                                       recodeQ := s.coding.recodeQ.filter (fun q => (q.1, q.2.1) != e) } }
/-- A CODED extent enters SCRUBBING (R232). -/
def dropExtTensors (ext : Nat) (s : State) : State :=
  { s with coding := { s.coding with tensors := s.coding.tensors.filter (fun t => t.ext != ext),
                                       recodeQ := s.coding.recodeQ.filter (fun q => q.1 != ext) } }

/-! ### Admission of coding items -/

def admBase : Adm :=
  { bodyOk := true, total := 1, resumable := false, ranges := [], fit := true, quota := true, special := none,
    extra := .none, detail := 0 }

/-- CODEBOOK_SET (R219). -/
def bookAdm (d : Desc) (s : State) : Adm :=
  let b := dBody d
  let cb := fld b 767 754
  let op := fld b 753 752
  let cw := fld b 751 750
  let f := fld b 749 746
  let t := fld b 745 742
  let src := fld b 735 680
  let shapeOk := match bookOf cb s with
    | some k => k.fmt == f && k.tuple == t && k.cw == cw
    | none => true
  let inst := decide (cw < 3) && fmtValid f && decide (2 ≤ t) && decide (t ≤ 8) && decide (t * elemBits f ≤ 64) &&
    src % 128 == 0 && shapeOk
  { admBase with
    bodyOk := decide (1 ≤ cb) && decide (cb ≤ 0x2FFF) && decide (op ≤ 1) && (op == 1 || inst)
    ranges := if op = 0 then [(src, (2 ^ cwBits cw - 1) * 8, false)] else []
    special := match bookOf cb s with
      | some k => if k.owner = d.qu.job then none else some .denied
      | none => none }

/-- Blocks of a tensor body, and its blocks-per-sliver split. -/
def bodyTuples (b : Nat) : Nat := if fld b 733 723 = 0 then 1024 else fld b 733 723
def blocksFor (elems t n : Nat) : Nat := cdiv elems (t * n)
abbrev blocksPerSliver : Nat := 16

/-- The codebook conditions of an item that writes TUPLE blocks: the generation to use, or the refusal. -/
def bookCond (job cb gen : Nat) (newest : Bool) (s : State) : Except Status Nat :=
  match bookOf cb s with
  | none => .error .stale
  | some k =>
    if k.owner != job then .error .denied
    else if k.dropping then .error .stale
    else
      let g := if newest then ((cbNewest k).map (·.gen)).getD 16 else gen
      if (cbGenOf k g).isSome then .ok g else .error .stale
/-- Generations that a tensor's GENS names under its codebook. -/
def gensRead (t : Nat) : List (Nat × Nat) := if tBook t = 0 then [] else (bitsOf (tGens t) 16).map (fun g => (tBook t, g))
/-- May a job's work read a tensor's codebook? -/
def readCond (job t : Nat) (s : State) : Option Status :=
  if tBook t = 0 then none
  else match bookOf (tBook t) s with
    | none => if tGens t = 0 then none else some .stale
    | some k => if k.owner != job then some .denied
      else if (gensRead t).all (fun g => (cbGenOf k g.2).isSome) then none else some .stale

/-- ENCODE's four operations (Table 7.8). -/
def encodeAdm (d : Desc) (s : State) : Adm :=
  let b := dBody d
  let job := d.qu.job
  let op := fld b 767 766
  let src := fld b 719 664
  let dst := fld b 663 608
  let cap := fld b 559 528
  let n := bodyTuples b
  let st := peek d src 128 s
  let dt := peek d dst 128 s
  let mode := fld b 765 764
  let f := fld b 759 756
  let t := fld b 755 752
  let cb := fld b 751 738
  let elems := if op = 0 then fld b 607 560 else tElems st
  -- a header that the member may not read is refused for that (check 3), not for its content
  let reads := descReads d src 128 s
  let unread := 2 ^ 36
  let blocks := if (op == 1 || op == 2) && !reads then unread else if op = 1 then tBlocks st else if op = 3 then tBlocks dt
    else blocksFor elems t n
  let coded := rangeIn job dst (if op = 3 then tBytes (tBlocks dt) (tCap dt) else tBytes blocks cap) fCoded s
  let shape := match bookOf cb s with
    | some k => k.fmt == f && k.tuple == t
    | none => true
  let cw := match bookOf cb s with | some k => k.cw | none => 0
  let build := decide (mode < 3) && fmtValid f && decide (n ≤ 1024) && decide (0 < elems) && elems % (max t 1) == 0 &&
    (!isMx f || (elems % 32 == 0 && n * t % 32 == 0)) && dst % 128 == 0 && coded &&
    (if mode = 1 then cb != 0 && modeOk 1 f t cw cb 0 && shape
     else if mode = 2 then modeOk 2 f t 2 0 0 else modeOk 0 f t 0 0 0)
  let staged := tOk st && decide (0 < tBlocks st)
  let srcT := src % 128 == 0 && (!reads || (staged && tState st == 1))
  -- what IMPORT takes from its staging tensor's header; the tensor may be BUILDING there
  let importShape := fmtValid (tFmt st) && (tMode st != 1 || (tBook st != 0 &&
    modeOk 1 (tFmt st) (tTuple st) (tCw st) (tBook st) 0 && (match bookOf (tBook st) s with
      | some k => k.fmt == tFmt st && k.tuple == tTuple st && k.cw == tCw st
      | none => true)))
  let importT := src % 128 == 0 && (!reads || (staged && importShape))
  let cond := bookCond job cb (fld b 737 734) (bit b 763) s
  let wgen := match mode, cond with | 1, .ok g => g | _, _ => 16
  let wst := match mode, cond with | 1, .error e => some e | _, _ => none
  let srcLen := if op = 0 then packedBytes f elems + scaleBytes f elems 1 else tBytes (tBlocks st) (tCap st)
  match op with
  | 0 =>
    { admBase with
      bodyOk := build, total := cdiv blocks blocksPerSliver, resumable := true
      ranges := [(src, srcLen, false), (dst, tBytes blocks cap, true)]
      special := wst, extra := .code cb wgen [] }
  | 1 =>
    { admBase with
      bodyOk := importT && dst % 128 == 0 && (coded || !reads)
      total := cdiv blocks blocksPerSliver, resumable := true
      ranges := [(src, srcLen, false), (dst, tBytes blocks cap, true)]
      special := match bookOf (tBook st) s with
        | some k => if k.owner = job && k.dropping then some .stale else readCond job st s
        | none => readCond job st s
      extra := .code (tBook st) 16 (gensRead st) }
  | 2 =>
    { admBase with
      bodyOk := (build || !reads) && srcT && (!reads || tFmt st == f)
      total := cdiv blocks blocksPerSliver, resumable := true
      ranges := [(src, srcLen, false), (dst, tBytes blocks cap, true)]
      special := match readCond job st s with | some e => some e | none => wst
      extra := .code cb wgen (gensRead st) }
  | _ =>
    { admBase with
      bodyOk := (!descReads d dst 128 s || (tOk dt && coded)) && dst % 128 == 0
      total := if descReads d dst 128 s then cdiv (tBlocks dt) 16384 else unread
      ranges := [(dst, tBytes (tBlocks dt) (tCap dt), true)], extra := .code 0 16 [] }

/-- DECODE (Table 7.9). -/
def decodeAdm (d : Desc) (s : State) : Adm :=
  let b := dBody d
  let job := d.qu.job
  let src := fld b 767 712
  let dst := fld b 711 656
  let first := fld b 655 624
  let t := peek d src 128 s
  let n := if fld b 623 592 = 0 then tBlocks t - first else fld b 623 592
  let per := tTuples t * tTuple t
  let elems := min (n * per) (tElems t - first * per)
  let outside := rangeIn job dst 1 (fun e => !fCoded e) s || (extAt job (fvaSlot dst) (fvaGran dst) s).isNone
  { admBase with
    bodyOk := src % 128 == 0 && outside && (!descReads d src 128 s ||
      (tOk t && tState t == 1 && decide (first < tBlocks t) && decide (first + n ≤ tBlocks t)))
    total := cdiv n blocksPerSliver
    ranges := [(src, tBytes (tBlocks t) (tCap t), false), (dst, packedBytes (tFmt t) elems + scaleBytes (tFmt t) elems 1, true)]
    special := readCond job t s, extra := .code (tBook t) 16 (gensRead t) }

/-! ### Slivers of coding items -/

/-- The status with which a bad block ends a sliver (R218). -/
def blockFail {α : Type} (e : BlockErr) : Sl α := fun s =>
  match e with
  | .invalid => (.fail .refusedFormat, s)
  | .check => (.fail .poisoned, bump kCheckFails s)

/-- Read and decode block k of a tensor: its header and its tuples. -/
def readBlock (x : Item) (a t k : Nat) : Sl (Nat × List Nat × List Byte) :=
  slBind (slNat x (tEntry a k) 16) (fun h =>
    slBind (slRead x (tPay a (tBlocks t) + bOffset h * 128) (bLen h)) (fun bs => fun s =>
      match decodeBlock h (entriesFor x.job h s) bs with
      | .ok (ts, sc) => (.ok (h, ts, sc), onlyIf (bMode h == 1) (noteSlot (bBook h) (bGen h)) s)
      | .error e => blockFail e s))

/-- The tensor header that a building item writes. -/
def mkTensor (st fmt t mode cw cb gens n elems blocks cap used slow : Nat) : Nat :=
  pack [(tensorMagic, 992), (1, 976), (st, 974), (fmt, 968), (t, 964), (mode, 962), (cw, 960), (cb, 946), (gens, 930),
    (n, 919), (elems, 864), (blocks, 832), (cap, 800), (used, 768), (slow, 736)]

/-- Elements lo to hi of a coded tensor, re-cut as tuples of t elements with their scales. -/
def reTuple (fmt t : Nat) (elems : List Nat) : List Nat :=
  (List.range (elems.length / (max t 1))).map (fun i => secPack (elemBits fmt) ((elems.drop (i * t)).take t))
def elemsOf (fmt t : Nat) (ts : List Nat) : List Nat := ts.flatMap (secItems (elemBits fmt) t)

/-- Source elements lo up to below hi of an ENCODE or RECODE, and their scales. -/
def srcElems (x : Item) (op src fmt count lo hi : Nat) : Sl (List Nat × List Byte) :=
  if op = 0 then
    let w := elemBits fmt
    slBind (slRead x (src + lo * w / 8) (cdiv ((hi - lo) * w) 8)) (fun bs =>
      slBind (slRead x (src + packedBytes fmt count + lo / 32) (scaleBytes fmt (hi - lo) 1)) (fun sc =>
        slPure (secItems w (hi - lo) (natOf bs), sc)))
  else
    slBind (slNat x src 128) (fun t =>
      let per := tTuples t * tTuple t
      let first := lo / per
      let last := (hi - 1) / per
      slBind (slMap (fun i => readBlock x src t (first + i)) (List.range (last - first + 1))) (fun bs =>
        let es := bs.flatMap (fun b => elemsOf fmt (tTuple t) b.2.1)
        let sc := bs.flatMap (fun b => b.2.2)
        slPure ((es.drop (lo - first * per)).take (hi - lo),
          (sc.drop ((lo - first * per) / 32)).take (scaleBytes fmt (hi - lo) 1))))

/-- Blocks of a sliver with their encoded form, in order. -/
def buildBlocks (x : Item) (op src fmt t mode cw cb gen n elems lo hi : Nat) : Sl (List (Nat × List Byte)) :=
  slMap (fun i =>
    let a := (lo + i) * n * t
    let z := min elems ((lo + i + 1) * n * t)
    slBind (srcElems x op src fmt elems a z) (fun es => fun s =>
      let entries := match bookOf cb s with | some k => ((cbGenOf k gen).map (·.entries)).getD [] | none => []
      (.ok (encodeBlock mode fmt t cw cb gen entries (reTuple fmt t es.1) es.2), s))) (List.range (hi - lo))

/-- Blocks of an IMPORT sliver: validated, SLOW where they break the rule. -/
def importBlocks (x : Item) (src t lo hi : Nat) : Sl (List (Nat × List Byte)) :=
  slMap (fun i =>
    slBind (slNat x (tEntry src (lo + i)) 16) (fun h =>
      slBind (slRead x (tPay src (tBlocks t) + bOffset h * 128) (bLen h)) (fun bs => fun s =>
        match decodeBlock h (entriesFor x.job h s) bs with
        | .ok _ =>
          let h := setFld (setFld h 125 125 (b2n (blockSlow h))) 63 32 0
          (.ok (h, bs), s)
        | .error .check => (.fail .refusedFormat, bump kCheckFails s)
        | .error .invalid => (.fail .refusedFormat, s)))) (List.range (hi - lo))

/-- OFFSETs for blocks in order, from the first free line. -/
def placeBlocks (used : Nat) : List (Nat × List Byte) → List (Nat × List Byte)
  | [] => []
  | (h, bs) :: r => (setFld h 63 32 used, bs) :: placeBlocks (used + cdiv bs.length 128) r
def usedAfter (used : Nat) (bs : List (Nat × List Byte)) : Nat := used + lsum (bs.map (fun b => cdiv b.2.length 128))

/-- Write a sliver's blocks, count their references, queue slow ones, and bring the header up to date (R229, R230, R236). -/
def writeBlocks (x : Item) (dst fmt t mode cw cb n elems blocks cap lo : Nat) (bs : List (Nat × List Byte)) : Sl Unit :=
  slBind (if lo = 0 then slPure (0, 0, 0) else
      slBind (slNat x (tEntry dst (lo - 1)) 16) (fun p =>
        slBind (slNat x dst 128) (fun h => slPure (bOffset p + cdiv (bLen p) 128, tGens h, tSlow h)))) (fun u =>
    let placed := placeBlocks u.1 bs
    let used := usedAfter u.1 bs
    if cap < used then slFail .refusedFit
    else
      let gens := placed.foldl (fun g b => if bMode b.1 = 1 && !g.testBit (bGen b.1) then g + 2 ^ bGen b.1 else g) u.2.1
      let slow := u.2.2 + (placed.filter (fun b => bSlow b.1)).length
      let hdr := mkTensor 0 fmt t mode cw cb gens n elems blocks cap used slow
      slBind (slWrite x true ([wNat (tEntry dst lo) (16 * placed.length) (secPack 128 (placed.map (·.1))), wNat dst 128 hdr] ++
          placed.map (fun b => wBytes (tPay dst blocks + bOffset b.1 * 128) b.2))) (fun _ => fun s =>
        let e := tensorAt x.job dst s
        let s := modTensor e (fun r => placed.foldl (fun r b =>
          if bMode b.1 = 1 then addRef (bBook b.1) (bGen b.1) 1 r else r) r) s
        let q := (List.range placed.length).filterMap (fun i => match placed[i]? with
          | some b => if bSlow b.1 then some (e.1, e.2, lo + i) else none
          | none => none)
        let room := 65536 - s.coding.recodeQ.length
        let s := bumpN kSlowImported q.length (bumpN kRecodeDropped (q.length - room) s)
        (.ok (), { s with coding := { s.coding with recodeQ := s.coding.recodeQ ++ q.take room } })))

/-- Set an item's DETAIL. -/
def slDetail (i : Nat) (f : Nat → Nat) : Sl Unit := fun s => (.ok (), modItem i (fun x => { x with detail := f x.detail }) s)

/-- One sliver of ENCODE, IMPORT, RECODE or RELEASE. -/
def encodeSliver (i sliver : Nat) (x : Item) : Sl Unit :=
  let b := x.body
  let op := fld b 767 766
  let src := fld b 719 664
  let dst := fld b 663 608
  let cap := fld b 559 528
  let mode := fld b 765 764
  if op = 3 then
    slBind (slNat x dst 128) (fun t =>
      let lo := sliver * 16384
      let n := min 16384 (tBlocks t - lo)
      slBind (slRead x (tEntry dst lo) (16 * n)) (fun bs =>
        let hs := secItems 128 n (natOf bs)
        slBind (fun s => (.ok (), modTensor (tensorAt x.job dst s) (fun r => hs.foldl (fun r h =>
            if bMode h = 1 then subRef (bBook h) (bGen h) 1 r else r) r) s)) (fun _ =>
          slBind (slDetail i (· + n)) (fun _ =>
            if x.total ≤ x.doneS.length + 1 then
              slBind (slWrite x true [wBytes dst (List.replicate 128 0)]) (fun _ => fun s =>
                (.ok (), dropTensor (tensorAt x.job dst s) s))
            else slPure ()))))
  else
    slBind (slNat x src 128) (fun st => fun s =>
      let n := if op = 1 then tTuples st else bodyTuples b
      let fmt := if op = 1 then tFmt st else fld b 759 756
      let t := if op = 1 then tTuple st else fld b 755 752
      let cb := if op = 1 then tBook st else if mode = 1 then fld b 751 738 else 0
      let elems := if op = 0 then fld b 607 560 else tElems st
      let blocks := if op = 1 then tBlocks st else blocksFor elems t n
      let mode := if op = 1 then tMode st else mode
      let cw := if op = 1 then tCw st else if mode = 1 then ((bookOf cb s).map (·.cw)).getD 0 else if mode = 2 then 2 else 0
      let gen := match x.extra with | .code _ g _ => g | _ => 16
      let lo := sliver * blocksPerSliver
      let hi := min blocks (lo + blocksPerSliver)
      let start : Sl Unit :=
        if sliver = 0 then
          slBind (slWrite x true [wNat dst 128 (mkTensor 0 fmt t mode cw cb 0 n elems blocks cap 0 0)]) (fun _ => fun s =>
            (.ok (), dropTensor (tensorAt x.job dst s) s))
        else slPure ()
      slBind start (fun _ =>
        slBind (if op = 1 then importBlocks x src st lo hi else buildBlocks x op src fmt t mode cw cb gen n elems lo hi) (fun bs =>
          slBind (writeBlocks x dst fmt t mode cw cb n elems blocks cap lo bs) (fun _ =>
            slBind (slNat x dst 128) (fun h => slDetail i (fun _ => if op = 1 then tSlow h else tUsed h))))) s)

/-- The tensor is READY once the item is DONE (R229). -/
def encodeFinal (x : Item) : Sl Unit :=
  let dst := fld x.body 663 608
  slBind (slNat x dst 128) (fun h => slWrite x true [wNat dst 128 (setFld h 975 974 1)])

/-- One sliver of DECODE. -/
def decodeSliver (i sliver : Nat) (x : Item) : Sl Unit :=
  let b := x.body
  let src := fld b 767 712
  let dst := fld b 711 656
  let first := fld b 655 624
  slBind (slNat x src 128) (fun t =>
    let n := if fld b 623 592 = 0 then tBlocks t - first else fld b 623 592
    let per := tTuples t * tTuple t
    let total := min (n * per) (tElems t - first * per)
    let lo := sliver * blocksPerSliver
    let hi := min n (lo + blocksPerSliver)
    slBind (slMap (fun k => readBlock x src t (first + lo + k)) (List.range (hi - lo))) (fun bs =>
      let es := bs.flatMap (fun k => elemsOf (tFmt t) (tTuple t) k.2.1)
      let w := elemBits (tFmt t)
      let data := bytesOf (cdiv (es.length * w) 8) (secPack w es)
      let sc := bs.flatMap (fun k => k.2.2)
      let ws := [wBytes (dst + lo * per * w / 8) data] ++
        (if sc.isEmpty then [] else [wBytes (dst + packedBytes (tFmt t) total + lo * per / 32) sc])
      slBind (slWrite x false ws) (fun _ => slDetail i (· + (hi - lo)))))

/-- The sliver of CODEBOOK_SET (R220, R222, R225). -/
def bookSliver (i : Nat) (x : Item) : Sl Unit :=
  let b := x.body
  let cb := fld b 767 754
  let cw := fld b 751 750
  let f := fld b 749 746
  let t := fld b 745 742
  if fld b 753 752 = 1 then fun s =>
    (.ok (), match bookOf cb s with | some k => setBook cb { k with dropping := true } s | none => s)
  else
    slBind (slRead x (fld b 735 680) ((2 ^ cwBits cw - 1) * 8)) (fun bs => fun s =>
      let es := secItems 64 (2 ^ cwBits cw - 1) (natOf bs)
      let k := (bookOf cb s).getD { owner := x.job, fmt := f, tuple := t, cw := cw, dropping := false, gens := [] }
      if k.dropping then (.fail .retry, s)
      else if 2 ≤ k.gens.length then (.fail .codebookBusy, bump kCodebookBusyCount s)
      else if es.any (fun e => decide (2 ^ (t * elemBits f) ≤ e)) then (.fail .refusedFormat, s)
      else
        let g := match cbNewest k with | some c => (c.gen + 1) % 16 | none => 0
        let s := setBook cb { k with gens := { gen := g, entries := es } :: k.gens } s
        slDetail i (fun _ => g) s)
/-- An admitted INSTALL claims a free ID for its job, with its shape (R219). -/
def claimBook (x : Item) (s : State) : State :=
  let b := x.body
  let cb := fld b 767 754
  if fld b 753 752 != 0 || (bookOf cb s).isSome then s
  else setBook cb { owner := x.job, fmt := fld b 749 746, tuple := fld b 745 742, cw := fld b 751 750, dropping := false,
                    gens := [] } s

/-! ### Background recoding (R237) -/

/-- The 2448's own write of an extent's base content: lines applied, journalled where the extent is mirrored. -/
def extWrite (ext off : Nat) (bs : List Byte) (s : State) : State :=
  each (splitLines off bs.length) (fun l s =>
    let lk := lineKey ext 0 l.1
    let s := onlyIf (l.2.1 == 0 && l.2.2.1 == 128) (cleanLine lk) s
    ownPut lk l.2.1 (((bs.drop l.2.2.2).take l.2.2.1).map some) s) s

/-- Recode one slow block of the queue. -/
def recodeBlock (q : Nat × Nat × Nat) (s : State) : State :=
  let (ext, off, k) := q
  let gone := { s with coding := { s.coding with recodeQ := s.coding.recodeQ.filter (fun x => x != q) } }
  match extOf ext s with
  | none => gone
  | some e =>
    -- what it reads and writes must be at hand; what is away is fetched and the block stays in the queue
    let t := extNat ext off 128 s
    let h := extNat ext (tEntry off k) 16 s
    let pa := tPay off (tBlocks t) + bOffset h * 128
    let (a, s) := ownReach ext off 128 true s
    let (b, s) := ownReach ext (tEntry off k) 16 true s
    let (c, s) := ownReach ext pa (bLen h) false s
    let (d, s) := ownReach ext (tPay off (tBlocks t) + tUsed t * 128) (bLen h) true s
    let entries := entriesFor e.job h s
    let pay := extRead ext pa (bLen h) s
    if tOk t && tState t == 0 then s
    else if !(a && b && c && d) && e.st == .active then s
    else
    let s := { s with coding := { s.coding with recodeQ := s.coding.recodeQ.filter (fun x => x != q) } }
    if !tOk t || !bSlow h || e.st != .active then s
    else match decodeBlock h entries pay with
      | .error .check => bump kCheckFails s
      | .error .invalid => s
      | .ok (ts, sc) =>
        let (h', bs) := encodeBlock (bMode h) (bFmt h) (bTuple h) (bCw h) (bBook h) (bGen h) (entries.getD []) ts sc
        let used := tUsed t + cdiv bs.length 128
        if tCap t < used then bump kRecodeNoRoom s
        else
          let h' := setFld h' 63 32 (tUsed t)
          let s := extWrite ext (tPay off (tBlocks t) + tUsed t * 128) bs s
          let s := extWrite ext (tEntry off k) (bytesOf 16 h') s
          let t' := setFld (setFld t 799 768 used) 767 736 (tSlow t - 1)
          let s := extWrite ext off (bytesOf 128 t') s
          let s := onlyIf (bMode h == 1 && bMode h' != 1) (modTensor (ext, off) (subRef (bBook h) (bGen h) 1)) s
          bump kRecoded s

/-! ### The coded B operand (R234, R235) -/

/-- Inline blocks from an address up: (header, payload), each at the next 16 B boundary, until enough elements. -/
def inlineBlocks (x : Hen) (need : Nat) : Nat → Nat → List (Nat × List Byte)
  | 0, _ => []
  | k + 1, a =>
    let h := natOf (lsRead x a 16)
    let n := bTuples h * bTuple h
    let blk := (h, lsRead x (a + 16) (bLen h))
    if n = 0 || need ≤ n then [blk]
    else blk :: inlineBlocks x (need - n) k (a + 16 + cdiv (bLen h) 16 * 16)
termination_by structural k => k

/-- Generations that blocks name. -/
def blocksGens (bs : List (Nat × List Byte)) : List (Nat × Nat) :=
  (bs.filterMap (fun b => if bMode b.1 = 1 then some (bBook b.1, bGen b.1) else none)).eraseDups
/-- Cycles of the blocks that are not RAW (R235). -/
def expandCycles (bs : List (Nat × List Byte)) : Nat :=
  lsum (bs.map (fun b => if bMode b.1 = 0 then 0 else 1 + max (cdiv (bTuples b.1) 128) (cdiv (bEsc b.1) 16)))

end Sys2Proof.Machine
end

