-- ==== Sys2Proof/Machine/Collect.lean ====
section
/-!
DEFINITION. Collectives, the Larfy exact sum, rounds, contributions and deliveries, the norm exchange and the optimizer's
update slivers (08_reduce_gather_filter.md, R240 to R265).
-/
namespace Sys2Proof.Machine

/-! ### The Larfy exact sum (R248) -/

def elem0 : Elem := { a := 0, pinf := false, ninf := false, nan := false, neg0 := true, n := 0 }
def elemAdd (e : Elem) (v : Fv) : Elem :=
  let e := { e with n := e.n + 1 }
  match v with
  | .nan => { e with nan := true }
  | .inf false => { e with pinf := true }
  | .inf true => { e with ninf := true }
  | .fin neg m x => { e with a := e.a + finInt neg m x (-149), neg0 := e.neg0 && neg && m == 0 }

/-- An exact rational narrowed once: the quotient with 64 further bits and a sticky bit rounds as the quotient does. -/
def roundQ (f : Fmt) (sat neg : Bool) (num den : Nat) (e : Int) : Nat :=
  let q := num * 2 ^ 64 / den
  let sticky := if num * 2 ^ 64 % den = 0 then 0 else 1
  encodeF f sat (.fin neg (2 * q + sticky) (e - 65))
/-- result of the pseudocode. -/
def elemResult (f : Fmt) (avg sat : Bool) (e : Elem) : Nat :=
  if e.nan || (e.pinf && e.ninf) then fmtNan f
  else if e.pinf || e.ninf then encodeF f (sat && !f.hasInf) (.inf e.ninf)
  else if e.a = 0 then encodeF f sat (.fin e.neg0 0 0)
  else roundQ f sat (decide (e.a < 0)) e.a.natAbs (if avg then e.n else 1) (-149)

/-! ### Sums of squares (R249, R250) -/

def sumSq0 : SumSq := { acc := 0, nan := false, inf := false, ovf := false }
abbrev ssOnes : Nat := 2 ^ 320 - 1
def ssPut (z : SumSq) (n : Nat) : SumSq :=
  if z.ovf then { z with acc := ssOnes }
  else if 2 ^ 320 ≤ z.acc + n then { z with acc := ssOnes, ovf := true }
  else { z with acc := z.acc + n }
/-- Add one element's square. -/
def ssAdd (z : SumSq) (v : Fv) : SumSq :=
  match v with
  | .nan => { z with nan := true }
  | .inf _ => { z with inf := true }
  | .fin _ m e => ssPut z (roundAt (m * m) (2 * e) (-190))
/-- Combine two accumulators (R249, R251). -/
def ssJoin (a b : SumSq) : SumSq :=
  ssPut { a with nan := a.nan || b.nan, inf := a.inf || b.inf, ovf := a.ovf || b.ovf } b.acc
/-- The total rounded once to binary32. -/
def ssResult (z : SumSq) : W32 :=
  if z.nan then nan32 else if z.inf || z.ovf then enc32 (.inf false) else enc32 (.fin false z.acc (-190))
def ssFlags (z : SumSq) : Nat := b2n z.nan + 2 * b2n z.inf + 4 * b2n z.ovf
def ssBits (z : SumSq) : Nat := z.acc + 2 ^ 320 * ssFlags z
def ssOf (acc flags : Nat) : SumSq := { acc := acc % 2 ^ 320, nan := bit flags 0, inf := bit flags 1, ovf := bit flags 2 }

/-! ### Collectives and their items -/

def collOf (c : Nat) (s : State) : Option Coll := tget s.eng.colls c
def setColl (c : Nat) (x : Coll) (s : State) : State := { s with eng := { s.eng with colls := tput s.eng.colls c x } }
def modColl (c : Nat) (f : Coll → Coll) (s : State) : State :=
  { s with eng := { s.eng with colls := tmod s.eng.colls c f } }
def modRound (c : Nat) (f : Round → Round) (s : State) : State := modColl c (fun x => { x with openR := x.openR.map f }) s

/-- COLL, ROUND, IN_FMT, OUT_FMT, POLICY, SAT, CODE_OUT, AVG of Tables 8.4 and 8.5. -/
def cColl (b : Nat) : Nat := fld b 767 756
def cRound (b : Nat) : Nat := fld b 751 736
def cInFmt (op b : Nat) : Nat := if op = ocNormSq then fld b 755 752 else fld b 735 732
def cOutFmt (b : Nat) : Nat := fld b 731 728
def cExclude (b : Nat) : Bool := bit b 727
def cSat (b : Nat) : Bool := bit b 726
def cCode (b : Nat) : Bool := bit b 725
def cAvg (b : Nat) : Bool := bit b 723
def cElems (op b : Nat) : Nat :=
  if op = ocUpdate then fld b 495 448 else if op = ocNormSq then fld b 679 632 else fld b 663 616
def cWindow (op b : Nat) : Nat :=
  let w := if op = ocUpdate then fld b 447 432 else fld b 615 600
  if op = ocNormSq then 0 else if w = 0 then 64 else w
def cTimeout (op b : Nat) : Nat :=
  let t := if op = ocUpdate then fld b 431 400 else if op = ocNormSq then fld b 575 544 else fld b 599 568
  (if t = 0 then 10000 else t) * nsUs
def cMin (op b : Nat) : Nat :=
  let m := if op = ocUpdate then fld b 399 392 else fld b 567 560
  if m = 0 then 1 else m
def cCounts (op b : Nat) : Nat := if op = ocUpdate then fld b 391 336 else fld b 559 504
/-- Where completed chunks go: DST, or GRAD. -/
def cDst (op b : Nat) : Nat := if op = ocUpdate then fld b 607 552 else fld b 719 664
def uW (b : Nat) : Nat := fld b 719 664
def uState (b : Nat) : Nat := fld b 663 608
def uRecipe (b : Nat) : Nat := fld b 755 752
def uElems (b : Nat) : Nat := fld b 495 448

abbrev chunkElems : Nat := 1024
abbrev storeSlots : Nat := 1636
def cChunks (x : Item) : Nat := cdiv (cElems x.opcode x.body) chunkElems
def chunkLen (x : Item) (c : Nat) : Nat := min chunkElems (cElems x.opcode x.body - c * chunkElems)
/-- The slice whose reduction engine accumulates a chunk, whichever slice its frame entered (R241). -/
def chunkSlice (c : Nat) : Nat := c % 4
/-- Chunks of a slice below a chunk number. -/
def sliceChunks (sl n : Nat) : Nat := (n + 3 - sl) / 4
/-- Slots an open round holds in a slice: its share of the window, or the chunks still to complete there where they are fewer.
A completed chunk's slot serves the window's next chunk while there is one, and is free after that (log 102). -/
def roundSlots (sl : Nat) (x : Item) (r : Round) : Nat :=
  min (cWindow x.opcode x.body / 4)
    (sliceChunks sl (cChunks x) - sliceChunks sl r.low - (r.complete.filter (fun c => chunkSlice c == sl)).length)
/-- Free slots of a slice's 409. -/
def sliceFree (sl : Nat) (s : State) : Nat :=
  storeSlots / 4 - lsum (s.eng.colls.map (fun c => match c.2.openR with
    | some r => match itemOf r.item s with
      | some x => roundSlots sl x r
      | none => 0
    | none => 0))
/-- Free chunk slots of the device (RSTORE_FREE). -/
def slotsFree (s : State) : Nat := lsum ((List.range 4).map (fun sl => sliceFree sl s))
def collPhase (x : Item) : Nat := match x.extra with | .coll _ p _ _ _ _ => p | _ => 0
def collLost (x : Item) : Nat := match x.extra with | .coll _ _ _ _ l _ => l | _ => 0
def collSum (x : Item) : SumSq := match x.extra with | .coll _ _ _ _ _ z => z | _ => sumSq0
def setPhase (p : Nat) (x : Item) : Item :=
  match x.extra with | .coll c _ k cs l z => { x with extra := .coll c p k cs l z } | _ => x
def setSum (z : SumSq) (x : Item) : Item :=
  match x.extra with | .coll c p k cs l _ => { x with extra := .coll c p k cs l z } | _ => x
/-- Homes that exchange partials with this one. -/
def otherPeers (c : Coll) (s : State) : List Nat := (bitsOf c.peers 16).filter (fun h => h != homeIndex s)
/-- Members of a round that are not excluded. -/
def roundMembers (c : Coll) (r : Round) : List Nat := (bitsOf c.members 256).filter (fun m => !r.excluded.testBit m)

/-! ### Stopping a round -/

/-- A unit of 16 chunks ends other than DONE: it is the item's sliver (R196, R254, R256), or no sliver of a REDUCE_UPDATE,
which then has none DONE and the unit's status as its cause (R263). -/
def roundFail (i unitN : Nat) (st : Status) (s : State) : State :=
  match itemOf i s with
  | none => s
  | some x =>
    if x.opcode != ocUpdate then itemSliverEnd i unitN st s
    else if x.stop.isSome then s
    else modItem i (fun x => { setPhase 5 x with doneS := [], ended := [(0, st)], stop := some .part }) s

/-- The item's status and DETAIL follow the members excluded (R253, R255). -/
def noteExcluded (i excluded : Nat) (s : State) : State :=
  modItem i (fun x =>
    let n := popcount (excluded ||| collLost x) 256
    { x with fin := if 0 < n then .excluded else x.fin,
             detail := if x.opcode = ocReduce || x.opcode = ocAllreduce then n else x.detail }) s
def openExcluded (c : Nat) (s : State) : Nat := match collOf c s with | some x => x.excluded | none => 0

/-! ### Delivery (R253) -/

/-- The live port of a member's partner. -/
def memberPort (job m : Nat) (s : State) : Option Nat :=
  match jobOf job s with
  | some (_, j) => match partnerOf j m with
    | some p => (List.range fabricPorts).find? (fun q => portLive q s && !portRolePeer q s && boundPartner q s == some p)
    | none => none
  | none => none
/-- A member counts as excluded because a delivery to it was abandoned. -/
def loseDelivery (i m : Nat) (s : State) : State :=
  match itemOf i s with
  | none => s
  | some x =>
    let c := cColl x.body
    let s := { s with eng := { s.eng with delivers := s.eng.delivers.filter (fun d => !(d.item == i && d.member == m)) } }
    if (collLost x).testBit m then s
    else
      let s := modItem i (fun x => match x.extra with
        | .coll c p k cs l z => { x with extra := .coll c p k cs (l + 2 ^ m) z }
        | _ => x) s
      bump kMembersExcluded (noteExcluded i (openExcluded c s) s)

/-- The payload of a delivery, and whether it is coded: packed elements, or one EXPPLANE block of them, whole in its frame
(R238). A frame's decoded data is at most 4,096 B (Table 12.1), so a block holds the 256 tuples of a chunk; the last tuple of
a chunk that is no multiple of 4 elements is filled with zeros, and a block that a frame cannot hold goes out uncoded (DESIGN
CHOICE, log 101). -/
def deliverData (fmt : Nat) (code : Bool) (es : List Nat) : Bool × List Byte :=
  let pad := es ++ List.replicate (cdiv es.length 4 * 4 - es.length) 0
  let (h, bs) := encodeBlock 2 fmt 4 2 0 0 [] (reTuple fmt 4 pad) []
  if code && decide (16 + bs.length ≤ 4096) then (true, bytesOf 16 h ++ bs) else (false, packElems fmt es)
/-- Deliver a chunk's elements to one member. -/
def deliverTo (i sliver off : Nat) (es : List Nat) (m : Nat) (s : State) : State :=
  match itemOf i s with
  | none => s
  | some x =>
    match memberPort x.job m s with
    | none => loseDelivery i m s
    | some p =>
      let t := s.eng.nextDeliver % 65536
      let d : Deliver := { port := p, tag := t, coll := cColl x.body, item := i, member := m, sliver := sliver,
                           sent := s.now }
      let s := { s with eng := { s.eng with delivers := s.eng.delivers ++ [d], nextDeliver := s.eng.nextDeliver + 1 } }
      let (coded, data) := deliverData (cOutFmt x.body) (cCode x.body) es
      send (.deliver p t x.job (cColl x.body) (cRound x.body) off (cOutFmt x.body + 16 * b2n coded) data) s
/-- Deliver a chunk's elements to every member of a collective that is not excluded from the round. -/
def deliverAll (i c sliver off : Nat) (es : List Nat) (s : State) : State :=
  match collOf c s with
  | none => s
  | some k =>
    let ex := match k.openR with | some r => if r.item = i then r.excluded else k.removed | none => k.removed
    each ((bitsOf k.members 256).filter (fun m => !ex.testBit m)) (deliverTo i sliver off es) s

/-! ### Chunks (R246, R256, R257) -/

/-- Are all chunks of a REDUCE or ALLREDUCE sliver complete? -/
def chunksDone (x : Item) (r : Round) (sl : Nat) : Bool :=
  ((List.range 16).map (fun j => sl * 16 + j)).all (fun c =>
    decide (cChunks x ≤ c) || decide (c < r.low) || r.complete.contains c)

/-- A sliver whose chunks are all complete runs until its engine reports its end. -/
def noteRunning (c i sl : Nat) (s : State) : State :=
  match collOf c s, itemOf i s with
  | some k, some x => match k.openR with
    | some r => onlyIf (chunksDone x r sl) (modItem i (fun x => { x with running := ladd x.running sl })) s
    | none => s
  | _, _ => s

/-- Complete one full chunk: round, write, hand on, free the slot. A write that must wait leaves the chunk in its slot. -/
def finishChunk (c i : Nat) (k : Chunk) (s : State) : State :=
  match itemOf i s with
  | none => s
  | some x =>
    let b := x.body
    let upd := x.opcode = ocUpdate
    let n := popcount k.got 256
    let sl := k.chunk / 16
    if x.stop.isSome then s
    else if cExclude b && decide (n < cMin x.opcode b) then roundFail i sl .memberTimeout s
    else
      let f := if upd then fmt32 else (fmtOf (cOutFmt b)).getD fmt32
      let code := if upd then 0 else cOutFmt b
      let es := k.elems.map (elemResult f (cAvg b) (cSat b && !upd))
      let w := elemBits code / 8
      let dst := cDst x.opcode b
      let ws := (if dst = 0 then [] else [wBytes (dst + k.chunk * chunkElems * w) (packElems code es)]) ++
        (if cCounts x.opcode b = 0 then [] else [wNat (cCounts x.opcode b + 2 * k.chunk) 2 n])
      match slRun (.engine i (2 ^ 32 + k.chunk)) i (slWrite x true ws) s with
      | (.wait _, s) => s
      | (.fail st, s) => roundFail i sl st s
      | (.ok _, s) =>
        let s := modRound c (fun r => { r with chunks := r.chunks.filter (fun q => q.chunk != k.chunk),
                                               complete := r.complete ++ [k.chunk] }) s
        if upd then modItem i (fun x => setSum (es.foldl (fun z e => ssAdd z (decodeF fmt32 e)) (collSum x)) x) s
        else noteRunning c i sl (if x.opcode = ocAllreduce then deliverAll i c sl (k.chunk * chunkElems) es s else s)

/-- Advance the low edge past complete chunks; the member timer restarts (Missing members). -/
def lowFrom (complete : List Nat) (low : Nat) : Nat → Nat
  | 0 => low
  | n + 1 => if complete.contains low then lowFrom complete (low + 1) n else low
def advanceLow (c : Nat) (s : State) : State :=
  let now := s.now
  modRound c (fun r =>
    let l := lowFrom r.complete r.low (r.complete.length + 1)
    if l = r.low then r else { r with low := l, complete := r.complete.filter (fun k => decide (l ≤ k)), timer := now }) s

/-- Finish the full chunks of an open round; with no member left, the low-edge chunk completes with none (R256). -/
def tryChunks (c : Nat) (s : State) : State :=
  match collOf c s with
  | none => s
  | some k =>
    match k.openR with
    | none => s
    | some r =>
      match itemOf r.item s with
      | none => s
      | some x =>
        let ms := roundMembers k r
        if x.opcode = ocNormSq || x.stop.isSome || cChunks x ≤ r.low then s
        else if ms.isEmpty && !r.chunks.any (fun q => q.chunk == r.low) then roundFail r.item (r.low / 16) .memberTimeout s
        else advanceLow c (each (r.chunks.filter (fun q => ms.all (fun m => q.got.testBit m))) (finishChunk c r.item) s)

/-- Exclude members from the open round, or fail it (R254, R255). -/
def missing (c : Nat) (ms : List Nat) (s : State) : State :=
  match collOf c s with
  | none => s
  | some k =>
    match k.openR with
    | none => s
    | some r =>
      match itemOf r.item s with
      | none => s
      | some x =>
        let ms := ms.filter (fun m => k.members.testBit m && !r.excluded.testBit m)
        if ms.isEmpty || x.stop.isSome || x.opcode == ocNormSq || decide (cChunks x ≤ r.low) then s
        else if !cExclude x.body then roundFail r.item (r.low / 16) .memberTimeout s
        else
          let ex := r.excluded ||| mapOf ms
          let s := modColl c (fun k => { k with excluded := ex, openR := k.openR.map (fun r => { r with excluded := ex }) }) s
          let s := bumpN kMembersExcluded ms.length (noteExcluded r.item ex s)
          let s := each ms (fun m => raise 0x8000 0x01 5 (pack [(c, 0), (r.round, 16), (m, 32)])) s
          tryChunks c s

/-- A member is removed from its job: missing at once, and in every later round (Collectives). -/
def collMemberGone (job m : Nat) (s : State) : State :=
  each ((s.eng.colls.filter (fun c => c.2.job == job && c.2.members.testBit m)).map (·.1)) (fun c s =>
    missing c [m] (modColl c (fun k => { k with removed := k.removed ||| 2 ^ m }) s)) s

/-! ### Contributions (Table 8.3) -/

/-- Cut raw element data into chunks from a first chunk; none when it is not whole chunks. -/
def cutRaw (x : Item) (w : Nat) : Nat → Nat → List Byte → Option (List (Nat × List Nat))
  | 0, _, bs => if bs.isEmpty then some [] else none
  | n + 1, c, bs =>
    if bs.isEmpty then some []
    else if cChunks x ≤ c || bs.length < chunkLen x c * w then none
    else
      let len := chunkLen x c
      (cutRaw x w n (c + 1) (bs.drop (len * w))).map (fun r => (c, secItems (8 * w) len (natOf (bs.take (len * w)))) :: r)
/-- Cut coded data: one block for each chunk, EXPPLANE or, where that gains too little, RAW, at the next 16 B boundary. -/
def cutCoded (x : Item) (fmt : Nat) : Nat → Nat → List Byte → Except BlockErr (List (Nat × List Nat))
  | 0, _, bs => if bs.isEmpty then .ok [] else .error .invalid
  | n + 1, c, bs =>
    if bs.isEmpty then .ok []
    else
      let h := natOf (bs.take 16)
      match decodeBlock h none ((bs.drop 16).take (bLen h)) with
      | .error e => .error e
      | .ok (ts, _) =>
        if cChunks x ≤ c || bMode h == 1 || bTuple h != 4 || bFmt h != fmt || ts.length != cdiv (chunkLen x c) 4 then
          .error .invalid
        else match cutCoded x fmt n (c + 1) (bs.drop (16 + cdiv (bLen h) 16 * 16)) with
          | .ok r => .ok ((c, (elemsOf fmt 4 ts).take (chunkLen x c)) :: r)
          | .error e => .error e
/-- EXPPLANE blocks in a coded payload, as the port expander meets them. -/
def codedBlocks : Nat → List Byte → Nat
  | 0, _ => 0
  | n + 1, bs => if bs.isEmpty then 0 else 1 + codedBlocks n (bs.drop (16 + cdiv (bLen (natOf (bs.take 16))) 16 * 16))

/-- The chunks a contribution carries, at most four. -/
def contribChunks (x : Item) (fmt chunk : Nat) (coded : Bool) (d : List Byte) : Except BlockErr (List (Nat × List Nat)) :=
  if d.isEmpty then .error .invalid
  else if coded then cutCoded x fmt 4 chunk d
  else match cutRaw x (elemBits fmt / 8) 4 chunk d with | some r => .ok r | none => .error .invalid

/-- Add a member's elements to a chunk of the open round. -/
def addChunk (c m fmt : Nat) (p : Nat × List Nat) (s : State) : State :=
  let vs := p.2.map (decodeElem fmt)
  let s := modRound c (fun r =>
    let k := (r.chunks.find? (fun q => q.chunk == p.1)).getD { chunk := p.1, slice := chunkSlice p.1, got := 0, elems := vs.map (fun _ => elem0) }
    let k' := { k with got := k.got + 2 ^ m, elems := List.zipWith elemAdd k.elems vs }
    { r with chunks := r.chunks.filter (fun q => q.chunk != p.1) ++ [k'] }) s
  bumpN kElementsReduced vs.length s

/-- Is round a older than round b, modulo 2^16? -/
def roundOlder (a b : Nat) : Bool :=
  let d := (b + 65536 - a % 65536) % 65536
  decide (0 < d) && decide (d < 32768)
/-- Rounds pending or open. -/
def liveRounds (k : Coll) (s : State) : List Nat :=
  (k.openR.toList.map (·.round)) ++ k.pending.filterMap (fun i => (itemOf i s).map (fun x => cRound x.body))

/-- The answer to a contribution, and its effect (R245). -/
def contribRun (c round chunk fmt m job : Nat) (coded : Bool) (d : List Byte) (s : State) : Status × State :=
  match collOf c s with
  | none => (.denied, s)
  | some k =>
    if k.job != job || !k.members.testBit m then (.denied, s)
    else
      let live := liveRounds k s
      if !live.contains round && (if live.isEmpty then roundOlder round k.next else live.all (fun r => roundOlder round r)) then
        (.stale, bump kContribStale s)
      else match k.openR with
        | none => (.retry, bump kContribRetry s)
        | some r =>
          if r.round != round then (.retry, bump kContribRetry s)
          else if r.excluded.testBit m then (.excluded, s)
          else match itemOf r.item s with
            | none => (.retry, bump kContribRetry s)
            | some x =>
              if fmt != cInFmt x.opcode x.body then (.refusedFormat, s)
              else match contribChunks x fmt chunk coded d with
                | .error .invalid => (.refusedFormat, s)
                | .error .check => (.refusedFormat, bump kCheckFails s)
                | .ok ps =>
                  let old (p : Nat × List Nat) : Bool := decide (p.1 < r.low) || r.complete.contains p.1 ||
                    r.chunks.any (fun q => q.chunk == p.1 && q.got.testBit m)
                  if ps.all old then (.done, bump kContribDuplicate s)
                  else if ps.any (fun p => decide (r.low + cWindow x.opcode x.body ≤ p.1)) then
                    (.retry, bump kContribRetry s)
                  else
                    let s := each (ps.filter (fun p => !old p)) (addChunk c m fmt) (bump kContribAccepted s)
                    (.done, tryChunks c s)

/-- Answer the contributions that have their tracker entries. -/
def runContribs (s : State) : State :=
  each (s.txn.txs.filter (fun t => t.ans.isNone)) (fun t s =>
    match t.kind with
    | .contrib c round chunk fmt d =>
      let s := bumpN kPortBlocksDecoded (if 16 ≤ fmt then codedBlocks 4 d else 0) s
      let (st, s) := contribRun c round chunk (fmt % 16) t.member t.job (decide (16 ≤ fmt)) d s
      finishTx t st [] s
    | _ => s) s

/-! ### Rounds open and end (R243, R244) -/

/-- Can a collective's first pending round open but for chunk slots? -/
def headReady (k : Coll) (s : State) : Option (Nat × Item) :=
  match k.openR, k.pending with
  | none, i :: _ => match itemOf i s with
    | some x => if x.stop.isNone && fenceMet i x s then some (i, x) else none
    | none => none
  | _, _ => none
/-- Are WINDOW slots free, a quarter of them in each slice? -/
def roundFits (x : Item) (s : State) : Bool :=
  (List.range 4).all (fun sl => decide (cWindow x.opcode x.body / 4 ≤ sliceFree sl s))

/-- Open a collective's first pending round, unless one of another collective that could open but for slots was admitted
earlier (R244; that a round waiting for its own collective or a fence holds no other back is DEDUCED, log 103). -/
def openRound (c : Nat) (s : State) : State :=
  match collOf c s with
  | none => s
  | some k =>
    match headReady k s with
    | none => s
    | some (i, x) =>
      let first := !s.eng.colls.any (fun e => e.1 != c && (match headReady e.2 s with
        | some (_, y) => decide (y.order < x.order)
        | none => false))
      if !roundFits x s || !first then s
      else
        let r : Round := { item := i, round := cRound x.body,
                           low := if x.opcode = ocUpdate then 0 else 16 * x.resume, chunks := [], timer := s.now,
                           excluded := 0, complete := [], normAt := 0 }
        let waited := match k.waitFrom with | some t => s.now - t | none => 0
        let s := bumpN kRstoreWait waited
          (setColl c { k with openR := some r, pending := k.pending.drop 1, excluded := 0, waitFrom := none } s)
        let s := modItem i (fun x => { setPhase 1 x with started := true }) s
        missing c (bitsOf k.removed 256) s

/-! ### The norm exchange (R259 to R261) -/

/-- The clip factor of a total (The norm and the clip factor). -/
def clipFactor (clip : Bool) (maxnorm n : W32) : W32 :=
  let lim := fmul32 maxnorm maxnorm
  if !clip then 0x3F800000#32
  else if ltF (dec32 n) (dec32 lim) || eqF (dec32 n) (dec32 lim) then 0x3F800000#32
  else fmul32 maxnorm (vsfRsqrtLane n)
def notFinite (w : W32) : Bool := match dec32 w with | .fin _ _ _ => false | _ => true
def const32 (cs lo : Nat) : W32 := BitVec.ofNat 32 (fld cs (lo + 31) lo)

/-- The exchange has ended with a total. -/
def normFinish (i : Nat) (z : SumSq) (s : State) : State :=
  match itemOf i s with
  | none => s
  | some x =>
    let n := ssResult z
    let b := x.body
    if x.opcode = ocNormSq then
      let rec_ := wBytes (fld b 631 576) (bytesOf 4 n.toNat ++ bytesOf 4 0 ++ bytesOf 40 (if z.ovf then ssOnes else z.acc) ++
        bytesOf 16 (ssFlags z))
      match slRun (.home i) i (slWrite x true [rec_]) s with
      | (.wait _, s) => s
      | (.fail st, s) => modItem i (fun x => { setPhase 4 x with stop := some st }) s
      | (.ok _, s) => modItem i (fun x => { setPhase 4 x with detail := n.toNat }) s
    else if bit b 722 && notFinite n then
      bump kUpdatesSkipped (modItem i (fun x => { setPhase 4 x with stop := some .short, detail := n.toNat }) s)
    else
      let cs := match x.extra with | .coll _ _ _ cs _ _ => cs | _ => 0
      let c := clipFactor (bit b 724) (const32 cs 160) n
      let s := onlyIf (c != 0x3F800000#32) (bump kClipsApplied) s
      modItem i (fun x => match x.extra with
        | .coll k _ _ cs l z => { x with extra := .coll k 3 c.toNat cs l z, detail := c.toNat }
        | _ => x) s

/-- The reduction of a round is over: the norm phase begins; the own partial goes to every other home of PEERS. -/
def enterNorm (c i : Nat) (s : State) : State :=
  match collOf c s, itemOf i s with
  | some k, some x =>
    let now := s.now
    let s := modItem i (setPhase 2) (modRound c (fun r => { r with normAt := now }) s)
    each (otherPeers k s) (fun h => sendPeer h 0x04 (c * 2 ^ 20 + cRound x.body) x.job [] [] (ssBits (collSum x))) s
  | _, _ => s
/-- The total of an exchange whose partials are all held. -/
def normTotal (c : Nat) (k : Coll) (round : Nat) (own : SumSq) (s : State) : Option SumSq :=
  (otherPeers k s).foldl (fun z h => match z with
    | none => none
    | some z => (s.eng.heldNorms.find? (fun e => e.1 == h && e.2.1 == c && e.2.2.1 == round)).map (fun e => ssJoin z e.2.2.2))
    (some own)

/-- Note since when a collective's first pending round waits for slots alone; a wait that has ended, its item's cancellation
included, is counted (R244). -/
def noteSlotWait (c : Nat) (s : State) : State :=
  match collOf c s with
  | none => s
  | some k =>
    let wait := match headReady k s with | some (_, x) => !roundFits x s | none => false
    match k.waitFrom with
    | none => onlyIf wait (modColl c (fun k => { k with waitFrom := some s.now })) s
    | some t =>
      onlyIf (!wait) (fun s => bumpN kRstoreWait (s.now - t) (modColl c (fun k => { k with waitFrom := none }) s)) s

/-- Every collective brought up to date: rounds whose item is gone close, full chunks complete, the norm phase begins and
ends, waiting for slots is noted. -/
def settleColl (c : Nat) (s : State) : State :=
  let s := modColl c (fun k => { k with
    openR := match k.openR with
      | some r => if (itemOf r.item s).isSome then some r else none
      | none => none,
    pending := k.pending.filter (fun i => (itemOf i s).isSome) }) s
  let s := tryChunks c s
  match collOf c s with
  | none => s
  | some k =>
    let s := match k.openR with
      | none => s
      | some r => match itemOf r.item s with
        | none => s
        | some x =>
          let ends := if x.opcode = ocNormSq then decide (x.total ≤ x.doneS.length)
            else x.opcode == ocUpdate && decide (cChunks x ≤ r.low)
          let s := if x.stop.isNone && collPhase x = 1 && ends then enterNorm c r.item s else s
          match itemOf r.item s with
          | none => s
          | some x =>
            if x.stop.isNone && collPhase x = 2 then
              match normTotal c k r.round (collSum x) s with
              | some z =>
                -- a result whose write must wait keeps its partials
                let s := normFinish r.item z s
                let ended := match itemOf r.item s with | some x => collPhase x != 2 || x.stop.isSome | none => true
                onlyIf ended (fun s => { s with eng := { s.eng with heldNorms := s.eng.heldNorms.filter (fun e =>
                  !(e.2.1 == c && e.2.2.1 == r.round)) } }) s
              | none => s
            else s
    noteSlotWait c s

/-- NORM_SQ items of this home alone whose slivers have all ended. -/
def settleNorms (s : State) : State :=
  each (s.work.items.filter (fun e => e.2.opcode == ocNormSq && cColl e.2.body == 0xFFF && e.2.stop.isNone &&
    collPhase e.2 != 4 && decide (e.2.total ≤ e.2.doneS.length))) (fun e => normFinish e.1 (collSum e.2)) s
/-- Deliveries to members whose ports have gone down are abandoned (R253). -/
def settleDelivers (s : State) : State :=
  each (s.eng.delivers.filter (fun d => !portLive d.port s)) (fun d => loseDelivery d.item d.member)
    { s with eng := { s.eng with delivers := s.eng.delivers.filter (fun d => (itemOf d.item s).isSome) } }
def settleColls (s : State) : State :=
  each (s.eng.colls.map (·.1)) settleColl (settleNorms (settleDelivers (runContribs s)))

/-! ### Admission (Tables 8.4, 8.5, 8.7) -/

/-- Does every granule of a range lie in an ACTIVE extent of the job? -/
def activeRange (job addr n : Nat) (s : State) : Bool :=
  decide (0 < n) && (List.range ((addr + n - 1) / granBytes - addr / granBytes + 1)).all (fun i =>
    match extAt job (fvaSlot addr) ((addr / granBytes + i) % 2 ^ 24) s with
    | some (_, e) => e.st == .active
    | none => false)
/-- The collective named by a body, if it is the job's. -/
def bodyColl (job b : Nat) (s : State) : Option Coll :=
  match collOf (cColl b) s with
  | some k => if k.job = job then some k else none
  | none => none
def rw (a n : Nat) : List (Nat × Nat × Bool) := [(a, n, false), (a, n, true)]

def reduceAdm (d : Desc) (s : State) : Adm :=
  let b := dBody d
  let op := dOpcode d
  let el := cElems op b
  let chunks := cdiv el chunkElems
  let k := bodyColl d.qu.job b s
  let dst := cDst op b
  let codeOk := !cCode b || (op == ocAllreduce && decide (cOutFmt b ≤ 2))
  { admBase with
    bodyOk := k.isSome && decide (cInFmt op b ≤ 4) && decide (cOutFmt b ≤ 4) && decide (1 ≤ el) && decide (el ≤ 2 ^ 40) &&
      cWindow op b % 4 == 0 && codeOk && dst % 128 == 0 && (dst != 0 || op == ocAllreduce)
    total := cdiv chunks 16, resumable := true
    ranges := (if dst = 0 then [] else [(dst, packedBytes (cOutFmt b) el, true)]) ++
      (if cCounts op b = 0 then [] else [(cCounts op b, 2 * chunks, true)])
    fit := decide (cWindow op b ≤ storeSlots)
    special := if (k.map (·.next)) == some (cRound b) then none else some .stale
    extra := .coll (cColl b) 0 0 0 0 sumSq0 }

def updateAdm (d : Desc) (s : State) : Adm :=
  let b := dBody d
  let job := d.qu.job
  let el := uElems b
  let k := bodyColl job b s
  let n := 4 * el
  -- the array STATE is M and V, whatever part of it a recipe uses (log 104)
  let st := 2 * n
  let cst := fld b 551 496
  let cs := peek d cst 64 s
  let arrays := activeRange job (uW b) n s && activeRange job (uState b) st s &&
    activeRange job (fld b 607 552) n s && activeRange job cst 64 s
  let resumed := dResume d != 0
  let fac := fld cs 159 128
  let peersOk := match k with
    | some k => (otherPeers k s).all (fun h => (peerPort h s).isSome)
    | none => true
  { admBase with
    bodyOk := k.isSome && decide (uRecipe b ≤ 2) && decide (cInFmt ocUpdate b ≤ 4) && decide (cOutFmt b ≤ 4) &&
      decide (0 < el) && decide (el ≤ 2 ^ 40) && el % 32 == 0 && cWindow ocUpdate b % 4 == 0 && uW b % 128 == 0 &&
      uState b % 128 == 0 && fld b 607 552 % 128 == 0 && cst % 128 == 0 && arrays && (!cCode b || decide (cOutFmt b ≤ 2))
    total := cdiv el 8192, resumable := true
    ranges := rw (uW b) n ++ rw (uState b) st ++ rw (fld b 607 552) n ++ [(cst, 64, false)] ++
      (if cCounts ocUpdate b = 0 then [] else [(cCounts ocUpdate b, 2 * cdiv el chunkElems, true)])
    fit := peersOk && decide (cWindow ocUpdate b ≤ storeSlots)
    special := if resumed || (k.map (·.next)) == some (cRound b) then none else some .stale
    extra := .coll (cColl b) (if resumed then 3 else 0) (if resumed then fac else 0x3F800000) cs 0 sumSq0
    detail := if resumed then fac else if bit b 724 then 0 else 0x3F800000 }

def normAdm (d : Desc) (s : State) : Adm :=
  let b := dBody d
  let alone := cColl b == 0xFFF
  let k := bodyColl d.qu.job b s
  let el := cElems ocNormSq b
  { admBase with
    bodyOk := (alone || k.isSome) && decide (cInFmt ocNormSq b ≤ 4) && decide (1 ≤ el) && decide (el ≤ 2 ^ 40) &&
      fld b 631 576 % 64 == 0
    total := cdiv el 16384
    ranges := [(fld b 735 680, packedBytes (cInFmt ocNormSq b) el, false), (fld b 631 576, 64, true)]
    special := if alone || (k.map (·.next)) == some (cRound b) then none else some .stale
    extra := .coll (cColl b) (if alone then 1 else 0) 0 0 0 sumSq0 }

/-- An admitted collective item advances NEXT and becomes pending (R243, R264). -/
def pendRound (i : Nat) (s : State) : State :=
  match itemOf i s with
  | none => s
  | some x =>
    if collPhase x = 0 then
      modColl (cColl x.body) (fun k => { k with next := (cRound x.body + 1) % 65536, pending := k.pending ++ [i] }) s
    else s

/-! ### Update slivers (R262 to R265) -/

/-- One element's step: gradient, W, M, V to W, M, V. -/
def updateElem (recipe : Nat) (cs : Nat) (c g w m v : W32) : W32 × W32 × W32 :=
  let k (lo : Nat) : W32 := const32 cs lo
  let nlr := k 480 ^^^ 0x80000000#32
  let wd := k 224
  let g := fmul32 g c
  match recipe with
  | 0 => (ffma32 nlr (ffma32 wd w g) w, m, v)
  | 1 =>
    let m := ffma32 (k 192) m g
    (ffma32 nlr (ffma32 wd w m) w, m, v)
  | _ =>
    let m := ffma32 (k 448) m (fmul32 (k 416) g)
    let v := ffma32 (k 384) v (fmul32 (k 352) (fmul32 g g))
    let mh := fmul32 m (k 320)
    let vh := fmul32 v (k 288)
    let sq := if isZero (dec32 vh) then (0 : W32) else fmul32 vh (vsfRsqrtLane vh)
    let u := fmul32 mh (vsfRcpLane (fadd32 sq (k 256)))
    (ffma32 nlr (ffma32 wd w u) w, m, v)

def words32 (bs : List Byte) (n : Nat) : List W32 := (secItems 32 n (natOf bs)).map (BitVec.ofNat 32)
def bytes32 (ws : List W32) : List Byte := ws.flatMap (fun w => bytesOf 4 w.toNat)

/-- The line of pool memory that an item's write names, whether or not the item may write it: the crate is placed, and a draft
takes its copy, where there is room for them. -/
def slLine (x : Item) (a : Nat) (s : State) : Option (Nat × Nat) × State :=
  match extAt x.job (fvaSlot a) (fvaGran a) s with
  | none => (none, s)
  | some (ext, e) =>
    let off := extOff e a
    let idx := off / crateBytes
    let (form, s) : Option Nat × State := match regionOfExt ext s with
      | none => (some 0, s)
      | some (rid, _) => match itemBind x rid s with
        | some b => if b.draft then draftCrate rid idx b s else (none, s)
        | none => (none, s)
    match form with
    | none => (none, s)
    | some f =>
      let (placed, s) := if (crateOf (crateKey ext f idx) s).tier = 0 then placeNew (crateKey ext f idx) s else (true, s)
      (if placed then some (lineKey ext f (off / 128), off % 128) else none, s)
/-- The elements of a failed run of writes are undefined: each byte of them is a free value (R265). -/
def slScramble (x : Item) (ws : List SlWrite) (s : State) : State :=
  each (writeLines ws) (fun l s =>
    match slLine x l.1 s with
    | (some (lk, off), s) =>
      let (v, s) := draw s
      slApply x (lk, off, (bytesOf l.2.length v).map some) s
    | (none, s) => s) s
def halfWritten (st : Status) : Bool := st == .denied || st == .revoked || st == .tierTimeout

/-- One update sliver, as a hen runs it. -/
def updateSliver (i u : Nat) (x : Item) : Sl Unit :=
  let b := x.body
  let e0 := u * 8192
  let n := min 8192 (uElems b - e0)
  let r := uRecipe b
  let m0 := uState b
  let v0 := uState b + 4 * uElems b
  slBind (slRead x (fld b 607 552 + 4 * e0) (4 * n)) (fun g =>
    slBind (slRead x (uW b + 4 * e0) (4 * n)) (fun w =>
      slBind (if r = 0 then slPure [] else slRead x (m0 + 4 * e0) (4 * n)) (fun m =>
        slBind (if r = 2 then slRead x (v0 + 4 * e0) (4 * n) else slPure []) (fun v => fun s =>
          let (cs, c) := match x.extra with | .coll _ _ c cs _ _ => (cs, c) | _ => (0, 0x3F800000)
          let gs := words32 g n
          let wl := words32 w n
          let ml := words32 m n
          let vl := words32 v n
          let out := (List.range n).map (fun j =>
            updateElem r cs (BitVec.ofNat 32 c) ((gs[j]?).getD 0) ((wl[j]?).getD 0) ((ml[j]?).getD 0) ((vl[j]?).getD 0))
          let ws := [wBytes (uW b + 4 * e0) (bytes32 (out.map (·.1)))] ++
            (if r = 0 then [] else [wBytes (m0 + 4 * e0) (bytes32 (out.map (·.2.1)))]) ++
            (if r = 2 then [wBytes (v0 + 4 * e0) (bytes32 (out.map (·.2.2)))] else [])
          match slWrite x false ws s with
          | (.wait q, s) => (.wait q, s)
          | (.fail st, s) => (.fail st, if halfWritten st then slScramble x ws s else s)
          | (.ok _, s) =>
            let os := out.map (fun o => narrow (cOutFmt b) (cSat b) o.1)
            let s := each (List.range (cdiv n chunkElems)) (fun k =>
              deliverAll i (cColl b) u (e0 + k * chunkElems) ((os.drop (k * chunkElems)).take chunkElems)) s
            (.ok (), bump kUpdatesRun s)))))

/-- Is an update sliver ready (Update slivers)? -/
def updateReady (x : Item) (u : Nat) (s : State) : Bool :=
  if 3 ≤ collPhase x then collPhase x == 3
  else if bit x.body 724 || bit x.body 722 then false
  else match collOf (cColl x.body) s with
    | none => false
    | some k =>
      k.peers == 0 && (match k.openR with
        | some r => collPhase x == 1 && cRound x.body == r.round &&
            ((List.range 8).map (fun j => u * 8 + j)).all (fun c =>
              decide (cChunks x ≤ c) || decide (c < r.low) || r.complete.contains c)
        | none => false)

end Sys2Proof.Machine
end

