-- ==== Sys2Proof/Machine/Engines.lean ====
section
/-!
DEFINITION. Gather and filter engines, the slivers of NORM_SQ, and the end of an engine's sliver
(08_reduce_gather_filter.md, R247, R250, R266 to R272).
-/
namespace Sys2Proof.Machine

/-! ### The attribute predicate (Table 8.11, R270, R271) -/

abbrev predBytes : Nat := 384
def pTerms (p : Nat) : Nat := fld p 516 512
def pRootOr (p : Nat) : Bool := bit p 517
def pGroupOr (p g : Nat) : Bool := bit p (528 + g)
def pWord (p t : Nat) : Nat := fld p (32 * t + 31) (32 * t)
def pConstA (p t : Nat) : Nat := fld p (1024 + 128 * t + 63) (1024 + 128 * t)
def pConstB (p t : Nat) : Nat := fld p (1024 + 128 * t + 127) (1024 + 128 * t + 64)
def typeBytes (t : Nat) : Nat :=
  match t with
  | 0 => 1 | 1 => 2 | 3 => 8 | 5 => 8 | _ => 4
/-- A control word that is not refused (R270). -/
def termOk (w : Nat) : Bool :=
  let op := fld w 31 28
  let ty := fld w 27 25
  let off := fld w 19 14
  decide (op ≤ 9) && decide (ty ≤ 6) && !bit w 24 && fld w 13 0 == 0 && off % typeBytes ty == 0 &&
    decide (off + typeBytes ty ≤ 64) && !(decide (7 ≤ op) && ty == 6)
def predOk (p : Nat) : Bool :=
  decide (1 ≤ pTerms p) && decide (pTerms p ≤ 16) && (List.range (pTerms p)).all (fun t => termOk (pWord p t))
/-- Ordering of two field values of a type: less, equal; none when a binary32 NaN takes part. -/
def typeCmp (ty a b : Nat) : Option (Bool × Bool) :=
  if ty = 6 then
    let x := dec32 (BitVec.ofNat 32 a)
    let y := dec32 (BitVec.ofNat 32 b)
    if isNan x || isNan y then none else some (ltF x y, eqF x y)
  else if ty = 4 then some (decide (toS 32 a < toS 32 b), a == b)
  else if ty = 5 then some (decide (toS 64 a < toS 64 b), a == b)
  else some (decide (a < b), a == b)
def termHolds (p t rec_ : Nat) : Bool :=
  let w := pWord p t
  let ty := fld w 27 25
  let n := 8 * typeBytes ty
  let off := 8 * fld w 19 14
  let x := rec_ / 2 ^ off % 2 ^ n
  let a := pConstA p t % 2 ^ n
  let b := pConstB p t % 2 ^ n
  let lt (u v : Nat) : Bool := match typeCmp ty u v with | some (l, _) => l | none => false
  let eq (u v : Nat) : Bool := match typeCmp ty u v with | some (_, e) => e | none => false
  match fld w 31 28 with
  | 0 => eq x a
  | 1 => !eq x a
  | 2 => lt x a
  | 3 => lt x a || eq x a
  | 4 => lt a x
  | 5 => lt a x || eq x a
  | 6 => (lt a x || eq a x) && (lt x b || eq x b)
  | 7 => (x &&& a) != 0
  | 8 => (x &&& a) == a
  | _ => (x &&& a) == 0
/-- Does a 64 B record match (R271)? -/
def predMatch (p rec_ : Nat) : Bool :=
  let terms := List.range (pTerms p)
  let inGroup (g : Nat) : List Nat := terms.filter (fun t => fld (pWord p t) 23 20 == g)
  let groups := (List.range 16).filter (fun g => !(inGroup g).isEmpty)
  let holds (g : Nat) : Bool :=
    if pGroupOr p g then (inGroup g).any (fun t => termHolds p t rec_) else (inGroup g).all (fun t => termHolds p t rec_)
  if pRootOr p then groups.any holds else groups.all holds

/-! ### Admission (Tables 8.9 and 8.10) -/

def gTable (b : Nat) : Nat := fld b 767 712
def gIndices (b : Nat) : Nat := fld b 711 656
def gDst (b : Nat) : Nat := fld b 655 600
def gRow (b : Nat) : Nat := fld b 599 584
def gRowFmt (b : Nat) : Nat := fld b 583 580
def gOutFmt (b : Nat) : Nat := fld b 579 576
def gPool (b : Nat) : Nat := fld b 575 574
def gIdxBytes (b : Nat) : Nat := if bit b 573 then 8 else 4
def gSat (b : Nat) : Bool := bit b 572
def gCount (b : Nat) : Nat := fld b 567 536
def gBags (b : Nat) : Nat := fld b 535 504
def gOffsets (b : Nat) : Nat := fld b 503 448
def gWeights (b : Nat) : Nat := fld b 447 392
def gRows (b : Nat) : Nat := fld b 391 344
def gRowElems (b : Nat) : Nat := gRow b * 8 / elemBits (gRowFmt b)
/-- Bytes from one output row of GATHER_BAGS to the next. -/
def gOutRow (b : Nat) : Nat := cdiv (gRowElems b * (elemBits (gOutFmt b) / 8)) 16 * 16

def gatherAdm (d : Desc) : Adm :=
  let b := dBody d
  let bags := dOpcode d == ocGatherBags
  let bagOk := decide (gRowFmt b ≤ 4) && decide (gOutFmt b ≤ 4) && decide (gPool b ≤ 2) && decide (1 ≤ gBags b) &&
    decide (gBags b ≤ 1048576) && gRow b * 8 % elemBits (gRowFmt b) == 0 && !(gWeights b != 0 && gPool b == 2)
  { admBase with
    bodyOk := gTable b % 16 == 0 && gDst b % 16 == 0 && decide (16 ≤ gRow b) && decide (gRow b ≤ 4096) && gRow b % 16 == 0 &&
      decide (1 ≤ gCount b) && decide (gCount b ≤ 16777216) && (!bags || bagOk)
    total := if bags then cdiv (gBags b) 256 else cdiv (gCount b) 4096
    ranges := [(gTable b, gRows b * gRow b, false), (gIndices b, gCount b * gIdxBytes b, false)] ++
      (if bags then [(gOffsets b, 4 * gBags b, false)] ++
          (if gWeights b = 0 then [] else [(gWeights b, 4 * gCount b, false)]) ++ [(gDst b, gBags b * gOutRow b, true)]
        else [(gDst b, gCount b * gRow b, true)])
    extra := .engine 0 0 [] }

def fRecords (b : Nat) : Nat := fld b 767 712
def fCount (b : Nat) : Nat := fld b 711 664
def fPredAt (b : Nat) : Nat := fld b 663 608
def fDst (b : Nat) : Nat := fld b 607 552
def fList (b : Nat) : Bool := bit b 551
def fMax (b : Nat) : Nat := fld b 543 512
def filterAdm (d : Desc) (s : State) : Adm :=
  let b := dBody d
  let p := peek d (fPredAt b) predBytes s
  { admBase with
    bodyOk := fRecords b % 64 == 0 && decide (1 ≤ fCount b) && fPredAt b % 128 == 0 &&
      (!descReads d (fPredAt b) predBytes s || predOk p)
    total := cdiv (fCount b) 16384
    ranges := [(fRecords b, 64 * fCount b, false), (fPredAt b, predBytes, false),
      (fDst b, if fList b then 8 * fMax b else cdiv (fCount b) 8, true)]
    extra := .engine 0 0 (bytesOf predBytes p) }

/-! ### Slivers -/

/-- Change the state at the end of a sliver's computation. -/
def slDo (f : State → State) : Sl Unit := fun s => (.ok (), f s)

/-- The distinct in-range indices of a sliver, each read once (R269). -/
def readRows (x : Item) (idx : List Nat) : Sl (List (Nat × List Byte)) :=
  let b := x.body
  slMap (fun i => slBind (slRead x (gTable b + i * gRow b) (gRow b)) (fun r => slPure (i, r)))
    ((idx.filter (fun i => decide (i < gRows b))).eraseDups)
/-- Counters and DETAIL of a gather sliver. -/
def gatherCount (i : Nat) (x : Item) (idx : List Nat) (s : State) : State :=
  let inR := idx.filter (fun k => decide (k < gRows x.body))
  let oob := idx.length - inR.length
  let s := bumpN kGatherRows inR.eraseDups.length (bumpN kGatherCombined (inR.length - inR.eraseDups.length) s)
  modItem i (fun x => { x with detail := x.detail + oob }) (bumpN kGatherOob oob s)

/-- GATHER's sliver of 4,096 indices (R266). -/
def gatherSliver (i sl : Nat) (x : Item) : Sl Unit :=
  let b := x.body
  let lo := sl * 4096
  let n := min 4096 (gCount b - lo)
  slBind (slRead x (gIndices b + lo * gIdxBytes b) (n * gIdxBytes b)) (fun bs =>
    let idx := secItems (8 * gIdxBytes b) n (natOf bs)
    slBind (readRows x idx) (fun rows =>
      let out := idx.flatMap (fun k => (tget rows k).getD (List.replicate (gRow b) 0))
      slBind (slWrite x true [wBytes (gDst b + lo * gRow b) out]) (fun _ => slDo (gatherCount i x idx))))

/-- One pooled element of a bag: binary32 values of the in-range rows, weighted (R268). -/
def poolElem (b : Nat) (vs : List W32) : Nat :=
  let f := (fmtOf (gOutFmt b)).getD fmt32
  match vs with
  | [] => 0
  | v :: r =>
    if gPool b = 2 then narrow (gOutFmt b) (gSat b) (r.foldl fmax32 v)
    else elemResult f (gPool b == 1) (gSat b) (vs.foldl (fun e w => elemAdd e (dec32 w)) elem0)

/-- GATHER_BAGS's sliver of 256 bags (R267, R268). -/
def bagsSliver (i sl : Nat) (x : Item) : Sl Unit :=
  let b := x.body
  let lo := sl * 256
  let n := min 256 (gBags b - lo)
  let have_ := min (n + 1) (gBags b - lo)
  slBind (slRead x (gOffsets b + 4 * lo) (4 * have_)) (fun bs =>
    let os := secItems 32 have_ (natOf bs) ++ (if have_ = n then [gCount b] else [])
    let fine := (sl != 0 || (os[0]?).getD 0 == 0) && os.all (fun o => decide (o ≤ gCount b)) &&
      (List.range n).all (fun k => decide ((os[k]?).getD 0 ≤ (os[k + 1]?).getD 0))
    if !fine then slFail .refusedFormat
    else
      let a := (os[0]?).getD 0
      let z := (os[n]?).getD 0
      slBind (slRead x (gIndices b + a * gIdxBytes b) ((z - a) * gIdxBytes b)) (fun ib =>
        let idx := secItems (8 * gIdxBytes b) (z - a) (natOf ib)
        slBind (if gWeights b = 0 then slPure [] else slRead x (gWeights b + 4 * a) (4 * (z - a))) (fun wb =>
          let wts := words32 wb (z - a)
          slBind (readRows x idx) (fun rows =>
            let m := gRowElems b
            let w := elemBits (gRowFmt b)
            -- the binary32 elements of each in-range index, weighted
            let row (k : Nat) : Option (List W32) :=
              (tget rows ((idx[k]?).getD (gRows b))).map (fun r =>
                (secItems w m (natOf r)).map (fun e =>
                  let v := widen (gRowFmt b) e (some 0)
                  if gWeights b = 0 then v else fmul32 ((wts[k]?).getD 0) v))
            let bag (k : Nat) : List Byte :=
              let first := (os[k]?).getD 0 - a
              let len := (os[k + 1]?).getD 0 - (os[k]?).getD 0
              let rs := ((List.range len).map (fun j => first + j)).filterMap row
              packElems (gOutFmt b) ((List.range m).map (fun e => poolElem b (rs.map (fun r => (r[e]?).getD 0))))
            slBind (slWrite x true ((List.range n).map (fun k => wBytes (gDst b + (lo + k) * gOutRow b) (bag k)))) (fun _ =>
              slDo (gatherCount i x idx))))))

/-- FILTER's sliver of 16,384 records (R271, R272). The bits of the last byte past the last record are free. -/
def filterSliver (i sl : Nat) (x : Item) : Sl Unit :=
  let b := x.body
  let lo := sl * 16384
  let n := min 16384 (fCount b - lo)
  let (next, pred) := match x.extra with | .engine p _ q => (p, natOf q) | _ => (0, 0)
  slBind (slRead x (fRecords b + 64 * lo) (64 * n)) (fun bs =>
    let recs := secItems 512 n (natOf bs)
    let hits := (List.range n).filter (fun k => predMatch pred ((recs[k]?).getD 0))
    let fin : Sl Unit := slDo (fun s =>
      let s := bumpN kFilterRecords n (bumpN kFilterMatches hits.length s)
      modItem i (fun x => { x with
        detail := min (2 ^ 32 - 1) (x.detail + hits.length)
        extra := match x.extra with | .engine p c q => .engine (p + hits.length) c q | e => e }) s)
    if fList b then
      let room := fMax b - next
      let ix := (hits.take room).map (fun k => lo + k)
      slBind (if ix.isEmpty then slPure () else
        slWrite x true [wBytes (fDst b + 8 * next) (ix.flatMap (bytesOf 8))]) (fun _ => fin)
    else
      slBind slDraw (fun v =>
        let bits := mapOf hits + (v % 2 ^ (cdiv n 8 * 8 - n)) * 2 ^ n
        slBind (slWrite x true [wNat (fDst b + lo / 8) (cdiv n 8) bits]) (fun _ => fin)))

/-- NORM_SQ's sliver of 16,384 elements (R250). -/
def normSliver (i sl : Nat) (x : Item) : Sl Unit :=
  let b := x.body
  let f := cInFmt ocNormSq b
  let lo := sl * 16384
  let n := min 16384 (cElems ocNormSq b - lo)
  slBind (slRead x (fld b 735 680 + lo * (elemBits f / 8)) (n * (elemBits f / 8))) (fun bs =>
    slDo (modItem i (fun x => setSum (ssJoin (collSum x)
      ((secItems (elemBits f) n (natOf bs)).foldl (fun z e => ssAdd z (decodeElem f e)) sumSq0)) x)))

/-- May an engine's sliver end now: it is the item's, nothing holds it, and its engine takes it in ascending order? -/
def engineTurn (i sl : Nat) (x : Item) (s : State) : Bool :=
  let ended (k : Nat) : Bool := x.doneS.contains k || x.ended.any (fun e => e.1 == k)
  decide (sl < x.total) && !ended sl &&
  (if x.opcode = ocReduce || x.opcode = ocAllreduce then
     x.running.contains sl && !s.eng.delivers.any (fun d => d.item == i && d.sliver == sl)
   else
     x.stop.isNone && fenceMet i x s &&
     (List.range sl).all (fun k => k % 4 != sl % 4 || ended k) &&
     (x.opcode != ocFilter || !fList x.body || decide (x.doneS.length = sl)) &&
     (x.opcode != ocNormSq || collPhase x == 1))

/-- A slice engine finishes a sliver: its result, or the status it ends with; a wait leaves it unfinished (R247). -/
def engineSliver (i sl : Nat) (s : State) : State :=
  match itemOf i s with
  | none => s
  | some x =>
    if !onEngine x.opcode || !engineTurn i sl x s then s
    else
      let s := modItem i (fun x => { x with started := true }) s
      let work : Sl Unit :=
        if x.opcode = ocGather then gatherSliver i sl x
        else if x.opcode = ocGatherBags then bagsSliver i sl x
        else if x.opcode = ocFilter then filterSliver i sl x
        else if x.opcode = ocNormSq then normSliver i sl x
        else slPure ()
      match slRun (.engine i sl) i work s with
      | (.wait _, s) => s
      | (.ok _, s) => itemSliverEnd i sl .done s
      | (.fail st, s) => itemSliverEnd i sl st s

end Sys2Proof.Machine
end

