-- ==== Sys2Proof/Machine/Matrix.lean ====
section
/-!
DEFINITION. The matrix unit: TMMA over raw and coded B operands, and the fetch of a codebook into an expander slot
(05_hens_and_arithmetic.md Table 5.3, R148 to R151; 07_ebribry_coding.md R234, R235).
-/
namespace Sys2Proof.Machine

/-- K of a format's class (Table 5.3); 0 for FP32 and reserved codes. -/
def classK (fmt : Nat) : Nat :=
  match fmt with
  | 1 => 64 | 2 => 64 | 3 => 128 | 4 => 128 | 5 => 128 | 6 => 128 | 7 => 128 | 8 => 128 | 9 => 256 | 10 => 128
  | _ => 0
/-- Both formats in one class (R148). -/
def sameClass (fa fb : Nat) : Bool := classK fa != 0 && classK fa == classK fb

/-- An operand vector along K: element codes and one scale exponent for each 32. -/
structure OpVec where
  fmt : Nat
  elems : List Nat
  scales : List (Option Int)
  deriving DecidableEq, Repr
def opFv (v : OpVec) : List Fv := v.elems.map (decodeElem v.fmt)

/-- Products in chunks of 32 along K, each chunk added with one rounding (R150). -/
def dotChunks (c : W32) (as bs : List Fv) (sa sb : List (Option Int)) : Nat → W32
  | 0 => c
  | n + 1 =>
    let c := dotChunks c as bs sa sb n
    let ps := List.zipWith mulF ((as.drop (32 * n)).take 32) ((bs.drop (32 * n)).take 32)
    chunkAdd c ps ((sa[n]?).getD (some 0)) ((sb[n]?).getD (some 0))
/-- One accumulator element of a TMMA. -/
def tmmaElem (c : W32) (a b : OpVec) : W32 := dotChunks c (opFv a) (opFv b) a.scales b.scales (a.elems.length / 32)

/-- Row i of an A tile: rows follow each other at the row's own size; scales in the sideband. -/
def aRow (x : Hen) (t fmt i : Nat) : OpVec :=
  let k := classK fmt
  let n := packedBytes fmt k
  let bytes := (List.range n).map (fun j => tileByte x t (i * n + j))
  { fmt := fmt, elems := secItems (elemBits fmt) k (natOf bytes),
    scales := if isMx fmt then (List.range (k / 32)).map (fun j => scaleOf (tileByte x t (2048 + i * (k / 32) + j)).toNat)
              else List.replicate (k / 32) (some 0) }
/-- Columns of a B block from its elements, column 0 first, and its scale bytes. -/
def bCols (fmt : Nat) (es : List Nat) (sc : List Byte) : List OpVec :=
  let k := classK fmt
  (List.range 32).map (fun j =>
    { fmt := fmt, elems := (es.drop (j * k)).take k,
      scales := if isMx fmt then ((sc.drop (j * (k / 32))).take (k / 32)).map (fun b => scaleOf b.toNat)
                else List.replicate (k / 32) (some 0) })
/-- C += A x B on a hen's tiles (R150, R151). -/
def tmmaApply (tc ta : Nat) (cols : List OpVec) (x : Hen) : Hen :=
  let rows := (List.range 16).map (aRow x ta (fmtA x))
  accSet { x with busy := x.busy + 128 } tc ((List.range 16).flatMap (fun i =>
    (List.range 32).map (fun j => tmmaElem (accGet x tc i j) ((rows[i]?).getD ⟨0, [], []⟩) ((cols[j]?).getD ⟨0, [], []⟩))))

/-- Data bytes of a raw B block, and with its scales. -/
def bData (fmt : Nat) : Nat := packedBytes fmt (32 * classK fmt)
def bBytes (fmt : Nat) : Nat := bData fmt + (if isMx fmt then classK fmt else 0)
/-- TMMA with a raw operand. -/
def tmmaI (tc ta rs1 : Nat) (x : Hen) : Except Trap Hen :=
  let f := fmtB x
  let a := xGet x rs1
  if 8 ≤ tc || 8 ≤ ta || !sameClass (fmtA x) f then .error .illegal
  else match lsCheck x a (bBytes f) true with
    | some t => .error t
    | none =>
      let bs := lsRead x a (bBytes f)
      .ok (tmmaApply tc ta (bCols f (secItems (elemBits f) (32 * classK f) (natOf (bs.take (bData f)))) (bs.drop (bData f))) x)

/-- TMMA with a coded operand (R234, R235): one to eight blocks of FMT_B, at most two generations, exactly one operand. A
generation missing from the slots makes the instruction wait for its fetch. -/
def tmmaCoded (h tc ta rs1 : Nat) (s : State) : State :=
  let x := henOf h s
  if !running h s then s
  else
    let f := fmtB x
    let a := xGet x rs1
    let need := 32 * classK f
    let bs := inlineBlocks x need 8 a
    let span := lsum (bs.map (fun b => 16 + cdiv b.2.length 16 * 16))
    if 8 ≤ tc || 8 ≤ ta || !sameClass (fmtA x) f then henFault h .illegal s
    else match lsCheck x a span true with
      | some t => henFault h t s
      | none =>
        let gens := blocksGens bs
        let total := lsum (bs.map (fun b => bTuples b.1 * bTuple b.1))
        if !bs.all (fun b => bFmt b.1 == f) || 2 < gens.length || total != need then henFault h .illegal s
        else match gens.find? (fun g => !x.slots.contains g) with
          | some g =>
            if bs.any (fun b => bMode b.1 == 1 && (bBook b.1, bGen b.1) == g && (entriesFor x.job b.1 s).isNone) then
              endSliver h .refusedFormat (henFaultRec h 0 .refusedFormat 0 s)
            else
              -- the slots the operand needs stand last: the one freed for the fetch is another
              let need := x.slots.filter (fun e => gens.contains e)
              setHen h { x with cbWait := some g, slots := x.slots.filter (fun e => !gens.contains e) ++ need } s
          | none =>
            let dec := bs.map (fun b => decodeBlock b.1 (entriesFor x.job b.1 s) b.2)
            let bad := (dec.filter (fun d => match d with | .error .check => true | _ => false)).length
            let s := bumpN kCheckFails bad s
            if dec.any (fun d => match d with | .error .invalid => true | _ => false) then
              endSliver h .refusedFormat (henFaultRec h 0 .refusedFormat 0 s)
            else if bad != 0 then endSliver h .poisoned s
            else
              let parts := List.zip bs dec
              let es := parts.flatMap (fun p => match p.2 with | .ok (ts, _) => elemsOf f (bTuple p.1.1) ts | _ => [])
              let sc := parts.flatMap (fun p => match p.2 with | .ok (_, c) => c | _ => [])
              let s := bumpN kStallExpand (expandCycles bs - 128) s
              retire h 4 (tmmaApply tc ta (bCols f es sc) { x with cbWait := none }) s

/-- A codebook's generation arrives in an expander slot: the slot freed is one the waiting TMMA does not need (R234). -/
def codebookFetched (h cb gen : Nat) (s : State) : State :=
  let x := henOf h s
  if !running h s || x.cbWait != some (cb, gen) then s
  else
    let keep := if x.slots.length < 2 then x.slots else x.slots.drop 1
    bump kCbFetches (setHen h { x with slots := keep ++ [(cb, gen)], cbWait := none } s)

end Sys2Proof.Machine
end

