-- ==== Sys2Proof/Machine/Kv.lean ====
section
/-!
DEFINITION. KV arenas: EDIT_PAGES, PAGE_FREE, generations and reclamation (09_decode_attention.md, R274 to R284).
-/
namespace Sys2Proof.Machine

/-! ### Geometry (Tables 9.1 and 9.2) -/

def kvFmt (h : Nat) : Nat := fld h 975 972
def kvP (h : Nat) : Nat := 16 * 2 ^ fld h 971 970
def kvD (h : Nat) : Nat := 64 * 2 ^ fld h 969 968
def kvHeads (h : Nat) : Nat := fld h 967 960
def kvRing (h : Nat) : Nat := fld h 639 608
def kvHead (h : Nat) : Nat := fld h 607 584
def kvReclaim (h : Nat) : Nat := fld h 575 512
def kvPut (h : Nat) : Nat := fld h 511 480
def kvTake (h : Nat) : Nat := fld h 479 448
def kvBytes (fmt : Nat) : Nat := if fmt ≤ 2 then 2 else 1
abbrev noChunk : Nat := 0xFFFFFF
def kvOk (h : Nat) : Bool := fld h 1023 992 == arenaMagic
/-- Directory entry fields. -/
def eLen (e : Nat) : Nat := fld e 511 480
def eGen (e : Nat) : Nat := fld e 479 448
def eIndex (e : Nat) : Nat := fld e 447 424
def eOpen (e : Nat) : Bool := fld e 423 416 == 1
def eCap (e : Nat) : Nat := fld e 415 392
def mkEntry (len gen index st cap : Nat) : Nat :=
  pack [(len % 2 ^ 32, 480), (gen % 2 ^ 32, 448), (index, 424), (st, 416), (cap, 392)]
/-- Offsets within the arena. -/
def dirAt (h seq : Nat) : Nat := kvDirOff h + seq * 64
def chunkAt (h c : Nat) : Nat := kvChunkOff h + c * 4096
def ringAt (h i : Nat) : Nat := kvRingOff h + 4 * (i % kvRing h)
/-- Table chunks of a capacity in pages. -/
def tableChunks (cap : Nat) : Nat := cdiv cap 1024

/-- The smallest power of two not below n. -/
def pow2Up (n : Nat) : Nat := if n ≤ 1 then 1 else 2 ^ (Nat.log2 (n - 1) + 1)
def roundUp (n m : Nat) : Nat := cdiv n m * m

/-- EDIT_PAGES and PAGE_FREE bodies (Table 9.3). -/
def kArena (b : Nat) : Nat := fld b 767 712
def kOp (b : Nat) : Nat := fld b 711 708
def kFree (b : Nat) : Bool := bit b 707
def kSeq (b : Nat) : Nat := fld b 703 680
def kSrc (b : Nat) : Nat := fld b 679 656
def kValue (b : Nat) : Nat := fld b 655 624
def kList (b : Nat) : Nat := fld b 623 568
def kCount (b : Nat) : Nat := fld b 567 544

/-- The header ARENA_INIT writes, from the geometry of its body. -/
def initHdr (b : Nat) : Nat :=
  let fmt := fld b 543 540
  let seqs := fld b 511 488
  let chunks := fld b 487 464
  let pages := fld b 463 432
  let slot := 2 * (16 * 2 ^ fld b 539 538) * fld b 535 528 * (64 * 2 ^ fld b 537 536) * kvBytes fmt
  let ring := roundUp (4096 + seqs * 64) 4096
  let slots := pow2Up pages
  let chunk := roundUp (ring + slots * 4) 4096
  let data := roundUp (chunk + chunks * 4096) 65536
  pack [(arenaMagic, 992), (1, 976), (fmt, 972), (fld b 539 538, 970), (fld b 537 536, 968), (fld b 535 528, 960),
    (fld b 527 512, 944), (seqs, 920), (chunks, 896), (pages, 864), (4096, 816), (ring, 768), (chunk, 720), (data, 672),
    (slot, 640), (slots, 608), (0, 584), (0, 512), (pages, 480), (0, 448)]
def geomOk (b : Nat) : Bool :=
  let fmt := fld b 543 540
  decide (1 ≤ fmt) && decide (fmt ≤ 4) && decide (fld b 537 536 ≤ 2) && decide (1 ≤ fld b 535 528) &&
    decide (fld b 535 528 ≤ 32) && decide (1 ≤ fld b 527 512) && decide (fld b 527 512 ≤ 1024) && decide (1 ≤ fld b 511 488) &&
    decide (2 ≤ fld b 487 464) && decide (1 ≤ fld b 463 432) && decide (fld b 463 432 ≤ 16777216)

/-! ### Admission -/

/-- The arena extent that an address starts, if it is one. -/
def arenaAt (job addr : Nat) (s : State) : Option (Nat × Extent) :=
  match extAt job (fvaSlot addr) (fvaGran addr) s with
  | some (ext, e) => if extOff e addr = 0 && fKv e then some (ext, e) else none
  | none => none

def editAdm (d : Desc) (s : State) : Adm :=
  let b := dBody d
  let ar := arenaAt d.qu.job (kArena b) s
  let h := peek d (kArena b) 128 s
  let init := kOp b == 0
  let hdr := initHdr b
  let fits := match ar with
    | some (_, e) => decide (kvDataOff hdr + kvLayers hdr * kvPages hdr * kvSlot hdr ≤ extBytes e)
    | none => true
  { admBase with
    bodyOk := ar.isSome && decide (kOp b ≤ 5) &&
      (!descReads d (kArena b) 128 s || (if init then fld h 1023 992 == 0
        else kvOk h && decide (kSeq b < kvSeqs h) && (kOp b != 5 || decide (kSrc b < kvSeqs h)))) &&
      (if init then geomOk b
       else (kOp b != 3 || (decide (1 ≤ kCount b) && decide (kCount b ≤ 1048576))) &&
         (kOp b != 1 || (decide (1 ≤ kValue b) && decide (kValue b ≤ 4194304))))
    ranges := [(kArena b, 128, false), (kArena b, 128, true)] ++ (if kOp b = 3 then [(kList b, 8 * kCount b, false)] else [])
    fit := !init || fits
    extra := .edit ((ar.map (·.1)).getD 0) }
def freeCount (b : Nat) : Nat := fld b 655 632
def freeAdm (d : Desc) (s : State) : Adm :=
  let b := dBody d
  let ar := arenaAt d.qu.job (kArena b) s
  { admBase with
    bodyOk := ar.isSome && (!descReads d (kArena b) 128 s || kvOk (peek d (kArena b) 128 s)) && decide (1 ≤ freeCount b) && decide (freeCount b ≤ 1048576)
    ranges := [(kArena b, 128, false), (kArena b, 128, true), (fld b 711 656, 4 * freeCount b, false)]
    extra := .edit ((ar.map (·.1)).getD 0) }

/-! ### Operations -/

/-- The free chunks from the list's head, in order; the list ends at a number that is no chunk. -/
def freeChunks (x : Item) (h : Nat) : Nat → Nat → Sl (List Nat)
  | 0, _ => slPure []
  | n + 1, c =>
    if kvChunks h ≤ c then slPure []
    else slBind (slNat x (kArena x.body + chunkAt h c) 4) (fun next =>
      slBind (freeChunks x h n next) (fun r => slPure (c :: r)))
/-- Take n chunks: their numbers and the head that remains; too few fail (Table 9.4). -/
def takeChunks (x : Item) (h n : Nat) : Sl (List Nat × Nat) :=
  slBind (freeChunks x h (n + 1) (kvHead h)) (fun l =>
    if l.length < n then slFail .refusedFit else slPure (l.take n, (l[n]?).getD noChunk))
/-- A sequence's table chunks, from its index chunk. -/
def seqChunks (x : Item) (h e : Nat) : Sl (List Nat) :=
  let n := tableChunks (eCap e)
  slBind (slRead x (kArena x.body + chunkAt h (eIndex e)) (4 * n)) (fun bs => slPure (secItems 32 n (natOf bs)))
/-- The whole of a sequence's index chunk, as its copy takes it (Table 9.4). -/
def indexWords (x : Item) (h e : Nat) : Sl (List Nat) :=
  slBind (slRead x (kArena x.body + chunkAt h (eIndex e)) 4096) (fun bs => slPure (secItems 32 1024 (natOf bs)))
/-- Page-table entries lo up to below hi, given the table chunks. -/
def tableEntries (x : Item) (h : Nat) (cs : List Nat) (lo hi : Nat) : Sl (List Nat) :=
  slMap (fun k => slNat x (kArena x.body + chunkAt h ((cs[(lo + k) / 1024]?).getD 0) + 4 * ((lo + k) % 1024)) 4)
    (List.range (hi - lo))

abbrev taggedMax : Nat := 1048576
/-- Apply an operation's writes, then release its chunks and pages under the next RECLAIM value (R281, R284). -/
def editApply (i : Nat) (x : Item) (h : Nat) (ws : List SlWrite) (head : Nat) (chunks pages : List Nat) (detail : Nat) :
    Sl Unit := fun s =>
  let arena := match x.extra with | .edit a => a | _ => 0
  let n := chunks.length + pages.length
  if 0 < n && decide (taggedMax < s.kv.tagged.length + n) then (.fail .retry, bump kReclaimFull s)
  else
    let tag := kvReclaim h + 1
    let h' := setFld h 607 584 head
    let h' := if n = 0 then h' else setFld h' 575 512 tag
    -- TAKE is the partners': the header's other bytes are written around it
    let hb := (bytesOf 128 h').map some
    let hw : List SlWrite := if h' = h then [] else [(kArena x.body, hb.take 56 ++ List.replicate 4 none ++ hb.drop 60)]
    match slWrite x true (ws ++ hw) s with
    | (.wait q, s) => (.wait q, s)
    | (.fail st, s) => (.fail st, s)
    | (.ok _, s) =>
      let mk (c : Bool) (k : Nat) : Tagged := { arena := arena, tag := tag, chunk := c, num := k }
      let s := { s with kv := { s.kv with tagged := s.kv.tagged ++ chunks.map (mk true) ++ pages.map (mk false) } }
      (.ok (), modItem i (fun x => { x with detail := detail }) s)

def chunkBytes (l : List Nat) : List Byte := bytesOf 4096 (secPack 32 l)
def chunkWrite (x : Item) (h c : Nat) (l : List Nat) : SlWrite := wBytes (kArena x.body + chunkAt h c) (chunkBytes l)
def entryWrite (x : Item) (h seq e : Nat) : SlWrite := wBytes (kArena x.body + dirAt h seq) (bytesOf 64 e)

/-- ARENA_INIT (R275). -/
def arenaInit (i : Nat) (x : Item) : Sl Unit :=
  let hdr := initHdr x.body
  let a := kArena x.body
  slBind (slNat x a 128) (fun h =>
    if fld h 1023 992 != 0 then slFail .refusedFormat
    else
      let ring := wBytes (a + kvRingOff hdr) (bytesOf (4 * kvPages hdr) (secPack 32 (List.range (kvPages hdr))))
      let links := (List.range (kvChunks hdr)).map (fun c =>
        wNat (a + chunkAt hdr c) 4 (if c + 1 < kvChunks hdr then c + 1 else noChunk))
      slBind (slWrite x true ([wBytes a (bytesOf 128 hdr), ring] ++ links)) (fun _ => fun s =>
        (.ok (), modItem i (fun x => { x with detail := 0 }) s)))

/-- The pages of a list freed with FREE: those the arena has. -/
def freed (x : Item) (h : Nat) (l : List Nat) : List Nat :=
  if kFree x.body then l.filter (fun p => decide (p < kvPages h)) else []
def realChunks (h : Nat) (l : List Nat) : List Nat := (l.filter (fun c => decide (c < kvChunks h))).eraseDups

/-- The operations on a sequence (Table 9.4). -/
def editSliver (i : Nat) (x : Item) : Sl Unit :=
  let b := x.body
  let a := kArena b
  if kOp b = 0 then arenaInit i x
  else
    slBind (slNat x a 128) (fun h =>
      let seq := kSeq b
      let p := kvP h
      slBind (slNat x (a + dirAt h seq) 64) (fun e =>
        let gen := (eGen e + 1) % 2 ^ 32
        match kOp b with
        | 1 =>
          if fld e 423 416 != 0 then slFail .refusedFormat
          else
            let cap := cdiv (kValue b) p
            let n := tableChunks cap
            slBind (takeChunks x h (n + 1)) (fun t =>
              let tabs := t.1.take n
              let idx := (t.1[n]?).getD 0
              let ws := tabs.map (fun c => chunkWrite x h c []) ++
                [chunkWrite x h idx tabs, entryWrite x h seq (mkEntry 0 1 idx 1 cap)]
              editApply i x h ws t.2 [] [] 1)
        | 2 =>
          if !eOpen e then slFail .refusedFormat
          else
            slBind (seqChunks x h e) (fun cs =>
              slBind (if kFree b then tableEntries x h cs 0 (cdiv (eLen e) p) else slPure []) (fun ps =>
                let e' := setFld (setFld e 479 448 gen) 423 416 0
                editApply i x h [entryWrite x h seq e'] (kvHead h) (realChunks h (cs ++ [eIndex e])) (freed x h ps) gen))
        | 3 =>
          slBind (slRead x (kList b) (8 * kCount b)) (fun lb =>
            let prs := (secItems 64 (kCount b) (natOf lb)).map (fun v => (v % 2 ^ 32, v / 2 ^ 32))
            if !eOpen e || prs.any (fun q => decide (cdiv (eLen e) p ≤ q.1) || decide (kvPages h ≤ q.2)) then
              slFail .refusedFormat
            else
              slBind (seqChunks x h e) (fun cs =>
                let touched := (prs.map (fun q => q.1 / 1024)).eraseDups
                slBind (takeChunks x h (touched.length + 1)) (fun t =>
                  slBind (slMap (fun k => slBind (tableEntries x h cs (1024 * k) (1024 * k + 1024)) (fun l => slPure (k, l)))
                    touched) (fun olds => slBind (indexWords x h e) (fun is =>
                    let news : List (Nat × Nat) := List.zip touched t.1
                    let cs' := news.foldl (fun l c => l.set c.1 c.2) is
                    let idx := (t.1[touched.length]?).getD 0
                    let edit (k : Nat) (l : List Nat) : List Nat :=
                      prs.foldl (fun l q => if q.1 / 1024 = k then l.set (q.1 % 1024) q.2 else l) l
                    let oldPages := ((prs.map (·.1)).eraseDups).map (fun n =>
                      (((tget olds (n / 1024)).getD [])[n % 1024]?).getD 0)
                    let ws := olds.map (fun o => chunkWrite x h ((tget news o.1).getD 0) (edit o.1 o.2)) ++
                      [chunkWrite x h idx cs', entryWrite x h seq (setFld (setFld e 479 448 gen) 447 424 idx)]
                    editApply i x h ws t.2 (realChunks h (touched.map (fun k => (cs[k]?).getD 0) ++ [eIndex e]))
                      (freed x h oldPages) gen)))))
        | 4 =>
          if !eOpen e || decide (eLen e < kValue b) then slFail .refusedFormat
          else
            slBind (seqChunks x h e) (fun cs =>
              let n := cdiv (kValue b) p
              let k := n / 1024
              let has := decide (k < cs.length)
              slBind (takeChunks x h (if has then 2 else 1)) (fun t =>
                slBind (if has then tableEntries x h cs (1024 * k) (1024 * k + 1024) else slPure []) (fun l =>
                  slBind (if kFree b then tableEntries x h cs n (cdiv (eLen e) p) else slPure []) (fun ps =>
                   slBind (indexWords x h e) (fun is =>
                    let new := (t.1[0]?).getD 0
                    let idx := (t.1[if has then 1 else 0]?).getD 0
                    let cs' := if has then is.set k new else is
                    let ws := (if has then [chunkWrite x h new l] else []) ++
                      [chunkWrite x h idx cs',
                       entryWrite x h seq (setFld (setFld (setFld e 511 480 (kValue b)) 479 448 gen) 447 424 idx)]
                    editApply i x h ws t.2
                      (realChunks h ((if has then [(cs[k]?).getD 0] else []) ++ [eIndex e])) (freed x h ps) gen)))))
        | _ =>
          slBind (slNat x (a + dirAt h (kSrc b)) 64) (fun se =>
            let n := kValue b / p
            if !eOpen e || eLen e != 0 || !eOpen se || decide (eLen se < kValue b) || decide (eCap e * p < kValue b) ||
                kValue b % p != 0 then slFail .refusedFormat
            else
              slBind (seqChunks x h se) (fun ss =>
                slBind (seqChunks x h e) (fun cs =>
                  slBind (tableEntries x h ss 0 n) (fun ps =>
                    let ws := (List.range (cdiv n 1024)).map (fun k =>
                      let l := (ps.drop (1024 * k)).take 1024
                      wBytes (a + chunkAt h ((cs[k]?).getD 0)) (bytesOf (4 * l.length) (secPack 32 l)))
                    let e' := setFld (setFld e 511 480 (kValue b)) 479 448 gen
                    editApply i x h (ws ++ [entryWrite x h seq e']) (kvHead h) [] [] gen))))))

/-- PAGE_FREE (R280). -/
def freeSliver (i : Nat) (x : Item) : Sl Unit :=
  let b := x.body
  slBind (slNat x (kArena b) 128) (fun h =>
    slBind (slRead x (fld b 711 656) (4 * freeCount b)) (fun bs =>
      let ps := secItems 32 (freeCount b) (natOf bs)
      if ps.any (fun p => decide (kvPages h ≤ p)) then slFail .refusedFormat
      else editApply i x h [] (kvHead h) [] ps ps.length))

/-! ### Reclamation (R283) -/

def isWalk (arena : Nat) (x : Item) : Bool := match x.extra with | .attend a _ _ => a == arena | _ => false
/-- No walker of the arena holds a ticket below a tag. -/
def tagFree (arena tag : Nat) (s : State) : Bool :=
  !s.work.items.any (fun i => match i.2.extra with | .attend a t _ => a == arena && decide (t < tag) | _ => false)
/-- Return one tagged chunk or page. -/
def reclaimOne (t : Tagged) (s : State) : State :=
  let h := arenaHdr t.arena s
  if t.chunk then
    let s := extWrite t.arena (chunkAt h t.num) (bytesOf 4 (kvHead h)) s
    extWrite t.arena 73 (bytesOf 3 t.num) s
  else
    let put := kvPut h
    if kvRing h ≤ sub32 put (kvTake h) then bump kPageRingFull s
    else
      let s := extWrite t.arena (ringAt h put) (bytesOf 4 t.num) s
      bump kPagesReleased (extWrite t.arena 60 (bytesOf 4 ((put + 1) % 2 ^ 32)) s)
/-- Ascending tag, chunks before pages, ascending number. -/
def tagBefore (a b : Tagged) : Bool :=
  if a.tag != b.tag then decide (a.tag < b.tag) else if a.chunk != b.chunk then a.chunk else decide (a.num < b.num)
def tagInsert (t : Tagged) : List Tagged → List Tagged
  | [] => [t]
  | u :: r => if tagBefore t u then t :: u :: r else u :: tagInsert t r
/-- Return everything that no walk can read any longer; tags of arenas that have left ACTIVE go. -/
def settleKv (s : State) : State :=
  let live := s.kv.tagged.filter (fun t => extActive t.arena s)
  let (ready, keep) := live.partition (fun t => tagFree t.arena t.tag s)
  each (ready.foldl (fun l t => tagInsert t l) []) (fun t s =>
    -- the header and the slot written must be at hand; the tag waits while they are not
    let h := arenaHdr t.arena s
    let (a, s) := ownReach t.arena 0 128 true s
    let (b, s) := ownReach t.arena (if t.chunk then chunkAt h t.num else ringAt h (kvPut h)) 4 true s
    if a && b then reclaimOne t s else { s with kv := { s.kv with tagged := s.kv.tagged ++ [t] } })
    { s with kv := { s.kv with tagged := keep } }

/-- One at a time per arena, in the order of admission (R279). -/
def editTurn (x : Item) (s : State) : Bool :=
  match x.extra with
  | .edit a => !s.work.items.any (fun i => decide (i.2.order < x.order) &&
      (match i.2.extra with | .edit c => c == a | _ => false))
  | _ => true

end Sys2Proof.Machine
end

