-- ==== Sys2Proof/Machine/Attend.lean ====
section
/-!
DEFINITION. ATTEND: decode attention over a KV arena, and PROJECT: products with coded weights
(09_decode_attention.md, R282, R285 to R298).
-/
namespace Sys2Proof.Machine

/-! ### ATTEND's descriptor (Tables 9.6 and 9.7) -/

def aArena (b : Nat) : Nat := fld b 767 712
def aLayer (b : Nat) : Nat := fld b 711 696
def aBatch (b : Nat) : Nat := fld b 695 680
def aList (b : Nat) : Nat := fld b 679 624
def aQkv (b : Nat) : Nat := fld b 623 568
def aQkvStride (b : Nat) : Nat := fld b 567 544
def aQkvFmt (b : Nat) : Nat := fld b 543 540
def aOutFmt (b : Nat) : Nat := fld b 539 536
def aQh (b : Nat) : Nat := fld b 535 524
def aHph (b : Nat) : Nat := fld b 523 520
def aMode (b : Nat) : Nat := fld b 519 518
def aRaw (b : Nat) : Bool := bit b 517
def aOut (b : Nat) : Nat := fld b 511 456
def aOutStride (b : Nat) : Nat := fld b 455 432
def aScale (b : Nat) : W32 := BitVec.ofNat 32 (fld b 431 400)
def aWindow (b : Nat) : Nat := fld b 399 368
def aSplit (b : Nat) : Nat := 64 * fld b 367 352
def aPartials (b : Nat) : Nat := fld b 351 296
def aRope (b : Nat) : Nat := fld b 295 240
def aAppend (b : Nat) : Bool := aMode b != 0
def beSeq (e : Nat) : Nat := fld e 127 104
def beQt (e : Nat) : Nat := fld e 103 96
def beRow (e : Nat) : Nat := fld e 95 64

/-- Query heads per KV head, and head groups of a KV head. -/
def aG (b h : Nat) : Nat := aQh b / max 1 (kvHeads h)
def aGroups (b h : Nat) : Nat := cdiv (aG b h) (max 1 (aHph b))
/-- Walk length of an entry, and its splits. -/
def walkLen (b e len : Nat) : Nat := if aAppend b then len + beQt e else len
def splitsOf (b l : Nat) : Nat := if aSplit b = 0 then 1 else cdiv l (aSplit b)
/-- Slivers of an entry. -/
def entrySlivers (b h e len : Nat) : Nat := kvHeads h * aGroups b h * splitsOf b (walkLen b e len)
def fmtBytes (f : Nat) : Nat := elemBits f / 8

/-- Batch entry of a sliver and the sliver's number within it. -/
def entryOf (counts : List Nat) (sl k : Nat) : Nat × Nat :=
  match counts with
  | [] => (k, sl)
  | c :: r => if sl < c then (k, sl) else entryOf r (sl - c) (k + 1)

def attendAdm (d : Desc) (s : State) : Adm :=
  let b := dBody d
  let job := d.qu.job
  let ar := arenaAt job (aArena b) s
  let h := peek d (aArena b) 128 s
  -- what the member may not read is refused for that (check 3), not for its content
  let reads := descReads d (aArena b) 128 s
  let lists := reads && descReads d (aList b) (16 * aBatch b) s
  let dm := kvD h
  let es := secItems 128 (aBatch b) (peek d (aList b) (16 * aBatch b) s)
  let dirs := es.map (fun e => peek d (aArena b + dirAt h (beSeq e)) 64 s)
  let prs := List.zip es dirs
  let inRow := (aQh b * dm + (if aAppend b then 2 * kvHeads h * dm else 0)) * fmtBytes (aQkvFmt b)
  let outRow := aQh b * (if aRaw b then 8 + 4 * dm else dm * fmtBytes (aOutFmt b))
  let entOk (q : Nat × Nat) : Bool :=
    let l := walkLen b q.1 (eLen q.2)
    decide (1 ≤ beQt q.1) && decide (beQt q.1 ≤ 16) && decide (beSeq q.1 < kvSeqs h) && eOpen q.2 &&
      (if aAppend b then decide (l ≤ eCap q.2 * kvP h) && decide (l ≤ 4194304) else decide (beQt q.1 ≤ eLen q.2))
  let seqs := es.map beSeq
  let distinct := !aAppend b || decide (seqs.eraseDups.length = seqs.length)
  let total := lsum (prs.map (fun q => entrySlivers b h q.1 (eLen q.2)))
  let parts := prs.any (fun q => decide (1 < splitsOf b (walkLen b q.1 (eLen q.2))))
  let pbytes := total * aHph b * 16 * (8 + 4 * dm)
  let top := (prs.map (fun q => walkLen b q.1 (eLen q.2))).foldl max 0
  { admBase with
    bodyOk := ar.isSome && decide (1 ≤ aBatch b) && decide (aBatch b ≤ 4096) &&
      decide (aQkvFmt b ≤ 2) && decide (aOutFmt b ≤ 4) && decide (1 ≤ aHph b) && decide (aHph b ≤ 8) && decide (aMode b ≤ 2) &&
      (!reads || (kvOk h && decide (aLayer b < kvLayers h) && decide (kvHeads h ≤ aQh b) &&
        aQh b % max 1 (kvHeads h) == 0 && decide (aG b h ≤ 256) && decide (inRow ≤ aQkvStride b) &&
        decide (outRow ≤ aOutStride b))) && (!lists || (prs.all entOk && distinct))
    total := if lists then total else 2 ^ 36, resumable := true
    ranges := [(aArena b, 128, false)] ++ (if aAppend b then [(aArena b, 128, true)] else []) ++
      [(aList b, 16 * aBatch b, false)] ++
      es.map (fun e => (aQkv b + beRow e * aQkvStride b, (beQt e - 1) * aQkvStride b + inRow, false)) ++
      es.map (fun e => (aOut b + beRow e * aOutStride b, (beQt e - 1) * aOutStride b + outRow, true)) ++
      (if parts && aPartials b != 0 then rw (aPartials b) pbytes else []) ++
      (if aRope b = 0 then [] else [(aRope b, top * (dm / 2) * 8, false)])
    fit := !parts || aPartials b != 0
    detail := (entryOf (prs.map (fun q => entrySlivers b h q.1 (eLen q.2))) (dResume d) 0).1
    extra := .attend ((ar.map (·.1)).getD 0) (kvReclaim h) (dirs.map (fun e => (eLen e, eGen e, eIndex e))) }

/-! ### Which sliver is which (R290) -/

/-- Positions visible to a query (R289), within the walk length. -/
def visible (window l q t : Nat) : Bool :=
  decide (t < l) && decide (t ≤ q) && (window == 0 || decide (q - t < window))

/-! ### Rotation and narrowing -/

/-- The format that queries, keys and values take in products. -/
def prodFmt (kvf : Nat) : Nat := if kvf = 2 then 2 else 1
/-- Rotate a head of D elements at a position; cs holds (cos, sin) for each pair. -/
def rotate (cs : List (W32 × W32)) (v : List W32) : List W32 :=
  let n := v.length / 2
  let pr (j : Nat) : W32 × W32 × W32 × W32 :=
    ((v[j]?).getD 0, (v[j + n]?).getD 0, ((cs[j]?).getD (0, 0)).1, ((cs[j]?).getD (0, 0)).2)
  (List.range n).map (fun j => let (a, c, co, si) := pr j; ffma32 a co (fmul32 c si ^^^ 0x80000000#32)) ++
  (List.range n).map (fun j => let (a, c, co, si) := pr j; ffma32 c co (fmul32 a si))
/-- The rotary table's pairs for a position. -/
def ropeRow (x : Item) (dm p : Nat) : Sl (List (W32 × W32)) :=
  let n := dm / 2
  slBind (slRead x (aRope x.body + p * n * 8) (n * 8)) (fun bs =>
    slPure ((secItems 64 n (natOf bs)).map (fun v => (BitVec.ofNat 32 (v % 2 ^ 32), BitVec.ofNat 32 (v / 2 ^ 32)))))
/-- One head of an input row, widened and, for queries and keys, rotated. -/
def inputHead (x : Item) (dm row first pos : Nat) (rope : Bool) : Sl (List W32) :=
  let b := x.body
  let w := fmtBytes (aQkvFmt b)
  slBind (slRead x (aQkv b + row * aQkvStride b + first * w) (dm * w)) (fun bs =>
    let v := (secItems (8 * w) dm (natOf bs)).map (fun e => widen (aQkvFmt b) e (some 0))
    if rope && aRope b != 0 then slBind (ropeRow x dm pos) (fun cs => slPure (rotate cs v)) else slPure v)

/-! ### Keys and values -/

/-- The page that holds a position, from the snapshot's index chunk (R282); a number at or above PAGES fails (R295). -/
def pageOf (x : Item) (h index t : Nat) : Sl Nat :=
  let a := aArena x.body
  let n := t / kvP h
  slBind (slNat x (a + chunkAt h index + 4 * (n / 1024)) 4) (fun c =>
    slBind (slNat x (a + chunkAt h c + 4 * (n % 1024)) 4) (fun p =>
      if kvPages h ≤ p then slFail .refusedFormat else slPure p))
/-- Address of a head region of a page at a layer. -/
def headRegion (x : Item) (h layer page kv : Nat) : Nat :=
  aArena x.body + kvDataOff h + (layer * kvPages h + page) * kvSlot h + kv * 2 * kvP h * kvD h * kvBytes (kvFmt h)
def keyAt (h t d : Nat) : Nat := ((t % kvP h) * kvD h + d) * kvBytes (kvFmt h)
def valAt (h t d : Nat) : Nat := (kvP h * kvD h + d * kvP h + t % kvP h) * kvBytes (kvFmt h)

/-- Key and value of a position, as codes of KV_FMT: from the input rows for the appended ones, else from the pages
(R286). -/
def kvOf (x : Item) (h kv len row index t : Nat) : Sl (List Nat × List Nat) :=
  let b := x.body
  let dm := kvD h
  let f := kvFmt h
  if aAppend b && decide (len ≤ t) then
    let r := row + (t - len)
    slBind (inputHead x dm r (aQh b * dm + kv * dm) t true) (fun k =>
      slBind (inputHead x dm r ((aQh b + kvHeads h + kv) * dm) t false) (fun v =>
        slPure (k.map (narrow f true), v.map (narrow f true))))
  else
    slBind (pageOf x h index t) (fun p =>
      let a := headRegion x h (aLayer b) p kv
      let w := kvBytes f
      slBind (slRead x (a + keyAt h t 0) (dm * w)) (fun ks =>
        slBind (slMap (fun d => slNat x (a + valAt h t d) w) (List.range dm)) (fun vs =>
          slPure (secItems (8 * w) dm (natOf ks), vs))))

/-! ### Online softmax (R292) and the merge (R293) -/

abbrev negInf32 : W32 := 0xFF800000#32
abbrev one32 : W32 := 0x3F800000#32

/-- A row's running state: m, l, O. -/
structure Soft where
  m : W32
  l : W32
  o : List W32
  deriving DecidableEq, Repr
def soft0 (dm : Nat) : Soft := { m := negInf32, l := 0, o := List.replicate dm 0 }

/-- One block of 64 positions: scores where visible, values as exact numbers. -/
def softBlock (sc : List (Option W32)) (vals : List (List Fv)) (pf : Nat) (st : Soft) : Soft :=
  let s := sc.map (fun v => v.getD negInf32)
  let mn := fmax32 st.m (foldTree fmax32 5 (List.zipWith fmax32 (s.take 32) (s.drop 32)))
  if mn = negInf32 then st
  else
    let a := vsfExp2Lane (fsub32 st.m mn)
    let codes := s.map (fun v => narrow pf true (vsfExp2Lane (fsub32 v mn)))
    let pw := codes.map (fun c => widen pf c (some 0))
    let sum := fadd32 (foldTree fadd32 5 (pw.take 32)) (foldTree fadd32 5 (pw.drop 32))
    let l := ffma32 a st.l sum
    let o := if a = one32 then st.o else st.o.map (fun e => fmul32 e a)
    let ps := codes.map (decodeElem pf)
    -- a masked position contributes nothing
    let col (d : Nat) : List Fv := List.zipWith (fun v r => if v.isSome then (r[d]?).getD (Fv.fin false 0 0) else .fin false 0 0) sc vals
    let o := (List.range o.length).map (fun d => dotChunks ((o[d]?).getD 0) ps (col d) [] [] 2)
    { m := mn, l := l, o := o }

/-- Merge the splits of a row in ascending order. -/
def softMerge (dm : Nat) (rs : List Soft) : Soft :=
  rs.foldl (fun acc r =>
    if r.m = negInf32 then acc
    else
      let mn := fmax32 acc.m r.m
      let a := vsfExp2Lane (fsub32 acc.m mn)
      let b := vsfExp2Lane (fsub32 r.m mn)
      { m := mn, l := ffma32 b r.l (fmul32 a acc.l),
        o := List.zipWith (fun x y => ffma32 b y (fmul32 a x)) acc.o r.o }) (soft0 dm)

/-! ### An ATTEND sliver -/

def softBytes (r : Soft) : List Byte := bytesOf 4 r.m.toNat ++ bytesOf 4 r.l.toNat ++ bytes32 r.o
def softOf (dm : Nat) (bs : List Byte) : Soft :=
  let ws := words32 bs (dm + 2)
  { m := (ws[0]?).getD 0, l := (ws[1]?).getD 0, o := ws.drop 2 }
/-- A split's record for a row: the group's head and the query token pick it (DESIGN CHOICE, log 34). -/
def partialAt (b dm sliver hd tok : Nat) : Nat :=
  aPartials b + sliver * aHph b * 16 * (8 + 4 * dm) + (hd * 16 + tok) * (8 + 4 * dm)
/-- Output writes of one merged row of one head (R293, R294). -/
def outWrite (b dm row q : Nat) (r : Soft) : SlWrite :=
  if aRaw b then wBytes (aOut b + row * aOutStride b + q * (8 + 4 * dm)) (softBytes r)
  else
    let k := vsfRcpLane r.l
    wBytes (aOut b + row * aOutStride b + q * dm * fmtBytes (aOutFmt b))
      (packElems (aOutFmt b) (r.o.map (fun e => narrow (aOutFmt b) true (fmul32 e k))))

/-- Blocks of 64 that a range of positions touches. -/
def blocksIn (lo hi : Nat) : List Nat := (List.range (cdiv hi 64 - lo / 64)).map (fun i => lo / 64 + i)

/-- The lowest batch entry with a sliver that has not been written (R295). -/
def attendDetail (counts : List Nat) (x : Item) (sl : Nat) : Nat :=
  let isDone (k : Nat) : Bool := decide (k < x.resume) || k == sl || x.doneS.contains k
  match (List.range x.total).find? (fun k => !isDone k) with
  | some k => (entryOf counts k 0).1
  | none => 2 ^ 32 - 1

/-- Slivers of each batch entry, from the snapshot. -/
def attendCounts (x : Item) (h : Nat) (es : List Nat) : List Nat :=
  let snap := match x.extra with | .attend _ _ sn => sn | _ => []
  (List.zip es snap).map (fun q => entrySlivers x.body h q.1 q.2.1)

/-- One sliver: one batch entry, KV head, head group and split (R286 to R295). -/
def attendSliver (i sl : Nat) (x : Item) : Sl Unit :=
  let b := x.body
  slBind (slNat x (aArena b) 128) (fun h =>
    slBind (slRead x (aList b) (16 * aBatch b)) (fun lb =>
      let es := secItems 128 (aBatch b) (natOf lb)
      let counts := attendCounts x h es
      let (ei, k) := entryOf counts sl 0
      let e := (es[ei]?).getD 0
      let (len, _, index) := match x.extra with | .attend _ _ sn => (sn[ei]?).getD (0, 0, 0) | _ => (0, 0, 0)
      let dm := kvD h
      let pf := prodFmt (kvFmt h)
      let l := walkLen b e len
      let splits := splitsOf b l
      let kv := k / (aGroups b h * splits)
      let grp := k / splits % aGroups b h
      let sp := k % splits
      let lo := if aSplit b = 0 then 0 else sp * aSplit b
      let hi := if aSplit b = 0 then l else min l (lo + aSplit b)
      let first := kv * aG b h + grp * aHph b
      let heads := (List.range (min (aHph b) (aG b h - grp * aHph b))).map (fun j => first + j)
      let toks := List.range (beQt e)
      let qpos (t : Nat) : Nat := if aAppend b then len + t else len - beQt e + t
      let rows : List (Nat × Nat) := heads.flatMap (fun q => toks.map (fun t => (q, t)))
      -- the queries, narrowed
      slBind (slMap (fun r => slBind (inputHead x dm (beRow e + r.2) (r.1 * dm) (qpos r.2) true) (fun v =>
          slPure ((v.map (narrow pf true)).map (decodeElem pf)))) rows) (fun qs =>
        let seen (t : Nat) : Bool := toks.any (fun j => visible (aWindow b) l (qpos j) t)
        let blocks := blocksIn lo hi
        let live := blocks.filter (fun j => (List.range 64).any (fun o => seen (64 * j + o)))
        slBind (slFold (fun (acc : List Soft) j =>
            slBind (slMap (fun o =>
              let t := 64 * j + o
              if t < hi then slBind (kvOf x h kv len (beRow e) index t) (fun kv => slPure (some kv)) else slPure none)
                (List.range 64)) (fun kvs =>
              let key (o : Nat) : List Fv := match (kvs[o]?).getD none with | some q => q.1.map (decodeElem (kvFmt h)) | none => []
              let vals := kvs.map (fun q => match q with | some q => q.2.map (decodeElem (kvFmt h)) | none => [])
              slPure ((List.range rows.length).map (fun ri =>
                let r := (rows[ri]?).getD (0, 0)
                let qv := (qs[ri]?).getD []
                let sc := (List.range 64).map (fun o =>
                  if visible (aWindow b) l (qpos r.2) (64 * j + o) then
                    some (fmul32 (dotChunks 0 qv (key o) [] [] (dm / 32)) (aScale b))
                  else none)
                softBlock sc vals pf ((acc[ri]?).getD (soft0 dm))))))
            (rows.map (fun _ => soft0 dm)) live) (fun res =>
          -- the appended keys and values, written by head group 0 (R286)
          let fresh := (List.range (hi - lo)).filterMap (fun o =>
            if aAppend b && grp == 0 && decide (len ≤ lo + o) then some (lo + o) else none)
          slBind (slMap (fun t => slBind (kvOf x h kv len (beRow e) index t) (fun q =>
              slBind (pageOf x h index t) (fun p => slPure (t, p, q)))) fresh) (fun app =>
            let f := kvFmt h
            let kvw := app.flatMap (fun q =>
              let a := headRegion x h (aLayer b) q.2.1 kv
              wBytes (a + keyAt h q.1 0) (packElems f q.2.2.1) ::
                (List.range dm).map (fun d => wBytes (a + valAt h q.1 d) (packElems f [(q.2.2.2[d]?).getD 0])))
            slBind (if kvw.isEmpty then slPure () else slWrite x true kvw) (fun _ =>
              let hd (q : Nat) : Nat := q - first
              let base := sl - sp
              let isDone (k : Nat) : Bool := k == sl || decide (k < x.resume) || x.doneS.contains k
              let last := (List.range splits).all (fun j => isDone (base + j))
              let save : Sl Unit :=
                if splits = 1 then slPure ()
                else slWrite x false ((List.zip rows res).map (fun r => wBytes (partialAt b dm sl (hd r.1.1) r.1.2) (softBytes r.2)))
              let merged (r : (Nat × Nat) × Soft) : Sl SlWrite :=
                if splits = 1 then slPure (outWrite b dm (beRow e + r.1.2) r.1.1 (softMerge dm [r.2]))
                else slBind (slMap (fun j => slBind (slRead x (partialAt b dm (base + j) (hd r.1.1) r.1.2) (8 + 4 * dm))
                    (fun bs => slPure (softOf dm bs))) (List.range splits)) (fun ps =>
                  slPure (outWrite b dm (beRow e + r.1.2) r.1.1 (softMerge dm ps)))
              let finish : Sl Unit :=
                if last then slBind (slMap merged (List.zip rows res)) (fun ws => slWrite x false ws) else slPure ()
              slBind save (fun _ => slBind finish (fun _ => slDo (fun s =>
                let wave := (es.drop (ei / 256 * 256)).take 256
                let pad := roundUp ((wave.map beQt).foldl max 0 * heads.length) 16 - rows.length
                let s := bumpN kBlocksWalked live.length (bumpN kBlocksSkipped (blocks.length - live.length) s)
                let s := onlyIf (last && decide (1 < splits)) (bump kSplitsMerged) (bumpN kPadRows pad s)
                modItem i (fun x => { x with detail := attendDetail counts x sl }) s)))))))))

/-- APPEND_COMMIT: the new lengths, once every sliver has ended DONE (R287). -/
def attendCommit (x : Item) : Sl Unit :=
  let snap := match x.extra with | .attend _ _ snap => snap | _ => []
  let b := x.body
  slBind (slNat x (aArena b) 128) (fun h =>
    slBind (slRead x (aList b) (16 * aBatch b)) (fun lb =>
      slWrite x true ((List.zip (secItems 128 (aBatch b) (natOf lb)) snap).map (fun q =>
        wNat (aArena b + dirAt h (beSeq q.1) + 60) 4 (q.2.1 + beQt q.1)))))

/-! ### PROJECT (Table 9.9, R296 to R298) -/

def jW (b : Nat) : Nat := fld b 767 712
def jX (b : Nat) : Nat := fld b 711 656
def jY (b : Nat) : Nat := fld b 655 600
def jXscale (b : Nat) : Nat := fld b 599 544
def jXs (b : Nat) : Nat := fld b 543 520
def jYs (b : Nat) : Nat := fld b 519 496
def jRows (b : Nat) : Nat := fld b 495 480
def jK (b : Nat) : Nat := fld b 479 456
def jN (b : Nat) : Nat := fld b 455 432
def jXf (b : Nat) : Nat := fld b 431 428
def jYf (b : Nat) : Nat := fld b 427 424
def jTile (b : Nat) : Nat := 16 * 2 ^ fld b 423 422
def jSat (b : Nat) : Bool := bit b 421
def jAccum (b : Nat) : Bool := bit b 420
def jGroups (b : Nat) : Nat := cdiv (jRows b) (jTile b)
/-- Blocks of one operand. -/
def jOpBlocks (t : Nat) : Nat := 32 * classK (tFmt t) / max 1 (tTuples t * tTuple t)

def projectAdm (d : Desc) (s : State) : Adm :=
  let b := dBody d
  let job := d.qu.job
  let t := peek d (jW b) 128 s
  let reads := descReads d (jW b) 128 s
  let kk := classK (tFmt t)
  let per := tTuples t * tTuple t
  let xb := packedBytes (jXf b) (jK b)
  let yb := jN b * fmtBytes (jYf b)
  let yr := (jY b, (jRows b - 1) * jYs b + yb, true)
  { admBase with
    bodyOk := jW b % 128 == 0 && decide (1 ≤ jRows b) &&
      decide (jRows b ≤ 4096) && decide (1 ≤ jK b) && decide (jK b ≤ 65536) &&
      decide (1 ≤ jN b) && decide (jN b ≤ 1048576) && jN b % 32 == 0 && decide (jYf b ≤ 4) && fld b 423 422 != 3 &&
      (!reads || (tOk t && tState t == 1 && decide (tMode t ≤ 1) && kk != 0 && jK b % max 1 kk == 0 &&
        sameClass (jXf b) (tFmt t) && tElems t == jK b * jN b && per != 0 && 32 * kk % max 1 per == 0 &&
        decide (1 ≤ jOpBlocks t) && decide (jOpBlocks t ≤ 8))) && (isMx (jXf b) || jXscale b == 0) &&
      !(jAccum b && (jYf b != 0 || dResume d != 0))
    total := jN b / 32 * jGroups b, resumable := true
    ranges := [(jW b, tBytes (tBlocks t) (tCap t), false), (jX b, (jRows b - 1) * jXs b + xb, false), yr] ++
      (if jAccum b then [(yr.1, yr.2.1, false)] else []) ++
      (if isMx (jXf b) then [(jXscale b, jRows b * (jK b / 32), false)] else [])
    special := readCond job t s, extra := .code (tBook t) 16 (gensRead t) }

/-- A row of X as operand vectors, one for each k-block; rows beyond ROWS are zero and are not read. -/
def xRow (x : Item) (kk r : Nat) : Sl (List OpVec) :=
  let b := x.body
  let f := jXf b
  slBind (slRead x (jX b + r * jXs b) (packedBytes f (jK b))) (fun bs =>
    slBind (if isMx f then slRead x (jXscale b + r * (jK b / 32)) (jK b / 32) else slPure []) (fun sc =>
      let es := secItems (elemBits f) (jK b) (natOf bs)
      slPure ((List.range (jK b / kk)).map (fun kb =>
        { fmt := f, elems := (es.drop (kb * kk)).take kk,
          scales := if isMx f then ((sc.drop (kb * (kk / 32))).take (kk / 32)).map (fun q => scaleOf q.toNat)
                    else List.replicate (kk / 32) (some 0) }))))

/-- One sliver: a column group and a row group (R297, R298). -/
def projectSliver (_ sl : Nat) (x : Item) : Sl Unit :=
  let b := x.body
  slBind (slNat x (jW b) 128) (fun t =>
    let kk := classK (tFmt t)
    let nb := jK b / kk
    let c := sl / jGroups b
    let r0 := sl % jGroups b * jTile b
    let n := min (jTile b) (jRows b - r0)
    slBind (slMap (fun kb =>
        slBind (slMap (fun q => readBlock x (jW b) t ((c * nb + kb) * jOpBlocks t + q)) (List.range (jOpBlocks t))) (fun bl =>
          slPure (bCols (tFmt t) (bl.flatMap (fun q => elemsOf (tFmt t) (tTuple t) q.2.1)) (bl.flatMap (fun q => q.2.2)))))
        (List.range nb)) (fun cols =>
      slBind (slMap (fun r => xRow x kk (r0 + r)) (List.range n)) (fun xs =>
        let acc (r j : Nat) : W32 := (List.range nb).foldl (fun a kb =>
          tmmaElem a (((xs[r]?).getD [])[kb]?.getD ⟨0, [], []⟩) (((cols[kb]?).getD [])[j]?.getD ⟨0, [], []⟩)) 0
        let yAt (r : Nat) : Nat := jY b + (r0 + r) * jYs b + 32 * c * fmtBytes (jYf b)
        slBind (slMap (fun r =>
            if jAccum b then slBind (slRead x (yAt r) 128) (fun bs =>
              slPure (wBytes (yAt r) (bytes32 (List.zipWith fadd32 (words32 bs 32) ((List.range 32).map (acc r))))))
            else slPure (wBytes (yAt r) (packElems (jYf b) ((List.range 32).map (fun j => narrow (jYf b) (jSat b) (acc r j))))))
            (List.range n)) (fun ws => fun s =>
          match slWrite x false ws s with
          | (.wait q, s) => (.wait q, s)
          | (.fail st, s) => (.fail st, if jAccum b then slScramble x ws s else s)
          | (.ok _, s) => (.ok (), bumpN kProjectTmmas (jTile b / 16 * nb) s)))))

end Sys2Proof.Machine
end

