-- ==== Sys2Proof/Machine/Index.lean ====
section
/-!
DEFINITION. Search indexes: layout, distances, building, appending, deleting, merging (10_vector_search.md, R300 to R311).
-/
namespace Sys2Proof.Machine

/-! ### The header (Table 10.1) and the layout -/

abbrev indexMagic : Nat := 0x56494431
def iMagic (h : Nat) : Nat := fld h 1023 992
def iKind (h : Nat) : Nat := fld h 975 974
def iState (h : Nat) : Nat := fld h 973 972
def iMetric (h : Nat) : Nat := fld h 971 970
def iAttr (h : Nat) : Bool := bit h 969
def iFmt (h : Nat) : Nat := fld h 967 964
def iDim (h : Nat) : Nat := fld h 963 951
def iDs (h : Nat) : Nat := fld h 950 938
def iDegree (h : Nat) : Nat := fld h 937 930
def iGen (h : Nat) : Nat := fld h 927 896
def iLists (h : Nat) : Nat := fld h 895 872
def iEntry (h : Nat) : Nat := fld h 863 832
def iHead (h : Nat) : Nat := fld h 831 800
def iTail (h : Nat) : Nat := fld h 799 768
def iLive (h : Nat) : Nat := fld h 767 720
def iDead (h : Nat) : Nat := fld h 719 672
def iAreaA (h : Nat) : Nat := fld h 671 624
def iAreaB (h : Nat) : Nat := fld h 623 576
def iSide (h : Nat) : Nat := fld h 575 528
def iSideCap (h : Nat) : Nat := fld h 527 496
def iIdmap (h : Nat) : Nat := fld h 495 448
def iCap (h : Nat) : Nat := fld h 447 416

/-- Stored dimension (R301), element bytes, group bytes. -/
def dsOf (fmt dim : Nat) : Nat := if fmt ≤ 2 then roundUp dim 64 else roundUp dim 128
def groupBytes (ds fmt : Nat) (attr : Bool) : Nat := 512 + 2048 * b2n attr + 32 * ds * kvBytes fmt
def iGroup (h : Nat) : Nat := groupBytes (iDs h) (iFmt h) (iAttr h)
def iCentroid (h : Nat) : Nat := groupBytes (iDs h) (iFmt h) false
/-- Offset of the area of a generation. -/
def areaOf (h gen : Nat) : Nat := if gen % 2 = 0 then iAreaA h else iAreaB h
def dirOff (h gen : Nat) : Nat := areaOf h gen + cdiv (iLists h) 32 * iCentroid h
/-- Offset of the group of a side entry. -/
def sideGroup (h i : Nat) : Nat := iSide h + i / 32 % max 1 (iSideCap h / 32) * iGroup h
/-- Node records (Table 10.4). -/
def nodeVec (deg : Nat) (attr : Bool) : Nat := roundUp (16 + 4 * deg + 64 * b2n attr) 64
def nodeBytes (ds fmt deg : Nat) (attr : Bool) : Nat := roundUp (nodeVec deg attr + ds * kvBytes fmt) 128
def iNode (h : Nat) : Nat := nodeBytes (iDs h) (iFmt h) (iDegree h) (iAttr h)
def nodeAt (h gen n : Nat) : Nat := areaOf h gen + n * iNode h
/-- Nodes in the current area of a graph: live and dead entries less the side list's. -/
def iNodes (h : Nat) : Nat := iLive h + iDead h - sub32 (iTail h) (iHead h)

/-! ### Entries -/

/-- One stored entry: ID, nx, flags, attributes, element codes; neighbours for a node. -/
structure Ent where
  id : Nat
  nx : W32
  valid : Bool
  dead : Bool
  attr : Nat
  vec : List Nat
  nbr : List Nat
  deriving DecidableEq, Repr

/-- The base of an item's index. -/
def xBase (x : Item) : Nat := fld x.body 767 712

/-- Read a group's entries; attr: the section is present. -/
def readGroup (x : Item) (h off : Nat) (attr : Bool) : Sl (List Ent) :=
  let a := xBase x + off
  let b := kvBytes (iFmt h)
  let k := classK (iFmt h)
  let vo := 512 + 2048 * b2n attr
  slBind (slRead x a (vo + 32 * iDs h * b)) (fun bs =>
    let n := natOf bs
    let at_ (byte len : Nat) : Nat := n / 2 ^ (8 * byte) % 2 ^ (8 * len)
    slPure ((List.range 32).map (fun i =>
      { id := at_ (128 + 8 * i) 8, nx := BitVec.ofNat 32 (at_ (384 + 4 * i) 4), valid := n.testBit i,
        dead := n.testBit (32 + i), attr := if attr then at_ (512 + 64 * i) 64 else 0,
        vec := (List.range (iDs h / max 1 k)).flatMap (fun kb =>
          secItems (8 * b) k (at_ (vo + kb * 32 * k * b + i * k * b) (k * b))),
        nbr := [] })))
/-- The bytes of a group from its entries (Table 10.3). -/
def groupData (h : Nat) (attr : Bool) (es : List Ent) : List Byte :=
  let b := kvBytes (iFmt h)
  let k := classK (iFmt h)
  let idx := List.range es.length
  let mask (p : Ent → Bool) : Nat := mapOf (idx.filter (fun i => match es[i]? with | some e => p e | none => false))
  let pad (l : List Byte) (n : Nat) : List Byte := l ++ List.replicate (n - l.length) 0
  bytesOf 4 (mask (·.valid)) ++ bytesOf 4 (mask (·.dead)) ++ List.replicate 120 0 ++
    pad (es.flatMap (fun e => bytesOf 8 e.id)) 256 ++ pad (es.flatMap (fun e => bytesOf 4 e.nx.toNat)) 128 ++
    (if attr then pad (es.flatMap (fun e => bytesOf 64 e.attr)) 2048 else []) ++
    (List.range (iDs h / max 1 k)).flatMap (fun kb =>
      pad (es.flatMap (fun e => bytesOf (k * b) (secPack (8 * b) ((e.vec.drop (kb * k)).take k)))) (32 * k * b))

/-- Read a node record. -/
def readNode (x : Item) (h gen n : Nat) : Sl Ent :=
  let d := iDegree h
  slBind (slRead x (xBase x + nodeAt h gen n) (iNode h)) (fun bs =>
    let v := natOf bs
    let at_ (byte len : Nat) : Nat := v / 2 ^ (8 * byte) % 2 ^ (8 * len)
    let b := kvBytes (iFmt h)
    slPure { id := at_ 0 8, nx := BitVec.ofNat 32 (at_ 8 4), valid := true, dead := bit v 96,
             attr := if iAttr h then at_ (16 + 4 * d) 64 else 0,
             vec := secItems (8 * b) (iDs h) (at_ (nodeVec d (iAttr h)) (iDs h * b)),
             nbr := (secItems 32 d (at_ 16 (4 * d))).filter (· != 0xFFFFFFFF) })
/-- The bytes of a node record. -/
def nodeData (h : Nat) (e : Ent) : List Byte :=
  let d := iDegree h
  let b := kvBytes (iFmt h)
  let nb := e.nbr.take d ++ List.replicate (d - e.nbr.length) 0xFFFFFFFF
  let head := bytesOf 8 e.id ++ bytesOf 4 e.nx.toNat ++ bytesOf 4 (b2n e.dead) ++ nb.flatMap (bytesOf 4) ++
    (if iAttr h then bytesOf 64 e.attr else [])
  let head := head ++ List.replicate (nodeVec d (iAttr h) - head.length) 0
  let all := head ++ bytesOf (iDs h * b) (secPack (8 * b) e.vec)
  all ++ List.replicate (iNode h - all.length) 0

/-! ### Distances (Table 10.2, R301 to R303) -/

/-- Exact sum of squares of binary32 values, rounded once. -/
def sumSq32 (vs : List Fv) : W32 := ssResult (vs.foldl ssAdd sumSq0)
/-- Normalise under COSINE; a zero vector stays (R303). -/
def cosNorm (metric : Nat) (v : List W32) : List W32 :=
  if metric != 2 || v.all (fun e => isZero (dec32 e)) then v
  else
    let r := vsfRsqrtLane (sumSq32 (v.map dec32))
    v.map (fun e => fmul32 e r)
def padTo (n : Nat) (v : List W32) : List W32 := v ++ List.replicate (n - v.length) 0
/-- A stored vector's codes and nx. -/
def storeVec (h : Nat) (v : List W32) : List Nat × W32 :=
  let codes := (padTo (iDs h) (cosNorm (iMetric h) v)).map (narrow (iFmt h) true)
  (codes, sumSq32 (codes.map (decodeElem (iFmt h))))

/-- A narrowed query and nq. -/
structure Query where
  op : OpVec
  nq : W32
  deriving DecidableEq, Repr
def mkQuery (h : Nat) (norm : Bool) (v : List W32) : Query :=
  let v := padTo (iDs h) (if norm then cosNorm (iMetric h) v else v)
  let k := iDs h / 32
  if iFmt h ≤ 2 then
    let es := v.map (narrow (iFmt h) true)
    { op := { fmt := iFmt h, elems := es, scales := List.replicate k (some 0) },
      nq := sumSq32 (es.map (decodeElem (iFmt h))) }
  else
    let f := if iFmt h = 3 then 5 else 6
    let bl := (List.range k).map (fun i => narrowMx f ((v.drop (32 * i)).take 32))
    let vals := bl.flatMap (fun b => b.2.map (fun e => match scaleOf b.1 with | some s => scaleF s (decodeElem f e) | none => .nan))
    { op := { fmt := f, elems := bl.flatMap (·.2), scales := bl.map (fun b => scaleOf b.1) }, nq := sumSq32 vals }
/-- The distance of a query to a stored vector. -/
def distance (h : Nat) (q : Query) (e : Ent) : W32 :=
  let dot := tmmaElem 0 q.op { fmt := iFmt h, elems := e.vec, scales := List.replicate (iDs h / 32) (some 0) }
  match iMetric h with
  | 0 => ffma32 0xC0000000#32 dot (fadd32 q.nq e.nx)
  | 1 => dot ^^^ 0x80000000#32
  | _ => fsub32 one32 dot
/-- A stored vector as a query. -/
def entQuery (h : Nat) (e : Ent) : Query := mkQuery h false (e.vec.map (fun c => widen (iFmt h) c (some 0)))

/-- Rank by (distance, ID or index): R163's order. -/
def before (a b : W32 × Nat) : Bool := tkBefore false (a.1, BitVec.ofNat 64 a.2) (b.1, BitVec.ofNat 64 b.2)
/-- A ranked candidate: distance, ID, and what it stands for. -/
abbrev Cand (α : Type) := W32 × Nat × α
def rankIn {α : Type} (c : Cand α) : List (Cand α) → List (Cand α)
  | [] => [c]
  | d :: r => if before (c.1, c.2.1) (d.1, d.2.1) then c :: d :: r else d :: rankIn c r
def rankAll {α : Type} (l : List (Cand α)) : List (Cand α) := l.foldl (fun r c => rankIn c r) []

/-! ### IVF areas -/

/-- Centroids of an area, by list. -/
def readCentroids (x : Item) (h gen : Nat) : Sl (List Ent) :=
  slBind (slMap (fun g => readGroup x h (areaOf h gen + g * iCentroid h) false) (List.range (cdiv (iLists h) 32)))
    (fun l => slPure (l.flatten.take (iLists h)))
/-- The probe order of a query: list indices. -/
def probeOrder (h : Nat) (cs : List Ent) (q : Query) : List Nat :=
  (rankAll ((List.range cs.length).filterMap (fun i => (cs[i]?).map (fun c => (distance h q c, i, i))))).map (·.2.2)
/-- A list's directory entry: offset in the area, entries, groups. -/
def readDir (x : Item) (h gen l : Nat) : Sl (Nat × Nat × Nat) :=
  slBind (slNat x (xBase x + dirOff h gen + 16 * l) 16) (fun v => slPure (fld v 127 80, fld v 79 48, fld v 47 24))
/-- The valid entries of a list, in order. -/
def readList (x : Item) (h gen l : Nat) : Sl (List Ent) :=
  slBind (readDir x h gen l) (fun d =>
    slBind (slMap (fun g => readGroup x h (areaOf h gen + d.1 + g * iGroup h) (iAttr h)) (List.range d.2.2)) (fun gs =>
      slPure (gs.flatten.filter (·.valid))))
/-- The side entries from head up to tail. -/
def readSide (x : Item) (h head tail : Nat) : Sl (List Ent) :=
  slMap (fun k =>
    let i := (head + k) % 2 ^ 32
    slBind (readGroup x h (sideGroup h i) (iAttr h)) (fun es =>
      slPure ((es[i % 32]?).getD { id := 0, nx := 0, valid := false, dead := false, attr := 0, vec := [], nbr := [] })))
    (List.range (sub32 tail head))
/-- Writes of an IVF area's directory and lists. -/
def areaWrites (x : Item) (h gen : Nat) (lists : List (List Ent)) : List SlWrite :=
  let a := xBase x + areaOf h gen
  let start := cdiv (iLists h) 32 * iCentroid h + 16 * iLists h
  (lists.foldl (fun (acc : Nat × Nat × List SlWrite) es =>
    let (l, off, ws) := acc
    let n := cdiv es.length 32
    let dir := wNat (xBase x + dirOff h gen + 16 * l) 16 (pack [(off, 80), (es.length, 48), (n, 24)])
    let gs := (List.range n).map (fun g => wBytes (a + off + g * iGroup h) (groupData h (iAttr h) ((es.drop (32 * g)).take 32)))
    (l + 1, off + n * iGroup h, ws ++ dir :: gs)) (0, start, [])).2.2
/-- Put entries behind the lists that their probe orders rank first. -/
def addToLists (h : Nat) (cs : List Ent) (qs : List (Query × Ent)) (lists : List (List Ent)) : List (List Ent) :=
  qs.foldl (fun ls q =>
    match probeOrder h cs q.1 with
    | l :: _ => ls.set l ((ls[l]?).getD [] ++ [q.2])
    | [] => ls) lists

/-! ### The ID map and tombstones -/

abbrev noId : Nat := 2 ^ 64 - 1
/-- Where an entry's DEAD bit stands: offset of the 32-bit word, bit. -/
structure Loc where
  id : Nat
  word : Nat
  bit : Nat
  deriving DecidableEq, Repr
/-- Live IDs and where they stand, area first, then the side list in order: what the ID map answers. -/
def liveLocs (ext h : Nat) (s : State) : List Loc :=
  let word (o : Nat) : Nat := extNat ext o 4 s
  let grp (off i : Nat) : Option Loc :=
    if (word off).testBit i && !(word (off + 4)).testBit i then
      some { id := extNat ext (off + 128 + 8 * i) 8 s, word := off + 4, bit := i } else none
  let area : List Loc :=
    if iKind h = 1 then
      (List.range (iLists h)).flatMap (fun l =>
        let d := extNat ext (dirOff h (iGen h) + 16 * l) 16 s
        (List.range (fld d 47 24)).flatMap (fun g =>
          (List.range 32).filterMap (grp (areaOf h (iGen h) + fld d 127 80 + g * iGroup h))))
    else
      (List.range (iNodes h)).filterMap (fun n =>
        let o := nodeAt h (iGen h) n
        if (word (o + 12)).testBit 0 then none else some { id := extNat ext o 8 s, word := o + 12, bit := 0 })
  area ++ (List.range (sub32 (iTail h) (iHead h))).filterMap (fun k =>
    let i := (iHead h + k) % 2 ^ 32
    grp (sideGroup h i) (i % 32))
/-- Writes that set or clear bits of an index's 32-bit words: (word, bit, value), in order. -/
def bitWrites (x : Item) (ext : Nat) (es : List (Nat × Nat × Bool)) (s : State) : List SlWrite :=
  let put (t : Tbl Nat) (e : Nat × Nat × Bool) : Tbl Nat :=
    let w := (tget t e.1).getD (extNat ext e.1 4 s)
    tput t e.1 (setFld w e.2.1 e.2.1 (b2n e.2.2))
  (es.foldl put []).map (fun w => wNat (xBase x + w.1) 4 w.2)
/-- The ID map's entries for n changed IDs, read and written: their place and content are not defined (The index extent). -/
def idmapWrites (x : Item) (h n : Nat) : Sl (List SlWrite) :=
  let slots := pow2Up (2 * (iCap h + iSideCap h))
  slMap (fun _ => slBind slDraw (fun a => slBind slDraw (fun v =>
    let at_ := xBase x + iIdmap h + 16 * (a % slots)
    slBind (slNat x at_ 16) (fun _ => slPure (wNat at_ 16 v))))) (List.range n)

/-! ### INDEX_BUILD (R304, R305) -/

def uKind (b : Nat) : Nat := fld b 711 710
def bFmtV (b : Nat) : Nat := fld b 707 704
def bDim (b : Nat) : Nat := fld b 703 691
def bAttr (b : Nat) : Bool := bit b 690
def bDegree (b : Nat) : Nat := fld b 687 680
def bLists (b : Nat) : Nat := fld b 679 656
def bCentroids (b : Nat) : Nat := fld b 655 600
def bSrc (b : Nat) : Nat := fld b 599 544
def bIds (b : Nat) : Nat := fld b 543 488
def bAttrs (b : Nat) : Nat := fld b 487 432
def bCount (b : Nat) : Nat := fld b 431 400
def bCapacity (b : Nat) : Nat := fld b 399 368
def bSideGroups (b : Nat) : Nat := fld b 367 348
def bEntryNode (b : Nat) : Nat := fld b 347 316
/-- Bytes of an area, rounded up (R304). -/
def areaBytes (b : Nat) : Nat :=
  let ds := dsOf (bFmtV b) (bDim b)
  let g := groupBytes ds (bFmtV b) (bAttr b)
  roundUp (if uKind b = 1 then
      cdiv (bLists b) 32 * groupBytes ds (bFmtV b) false + 16 * bLists b + (cdiv (bCapacity b) 32 + bLists b) * g
    else bCapacity b * nodeBytes ds (bFmtV b) (bDegree b) (bAttr b)) 65536
/-- The header of a build. -/
def buildHdr (b st live dead : Nat) : Nat :=
  let ds := dsOf (bFmtV b) (bDim b)
  let g := groupBytes ds (bFmtV b) (bAttr b)
  let a := 65536
  let bb := a + areaBytes b
  let side := bb + areaBytes b
  let idm := side + roundUp (bSideGroups b * g) 65536
  let graph := uKind b == 2
  pack [(indexMagic, 992), (1, 976), (uKind b, 974), (st, 972), (fld b 709 708, 970), (b2n (bAttr b), 969), (bFmtV b, 964),
    (bDim b, 951), (ds, 938), (if graph then bDegree b else 0, 930), (0, 896), (if graph then 0 else bLists b, 872),
    (if graph then bEntryNode b else 0, 832), (0, 800), (0, 768), (live, 720), (dead, 672), (a, 624), (bb, 576), (side, 528),
    (32 * bSideGroups b, 496), (idm, 448), (bCapacity b, 416)]
def indexBytes (b : Nat) : Nat :=
  iIdmap (buildHdr b 0 0 0) + roundUp (16 * pow2Up (2 * (bCapacity b + 32 * bSideGroups b))) 65536
/-- The index extent that an address starts. -/
def indexAt (job addr : Nat) (s : State) : Option (Nat × Extent) :=
  match extAt job (fvaSlot addr) (fvaGran addr) s with
  | some (ext, e) => if extOff e addr = 0 && fIndex e then some (ext, e) else none
  | none => none

def buildAdm (d : Desc) (s : State) : Adm :=
  let b := dBody d
  let job := d.qu.job
  let ar := indexAt job (fld b 767 712) s
  let ivf := uKind b == 1
  let rows := if ivf then 4 * bDim b else nodeBytes (dsOf (bFmtV b) (bDim b)) (bFmtV b) (bDegree b) (bAttr b)
  let fits := match ar with | some (_, e) => decide (indexBytes b ≤ extBytes e) | none => true
  let rd (a n : Nat) : List (Nat × Nat × Bool) := if n = 0 then [] else [(a, n, false)]
  { admBase with
    bodyOk := ar.isSome && (!descReads d (fld b 767 712) 128 s || iMagic (peek d (fld b 767 712) 128 s) == 0) &&
      (uKind b == 1 || uKind b == 2) &&
      fld b 709 708 != 3 && decide (1 ≤ bFmtV b) && decide (bFmtV b ≤ 4) && decide (32 ≤ bDim b) && decide (bDim b ≤ 4096) &&
      (if ivf then decide (1 ≤ bLists b) && decide (bLists b ≤ 1048576)
       else decide (1 ≤ bDegree b) && decide (bDegree b ≤ 64) && decide (bEntryNode b < bCount b)) &&
      decide (bCount b ≤ bCapacity b) && decide (32 ≤ bCapacity b) && decide (bCapacity b ≤ 0xFFFFFFFE) &&
      decide (1 ≤ bSideGroups b) && decide (bSideGroups b ≤ 524288)
    total := max 1 (cdiv (bCount b) 1024)
    ranges := [(fld b 767 712, 128, false), (fld b 767 712, 128, true)] ++ rd (bSrc b) (bCount b * rows) ++
      (if ivf then rd (bCentroids b) (bLists b * 4 * bDim b) ++ rd (bIds b) (8 * bCount b) ++
        (if bAttr b then rd (bAttrs b) (64 * bCount b) else []) else [])
    fit := fits, extra := .index ((ar.map (·.1)).getD 0) 0 }

def readRows32 (x : Item) (a dim n : Nat) : Sl (List (List W32)) :=
  slMap (fun i => slBind (slRead x (a + i * 4 * dim) (4 * dim)) (fun bs => slPure (words32 bs dim))) (List.range n)
/-- IDs of loaded entries 0 up to below hi. -/
def loadIds (x : Item) (hi : Nat) : Sl (List Nat) :=
  let b := x.body
  if uKind b = 1 then slBind (slRead x (bIds b) (8 * hi)) (fun bs => slPure (secItems 64 hi (natOf bs)))
  else
    let n := nodeBytes (dsOf (bFmtV b) (bDim b)) (bFmtV b) (bDegree b) (bAttr b)
    slMap (fun i => slNat x (bSrc b + i * n) 8) (List.range hi)
def hasRepeat (l : List Nat) : Bool := decide (l.eraseDups.length < l.length)

/-- One sliver of 1,024 entries: its entries are judged; the last writes the area (R305). -/
def buildSliver (_ sl : Nat) (x : Item) : Sl Unit :=
  let b := x.body
  let hi := min (bCount b) (sl * 1024 + 1024)
  let h0 := buildHdr b 2 0 0
  let rec_ := iNode h0
  let ivf := uKind b == 1
  slBind (loadIds x hi) (fun ids =>
    slBind (if ivf then slPure [] else slMap (fun i => slRead x (bSrc b + i * rec_) rec_) (List.range hi)) (fun nodes =>
      let nb (bs : List Byte) : List Nat := (secItems 32 (bDegree b) (natOf (bs.drop 16))).filter (· != 0xFFFFFFFF)
      let bad := ids.contains noId || hasRepeat ids || nodes.any (fun n => (nb n).any (fun m => decide (bCount b ≤ m)))
      if bad then slBind (slWrite x true [wNat (xBase x) 128 h0]) (fun _ => slFail .refusedFormat)
      else if sl + 1 < x.total then slWrite x true [wNat (xBase x) 128 h0]
      else if ivf then
        slBind (readRows32 x (bCentroids b) (bDim b) (bLists b)) (fun cr =>
          slBind (readRows32 x (bSrc b) (bDim b) (bCount b)) (fun rows =>
            slBind (if bAttr b then slMap (fun i => slNat x (bAttrs b + 64 * i) 64) (List.range (bCount b)) else slPure [])
              (fun attrs =>
              let ent (i id : Nat) (v : List W32) : Ent :=
                let (c, nx) := storeVec h0 v
                { id := id, nx := nx, valid := true, dead := false, attr := (attrs[i]?).getD 0, vec := c, nbr := [] }
              let cs := (List.range cr.length).map (fun i => ent i i ((cr[i]?).getD []))
              let es := (List.range rows.length).map (fun i =>
                (mkQuery h0 true ((rows[i]?).getD []), ent i ((ids[i]?).getD 0) ((rows[i]?).getD [])))
              let lists := addToLists h0 cs es (List.replicate (bLists b) [])
              let cg := (List.range (cdiv (bLists b) 32)).map (fun g =>
                wBytes (xBase x + areaOf h0 0 + g * iCentroid h0) (groupData h0 false ((cs.drop (32 * g)).take 32)))
              slBind (idmapWrites x h0 (bCount b)) (fun im =>
                slWrite x true (cg ++ areaWrites x h0 0 lists ++ im ++ [wNat (xBase x) 128 (buildHdr b 2 (bCount b) 0)])))))
      else
        let dead := (nodes.filter (fun n => bit (natOf n) 96)).length
        slBind (idmapWrites x h0 (bCount b)) (fun im =>
          slWrite x true ((List.range nodes.length).map (fun i => wBytes (xBase x + nodeAt h0 0 i) ((nodes[i]?).getD [])) ++ im ++
            [wNat (xBase x) 128 (buildHdr b 2 (bCount b - dead) dead)]))))
/-- The index is READY once the item is DONE (R305). -/
def buildFinal (x : Item) : Sl Unit :=
  slBind (slNat x (xBase x) 128) (fun h => slWrite x true [wNat (xBase x) 128 (setFld h 973 972 1)])

/-! ### APPEND and DELETE (R307, R308) -/

def cIdx (b : Nat) : Nat := fld b 767 712
def cCount (b : Nat) : Nat := fld b 543 520
def cIds (b : Nat) : Nat := fld b 655 600
def changeAdm (d : Desc) (s : State) : Adm :=
  let b := dBody d
  let job := d.qu.job
  let ar := indexAt job (cIdx b) s
  let h := peek d (cIdx b) 128 s
  let app := dOpcode d == ocAppend
  let mrg := dOpcode d == ocMerge
  let n := cCount b
  let src : List (Nat × Nat × Bool) := if app then
      [(fld b 711 656, (n - 1) * fld b 519 496 + 4 * iDim h, false)] ++ (if iAttr h then [(fld b 599 544, 64 * n, false)] else [])
    else []
  { admBase with
    bodyOk := ar.isSome && (!descReads d (cIdx b) 128 s || (iMagic h == indexMagic && iState h == 1)) &&
      (if mrg then decide (fld b 495 485 ≤ 1024) else decide (1 ≤ n) && decide (n ≤ 1048576))
    total := if mrg then 1 else cdiv n 1024, resumable := !mrg
    ranges := [(cIdx b, 128, false), (cIdx b, 128, true)] ++ src ++ (if mrg then [] else [(cIds b, 8 * n, false)])
    extra := .index ((ar.map (·.1)).getD 0) 0 }

/-- The lowest SIDE_HEAD held by a search of the index, or by the index itself: the furthest behind SIDE_TAIL. -/
def heldHead (ext h : Nat) (s : State) : Nat :=
  (s.work.items.filterMap (fun i => match i.2.extra with
    | .search z => if z.ext = ext then some z.head else none
    | _ => none)).foldl (fun b x => if sub32 (iTail h) b < sub32 (iTail h) x then x else b) (iHead h)

/-- Write one entry into its side-list slot. -/
def sideWrite (x : Item) (h i : Nat) (e : Ent) : List SlWrite :=
  let g := xBase x + sideGroup h i
  let j := i % 32
  let b := kvBytes (iFmt h)
  let k := classK (iFmt h)
  let vo := 512 + 2048 * b2n (iAttr h)
  [wNat (g + 128 + 8 * j) 8 e.id, wNat (g + 384 + 4 * j) 4 e.nx.toNat] ++
    (if iAttr h then [wNat (g + 512 + 64 * j) 64 e.attr] else []) ++
    (List.range (iDs h / max 1 k)).map (fun kb =>
      wNat (g + vo + kb * 32 * k * b + j * k * b) (k * b) (secPack (8 * b) ((e.vec.drop (kb * k)).take k)))
/-- The slot's VALID bit set, and its DEAD bit: set at once where a later entry of the sliver has the same ID. -/
def sideMark (h i : Nat) (dead : Bool) : List (Nat × Nat × Bool) :=
  [(sideGroup h i, i % 32, true), (sideGroup h i + 4, i % 32, dead)]

def appendSliver (_ sl : Nat) (x : Item) : Sl Unit :=
  let b := x.body
  let ext := match x.extra with | .index e _ => e | _ => 0
  let lo := sl * 1024
  let n := min 1024 (cCount b - lo)
  slBind (slNat x (xBase x) 128) (fun h =>
    slBind (slRead x (cIds b + 8 * lo) (8 * n)) (fun ib =>
      let ids := secItems 64 n (natOf ib)
      if ids.contains noId then slFail .refusedFormat
      else
        slBind (slMap (fun i => slBind (slRead x (fld b 711 656 + (lo + i) * fld b 519 496) (4 * iDim h)) (fun bs =>
            slPure (words32 bs (iDim h)))) (List.range n)) (fun rows =>
          slBind (if iAttr h then slMap (fun i => slNat x (fld b 599 544 + 64 * (lo + i)) 64) (List.range n) else slPure [])
            (fun attrs => fun s =>
            if iSideCap h < sub32 (iTail h) (heldHead ext h s) + n then (.fail .refusedFit, bump kAppendFull s)
            else
              let ws := (List.range n).flatMap (fun i =>
                let (c, nx) := storeVec h ((rows[i]?).getD [])
                let at_ := (attrs[i]?).getD 0
                let e : Ent := ⟨(ids[i]?).getD 0, nx, true, false, at_, c, []⟩
                sideWrite x h ((iTail h + i) % 2 ^ 32) e)
              let h1 := setFld h 799 768 ((iTail h + n) % 2 ^ 32)
              let again (i : Nat) : Bool := (ids.drop (i + 1)).contains ((ids[i]?).getD 0)
              let old := (liveLocs ext h s).filter (fun l => ids.contains l.id)
              let gone := old.length + ((List.range n).filter again).length
              let marks := (List.range n).flatMap (fun i => sideMark h ((iTail h + i) % 2 ^ 32) (again i))
              let bits := bitWrites x ext (marks ++ old.map (fun l => (l.word, l.bit, true))) s
              let h2 := setFld (setFld h1 767 720 (iLive h + n - gone)) 719 672 (iDead h + gone)
              slBind (idmapWrites x h n) (fun im => slWrite x true (ws ++ bits ++ im ++ [wNat (xBase x) 128 h2])) s))))

def deleteSliver (i sl : Nat) (x : Item) : Sl Unit :=
  let b := x.body
  let ext := match x.extra with | .index e _ => e | _ => 0
  let lo := sl * 1024
  let n := min 1024 (cCount b - lo)
  slBind (slNat x (xBase x) 128) (fun h =>
    slBind (slRead x (cIds b + 8 * lo) (8 * n)) (fun ib =>
      fun s =>
        let ids := (secItems 64 n (natOf ib)).eraseDups
        let hit := (liveLocs ext h s).filter (fun l => ids.contains l.id)
        let bits := bitWrites x ext (hit.map (fun l => (l.word, l.bit, true))) s
        let h2 := setFld (setFld h 767 720 (iLive h - hit.length)) 719 672 (iDead h + hit.length)
        slBind (idmapWrites x h hit.length) (fun im =>
          slBind (slWrite x true (bits ++ im ++ [wNat (xBase x) 128 h2])) (fun _ =>
            slDo (modItem i (fun x => { x with detail := x.detail + hit.length })))) s))

/-! ### The proximity graph's walk (Searching a proximity graph) -/

/-- A walk's outcome: eligible nodes in order, nodes visited, live nodes that failed the filter, dead nodes seen, capped. -/
structure Walk where
  visited : List Nat
  cand : List (Cand Nat)
  res : List (Cand Nat)
  filtered : Nat
  dead : Nat
  capped : Bool
  deriving DecidableEq, Repr
abbrev visitMax : Nat := 65536

/-- Add one node to the walk's sets. -/
def walkAdd (h : Nat) (q : Query) (ef : Nat) (ok : Ent → Bool) (n : Nat) (e : Ent) (first : Bool) (w : Walk) : Walk :=
  let c : Cand Nat := (distance h q e, e.id, n)
  let elig := !e.dead && ok e
  let w := { w with visited := n :: w.visited, filtered := w.filtered + b2n (!e.dead && !ok e), dead := w.dead + b2n e.dead }
  let room := first || decide (w.res.length < ef) || (match w.res.getLast? with
    | some l => before (c.1, c.2.1) (l.1, l.2.1)
    | none => true)
  if !room then w
  else { w with cand := rankIn c w.cand, res := if elig then (rankIn c w.res).take ef else w.res }
/-- The neighbours of one node, in list order. -/
def walkNbrs (h : Nat) (q : Query) (ef : Nat) (ok : Ent → Bool) (get : Nat → Sl Ent) : List Nat → Walk → Sl Walk
  | [], w => slPure w
  | n :: r, w =>
    if w.capped || w.visited.contains n then walkNbrs h q ef ok get r w
    else if visitMax ≤ w.visited.length then slPure { w with capped := true }
    else slBind (get n) (fun e => walkNbrs h q ef ok get r (walkAdd h q ef ok n e false w))
/-- Expand the first candidate until none is left or the results rank before it. -/
def walkLoop (h : Nat) (q : Query) (ef : Nat) (ok : Ent → Bool) (get : Nat → Sl Ent) : Nat → Walk → Sl Walk
  | 0, w => slPure w
  | k + 1, w =>
    match w.cand with
    | [] => slPure w
    | c :: r =>
      let stop := w.res.length == ef && (match w.res.getLast? with
        | some l => before (l.1, l.2.1) (c.1, c.2.1)
        | none => false)
      if stop || w.capped then slPure w
      else slBind (get c.2.2) (fun e =>
        slBind (walkNbrs h q ef ok get e.nbr { w with cand := r }) (fun w => walkLoop h q ef ok get k w))
def graphWalk (h entry : Nat) (q : Query) (ef : Nat) (ok : Ent → Bool) (get : Nat → Sl Ent) : Sl Walk :=
  slBind (get entry) (fun e =>
    walkLoop h q ef ok get (visitMax + 1)
      (walkAdd h q ef ok entry e true { visited := [], cand := [], res := [], filtered := 0, dead := 0, capped := false }))

/-! ### MERGE (R309 to R311) -/

/-- Keep the DEGREE nodes nearest a node. -/
def prune (h : Nat) (g : List Ent) (x : Ent) (nbr : List Nat) : List Nat :=
  let q := entQuery h x
  ((rankAll ((nbr.eraseDups).filterMap (fun n => (g[n]?).map (fun e => (distance h q e, e.id, n))))).take (iDegree h)).map
    (·.2.2)
def setNbr (g : List Ent) (n : Nat) (nbr : List Nat) : List Ent :=
  match g[n]? with
  | some e => g.set n { e with nbr := nbr }
  | none => g
/-- Insert one live side entry. -/
def graphInsert (h entry ef : Nat) (g : List Ent) (e : Ent) : Sl (List Ent) :=
  let get (n : Nat) : Sl Ent := match g[n]? with | some e => slPure e | none => slFail .internal
  slBind (if g.isEmpty then slPure [] else
      slBind (graphWalk h entry (entQuery h e) ef (fun _ => true) get) (fun w => slPure (w.res.map (·.2.2)))) (fun c =>
    let n := g.length
    let nbr := c.take (iDegree h)
    let g := g ++ [{ e with nbr := nbr, valid := true, dead := false }]
    slPure (nbr.foldl (fun g m => match g[m]? with
      | some y =>
        let l := y.nbr ++ [n]
        setNbr g m (if iDegree h < l.length then prune h g y l else l)
      | none => g) g))
/-- Replace dead neighbours of live nodes by the dead nodes' live neighbours, in ascending index. -/
def graphMend (h : Nat) (g : List Ent) : List Ent :=
  (List.range g.length).foldl (fun g n => match g[n]? with
    | some x =>
      let dead (m : Nat) : Bool := match g[m]? with | some e => e.dead | none => true
      if x.dead || !x.nbr.any dead then g
      else
        let more := (x.nbr.filter dead).flatMap (fun m => match g[m]? with | some e => e.nbr.filter (fun k => !dead k) | none => [])
        setNbr g n (prune h g x (x.nbr.filter (fun m => !dead m) ++ more))
    | none => g) g
/-- ENTRY and the live nodes, renumbered. -/
def graphDrop (h entry : Nat) (g : List Ent) : Nat × List Ent :=
  let alive := (List.range g.length).filter (fun n => match g[n]? with | some e => !e.dead | none => false)
  let num (n : Nat) : Option Nat := alive.findIdx? (· == n)
  let entry' := match g[entry]? with
    | none => 0
    | some e =>
      if !e.dead then (num entry).getD 0
      else
        let q := entQuery h e
        let near := rankAll (e.nbr.filterMap (fun n => match g[n]? with
          | some m => if m.dead then none else some (distance h q m, m.id, n)
          | none => none))
        match near with
        | c :: _ => (num c.2.2).getD 0
        | [] => 0
  (entry', alive.filterMap (fun n => (g[n]?).map (fun e => { e with nbr := e.nbr.filterMap num })))

/-- The merge as one sliver (R309 to R311). -/
def mergeSliver (x : Item) : Sl Unit :=
  let ext := match x.extra with | .index e _ => e | _ => 0
  slBind (slNat x (xBase x) 128) (fun h => fun s =>
    let gen := iGen h
    let old := s.work.items.any (fun i => match i.2.extra with
      | .search z => z.ext == ext && (z.gen + 1) % 2 ^ 32 == gen
      | _ => false)
    if old then (.fail .retry, bump kMergeRetry s)
    else
      let fin (live entry : Nat) (ws : List SlWrite) : Sl Unit :=
        if iCap h < live then slFail .refusedFit
        else
          let h2 := setFld (setFld (setFld (setFld h 927 896 ((gen + 1) % 2 ^ 32)) 831 800 (iTail h)) 767 720 live) 719 672 0
          let h2 := if iKind h = 2 then setFld h2 863 832 entry else h2
          slBind (idmapWrites x h live) (fun im =>
            slBind (slWrite x true (ws ++ im ++ [wNat (xBase x) 128 h2])) (fun _ => slDo (bump kMergesDone)))
      slBind (readSide x h (iHead h) (iTail h)) (fun side =>
        let live := side.filter (fun e => e.valid && !e.dead)
        if iKind h = 1 then
          slBind (readCentroids x h gen) (fun cs =>
            slBind (slMap (fun l => slBind (readList x h gen l) (fun es => slPure (es.filter (fun e => !e.dead))))
              (List.range (iLists h))) (fun lists =>
              let lists := addToLists h cs (live.map (fun e => (entQuery h e, e))) lists
              let cg := (List.range (cdiv (iLists h) 32)).map (fun g =>
                wBytes (xBase x + areaOf h (gen + 1) + g * iCentroid h) (groupData h false ((cs.drop (32 * g)).take 32)))
              fin (lsum (lists.map (·.length))) 0 (cg ++ areaWrites x h (gen + 1) lists)))
        else
          let ef := if fld x.body 495 485 = 0 then 2 * iDegree h else fld x.body 495 485
          slBind (slMap (readNode x h gen) (List.range (iNodes h))) (fun g =>
            slBind (slFold (graphInsert h (iEntry h) ef) g live) (fun g =>
              let (entry, g) := graphDrop h (iEntry h) (graphMend h g)
              fin g.length entry ((List.range g.length).filterMap (fun n =>
                (g[n]?).map (fun e => wBytes (xBase x + nodeAt h (gen + 1) n) (nodeData h e))))))) s)

/-- One index change at a time, in the order of admission (R306). -/
def indexTurn (x : Item) (s : State) : Bool :=
  match x.extra with
  | .index e _ => !s.work.items.any (fun i => decide (i.2.order < x.order) &&
      (match i.2.extra with | .index c _ => c == e | _ => false))
  | _ => true

end Sys2Proof.Machine
end

