-- ==== Sys2Proof/Machine/Search.lean ====
section
/-!
DEFINITION. SEARCH_IVF and SEARCH_GRAPH, results, sharded searches (10_vector_search.md, R312 to R323).
-/
namespace Sys2Proof.Machine

/-! ### The descriptor (Table 10.7) -/

def qQueries (b : Nat) : Nat := fld b 711 656
def qStride (b : Nat) : Nat := fld b 655 632
def qN (b : Nat) : Nat := fld b 631 619
def qK (b : Nat) : Nat := fld b 618 608
def qWidth (b : Nat) : Nat := fld b 607 595
def qMax (b : Nat) : Nat := fld b 594 582
def qWiden (b : Nat) : Bool := bit b 581
def qFilter (b : Nat) : Bool := bit b 580
def qPred (b : Nat) : Nat := fld b 575 520
def qOut (b : Nat) : Nat := fld b 519 464
def qPeers (b : Nat) : Nat := fld b 463 448
def qCoord (b : Nat) : Nat := fld b 447 444
def qTag (b : Nat) : Nat := fld b 439 408
def qTimeout (b : Nat) : Nat := (if fld b 407 376 = 0 then 10000 else fld b 407 376) * nsUs
def qTiles (b : Nat) : Nat := cdiv (qN b) 16
/-- Is this home the one that merges and writes? With PEERS 0 it is alone. -/
def isCoord (b : Nat) (s : State) : Bool := qPeers b == 0 || qCoord b == homeIndex s
def searchOf (x : Item) : Option SearchX := match x.extra with | .search z => some z | _ => none
def setSearch (z : SearchX) (x : Item) : Item := { x with extra := .search z }
def modSearch (i : Nat) (f : SearchX → SearchX) (s : State) : State :=
  modItem i (fun x => match x.extra with | .search z => setSearch (f z) x | _ => x) s

/-- Kinds of slivers in a search's plan. -/
abbrev slProbe : Nat := 0
abbrev slScan : Nat := 1
abbrev slSide : Nat := 2
abbrev slMerge : Nat := 3
abbrev slWalk : Nat := 4
/-- Side slivers: 256 side groups by one query tile. -/
def sidePlan (b head tail : Nat) : List (Nat × Nat × Nat) :=
  let n := sub32 tail head
  if n = 0 then []
  else
    let groups := (head + n - 1) / 32 - head / 32 + 1
    (List.range (qTiles b)).flatMap (fun t => (List.range (cdiv groups 256)).map (fun c => (slSide, t, c)))

def searchAdm (d : Desc) (s : State) : Adm :=
  let b := dBody d
  let job := d.qu.job
  let ar := indexAt job (fld b 767 712) s
  -- what the member may not read is refused for that (check 3), not for its content
  let reads := descReads d (fld b 767 712) 128 s
  let h := peek d (fld b 767 712) 128 s
  let graph := dOpcode d == ocSearchGraph
  let pred := if qFilter b then peek d (qPred b) predBytes s else 0
  let fine := !qFilter b || !reads || !descReads d (qPred b) predBytes s || (iAttr h && predOk pred)
  let peers := qPeers b
  let coord := isCoord b s
  let widthOk := decide (qWidth b ≤ qMax b) &&
    (if graph then decide (qK b ≤ qWidth b) && decide (qWidth b ≤ 1024) else decide (1 ≤ qWidth b) && decide (qWidth b ≤ 4096))
  let plan := if graph then
      (List.range (qN b)).map (fun q => (slWalk, q, 0)) ++ sidePlan b (iHead h) (iTail h)
    else (List.range (qTiles b)).flatMap (fun t => (List.range (cdiv (iLists h) 2048)).map (fun c => (slProbe, t, c)))
  let w := if graph then qWidth b else min (qWidth b) (iLists h)
  let z : SearchX := { ext := (ar.map (·.1)).getD 0, gen := iGen h, head := iHead h, tail := iTail h, entry := iEntry h, pred := pred,
                       plan := plan,
                       widths := List.replicate (qN b) w, own := [], side := [], got := [], sent := false, late := false, closed := false }
  { admBase with
    bodyOk := ar.isSome && dResume d == 0 &&
      (!reads || (iMagic h == indexMagic && iState h == 1 && iKind h == (if graph then 2 else 1))) &&
      decide (1 ≤ qN b) && decide (qN b ≤ 4096) && decide (1 ≤ qK b) && decide (qK b ≤ 1024) && widthOk &&
      (!qFilter b || qPred b % 128 == 0) && fine &&
      (peers == 0 || (decide (homeIndex s < 16) && peers.testBit (homeIndex s) && peers.testBit (qCoord b))) &&
      (if coord then qOut b != 0 else qOut b == 0)
    total := plan.length
    ranges := [(fld b 767 712, 128, false), (qQueries b, (qN b - 1) * qStride b + 4 * iDim h, false)] ++
      (if qFilter b then [(qPred b, predBytes, false)] else []) ++
      (if coord then [(qOut b, qN b * (32 + 16 * qK b), true)] else [])
    fit := (bitsOf peers 16).all (fun p => p == homeIndex s || (peerPort p s).isSome)
    extra := .search z }

/-! ### One query's result -/

/-- Eligibility of an entry (Searches and snapshots). -/
def passes (b pred : Nat) (e : Ent) : Bool := !qFilter b || predMatch pred e.attr
/-- What a scan of entries gives: scanned, filtered out, dead, candidates. -/
def scanEnts (b pred h : Nat) (q : Query) (es : List Ent) : PartialQ × List (Cand Nat) :=
  let es := es.filter (·.valid)
  let live := es.filter (fun e => !e.dead)
  let okE := live.filter (passes b pred)
  ({ probes := 0, scanned := es.length, filtered := live.length - okE.length, dead := es.length - live.length, entries := [] },
   okE.map (fun e => (distance h q e, e.id, 0)))
/-- The first K by (distance, ID) (R315). -/
def topOf (k : Nat) (l : List (Cand Nat)) : List (Nat × Nat) := ((rankAll l).take k).map (fun c => (c.1.toNat, c.2.1))
def readQuery (x : Item) (h q : Nat) : Sl Query :=
  slBind (slRead x (qQueries x.body + q * qStride x.body) (4 * iDim h)) (fun bs => slPure (mkQuery h true (words32 bs (iDim h))))

/-- The lists a query at width p includes. -/
def ivfLists (x : Item) (h : Nat) (z : SearchX) (q : Query) (p : Nat) : Sl (List Nat) :=
  slBind (readCentroids x h z.gen) (fun cs => slPure ((probeOrder h cs q).take p))
/-- Two parts of one query's result together, cut to the first K. -/
def joinParts (k probes : Nat) (a b : PartialQ) : PartialQ :=
  { probes := probes, scanned := a.scanned + b.scanned, filtered := a.filtered + b.filtered, dead := a.dead + b.dead,
    entries := topOf k ((a.entries ++ b.entries).map (fun e => (BitVec.ofNat 32 e.1, e.2, 0))) }
/-- What a scan of entries adds to a query's result. -/
def scanPart (b pred h : Nat) (q : Query) (es : List Ent) : PartialQ :=
  let (r, cs) := scanEnts b pred h q es
  { r with entries := topOf (qK b) cs }
/-- A query's side entries, read once (R314). -/
def sidePart (x : Item) (h : Nat) (z : SearchX) (qi : Nat) (q : Query) : Sl PartialQ :=
  match tget z.side qi with
  | some r => slPure r
  | none => slBind (readSide x h z.head z.tail) (fun es => slPure (scanPart x.body z.pred h q es))
/-- A query's result at its width, from its result so far: the lists newly included (R315, R316), or a walk at the width
(R317), every walk's counts added. -/
def queryAt (x : Item) (h : Nat) (z : SearchX) (qi : Nat) : Sl ((PartialQ × Nat × Nat) × PartialQ) :=
  let b := x.body
  let w := (z.widths[qi]?).getD 0
  slBind (readQuery x h qi) (fun q =>
    slBind (sidePart x h z qi q) (fun side =>
      match tget z.own qi with
      | some (r, v, c) =>
        if r.probes = w then slPure ((r, v, c), side)
        else if x.opcode = ocSearchGraph then
          slBind (graphWalk h z.entry q w (passes b z.pred) (readNode x h z.gen)) (fun k =>
            let part : PartialQ := { probes := w, scanned := k.visited.length, filtered := k.filtered, dead := k.dead,
                                     entries := k.res.map (fun c => (c.1.toNat, c.2.1)) }
            -- the side entries were counted with the first walk
            let old : PartialQ := { r with entries := side.entries }
            slPure ((joinParts (qK b) w part old, v + k.visited.length, c + b2n k.capped), side))
        else
          slBind (ivfLists x h z q w) (fun ls =>
            slBind (slMap (fun l => readList x h z.gen l) (ls.drop r.probes)) (fun es =>
              slPure ((joinParts (qK b) w r (scanPart b z.pred h q es.flatten), 0, 0), side)))
      | none =>
        if x.opcode = ocSearchGraph then
          slBind (graphWalk h z.entry q w (passes b z.pred) (readNode x h z.gen)) (fun k =>
            let part : PartialQ := { probes := w, scanned := k.visited.length, filtered := k.filtered, dead := k.dead,
                                     entries := k.res.map (fun c => (c.1.toNat, c.2.1)) }
            slPure ((joinParts (qK b) w part side, k.visited.length, b2n k.capped), side))
        else
          slBind (ivfLists x h z q w) (fun ls =>
            slBind (slMap (fun l => readList x h z.gen l) ls) (fun es =>
              slPure ((joinParts (qK b) w side (scanPart b z.pred h q es.flatten), 0, 0), side)))))

/-! ### Rounds: what slivers come next -/

/-- The scan slivers for lists newly included: up to 256 groups of one list, one for each tile of up to 16 queries. -/
def scanPlan (x : Item) (h gen : Nat) (ls : List (List Nat)) : Sl (List (Nat × Nat × Nat)) :=
  let all := (List.range (iLists h)).filter (fun l => ls.any (fun q => q.contains l))
  slBind (slMap (fun l => slBind (readDir x h gen l) (fun d =>
    let tiles := cdiv ((ls.filter (fun q => q.contains l)).length) 16
    slPure ((List.range tiles).flatMap (fun _ => (List.range (cdiv d.2.2 256)).map (fun c => (slScan, l, c)))))) all)
    (fun r => slPure r.flatten)

/-- The lists of each query between two widths. -/
def newLists (x : Item) (h : Nat) (z : SearchX) (from_ upto : List Nat) : Sl (List (List Nat)) :=
  slMap (fun q =>
    let a := (from_[q]?).getD 0
    let t := (upto[q]?).getD 0
    if t ≤ a then slPure []
    else slBind (readQuery x h q) (fun qu => slBind (ivfLists x h z qu t) (fun l => slPure (l.drop a)))) (List.range (qN x.body))

def mergePlan (b : Nat) : List (Nat × Nat × Nat) := (List.range (qTiles b)).map (fun t => (slMerge, t, 0))
/-- The width of a query's next round, if it has one (R316, R317). -/
def nextWidth (x : Item) (h : Nat) (w found : Nat) : Nat :=
  let b := x.body
  let top := if x.opcode = ocSearchGraph then qMax b else min (qMax b) (iLists h)
  if qWiden b && decide (found < qK b) && decide (w < top) then min (2 * w) top else w

/-- A search with further slivers in its plan, or its merge slivers. -/
def grown (b : Nat) (z : SearchX) (more : List (Nat × Nat × Nat)) : SearchX :=
  { z with plan := z.plan ++ if more.isEmpty then mergePlan b else more }
/-- The end of a round: each query's result, the widths of the next round and its slivers, and the rounds added. Where the
lists newly included hold no entry, that round ends too. -/
def searchRound (x : Item) (h : Nat) : Nat → SearchX → Sl (SearchX × Nat)
  | 0, z => slPure (grown x.body z [], 0)
  | n + 1, z =>
    let qs := List.range (qN x.body)
    slBind (slMap (fun q => slBind (queryAt x h z q) (fun r => slPure (q, r))) qs) (fun rs =>
      let z := { z with own := rs.map (fun r => (r.1, r.2.1)), side := rs.map (fun r => (r.1, r.2.2)) }
      let ws := rs.map (fun r => nextWidth x h ((z.widths[r.1]?).getD 0) r.2.1.1.entries.length)
      let wider := qs.filter (fun q => ws[q]? != z.widths[q]?)
      let next : SearchX := { z with widths := ws }
      if wider.isEmpty then slPure (grown x.body z [], 0)
      else if x.opcode = ocSearchGraph then slPure (grown x.body next (wider.map (fun q => (slWalk, q, 0))), wider.length)
      else
        slBind (newLists x h z z.widths ws) (fun ls =>
          slBind (scanPlan x h z.gen ls) (fun p =>
            if p.isEmpty then slBind (searchRound x h n next) (fun g => slPure (g.1, g.2 + wider.length))
            else slPure (grown x.body next p, wider.length))))
/-- What follows when every planned sliver has ended: the search with the next slivers in its plan, and the rounds added. -/
def searchGrow (x : Item) (h : Nat) (z : SearchX) : Sl (SearchX × Nat) :=
  let has (k : Nat) : Bool := z.plan.any (fun p => p.1 == k)
  if has slMerge then slPure (z, 0)
  else if x.opcode = ocSearchIvf && !has slScan && !has slSide then
    -- the probes have ended: the first lists of every query, and the side list
    slBind (newLists x h z [] z.widths) (fun ls =>
      slBind (scanPlan x h z.gen ls) (fun p =>
        let next := p ++ sidePlan x.body z.head z.tail
        if next.isEmpty then searchRound x h 13 z else slPure (grown x.body z next, 0)))
  else searchRound x h 13 z

/-! ### Slivers -/

/-- What a probe, scan or side sliver reads. -/
def searchRead (x : Item) (h : Nat) (z : SearchX) (k : Nat × Nat × Nat) : Sl Unit :=
  let touch (off n : Nat) : Sl Unit := slBind (slRead x (xBase x + off) n) (fun _ => slPure ())
  let many (l : List Nat) (size : Nat) : Sl Unit := slBind (slMap (fun o => touch o size) l) (fun _ => slPure ())
  if k.1 = slProbe then
    let lo := k.2.2 * 64
    many ((List.range (min 64 (cdiv (iLists h) 32 - lo))).map (fun g => areaOf h z.gen + (lo + g) * iCentroid h)) (iCentroid h)
  else if k.1 = slScan then
    slBind (readDir x h z.gen k.2.1) (fun d =>
      let lo := k.2.2 * 256
      many ((List.range (min 256 (d.2.2 - lo))).map (fun g => areaOf h z.gen + d.1 + (lo + g) * iGroup h)) (iGroup h))
  else if k.1 = slSide then
    let n := sub32 z.tail z.head
    let first := z.head / 32 + k.2.2 * 256
    let last := (z.head + n - 1) / 32
    many ((List.range (min 256 (last + 1 - first))).map (fun g => sideGroup h ((first + g) * 32))) (iGroup h)
  else slPure ()

/-- The header and entries of one query (Table 10.9, R319). -/
def queryData (k shards visited : Nat) (r : PartialQ) : List Byte :=
  let short := decide (r.entries.length < k)
  let hdr := pack [(if short then statusCode .short else 0, 248), (r.entries.length, 224), (r.probes, 208), (shards, 192),
    (r.scanned % 2 ^ 48, 144), (r.filtered % 2 ^ 48, 96), (r.dead % 2 ^ 48, 48), (visited % 2 ^ 32, 16)]
  bytesOf 32 hdr ++ r.entries.flatMap (fun e => bytesOf 4 e.1 ++ bytesOf 4 0 ++ bytesOf 8 e.2) ++
    (List.replicate (k - r.entries.length) (bytesOf 4 0x7F800000 ++ bytesOf 4 0 ++ bytesOf 8 noId)).flatten

/-- Own results in query order. -/
def ownResults (b : Nat) (z : SearchX) : List (PartialQ × Nat) :=
  (List.range (qN b)).map (fun q => match tget z.own q with
    | some (r, v, _) => (r, v)
    | none => ({ probes := 0, scanned := 0, filtered := 0, dead := 0, entries := [] }, 0))
/-- Merge shards' parts of one query (R322). -/
def mergeParts (k : Nat) (rs : List PartialQ) : PartialQ :=
  { probes := rs.foldl (fun m r => max m r.probes) 0, scanned := lsum (rs.map (·.scanned)),
    filtered := lsum (rs.map (·.filtered)), dead := lsum (rs.map (·.dead)),
    entries := topOf k (rs.flatMap (fun r => r.entries.map (fun e => (BitVec.ofNat 32 e.1, e.2, 0)))) }

/-- The counts of a finished search. -/
def searchCount (x : Item) (z : SearchX) (s : State) : State :=
  let rs := ownResults x.body z
  let s := bumpN kEntriesScanned (lsum (rs.map (fun r => r.1.scanned))) (bump kSearchesDone s)
  let s := bumpN kEntriesFiltered (lsum (rs.map (fun r => r.1.filtered))) s
  onlyIf (x.opcode == ocSearchGraph) (fun s =>
    bumpN kWaypoints (lsum (rs.map (fun r => r.1.dead)) - lsum (z.side.map (fun r => r.2.dead))) (bumpN kWalkCapped (lsum (z.own.map (fun o => o.2.2.2))) s)) s

/-- COORD's results: written once every partial is held or waited for no longer (R319, R320, R322). -/
def searchFinish (i : Nat) (s : State) : State :=
  match itemOf i s with
  | none => s
  | some x =>
    match searchOf x with
    | none => s
    | some z =>
      let b := x.body
      let me := if homeIndex s < 16 then 2 ^ homeIndex s else 0
      let others := (bitsOf (qPeers b) 16).filter (fun p => p != homeIndex s)
      let missing := others.filter (fun p => !z.got.any (fun g => g.1 == p))
      if z.closed || x.stop.isSome || !allEnded x || (!missing.isEmpty && !z.late) then s
      else
        let shards := me + lsum (z.got.map (fun g => 2 ^ g.1))
        let rs := (List.range (qN b)).map (fun q =>
          let own := ((ownResults b z)[q]?).map (·.1)
          (mergeParts (qK b) (own.toList ++ z.got.filterMap (fun g => g.2[q]?)),
           match (ownResults b z)[q]? with | some o => o.2 | none => 0))
        let ws := (List.range rs.length).map (fun q =>
          let r := (rs[q]?).getD (⟨0, 0, 0, 0, []⟩, 0)
          wBytes (qOut b + q * (32 + 16 * qK b)) (queryData (qK b) shards r.2 r.1))
        match slRun (.home i) i (slWrite x false ws) s with
        | (.wait _, s) => s
        | (.fail st, s) => modItem i (fun x => { x with stop := some st }) s
        | (.ok _, s) =>
          let short := (rs.filter (fun r => decide (r.1.entries.length < qK b))).length
          let st := if missing.isEmpty then (if short = 0 then Status.done else .short) else .excluded
          let s := bumpN kQueriesShort short (bumpN kShardsMissing missing.length (searchCount x z s))
          modSearch i (fun z => { z with closed := true }) (modItem i (fun x => { x with fin := st, detail := short }) s)

/-- A home that is not COORD sends its partial when its last merge sliver has ended (R321). -/
def searchSend (i : Nat) (s : State) : State :=
  match itemOf i s with
  | none => s
  | some x =>
    match searchOf x with
    | none => s
    | some z =>
      if z.sent || x.stop.isSome || !allEnded x then s
      else
        let s := modSearch i (fun z => { z with sent := true }) s
        sendPeer (qCoord x.body) 0x05 (qTag x.body) x.job [] ((ownResults x.body z).map (·.1)) (homeIndex s) s

/-- One sliver of a search. -/
def searchSliver (i sl : Nat) (x : Item) : Sl Unit :=
  match searchOf x with
  | none => slFail .internal
  | some z =>
    let b := x.body
    slBind (slNat x (xBase x) 128) (fun h =>
      let k := (z.plan[sl]?).getD (slMerge, 0, 0)
      -- a merge sliver takes results that the rounds have formed already
      let work : Sl Unit :=
        if k.1 = slMerge then slPure ()
        else if k.1 = slWalk then
          slBind (readQuery x h k.2.1) (fun q =>
            slBind (graphWalk h z.entry q ((z.widths[k.2.1]?).getD 0) (passes b z.pred) (readNode x h z.gen)) (fun _ =>
              slPure ()))
        else searchRead x h z k
      slBind work (fun _ =>
        let last := decide (x.doneS.length + 1 = z.plan.length)
        slBind (if last then searchGrow x h z else slPure (z, 0)) (fun g => slDo (fun s =>
          let more := g.1.plan.length - z.plan.length
          modItem i (fun x => { x with total := x.total + more }) (modSearch i (fun q => { q with
            plan := g.1.plan, widths := g.1.widths, own := g.1.own, side := g.1.side }) (bumpN kWidenRounds g.2 s))))))

/-! ### Partials and acknowledgements (R321 to R323) -/

/-- A COORD's admitted search that a partial matches. -/
def coordItem (job tag : Nat) (s : State) : Option (Nat × Item × SearchX) :=
  s.work.items.findSome? (fun e => match searchOf e.2 with
    | some z => if e.2.job = job && qTag e.2.body = tag && qPeers e.2.body != 0 && isCoord e.2.body s && !z.closed &&
        e.2.stop.isNone then some (e.1, e.2, z) else none
    | none => none)
/-- Take a partial into a matching item, or discard it. -/
def takePartial (i : Nat) (x : Item) (z : SearchX) (src : Nat) (rs : List PartialQ) (s : State) : State :=
  if !(qPeers x.body).testBit src || src = homeIndex s || z.late || z.got.any (fun g => g.1 == src) then
    bump kShardPartialsDiscarded s
  else
    let s := modSearch i (fun z => { z with got := z.got ++ [(src, rs)] }) s
    sendPeer src 0x06 (qTag x.body) x.job [] [] (homeIndex s) s
/-- A partial arrives (R323). -/
def partialArrives (job tag src : Nat) (rs : List PartialQ) (s : State) : State :=
  match coordItem job tag s with
  | some (i, x, z) => takePartial i x z src rs s
  | none =>
    if s.search.held.any (fun e => e.1 == job && e.2.1 == tag && e.2.2.1 == src) then bump kShardPartialsDiscarded s
    else { s with search := { s.search with held := s.search.held ++ [(job, tag, src, rs, s.now)] } }
/-- Held partials that a newly admitted item matches. -/
def takeHeld (i : Nat) (s : State) : State :=
  match itemOf i s with
  | none => s
  | some x =>
    let (mine, rest) := s.search.held.partition (fun e => e.1 == x.job && e.2.1 == qTag x.body)
    if (searchOf x).isNone || qPeers x.body = 0 || !isCoord x.body s then s
    else each mine (fun e s => match itemOf i s with
        | some x => match searchOf x with
          | some z => takePartial i x z e.2.2.1 e.2.2.2.1 s
          | none => s
        | none => s) { s with search := { s.search with held := rest } }

/-- Searches whose slivers have ended go on: results are written, or the partial is sent. -/
def settleSearch (s : State) : State :=
  each ((s.work.items.filter (fun e => (searchOf e.2).isSome)).map (·.1)) (fun i s =>
    match itemOf i s with
    | none => s
    | some x => if isCoord x.body s then searchFinish i s else searchSend i s) s

end Sys2Proof.Machine
end

