-- ==== Sys2Proof/Machine/Drain.lean ====
section
/-!
DEFINITION. Extents leaving ACTIVE: the drain, DRAINED, SCRUBBING, FREE, the close of a job, and what goes with them
(02_pool_memory.md R22, R43 to R52).
-/
namespace Sys2Proof.Machine

/-! ### The in-flight count (R47) -/

def namesMemory (k : TxKind) : Bool :=
  match k with
  | .fence => false
  | .contrib _ _ _ _ _ => false
  | _ => true
def extTxs (ext : Nat) (s : State) : List Tx := s.txn.txs.filter (fun t => t.ext == ext && namesMemory t.kind)
def extMoves (ext : Nat) (s : State) : List Move := s.tiers.moves.filter (fun m => ckExt m.crate == ext)
def extSnoops (ext : Nat) (s : State) : List Snoop := s.coh.snoops.filter (fun n => n.drainOf == some ext)
/-- Requests of engines and built-in slivers that wait, and fetches that have a destination. -/
def extHeld (ext : Nat) (s : State) : List Held := s.txn.held.filter (fun h => h.ext == ext)
def extFetches (ext : Nat) (s : State) : List Fetch :=
  s.tiers.fetches.filter (fun f => ckExt f.crate == ext && f.tier != 0)
/-- Requests, the recall's scan and snoops, and moves begun, fetches among them. -/
def inflight (ext : Nat) (s : State) : Nat :=
  (extTxs ext s).length + (extHeld ext s).length + b2n (scanPending (.drain ext) s) + (extSnoops ext s).length +
    (extMoves ext s).length + (extFetches ext s).length
/-- Crates holding data in any tier. -/
def usedCrates (ext : Nat) (s : State) : Nat := ((extCrates ext s).filter (fun c => c.2.tier != 0)).length

/-! ### Keys -/

def keyOf (k : Nat) (s : State) : Option Key := tget s.pool.keys k
def keyUsers (k : Nat) (s : State) : Nat := (s.pool.extents.filter (fun e => e.2.key == k)).length
/-- Destroy a key: every copy is gone (R539). -/
def destroyKey (k : Nat) (s : State) : State := { s with pool := { s.pool with keys := tdel s.pool.keys k } }
/-- Detach an extent's key; a key that no extent holds is destroyed (R48). -/
def detachKey (ext : Nat) (s : State) : State :=
  match extOf ext s with
  | none => s
  | some e =>
    let s := setExt ext { e with key := 0 } s
    onlyIf (e.key != 0 && keyUsers e.key s == 0) (destroyKey e.key) s

/-! ### Queues (Table 6.3) -/

/-- DESTROY, or close of the job: loading stops, items are cancelled. -/
def queueDestroy (q : Nat) (s : State) : State := cancelQueue q true 0 (queueTo q .draining s)
/-- A completion record that will not be written becomes an ITEM record (R571). -/
def loseRec (r : CRec) (s : State) : State :=
  let job := match queueOf r.queue s with | some q => q.job | none => 0
  itemLedger r job { s with rst := { s.rst with unrecorded := s.rst.unrecorded + 1 } }
/-- The queue's QCB or a ring lies in an extent that has left ACTIVE: as DESTROY, with no further record (Table 6.3). -/
def queueLost (q : Nat) (s : State) : State :=
  let s := queueTo q .draining s
  match queueOf q s with
  | none => s
  | some x =>
    let s := setQueue q { x with late := false, lostExt := true } s
    let (gone, keep) := s.work.records.partition (fun r => r.queue == q)
    cancelQueue q true 0 (each gone loseRec { s with work := { s.work with records := keep } })
def addrExt (job addr : Nat) (s : State) : Option Nat := (extAt job (fvaSlot addr) (fvaGran addr) s).map (·.1)
def queueIn (ext : Nat) (x : Queue) (s : State) : Bool :=
  addrExt x.job x.qcb s == some ext || addrExt x.job x.desc s == some ext || addrExt x.job x.comp s == some ext

/-! ### What else an extent's leaving ends -/

def destroyOwn (obj : Nat) (s : State) : State :=
  match ownOf obj s with
  | none => s
  | some o => raise 0x4440 0x02 6 (pack [(o.epoch, 16), (obj % 16384, 0)]) (delOwn obj (journalGone obj s).2)

/-- Fields of a CAPTURE_SESSION record (Table 14.8). -/
def capMode (v : Nat) : Nat := fld v 255 252
def capDir (v : Nat) : Nat := fld v 249 248
def capPort (v : Nat) : Nat := fld v 247 240
def capJob (v : Nat) : Nat := fld v 239 224
def capOp (v : Nat) : Nat := fld v 223 216
def capRate (v : Nat) : Nat := fld v 207 176
def capRing (v : Nat) : Nat := fld v 175 120
def capLog (v : Nat) : Nat := fld v 119 115
def captureOff (k : Nat) (s : State) : State :=
  let s := { s with sw := { s.sw with captures := tmap s.sw.captures (fun i x => if i = k then { x with half := none } else x) } }
  raise 0x3100 0x01 1 k (rseti kCaptureSession k (setFld (rgeti kCaptureSession k s) 255 252 0) s)
/-- Turn off the sessions that meet a condition (R453). -/
def capturesOff (p : Nat → Bool) (s : State) : State :=
  let on := (List.range 8).filter (fun k => capMode (rgeti kCaptureSession k s) != 0 && p (rgeti kCaptureSession k s))
  each on captureOff s

/-! ### Mirror control messages: the codes are the model's own (log 6) -/

abbrev mcRevoke : Nat := 1
abbrev mcShadow : Nat := 2
abbrev mcAnswer : Nat := 3
abbrev mcRelease : Nat := 4
abbrev mcTakeover : Nat := 5
def sendCtl (home code num : Nat) (s : State) : State := sendPeer home 0x03 code 0 [] [] num s

/-! ### ACTIVE to DRAINING (R43 to R47, Table 2.8) -/

def revokeExt (ext : Nat) (s : State) : State :=
  match extOf ext s with
  | none => s
  | some e =>
    if e.st != .active then s
    else
      let owns := (s.vers.owned.filter (fun o => (ownRanges o.2).any (fun r => r.1 == ext))).map (·.1)
      let items := (s.work.items.filter (fun i => i.2.exts.contains ext)).map (·.1)
      let queues := (s.work.queues.filter (fun q => queueIn ext q.2 s)).map (·.1)
      let caps (v : Nat) : Bool := addrExt (capJob v) (capRing v) s == some ext
      let s := capturesOff caps s
      let s := setExt ext { e with st := .draining, drainAt := s.now } s
      let s := { s with tiers := { s.tiers with deferred := s.tiers.deferred.filter (fun d => ckExt d.1 != ext) } }
      let s := each items (fun i => stopItem i .revoked) s
      let s := each queues queueLost s
      let s := each owns destroyOwn s
      let s := match regionOfExt ext s with
        | some (rid, _) => clearBindings (fun b => b.region == rid) s
        | none => s
      let s := journalExt ext s
      let s := onlyIf (fMirror e && mirrorPeer s != 0xFF && !s.vers.mirror.unmirrored.contains ext)
        (sendCtl (mirrorPeer s) mcRevoke (pack [(e.gen, 16), (ext, 0)])) s
      onlyIf (extInWindow e s) (queueScan (.drain ext)) s

/-! ### DRAINING to SCRUBBING (R48, R50) -/

/-- The DRAINED record (Table 2.12). -/
def drainedRec (ext : Nat) (e : Extent) (forced : Bool) (aborted : Nat) (s : State) : Nat :=
  pack [(ext, 112), (e.gen, 96), (e.job, 80), (b2n forced, 79), (aborted % 2 ^ 32, 32),
    (min (cdiv (s.now - e.drainAt) nsUs) (2 ^ 32 - 1), 0)]

/-- Scrubbing begins: attic and vault crates are unmapped, their vault pages no longer valid, cellar crates get DRAM_ZERO.
What they held stays taken until the extent is FREE (R50, R52). -/
def beginScrub (ext : Nat) (s : State) : State :=
  let s := { s with tiers := { s.tiers with
    fetches := s.tiers.fetches.filter (fun f => ckExt f.crate != ext),
    attic := s.tiers.attic.filter (fun a => ckExt a.1 != ext) } }
  each (extCrates ext s) (fun c s =>
    let s := dropCopy c.1 s
    if c.2.tier = tierAttic || c.2.tier = tierVault then
      setCrate c.1 crateDflt { s with tiers := { s.tiers with kept := s.tiers.kept ++ [(ext, c.2.tier, c.2.loc)] } }
    else if c.2.tier = tierCellar then
      trayCmd (locTray c.2.loc) opDramZero 0 512 (trayAddr c.2.loc) [] (.zero ext c.1) s
    else s) s

/-- DRAINED is raised, the key is detached, the extent is SCRUBBING. -/
def drainedExt (ext : Nat) (forced : Bool) (aborted : Nat) (s : State) : State :=
  match extOf ext s with
  | none => s
  | some e =>
    let s := raise 0x4100 0x01 16 (drainedRec ext e forced aborted s) (onlyIf forced (bump kDrainForced) s)
    let s := detachKey ext (setExt ext { e with st := .scrubbing } s)
    beginScrub ext (settleBooks (dropExtTensors ext (journalExt ext s)))

/-! ### The drain bound (R49) -/

/-- End a sliver's hen requests with REVOKED, and the sliver. -/
def abortHenTx (t : Tx) (s : State) : State :=
  match t.src with
  | .hen h => onlyIf (running h s && (henOf h s).dma.any (fun r => r.id == t.tag)) (endSliver h .revoked) (completeTx t .revoked [] s)
  | _ => delTx t.id s
/-- Complete a fabric request with TIER_TIMEOUT. -/
def abortPortTx (t : Tx) (s : State) : State :=
  match t.src with
  | .port p => completeTx t .tierTimeout [] (onlyIf t.ans.isNone (countExec p t.seq) s)
  | _ => abortHenTx t s
/-- Abandon a move begun; its destination is free again. -/
def abandonMove (ck : Nat) (s : State) : State := dropMove ck (modCrate ck (fun c => { c with moving := false }) s)
/-- End a request of an engine or a built-in sliver with a status, and the sliver that made it. What an item writes or loads
between slivers takes the status up itself. -/
def endHeld (h : Held) (st : Status) (s : State) : State :=
  match h.who with
  | .hen n => onlyIf (running n s || (henOf n s).st == .assigned) (endSliver n st) (dropHeld h.who s)
  | .engine i sl =>
    if sl < 2 ^ 32 then itemSliverEnd i sl st (dropHeld h.who s)
    else { s with txn := { s.txn with held := s.txn.held.map (fun x => if x.id = h.id then { x with res := some st } else x) } }
  | .home _ =>
    { s with txn := { s.txn with held := s.txn.held.map (fun x => if x.id = h.id then { x with res := some st } else x) } }

def forceDrain (ext : Nat) (s : State) : State :=
  let n := inflight ext s - b2n (scanPending (.drain ext) s)
  let txs := extTxs ext s
  let moves := (extMoves ext s).map (·.crate)
  let s := each (extHeld ext s) (fun h => endHeld h .revoked) (each txs abortPortTx s)
  let s := { s with
    vers := { s.vers with gives := s.vers.gives.filter (fun g => !txs.any (fun t => t.src == .port g.port && t.tag == g.tag)) },
    coh := { s.coh with
      snoops := s.coh.snoops.map (fun x => if x.drainOf = some ext then { x with discard := true, drainOf := none } else x),
      scans := s.coh.scans.filter (fun x => x != .drain ext),
      running := s.coh.running.filter (fun x => x != .drain ext) } }
  drainedExt ext true n (each moves abandonMove s)

/-! ### SCRUBBING to FREE (R50, R52) -/

/-- Is the scrub done but for the extent's last step? -/
def scrubbed (ext : Nat) (s : State) : Bool :=
  (match extOf ext s with | some e => e.st == .scrubbing | none => false) &&
  !s.tiers.cmds.any (fun c => match c.why with | .zero x _ => x == ext | _ => false)

/-- A closing job's slot is freed and its keys destroyed when every extent of it is FREE and its windows are cleared
(R22, R394). -/
def jobFreed (job : Nat) (s : State) : State :=
  match jobOf job s with
  | none => s
  | some (slot, j) =>
    let windows := s.coh.windows.any (fun w => winValid w.2 && winJob w.2 == job)
    if !j.closing || windows || s.pool.extents.any (fun e => e.2.job == job && !isShadow e.1 s) then s
    else
      let keys := (s.pool.keys.filter (fun k => !k.2.host && k.2.owner == job)).map (·.1)
      let s := each j.members (fun m => journalAny jMember 0 0 0 (job * 2 ^ 16 + m.1) (2 ^ 12 + m.2) []) s
      each keys destroyKey { s with pool := { s.pool with jobs := tdel s.pool.jobs slot } }

/-- The extent is FREE: contents, crate entries, poison, region and translations are gone. -/
def freeExt (ext : Nat) (s : State) : State :=
  match extOf ext s with
  | none => s
  | some e =>
    let rids := (s.vers.regions.filter (fun r => r.2.ext == ext)).map (·.1)
    let s := match jobOf e.job s with | some (slot, _) => untranslate slot e.slot e.base e.len s | none => s
    let s := raise 0x4100 0x02 4 (pack [(e.gen, 16), (ext, 0)]) (cleanExt ext s)
    let s := journalExtAs ext 0 s
    let s := { s with
      mem := memClear s.mem (ext * 2 ^ 96) ((ext + 1) * 2 ^ 96),
      pool := { s.pool with extents := tdel s.pool.extents ext },
      tiers := { s.tiers with
        crates := s.tiers.crates.filter (fun c => ckExt c.1 != ext),
        kept := s.tiers.kept.filter (fun k => k.1 != ext),
        attic := s.tiers.attic.filter (fun a => ckExt a.1 != ext),
        journals := s.tiers.journals.filter (fun j => ckExt j.1 != ext),
        groupTray := s.tiers.groupTray.filter (fun g => ckExt (g.1 * 32) != ext),
        making := s.tiers.making.filter (fun m => ckExt m.1 != ext),
        metaBad := s.tiers.metaBad.filter (fun m => ckExt (m.1 * 32) != ext),
        fetches := s.tiers.fetches.filter (fun f => ckExt f.crate != ext),
        sources := s.tiers.sources.filter (fun x => ckExt x.crate != ext),
        images := s.tiers.images.filter (fun x => ckExt x.crate != ext),
        flushes := s.tiers.flushes.map (fun f => if f.ext = ext then { f with version := none } else f) },
      txn := { s.txn with batches := s.txn.batches.filter (fun b => lkExt b.line != ext) },
      vers := { s.vers with
        regions := s.vers.regions.filter (fun r => !rids.contains r.1),
        mirror := { s.vers.mirror with
          marked := s.vers.mirror.marked.filter (fun c => ckExt c != ext),
          unmirrored := s.vers.mirror.unmirrored.filter (fun x => x != ext),
          shadows := s.vers.mirror.shadows.map (fun h => { h with exts := h.exts.filter (fun x => x.2.1 != ext) }) } },
      coh := { s.coh with
        ents := s.coh.ents.filter (fun x => lkExt x.line != ext),
        snoops := s.coh.snoops.filter (fun x => lkExt x.line != ext || x.discard) } }
    jobFreed e.job s

/-! ### The close of a job -/

/-- JOB_CLOSE takes effect: extents are revoked, queues drain, codebook IDs are dropped, captures go off (R22, R225,
R394, R453, Table 6.3). -/
def closeJob (job : Nat) (s : State) : State :=
  let exts := (s.pool.extents.filter (fun e => e.2.job == job && !isShadow e.1 s)).map (·.1)
  let queues := (s.work.queues.filter (fun q => q.2.job == job && q.2.st != .draining)).map (·.1)
  let s := each queues queueDestroy (modJob job (fun j => { j with closing := true }) s)
  let s := capturesOff (fun v => capJob v == job) (each exts revokeExt s)
  let wins := (s.coh.windows.filter (fun w => winValid w.2 && winJob w.2 == job && !s.coh.removing.any (fun r => r.1 == w.1))).map (·.1)
  let s := each wins (fun w s => queueScan (.window w)
    { s with coh := { s.coh with removing := s.coh.removing ++ [(w, 0, false)] } }) s
  let s := { s with coding := { s.coding with books := tmap s.coding.books (fun _ b =>
      if b.owner = job then { b with dropping := true } else b) } }
  jobFreed job (settleBooks s)

/-- A closing job's collectives go once its queues have drained (Collectives), and its slot once nothing holds it. -/
def settleClosing (s : State) : State :=
  let s := each ((s.pool.jobs.filter (fun j => j.2.closing)).map (·.2.id)) jobFreed s
  let gone (job : Nat) : Bool := !s.work.queues.any (fun q => q.2.job == job) &&
    (match jobOf job s with | some (_, j) => j.closing | none => true)
  { s with eng := { s.eng with colls := s.eng.colls.filter (fun c => !gone c.2.job) } }

end Sys2Proof.Machine
end

