-- ==== Sys2Proof/Machine/Assign.lean ====
section
/-!
DEFINITION. Placement of slivers on hens, their start and end, gangs, the descriptors of RUN and CANCEL, and hen memory
requests (06_work_queues.md R200 to R211, 05_hens_and_arithmetic.md R145, R166 to R168).
-/
namespace Sys2Proof.Machine

/-! ### RUN (Table 6.11) -/

def rImage (b : Nat) : Nat := fld b 767 712
def rLines (b : Nat) : Nat := fld b 711 696
def rArgs (b : Nat) : Nat := fld b 671 616
def rProgress (b : Nat) : Nat := fld b 599 544
def rSlivers (b : Nat) : Nat := fld b 527 496
def rRanks (b : Nat) : Nat := fld b 495 480
def rAnchor (b : Nat) : Nat := fld b 479 424
def rStride (b : Nat) : Nat := fld b 415 384
def rInline (b : Nat) : List Byte := bytesOf 48 (fld b 383 0)
def anchorAt (b sl : Nat) : Nat := rAnchor b + sl * rStride b * crateBytes

def runAdm (d : Desc) (s : State) : Adm :=
  let b := dBody d
  let hens := match activeJob d.qu.job s with | some (_, j) => hensIn j.hens.larders s | none => 0
  let most := match activeJob d.qu.job s with | some (_, j) => j.hens.max | none => 0
  { admBase with
    bodyOk := decide (1 ≤ rLines b) && decide (rLines b ≤ 256) && decide (1 ≤ rSlivers b) &&
      decide (rSlivers b ≤ 1048576) && rImage b % 128 == 0 && rProgress b % 8 == 0 && decide (rRanks b ≤ 4608) &&
      (rRanks b == 0 || (rSlivers b % rRanks b == 0 && dResume d == 0))
    total := rSlivers b, resumable := rRanks b == 0
    ranges := [(rImage b, rLines b * 128, false)] ++ (if rArgs b = 0 then [] else [(rArgs b, 1, false)]) ++
      (if rAnchor b = 0 then [] else (List.range (rSlivers b)).map (fun i => (anchorAt b i, 1, false))) ++
      (if rProgress b = 0 then [] else [(rProgress b, 8 * rSlivers b, true)])
    fit := decide (rRanks b ≤ hens), quota := decide (rRanks b ≤ most) }

/-- Is the item a gang (R210)? -/
def isGang (x : Item) : Bool := x.opcode == ocRun && rRanks x.body != 0

/-! ### Readiness and home larders -/

/-- What the opcode asks of a sliver beyond its item's FENCE. -/
def opReady (x : Item) (sl : Nat) (s : State) : Bool :=
  let op := x.opcode
  let inTurn := decide (x.resume + x.doneS.length = sl)
  if op = ocEncode then inTurn
  else if op = ocUpdate then updateReady x sl s
  else if op = ocEditPages || op = ocPageFree then editTurn x s
  else if op = ocAppend || op = ocDelete || op = ocMerge || op = ocBuild then indexTurn x s && inTurn
  else true
/-- Is a sliver ready to be given to a hen? -/
def sliverReady (i : Nat) (x : Item) (sl : Nat) (s : State) : Bool :=
  x.stop.isNone && !onEngine x.opcode && decide (x.resume ≤ sl) && decide (sl < x.total) &&
  !x.running.contains sl && !x.doneS.contains sl && !x.ended.any (fun e => e.1 == sl) && fenceMet i x s && opReady x sl s

/-- The result of a sliver's reads, with no effect. -/
def slPeek {α : Type} (m : Sl α) (s : State) : Option α := match (m s).1 with | .ok a => some a | _ => none

/-- Address of the first page of an ATTEND sliver's split at LAYER (R290). -/
def attendAnchor (x : Item) (sl : Nat) : Sl Nat :=
  let b := x.body
  slBind (slNat x (aArena b) 128) (fun h =>
    slBind (slRead x (aList b) (16 * aBatch b)) (fun lb =>
      let es := secItems 128 (aBatch b) (natOf lb)
      let (ei, k) := entryOf (attendCounts x h es) sl 0
      let e := (es[ei]?).getD 0
      let (len, _, index) := match x.extra with | .attend _ _ sn => (sn[ei]?).getD (0, 0, 0) | _ => (0, 0, 0)
      let splits := splitsOf b (walkLen b e len)
      slBind (pageOf x h index (k % splits * aSplit b)) (fun p => slPure (headRegion x h (aLayer b) p 0))))
/-- Address of the payload of operand (c, 0) (R297). -/
def projectAnchor (x : Item) (sl : Nat) : Sl Nat :=
  let b := x.body
  slBind (slNat x (jW b) 128) (fun t =>
    let k := sl / jGroups b * (jK b / max 1 (classK (tFmt t))) * jOpBlocks t
    slBind (slNat x (tEntry (jW b) k) 16) (fun h => slPure (tPay (jW b) (tBlocks t) + bOffset h * 128)))
/-- Address of the first group a search sliver reads. -/
def searchAnchor (x : Item) (sl : Nat) : Sl Nat :=
  match searchOf x with
  | none => slFail .internal
  | some z =>
    slBind (slNat x (xBase x) 128) (fun h =>
      match z.plan[sl]? with
      | none => slFail .internal
      | some k =>
        if k.1 = slProbe then slPure (xBase x + areaOf h z.gen + k.2.2 * 64 * iCentroid h)
        else if k.1 = slScan then slBind (readDir x h z.gen k.2.1) (fun d =>
          slPure (xBase x + areaOf h z.gen + d.1 + k.2.2 * 256 * iGroup h))
        else if k.1 = slSide then slPure (xBase x + sideGroup h ((z.head / 32 + k.2.2 * 256) * 32))
        else if k.1 = slWalk then slPure (xBase x + nodeAt h z.gen (iEntry h))
        else slFail .internal)
/-- The anchor address of a sliver, as its opcode's chapter names it. -/
def anchorOf (x : Item) (sl : Nat) (s : State) : Option Nat :=
  let b := x.body
  let op := x.opcode
  if op = ocRun then (if rAnchor b = 0 then none else some (anchorAt b sl))
  else if op = ocEncode then (if fld b 767 766 = 3 then none else some (fld b 719 664))
  else if op = ocUpdate then some (uW b + sl * 8192 * 4)
  else if op = ocBuild then some (bSrc b)
  else if op = ocAttend then slPeek (attendAnchor x sl) s
  else if op = ocProject then slPeek (projectAnchor x sl) s
  else if op = ocSearchIvf || op = ocSearchGraph then slPeek (searchAnchor x sl) s
  else none
/-- The larder whose stacks hold the anchor crate in the shelf now. -/
def homeNow (x : Item) (sl : Nat) (s : State) : Option Nat :=
  match anchorOf x sl s with
  | none => none
  | some a => match addrLine x.job a s with
    | none => none
    | some lk =>
      let c := crateOf (lkCrate lk) s
      if c.tier = tierShelf then some (locStack c.loc / 2) else none

/-- Each sliver that has become ready keeps its home larder of this moment, and the moment (R201). -/
def settleReady (s : State) : State :=
  let late (i : Nat) (x : Item) : List Nat :=
    (List.range x.total).filter (fun sl => (tget x.homes sl).isNone && sliverReady i x sl s)
  { s with work := { s.work with items := s.work.items.map (fun e =>
      (e.1, { e.2 with homes := e.2.homes ++ (late e.1 e.2).map (fun sl => (sl, homeNow e.2 sl s, s.now)) })) } }

/-! ### The placement procedure (R200 to R202, R210) -/

def henBusy (x : Hen) : Bool := x.st == .assigned || x.st == .running || x.st == .held
/-- Hens a job occupies. -/
def jobHensUsed (job : Nat) (s : State) : Nat := (s.hens.hens.filter (fun e => e.2.job == job && henBusy e.2)).length
/-- May a job's slivers run in a larder: its LARDERS, and no other job's EXCLUSIVE larders? -/
def mayUse (job l : Nat) (s : State) : Bool :=
  match activeJob job s with
  | none => false
  | some (_, j) => j.hens.larders.testBit l &&
      !s.pool.jobs.any (fun e => e.2.id != job && !e.2.closing && e.2.hens.exclusive && e.2.hens.larders.testBit l)
def henMaxOf (job : Nat) (s : State) : Nat := match activeJob job s with | some (_, j) => j.hens.max | none => 0
/-- Reservations honoured, in ascending job ID, while hens last (R200). -/
def henMinGo (job left : Nat) : List (Nat × Nat) → Nat
  | [] => 0
  | (id, m) :: r => if id = job then min m left else henMinGo job (left - min m left) r
def insertJob (a : Nat × Nat) : List (Nat × Nat) → List (Nat × Nat)
  | [] => [a]
  | b :: r => if a.1 ≤ b.1 then a :: b :: r else b :: insertJob a r
def henMinOf (job : Nat) (s : State) : Nat :=
  let js := (s.pool.jobs.filter (fun e => !e.2.closing)).map (fun e => (e.2.id, e.2.hens.min))
  henMinGo job (hensInService s) (js.foldl (fun l a => insertJob a l) [])

/-- Pass of a ready sliver in a larder: 1 homed there, 2 without a home, 3 homed elsewhere and ready for STEAL_NS, else
0. -/
def passOf (x : Item) (l sl : Nat) (s : State) : Nat :=
  match tget x.homes sl with
  | some (some h, t) => if h = l then 1 else if t + rget kStealNs s ≤ s.now then 3 else 0
  | some (none, _) => 2
  | none => 0
/-- Ranks that a gang has hens for. -/
def gangHeld (i : Nat) (s : State) : List Nat := match s.hens.gang with | some (g, hs, _) => if g = i then hs else [] | none => []
/-- Has a rank of a started gang a hen? -/
def rankHeld (i rank : Nat) (s : State) : Bool :=
  s.hens.hens.any (fun e => henBusy e.2 && e.2.item == i && e.2.rank == rank && decide (0 < e.2.nranks))
/-- The lowest ready sliver of an item in a pass; of a gang, the first sliver of its next rank, while no other gang is
forming, or once started the next sliver of a rank whose hen has been drained (DESIGN CHOICE, log 77). -/
def firstReady (i : Nat) (x : Item) (l pass : Nat) (s : State) : Option Nat :=
  if isGang x then
    let n := (gangHeld i s).length
    let free := match s.hens.gang with | some (g, _, _) => g == i | none => true
    if x.started then (List.range x.total).find? (fun sl => sliverReady i x sl s && passOf x l sl s == pass &&
      !rankHeld i (sl % rRanks x.body) s)
    else if free && decide (n < rRanks x.body) && x.running.isEmpty && x.doneS.isEmpty && sliverReady i x n s && passOf x l n s == pass then
      some n else none
  else (List.range x.total).find? (fun sl => sliverReady i x sl s && passOf x l sl s == pass)

/-- A candidate: queue, priority, item, sliver. -/
structure Cand1 where
  queue : Nat
  prio : Nat
  item : Nat
  order : Nat
  job : Nat
  sliver : Nat
  deriving DecidableEq, Repr

def candidates (l pass : Nat) (s : State) : List Cand1 :=
  let c := s.work.items.filterMap (fun e =>
    let (i, x) := e
    match queueOf x.queue s with
    | none => none
    | some q =>
      if !mayUse x.job l s || decide (henMaxOf x.job s ≤ jobHensUsed x.job s) then none
      else (firstReady i x l pass s).map (fun sl =>
        { queue := x.queue, prio := q.prio, item := i, order := x.order, job := x.job, sliver := sl }))
  let below := c.filter (fun k => decide (jobHensUsed k.job s < henMinOf k.job s))
  if below.isEmpty then c else below

def minBy {α : Type} (key : α → Nat) (l : List α) : Option α :=
  l.foldl (fun b a => match b with
    | none => some a
    | some c => if key a < key c then some a else some c) none

/-- The selection of one pass: level, queue after last_queue in ascending ID with wrap, earliest item. -/
def pickCand (l : Nat) (c : List Cand1) (s : State) : Option Cand1 :=
  match minBy (·.prio) c with
  | none => none
  | some p =>
    let lv := c.filter (fun k => k.prio == p.prio)
    let last := ((larderOf l s).lastQueue[p.prio]?).getD 16383
    match minBy (fun k => (k.queue + 16384 - (last + 1) % 16384) % 16384) lv with
    | none => none
    | some q => minBy (·.order) (lv.filter (fun k => k.queue == q.queue))
/-- The sliver that the procedure assigns now, with its pass. -/
def nextSliver (l : Nat) (s : State) : Option (Nat × Cand1) :=
  [1, 2, 3].findSome? (fun p => (pickCand l (candidates l p s) s).map (fun k => (p, k)))

/-- Idle hens of a larder that serve, in ascending index. -/
def idleHens (l : Nat) (s : State) : List Nat :=
  ((List.range 384).map (henId l)).filter (fun h => henServes h s && (henOf h s).st == .idle)
/-- The hen that R202 prefers. -/
def pickHen (l item job : Nat) (s : State) : Option Nat :=
  let hs := idleHens l s
  match hs.find? (fun h => (henOf h s).lastItem == some item) with
  | some h => some h
  | none => match hs.find? (fun h => (henOf h s).lastJob == some job) with
    | some h => some h
    | none => hs.head?

/-- Replace an entry of last_queue. -/
def setLast (l lv q : Nat) (s : State) : State :=
  modLarder l (fun x => { x with lastQueue := (List.range 4).map (fun i => if i = lv then q else (x.lastQueue[i]?).getD 16383) }) s

/-- One run of the procedure in a larder with an idle hen. -/
def assignOne (l : Nat) (s : State) : State :=
  match nextSliver l s with
  | none => s
  | some (p, k) =>
    match pickHen l k.item k.job s with
    | none => s
    | some h =>
      let s := onlyIf (p == 3) (bump kSliversStolen) (setLast l k.prio k.queue s)
      match itemOf k.item s with
      | none => s
      | some x =>
        if isGang x && !x.started then
          let hs := gangHeld k.item s
          let since := match s.hens.gang with | some (_, _, t) => t | none => s.now
          let s := modHen h (fun y => { y with st := .held, job := x.job, item := k.item, sliver := hs.length, rank := hs.length,
                                               nranks := rRanks x.body, startAt := s.now }) s
          { s with hens := { s.hens with gang := some (k.item, hs ++ [h], since) } }
        else
          let n := if isGang x then rRanks x.body else 0
          let s := modHen h (fun y => { y with st := .assigned, job := x.job, item := k.item, sliver := k.sliver,
                                               rank := if n = 0 then 0 else k.sliver % n, nranks := n, startAt := s.now }) s
          modItem k.item (fun x => { x with running := x.running ++ [k.sliver] }) s

/-! ### The start of a sliver (R147, R208, R210) -/

/-- Zero the hen on a change of job. -/
def zeroFor (job : Nat) (x : Hen) : Hen := if x.lastJob = some job then x else henZero x
/-- Give a hen its registers for a sliver of RUN. -/
def armRun (x : Item) (y : Hen) : Hen :=
  let z := { y with x := [], pc := 0, hfmt := 0, topk := y.topk }
  let z := xSet (xSet z 10 (rArgs x.body)) 11 y.sliver
  { z with ls := memWrite z.ls 0 (rInline x.body) }
/-- Load the image of an item into a hen's instruction memory, once per item. -/
def loadImage (h i : Nat) (x : Item) : Sl Unit :=
  fun s =>
    if (henOf h s).image == some i then (.ok (), s)
    else match slRead x (rImage x.body) (rLines x.body * 128) s with
      | (.ok bs, s) =>
        (.ok (), bump kImageLoads (modHen h (fun y => { y with imem := memWrite [] 0 bs, image := some i }) s))
      | (.fail st, s) => (.fail st, s)
      | (.wait q, s) => (.wait q, s)

/-- The hen runs its sliver. -/
def startHen (h i : Nat) (x : Item) (s : State) : State :=
  let s := modItem i (fun x => { x with started := true }) s
  modHen h (fun y =>
    let y := if x.opcode = ocRun then armRun x y else y
    { y with st := .running, startAt := s.now, instret := 0, dma := [], cbWait := none }) s

/-- An assigned sliver starts; a stopped item's does not, and its hen is idle again. -/
def startSliver (h : Nat) (s : State) : State :=
  let y := henOf h s
  match itemOf y.item s with
  | none => setHen h { y with st := .idle } s
  | some x =>
    if x.stop.isSome then
      modItem y.item (fun x => { x with running := x.running.filter (fun n => n != y.sliver) }) (setHen h { y with st := .idle } s)
    else
      let s := modHen h (zeroFor y.job) s
      let s := modHen h (fun y => { y with lastJob := some y.job }) s
      if x.opcode != ocRun then startHen h y.item x s
      else match slRun (.hen h) y.item (loadImage h y.item x) s with
        | (.ok _, s) => startHen h y.item x s
        | (.wait _, s) => s
        | (.fail st, s) => endSliver h st (startHen h y.item x s)

/-- Every rank's image, in order; a wait leaves the gang held. -/
def loadGang (i : Nat) (x : Item) (hs : List Nat) : Sl Unit :=
  slBind (slMap (fun h => loadImage h i x) hs) (fun _ => slPure ())
/-- All ranks of a gang start together once RANKS hens are held. -/
def gangStart (i : Nat) (s : State) : State :=
  match s.hens.gang, itemOf i s with
  | some (g, hs, _), some x =>
    if g != i || hs.length != rRanks x.body || x.stop.isSome then s
    else
      let s := each hs (fun h s => modHen h (fun y => { zeroFor y.job y with lastJob := some y.job }) s) s
      match slRun (.home i) i (loadGang i x hs) s with
      | (.wait _, s) => s
      | (r, s) =>
        let us := lsum (hs.map (fun h => (s.now - (henOf h s).startAt) / nsUs))
        let s := bumpN kGangWait us { s with hens := { s.hens with gang := none } }
        let s := modItem i (fun x => { x with running := List.range hs.length }) s
        let s := each hs (fun h s => startHen h i x s) s
        match r with
        | .fail st => each hs (fun h s => endSliver h st s) s
        | _ => s
  | _, _ => s

/-! ### The end of a sliver (R209) -/

/-- The work of a built-in opcode's sliver. -/
def builtIn (i sl : Nat) (x : Item) : Sl Unit :=
  let op := x.opcode
  if op = ocEncode then encodeSliver i sl x
  else if op = ocDecode then decodeSliver i sl x
  else if op = ocCodebook then bookSliver i x
  else if op = ocUpdate then updateSliver i sl x
  else if op = ocEditPages then editSliver i x
  else if op = ocPageFree then freeSliver i x
  else if op = ocAttend then attendSliver i sl x
  else if op = ocProject then projectSliver i sl x
  else if op = ocBuild then buildSliver i sl x
  else if op = ocAppend then appendSliver i sl x
  else if op = ocDelete then deleteSliver i sl x
  else if op = ocMerge then mergeSliver x
  else searchSliver i sl x

/-- What an item writes once every sliver has ended DONE. -/
def finalWork (x : Item) : Sl Unit :=
  if x.opcode = ocEncode then encodeFinal x
  else if x.opcode = ocBuild then buildFinal x
  else if x.opcode = ocAttend then attendCommit x
  else slPure ()
/-- Items whose slivers have all ended DONE write it; a failure of the write is the item's status. -/
def settleFinals (s : State) : State :=
  each (s.work.items.filter (fun e => hasFinal e.2 && !e.2.closed && e.2.stop.isNone && allEnded e.2)) (fun e s =>
    match slRun (.home e.1) e.1 (finalWork e.2) s with
    | (.wait _, s) => s
    | (.fail st, s) => modItem e.1 (fun x => { x with stop := some st }) s
    | (.ok _, s) => modItem e.1 (fun x => { x with closed := true }) s) s

/-- RUN's SLVEND: the progress entry, if there is one. -/
def progressWrite (x : Item) (sl v : Nat) : Sl Unit :=
  if rProgress x.body = 0 then slPure () else slWrite x false [wNat (rProgress x.body + 8 * sl) 8 v]

/-- SLVEND of a running hen: the sliver's result stands, or it ends with the status met; a wait leaves it running. -/
def slvend (h rs1 : Nat) (s : State) : State :=
  let y := henOf h s
  match itemOf y.item s with
  | none => setHen h { y with st := .idle } s
  | some x =>
    if x.opcode = ocRun && !y.dma.isEmpty then s
    else
      let work := if x.opcode = ocRun then progressWrite x y.sliver (xGet y rs1) else builtIn y.item y.sliver x
      let ends (st : Status) (s : State) : State :=
        endSliver h st (modHen h (fun y => { y with retired := y.retired + 1, instret := y.instret + 1 }) s)
      match slRun (.hen h) y.item work s with
      | (.ok _, s) => ends .done s
      | (.fail st, s) => ends st s
      | (.wait _, s) => s

/-- A sliver runs longer than SLIVER_LIMIT_US: it ends, and its hen, cleared, leaves service (R207, R572). -/
def sliverLimit (h : Nat) (s : State) : State :=
  let s := henFaultRec h 4 .cancelled 0 (bump kSliverLimitHits s)
  let s := endSliver h .cancelled s
  henLeave h (modHen h (fun y => { y with lastJob := none, lastItem := none }) s)

/-! ### Hens brought up to date after something stopped an item -/

/-- Assigned slivers of stopped items do not start. -/
def settleAssigned (s : State) : State :=
  let gone := s.hens.hens.filter (fun e => e.2.st == .assigned && (match itemOf e.2.item s with
    | some x => x.stop.isSome
    | none => true))
  each gone (fun e s =>
    modItem e.2.item (fun x => { x with running := x.running.filter (fun n => n != e.2.sliver) })
      (setHen e.1 { e.2 with st := .idle } s)) s
/-- A gang whose item is stopped gives its hens back. -/
def settleGang (s : State) : State :=
  match s.hens.gang with
  | none => s
  | some (i, hs, _) =>
    if itemRuns i s then s
    else
      let us := lsum (hs.map (fun h => (s.now - (henOf h s).startAt) / nsUs))
      each hs (fun h s => modHen h (fun y => { y with st := .idle }) s)
        (bumpN kGangWait us { s with hens := { s.hens with gang := none } })
/-- Hens that a JOB_HENS change lets finish leave its list as their slivers end (R199). -/
def settleDrains (s : State) : State :=
  { s with work := { s.work with drains := s.work.drains.map (fun d => (d.1, d.2.filter (fun h => henBusy (henOf h s)))) } }
/-- Pauses of loading that now hold are counted (R187). -/
def settlePauses (s : State) : State :=
  each (s.work.queues.map (·.1)) (fun q s =>
    match queueOf q s with
    | some x => if x.loadTo == some (qcbGet x offConsumer s) then s else notePause q s
    | none => s) s

/-! ### CANCEL (R204, R205) -/

def cancelAdm (d : Desc) : Adm :=
  let b := dBody d
  { admBase with bodyOk := decide (fld b 671 664 ≤ 1), total := 0 }
/-- Items of the queue that match and can still be cancelled. -/
def cancelTargets (d : Desc) (s : State) : List Nat :=
  let b := dBody d
  let hit (x : Item) : Bool := if fld b 671 664 = 0 then x.tag == fld b 767 704 else x.index == fld b 703 672
  (s.work.items.filter (fun e => e.2.queue == d.q && hit e.2 && e.2.stop.isNone &&
    !(decide (0 < e.2.total) && allEnded e.2))).map (·.1)
/-- Execute a CANCEL descriptor. -/
def runCancel (d : Desc) (s : State) : State :=
  if d.qu.late then lateDesc d s
  else match admitStatus d (cancelAdm d) s with
  | some (st, key) => notePause d.q (refuseDesc d st (countCheck key (consumed d s)))
  | none =>
    let ts := cancelTargets d s
    let s := bump kItemsAdmitted (consumed d s)
    let s := each ts (fun i => stopItem i .cancelled) s
    let c : CancelWait :=
      { queue := d.q, order := s.work.nextItem, index := d.index, tag := dTag d, items := ts, count := ts.length }
    notePause d.q { s with work := { s.work with cancels := s.work.cancels ++ [c] } }

/-! ### Hen memory requests (R7, R140, R166, R194) -/

def henReq (h id : Nat) (s : State) : Option DmaReq := (henOf h s).dma.find? (fun r => r.id == id)
def setReq (h : Nat) (r : DmaReq) (s : State) : State :=
  modHen h (fun x => { x with dma := x.dma.map (fun q => if q.id = r.id then r else q) }) s
/-- The requests of a hen that have not been sent, oldest first, each with its asker: those a failed sibling has left behind
(R166), then those of the sliver it runs. -/
def henUnsent (h : Nat) (s : State) : List (DmaReq × Asker) :=
  let y := henOf h s
  let own := match itemOf y.item s with | some x => askerOf x | none => { job := y.job, member := 0, partner := 0, binds := [] }
  y.late ++ (if y.st == .running then (y.dma.filter (fun r => !r.issued && r.res.isNone)).map (fun r => (r, own)) else [])
/-- Where the mesh takes a hen's request: to a stack of its own larder (0 and 1), or to the gateway (2), which everything else
is reached through (R7). -/
def henNode (h job addr : Nat) (s : State) : Nat :=
  match addrLine job addr s with
  | none => 2
  | some lk =>
    let c := crateOf (lkCrate lk) s
    if c.tier = tierShelf && locStack c.loc / 2 == henLarder h then locStack c.loc % 2 else 2
/-- The request that a number names, when it is the next the mesh takes toward its node: packets between two nodes keep the
order they were sent in (R140). -/
def nextSent (h id : Nat) (s : State) : Option (DmaReq × Asker) :=
  match (henUnsent h s).find? (fun e => e.1.id == id) with
  | none => none
  | some e =>
    let node := henNode h e.2.job e.1.pool s
    if ((henUnsent h s).takeWhile (fun f => f.1.id != id)).any (fun f => henNode h f.2.job f.1.pool s == node) then none
    else some ({ e.1 with node := node }, e.2)

/-- A hen's request goes to the home: the checks of Table 2.5, then execution or a wait. -/
def issueReq (h id : Nat) (m : MemErr) (s : State) : State :=
  match nextSent h id s with
  | none => s
  | some (r, a) =>
    if dmaOpen ≤ ((henOf h s).dma.filter (fun q => q.issued)).length || homeFull (homeOf a.job r.pool s) s then s
    else
      let s := modHen h (fun y => { y with late := y.late.filter (fun e => e.1.id != id) }) (setReq h { r with issued := true } s)
      let s := onlyIf (r.node == 2) (send (.henRequest h r.write a.job r.pool r.bytes)) s
      match checkItem a.job a.member a.partner r.pool r.write s with
      | .error (st, key) => answerHen h id st [] (countCheck key s)
      | .ok g =>
        let s := onlyIf ((henOf h s).dma.any (fun q => q.id == id)) (modItem (henOf h s).item (fun x =>
          { x with exts := ladd x.exts g.ext, touch := ((g.ext, g.off / crateBytes, 1) :: x.touch).eraseDups })) s
        let s := translate g.jslot r.pool s
        let k : TxKind := if r.write then .write false (r.data.map some) else .read
        let bind := match regionOfExt g.ext s with | some (rid, _) => boundOf a rid s | none => none
        let drafting := match bind with | some b => b.draft | none => false
        match check6 g k drafting s with
        | some st => answerHen h id st [] s
        | none =>
          let t : Tx := { id := s.txn.nextTx, counted := false, src := .hen h, epoch := 0, seq := 0, tag := id, job := a.job,
                          member := g.member, ext := g.ext, addr := r.pool, opcode := opCodeOf k, tc := 0, kind := k,
                          rel := false, parts := [], wait := .none, since := s.now, acc := s.now, combined := false,
                          jseq := none, jlines := [], ans := none }
          match startAccess t g bind r.bytes m s with
          | (.ok _, s) => s
          | (.error st, s) => answerHen h id st [] s

/-- An answer that is the next from its mesh node comes back (R140): its bytes reach the local store, or its failure ends the
sliver and leaves the command's requests not yet sent to go on by themselves (R166). -/
def returnReq (h id : Nat) (s : State) : State :=
  let y := henOf h s
  match y.answers.find? (fun a => a.2 == id), henReq h id s with
  | some a, some r =>
    if (y.answers.takeWhile (fun b => b.2 != id)).any (fun b => b.1 == a.1) then s
    else
      let s := setHen h { y with answers := y.answers.filter (fun b => b.2 != id) } s
      match r.res with
      | some .done =>
        modHen h (fun x =>
          let x := if r.write then x else lsWrite x r.loc r.data
          let dma := x.dma.map (fun q => if q.id = id then { q with issued := false } else q)
          let left := dma.any (fun q => q.cmd == r.cmd && (q.issued || q.res.isNone))
          { x with dma := if left then dma else dma.filter (fun q => q.cmd != r.cmd) }) s
      | some st =>
        let rest := (henUnsent h s).filter (fun e => e.1.cmd == r.cmd && !(henOf h s).late.contains e)
        modHen h (fun x => { x with late := x.late ++ rest }) (endSliver h st s)
      | none => s
  | _, _ => s

/-! ### Messages (R167, R168) -/

/-- The hen that runs a rank of an item. -/
def rankHen (item rank : Nat) (s : State) : Option Nat :=
  (s.hens.hens.find? (fun e => e.2.item == item && e.2.rank == rank && decide (0 < e.2.nranks) && henBusy e.2)).map (·.1)
/-- Messages a hen holds and those on their way to it. -/
def msgLoad (dst : Nat) (s : State) : Nat :=
  (henOf dst s).msgs.length + lsum (s.hens.hens.map (fun e => (e.2.sending.filter (fun m => m.1 == dst)).length))
abbrev msgMax : Nat := 64
/-- Cycles of the arithmetic domain, 1.5 GHz, in a time (R603). -/
def henCycles (ns : Nat) : Nat := ns * 3 / 2
/-- MSGSEND: an access fault for a rank that is not the item's, a wait while the target's queue is full, counted in cycles
when it ends (R168, Table 5.10). -/
def msgSend (h rank loc : Nat) (s : State) : State :=
  let y := henOf h s
  if y.nranks ≤ rank then henFault h (.access loc) s
  else match lsCheck y loc 64 true with
    | some t => henFault h t s
    | none => match rankHen y.item rank s with
      | none => s
      | some d =>
        if msgMax ≤ msgLoad d s then setHen h { y with msgWait := some (y.msgWait.getD s.now) } s
        else
          let waited := match y.msgWait with | some t => henCycles (s.now - t) | none => 0
          let s := onlyIf (henLarder h != henLarder d) (send (.henMessage h d)) s
          retire h 4 { y with sending := y.sending ++ [(d, lsRead y loc 64)], sent := y.sent + 1, msgWait := none }
            (bumpN kMsgBackpressure waited s)
/-- The oldest message from one hen to another arrives (R168); one for a hen that has meanwhile been cleared for another job,
or reset, goes the way of what R147 zeroes (DESIGN CHOICE, log 77). -/
def msgArrive (src dst : Nat) (s : State) : State :=
  let y := henOf src s
  match y.sending.find? (fun m => m.1 == dst) with
  | none => s
  | some m =>
    let s := setHen src { y with sending := y.sending.erase m } s
    let z := henOf dst s
    onlyIf (z.job == y.job && henReady z) (setHen dst { z with msgs := z.msgs ++ [(src, m.2)] }) s

end Sys2Proof.Machine
end

