-- ==== Sys2Proof/Machine/Owned.lean ====
section
/-!
DEFINITION. Owned objects' commands as requests (R119 to R124), and the journal records of line batches (R375).
-/
namespace Sys2Proof.Machine

/-! ### Journal records of batches -/

/-- The LINE record of a batch that has been written, where the extent is journalled. -/
def journalLine (lk : Nat) (s : State) : Option Nat × State :=
  if journalled (lkExt lk) s then
    let (q, s) := journalLk lk s
    (some q, s)
  else (none, markCrate (lkCrate lk) s)
/-- One written batch: its stores now wait for the record's acknowledgement, if there is one. -/
def settleLine (lk : Nat) (s : State) : State :=
  let (q, s) := journalLine lk s
  let upd (t : Tx) : Tx :=
    if t.jlines.contains lk then
      { t with jlines := t.jlines.filter (fun x => x != lk),
               jseq := match q, t.jseq with
                 | some a, some b => some (max a b)
                 | some a, none => some a
                 | none, b => b }
    else t
  { s with vers := { s.vers with mirror := { s.vers.mirror with jpend := s.vers.mirror.jpend.filter (fun x => x != lk) } },
           txn := { s.txn with txs := s.txn.txs.map upd } }
/-- What a region or OWN command whose record the mirror has acknowledged now does, and its answer (R126, Table 4.10). A
region whose extent has left ACTIVE meanwhile answers REVOKED (R114). -/
def land (t : Tx) (st : Status) (data : List Byte) (s : State) : Status × List Byte × State :=
  match t.kind with
  | .region op current version _ =>
    if t.jseq.isNone then (st, data, s)
    else
      let (r, s) := regionCmd false t.ext t.job t.member op current version s
      (r.st, regionData op r, s)
  | .own op permit obj epoch =>
    if t.jseq.isNone then (st, data, s)
    else
      let obj := ownKey t.ext obj s
      let s := if op = 1 then giveFinish obj permit s else (takeCmd obj t.member epoch s).2
      (st, ownData op obj st s, s)
  | _ => (st, data, s)
/-- A request whose answer stands, and whose record, if it has one, is acknowledged, completes. -/
def landTx (t : Tx) (s : State) : State :=
  match t.ans with
  | some (st, data) =>
    let (st, data, s) := land t st data s
    completeTx t st data s
  | none => s
/-- Complete the requests whose answers wait for no record any more. -/
def completeFree (s : State) : State :=
  each (s.txn.txs.filter (fun t => t.ans.isSome && t.jlines.isEmpty && t.jseq.isNone)) landTx s
/-- One record for each batch written, then completions of what is not journalled (R375, R129). -/
def settleJournal (s : State) : State :=
  completeFree (each (s.vers.mirror.jpend.filter (fun lk => (batchOf lk s).isNone)) settleLine s)

/-! ### OWN (Tables 4.5 and 4.6) -/

def ownWindows (o : OwnObj) (s : State) : Bool :=
  (ownRanges o).any (fun r => match extOf r.1 s with | some e => extInWindow e s | none => false)
def ownMirrorHolds (o : OwnObj) (s : State) : Bool := (ownRanges o).any (fun r => mirrorHolds r.1 s)
/-- Cached lines of the ranges, or a scan for them, are still to come back. -/
def recallLeft (obj : Nat) (s : State) : Bool := scanPending (.give obj) s || !(scanLines (.give obj) s).isEmpty

/-- Answer an OWN command that changes the object, as given, or not. The change of a mirrored object waits for its journal
record, and takes effect when the mirror has acknowledged it (R126, Table 4.10). -/
def ownAnswer (t : Tx) (op obj : Nat) (st : Status) (change : Option State) (s : State) : State :=
  match change, ownOf obj s with
  | some u, some o =>
    match ownOf obj u with
    | some n =>
      match journalOwnAs obj o n s with
      | (some q, s) => finishTx { t with jseq := some q } st [] s
      | (none, _) => finishTx t st (ownData op obj st u) u
    | none => finishTx t st (ownData op obj st u) u
  | _, _ => finishTx t st (ownData op obj st s) s
/-- An earlier OWN command of the object still waits for its record. -/
def ownLanding (t : Tx) (obj : Nat) (s : State) : Bool :=
  s.txn.txs.any (fun x => x.id != t.id && x.jseq.isSome && (match x.kind with
    | .own _ _ y _ => ownKey x.ext y s == obj
    | _ => false))

def dropGive (port tag : Nat) (s : State) : State :=
  { s with vers := { s.vers with gives := s.vers.gives.filter (fun g => !(g.port == port && g.tag == tag)) } }

/-- A GIVE as it stands: refused, waiting for its stores, its recall or the mirror, or done (R119, R120). -/
def runGive (t : Tx) (port permit obj epoch : Nat) (done : Bool) (s : State) : State :=
  match ownOf obj s with
  | none => ownAnswer t 1 obj .refusedFormat none (dropGive port t.tag s)
  | some o =>
    let st := giveCheck obj t.member permit epoch (giveBusy o s) s
    if st != .done then ownAnswer t 1 obj st none (dropGive port t.tag s)
    else
      let mine (g : GiveWait) : Bool := g.port == port && g.tag == t.tag
      let had := s.vers.gives.find? mine
      if earlierStores t s || ownMirrorHolds o s then
        let s := if ownMirrorHolds o s then holdTx t .mirror s else s
        if had.isSome then s
        else { s with vers := { s.vers with
          gives := s.vers.gives ++ [{ obj := obj, permit := permit, port := port, tag := t.tag, scanned := false }] } }
      else
        let scanned := match had with | some g => g.scanned | none => false
        if ownWindows o s && !scanned then
          queueScan (.give obj) { s with vers := { s.vers with gives := s.vers.gives.filter (fun g => !mine g) ++
            [{ obj := obj, permit := permit, port := port, tag := t.tag, scanned := true }] } }
        else if ownWindows o s && (!done || recallLeft obj s) then
          onlyIf (done && !scanPending (.give obj) s && !(scanLines (.give obj) s).any (fun lk => lineOpen lk s))
            (queueScan (.give obj)) s
        else
          let s := dropGive port t.tag s
          ownAnswer t 1 obj .done (some (giveFinish obj permit s)) s

/-- An OWN request taken up; done: its recall is said to be over. -/
def runOwn (done : Bool) (id : Nat) (s : State) : State :=
  match txOf id s with
  | none => s
  | some t =>
    match t.kind, t.src, t.ans with
    | .own op permit obj epoch, .port port, none =>
      let obj := ownKey t.ext obj s
      let s := ownExpire obj s
      if op != 3 && ownLanding t obj s then s
      else if op = 1 then runGive t port permit obj epoch done s
      else if op = 2 then
        let (st, u) := takeCmd obj t.member epoch s
        let changed := ownOf obj u != ownOf obj s
        let held := match ownOf obj s with | some o => changed && ownMirrorHolds o s | none => false
        if held then holdTx t .mirror s else ownAnswer t 2 obj st (if changed then some u else none) s
      else ownAnswer t 3 obj (queryCmd obj t.member s) none s
    | _, _, _ => s
/-- Every OWN request that has no answer. -/
def runOwns (s : State) : State := each (s.txn.txs.map (·.id)) (runOwn false) s

/-- A GIVE's waits and recall end: the oldest GIVE of the object (R119). -/
def giveRecallDone (obj : Nat) (s : State) : State :=
  match s.vers.gives.find? (fun g => g.obj == obj) with
  | none => s
  | some g => match s.txn.txs.find? (fun t => t.src == .port g.port && t.tag == g.tag) with
    | none => dropGive g.port g.tag s
    | some t => runOwn true t.id s

/-! ### OWNED_CMD (Table 4.4, R117) -/

def ocRange (v i : Nat) : Nat × Nat × Nat :=
  let r := fld v (383 - 96 * i) (288 - 96 * i)
  (fld r 95 80, fld r 71 36, fld r 35 0)
def ownedOfCmd (v : Nat) : OwnObj :=
  { job := fld v 479 464, owner := fld v 461 448, permit := [fld v 445 432, fld v 429 416, fld v 413 400],
    timeout := fld v 399 384, ranges := [ocRange v 0, ocRange v 1, ocRange v 2, ocRange v 3], transit := false,
    taker := 0x3FFF, epoch := 1, expiry := 0 }
def rangesMeet (a b : Nat × Nat × Nat) : Bool :=
  a.1 == b.1 && decide (a.2.1 < b.2.1 + b.2.2) && decide (b.2.1 < a.2.1 + a.2.2)
def rangesApart : List (Nat × Nat × Nat) → Bool
  | [] => true
  | a :: r => !r.any (rangesMeet a) && rangesApart r
/-- R117. A CREATE with no range in use breaks none of its cases and is accepted (DESIGN CHOICE, log 97). A shadow extent is
not ACTIVE before its takeover (R133). -/
def ownedCreateOk (obj : Nat) (o : OwnObj) (s : State) : Bool :=
  let rs := ownRanges o
  let exts := rs.map (fun r => extOf r.1 s)
  (ownOf (ownKeyOf obj s) s).isNone &&
  rs.all (fun r => match extOf r.1 s with
    | some e => e.st == .active && !isShadow r.1 s && e.job == o.job && decide (r.2.1 + r.2.2 ≤ e.len * 4096) &&
        !fVersioned e
    | none => false) &&
  rangesApart rs && !s.vers.owned.any (fun x => (ownRanges x.2).any (fun q => rs.any (rangesMeet q))) &&
  (exts.all (fun e => match e with | some e => fMirror e | none => false) ||
   exts.all (fun e => match e with | some e => !fMirror e | none => false))
def ownedWord (st : Status) (v : Nat) : Nat := pack [(statusCode st, 56), (fld v 503 496, 48), (fld v 493 480, 0)]
/-- Post an outcome now, or once the mirror has acknowledged the change (R126); results keep their order. -/
def ownedPost (q : Option Nat) (w : Nat) (s : State) : State :=
  let wait := match q, s.vers.ownPosts.getLast? with
    | some a, _ => some a
    | none, some b => some b.1
    | none, none => none
  match wait with
  | some a => { s with vers := { s.vers with ownPosts := s.vers.ownPosts ++ [(a, w)] } }
  | none => rset kOwnedResult w s
def commitOwned (v : Nat) (s : State) : Status × State :=
  let obj := fld v 493 480
  let op := fld v 511 504
  if op = 1 then
    let o := ownedOfCmd v
    if ownedCreateOk obj o s then
      let (q, s) := journalOwn obj (setOwn obj o s)
      (.done, ownedPost q (ownedWord .done v) s)
    else (.done, ownedPost none (ownedWord .refusedFormat v) s)
  else if op = 2 then
    let key := ownKeyOf obj s
    match ownOf key s with
    | none => (.done, ownedPost none (ownedWord .refusedFormat v) s)
    | some o =>
      if o.transit then (.done, ownedPost none (ownedWord .refusedFormat v) s)
      else
        let (q, s) := journalGone key s
        (.done, ownedPost q (ownedWord .done v) (delOwn key s))
  else (.done, ownedPost none (ownedWord .refusedFormat v) s)

end Sys2Proof.Machine
end

