-- ==== Sys2Proof/Machine/Settle.lean ====
section
/-!
DEFINITION. What follows from a command within the same step: extents revoked by a full poison table, collectives,
searches, items, codebooks and pages brought up to date, waiting requests taken up.
-/
namespace Sys2Proof.Machine

/-- Extents revoked because the poison table is full (R568). -/
def settleOverflow (s : State) : State :=
  each s.pool.overflow revokeExt { s with pool := { s.pool with overflow := [] } }

/-- One pass. -/
def settleOnce (s : State) : State :=
  let s := settleWindows (runOwns (pump (takeJammed (settleJournal (settleOverflow s)))))
  let s := settleSearch (settleColls s)
  let s := settleFinals (settleAssigned (settleGang s))
  let s := settleItems s
  settleReady (settlePauses (settleDrains (settleClosing (settleVersions (settleBooks (settleKv s))))))

/-- Two passes: what the first frees, the second takes up. -/
def settle (s : State) : State := settleOnce (settleOnce s)

end Sys2Proof.Machine
end

