-- ==== Sys2Proof/Machine/HenRows.lean ====
section
/-!
DEFINITION. The commands of 05_hens_and_arithmetic.md.
-/
namespace Sys2Proof.Machine

abbrev Res := Host.Outcome State Fault Refusal

/-- One instruction of a running hen: what follows from a sliver that a fault ended is settled. -/
def henDo (h : Nat) (f : State → State) (s : State) : State :=
  if !running h s then s
  else
    let t := f s
    if running h t then t else settle t
/-- The same for an instruction on the hen's own registers and stores. -/
def henRow (h : Nat) (f : Hen → Except Trap Hen) (s : State) : Res := .next (henDo h (henInsn h f) s)
/-- The words that an instruction reads show their errors: corrected ones are counted, the others cannot be read until written
whole (R146). -/
def lsMet (e : LsErr) (x : Hen) : Hen :=
  { x with corrected := x.corrected + e.fixed.length, badWords := e.bad.foldl ladd x.badWords }
/-- A running hen's instruction meets those words. -/
def meetLs (h : Nat) (e : LsErr) (s : State) : State := onlyIf (running h s) (modHen h (lsMet e)) s

def execScalarInstruction (h : HenAt) (s : State) : Res := .next (henDo h.hen (scalarInsn h.hen) (meetLs h.hen h.ls s))
def execTzero (hen td : Nat) (s : State) : Res := henRow hen (tzeroI td) s
def execTload (h : HenAt) (td rs1 : Nat) (s : State) : Res := henRow h.hen (tloadI td rs1) (meetLs h.hen h.ls s)
def execTstore (hen ts rs1 : Nat) (s : State) : Res := henRow hen (tstoreI ts rs1) s
def execTmma (h : HenAt) (tc ta rs1 : Nat) (coded : Bool) (s : State) : Res :=
  .next (henDo h.hen (if coded then tmmaCoded h.hen tc ta rs1 else henInsn h.hen (tmmaI tc ta rs1)) (meetLs h.hen h.ls s))
def execCodebookFetchDone (hen cb gen : Nat) (s : State) : Res := .next (settle (codebookFetched hen cb gen s))
def execVopAdd (hen vd v1 v2 : Nat) (s : State) : Res := henRow hen (vMap2 vd v1 v2 fadd32) s
def execVopSub (hen vd v1 v2 : Nat) (s : State) : Res := henRow hen (vMap2 vd v1 v2 fsub32) s
def execVopMul (hen vd v1 v2 : Nat) (s : State) : Res := henRow hen (vMap2 vd v1 v2 fmul32) s
/-- The destination register is the addend (DESIGN CHOICE, log 30). -/
def execVopFma (hen vd v1 v2 : Nat) (s : State) : Res := henRow hen (vMap3 vd v1 v2 ffma32) s
def execVopMin (hen vd v1 v2 : Nat) (s : State) : Res := henRow hen (vMap2 vd v1 v2 fmin32) s
def execVopMax (hen vd v1 v2 : Nat) (s : State) : Res := henRow hen (vMap2 vd v1 v2 fmax32) s
def execVopInteger (hen : Nat) (op : IntOp) (vd v1 v2 : Nat) (s : State) : Res := henRow hen (vMap3 vd v1 v2 (intLane op)) s
def execVsfExp2 (hen vd v1 : Nat) (s : State) : Res := henRow hen (vMap1 vd v1 vsfExp2Lane) s
def execVsfLog2 (hen vd v1 : Nat) (s : State) : Res := henRow hen (vMap1 vd v1 vsfLog2Lane) s
def execVsfRcp (hen vd v1 : Nat) (s : State) : Res := henRow hen (vMap1 vd v1 vsfRcpLane) s
def execVsfRsqrt (hen vd v1 : Nat) (s : State) : Res := henRow hen (vMap1 vd v1 vsfRsqrtLane) s
def execVload (h : HenAt) (vd rs1 : Nat) (s : State) : Res := henRow h.hen (vloadI vd rs1) (meetLs h.hen h.ls s)
def execVstore (hen vs rs1 : Nat) (s : State) : Res := henRow hen (vstoreI vs rs1) s
def execVrowsum (hen vd ts : Nat) (s : State) : Res := henRow hen (vrowI vd ts fadd32) s
def execVrowmax (hen vd ts : Nat) (s : State) : Res := henRow hen (vrowI vd ts fmax32) s
def execVscalerows (hen tc vs : Nat) (s : State) : Res := henRow hen (vscalerowsI tc vs) s
def execVmove (hen : Nat) (m : MoveOp) (s : State) : Res := henRow hen (vmoveI m) s
def execVcmp (hen : Nat) (op : CmpOp) (vd v1 v2 : Nat) (s : State) : Res := henRow hen (vMap2 vd v1 v2 (cmpLane op)) s
/-- Lane by lane: the mask's, then one source or the other. -/
def vselI (vd vm v1 v2 : Nat) (x : Hen) : Except Trap Hen :=
  .ok (vSet x vd ((List.range 32).map (fun i => selLane (vLane x vm i) (vLane x v1 i) (vLane x v2 i))))
def execVsel (hen vd vm v1 v2 : Nat) (s : State) : Res := henRow hen (vselI vd vm v1 v2) s
def execDmard (hen : Nat) (p : DmaPat) (s : State) : Res := henRow hen (dmaI false p) s
def execDmawr (h : HenAt) (p : DmaPat) (s : State) : Res := henRow h.hen (dmaI true p) (meetLs h.hen h.ls s)
def execDmawait (hen n : Nat) (s : State) : Res := henRow hen (dmawaitI n) s
def execDmaRequestDone (hen req : Nat) (s : State) : Res := .next (henDo hen (returnReq hen req) s)
def execMsgsend (hen rank loc : Nat) (s : State) : Res := .next (henDo hen (msgSend hen rank loc) s)
def execMsgrecv (hen loc : Nat) (s : State) : Res := henRow hen (msgrecvI loc) s
def execMsgpoll (hen rd : Nat) (s : State) : Res := henRow hen (msgpollI rd) s
def execMessageDelivered (src dst : Nat) (s : State) : Res := .next (msgArrive src dst s)
def execTkinit (hen k : Nat) (largest : Bool) (s : State) : Res := henRow hen (tkinitI k largest) s
def execTkins (hen vk vlo vhi : Nat) (s : State) : Res := henRow hen (tkinsI vk vlo vhi) s
def execTkread (hen rs1 : Nat) (s : State) : Res := henRow hen (tkreadI rs1) s
def execSlvend (hen rs1 : Nat) (s : State) : Res := .next (henDo hen (slvend hen rs1) s)

end Sys2Proof.Machine
end

