-- ==== Sys2Proof/Machine/WorkRows.lean ====
section
/-!
DEFINITION. The commands that load descriptors and carry work forward: 06 to 10, but for dictionary writes. A command
whose event is not enabled in the state leaves it unchanged (Table 0.3 of the scope chapter).
-/
namespace Sys2Proof.Machine

/-! ### Loading a descriptor (R185, R186, R193) -/

/-- Load the next descriptor of a queue when its opcode, and its operation within the opcode, are the command's. -/
def loadRow (oc : Nat) (sub : Nat → Bool) (adm : Desc → State → Adm) (post : Nat → State → State) (q : Nat) (s : State) : Res :=
  match nextDesc q s with
  | none => .next s
  | some d =>
    if !(descIs d oc && (dOpcode d != oc || sub (dBody d))) then .next s
    else match admitDesc d (adm d s) s with
      | (none, s) => .next (settle s)
      | (some i, s) => .next (settle (post i s))
def anySub (_ : Nat) : Bool := true
def noPost (_ : Nat) (s : State) : State := s
/-- The operation field holds the command's value, or one that no command has, which admission refuses. -/
def opIs (hi lo k top : Nat) (b : Nat) : Bool := fld b hi lo == k || decide (top < fld b hi lo)

def nopAdm (_ : Desc) (_ : State) : Adm := { admBase with total := 0 }

def execNop (q : Nat) (s : State) : Res := loadRow ocNop anySub nopAdm noPost q s
def execRun (q : Nat) (s : State) : Res := loadRow ocRun anySub runAdm noPost q s
def execCancel (q : Nat) (s : State) : Res :=
  match nextDesc q s with
  | none => .next s
  | some d => if descIs d ocCancel then .next (settle (runCancel d s)) else .next s

/-- An INSTALL claims its ID (R219). -/
def bookPost (i : Nat) (s : State) : State := match itemOf i s with | some x => claimBook x s | none => s
def execInstall (q : Nat) (s : State) : Res := loadRow ocCodebook (opIs 753 752 0 1) bookAdm bookPost q s
def execDrop (q : Nat) (s : State) : Res := loadRow ocCodebook (opIs 753 752 1 1) bookAdm noPost q s
def execEncode (q : Nat) (s : State) : Res := loadRow ocEncode (opIs 767 766 0 3) encodeAdm noPost q s
def execImportTensor (q : Nat) (s : State) : Res := loadRow ocEncode (opIs 767 766 1 3) encodeAdm noPost q s
def execRecode (q : Nat) (s : State) : Res := loadRow ocEncode (opIs 767 766 2 3) encodeAdm noPost q s
def execRelease (q : Nat) (s : State) : Res := loadRow ocEncode (opIs 767 766 3 3) encodeAdm noPost q s
def execDecode (q : Nat) (s : State) : Res := loadRow ocDecode anySub decodeAdm noPost q s

def execReduce (q : Nat) (s : State) : Res := loadRow ocReduce anySub reduceAdm pendRound q s
def execAllreduce (q : Nat) (s : State) : Res := loadRow ocAllreduce anySub reduceAdm pendRound q s
def execReduceUpdate (q : Nat) (s : State) : Res := loadRow ocUpdate anySub updateAdm pendRound q s
def execNormSq (q : Nat) (s : State) : Res := loadRow ocNormSq anySub normAdm pendRound q s
def execGather (q : Nat) (s : State) : Res := loadRow ocGather anySub (fun d _ => gatherAdm d) noPost q s
def execGatherBags (q : Nat) (s : State) : Res := loadRow ocGatherBags anySub (fun d _ => gatherAdm d) noPost q s
def execFilter (q : Nat) (s : State) : Res := loadRow ocFilter anySub filterAdm noPost q s

def execArenaInit (q : Nat) (s : State) : Res := loadRow ocEditPages (opIs 711 708 0 5) editAdm noPost q s
def execSeqOpen (q : Nat) (s : State) : Res := loadRow ocEditPages (opIs 711 708 1 5) editAdm noPost q s
def execSeqClose (q : Nat) (s : State) : Res := loadRow ocEditPages (opIs 711 708 2 5) editAdm noPost q s
def execReplace (q : Nat) (s : State) : Res := loadRow ocEditPages (opIs 711 708 3 5) editAdm noPost q s
def execTruncate (q : Nat) (s : State) : Res := loadRow ocEditPages (opIs 711 708 4 5) editAdm noPost q s
def execFork (q : Nat) (s : State) : Res := loadRow ocEditPages (opIs 711 708 5 5) editAdm noPost q s
def execPageFree (q : Nat) (s : State) : Res := loadRow ocPageFree anySub freeAdm noPost q s
def execAttend (q : Nat) (s : State) : Res := loadRow ocAttend anySub attendAdm noPost q s
def execProject (q : Nat) (s : State) : Res := loadRow ocProject anySub projectAdm noPost q s

def execIndexBuild (q : Nat) (s : State) : Res := loadRow ocBuild anySub buildAdm noPost q s
def execIndexAppend (q : Nat) (s : State) : Res := loadRow ocAppend anySub changeAdm noPost q s
def execIndexDelete (q : Nat) (s : State) : Res := loadRow ocDelete anySub changeAdm noPost q s
def execIndexMerge (q : Nat) (s : State) : Res := loadRow ocMerge anySub changeAdm noPost q s
def execSearchIvf (q : Nat) (s : State) : Res := loadRow ocSearchIvf anySub searchAdm takeHeld q s
def execSearchGraph (q : Nat) (s : State) : Res := loadRow ocSearchGraph anySub searchAdm takeHeld q s

/-! ### Queues (R187, R195, R608) -/

/-- A pause ends once no condition of R187 holds. -/
def resumeLoading (q : Nat) (s : State) : State :=
  match queueOf q s with
  | some x => if x.paused && !loadPaused x s then setQueue q { x with paused := false } s else s
  | none => s
def execLoadingResumed (q : Nat) (s : State) : Res := .next (resumeLoading q s)

/-- The descriptor's read fails: CONSUMER passes it, its record carries the read's status, the queue stops. -/
def descReadFail (q : Nat) (s : State) : State :=
  match queueOf q s with
  | none => s
  | some x =>
    let c := qcbGet x offConsumer s
    if !loading x s then s
    else match queueRead x (descAddr x c) 128 s with
      | .ok _ => s
      | .error (st, key) =>
        let s := countCheck key (consumed { q := q, qu := x, index := c, bits := 0 } s)
        let r : CRec := { queue := q, status := st, opcode := 0, cause := 0, limit := false, tag := 0, index := c,
                          pre := 0, doneN := 0, total := 0, detail := 0, stopOnFault := true }
        stopOnFault r s.work.nextItem (pushRec r s)
def execDescriptorReadFail (q : Nat) (s : State) : Res := .next (settle (descReadFail q s))

/-- The oldest completion record of a queue reaches its slot, or cannot (R195, Table 6.3). -/
def applyRec (q : Nat) (s : State) : State :=
  match queueOf q s, s.work.records.find? (fun r => r.queue == q) with
  | some x, some r =>
    let n := qcbGet x offCompleted s
    let a := compAddr x n
    let take (s : State) : State := { s with work := { s.work with records := s.work.records.erase r } }
    let done (s : State) : State := qcbPut x offCompleted 4 ((n + 1) % 2 ^ 32) s
    let ok : Except Nat Nat := match jobOf x.job s with
      | none => .error kDeniedPort
      | some (_, j) => match partnerOf j x.member with
        | none => .error kDeniedPort
        | some p => match checks25 x.job x.member p a true s with
          | .ok g =>
            let lk := lineKey g.ext 0 (g.off / 128)
            if poisoned lk (meetLine lk s) then .error 0 else .ok lk
          | .error (_, key) => .error key
    match ok with
    | .ok lk =>
      -- cached copies of the slot's line go first (Table 13.5)
      let (w, s) := if (entOf lk s).isSome then cohPrep lk none .change s else (tierWait (lkCrate lk) true s, s)
      if w != .none then s
      else done (ownPut lk (a % 128) ((bytesOf 32 (recBits r (decide (n / 2 ^ x.log2 % 2 = 0)))).map some) (take s))
    | .error key =>
      let s := countCheck key (loseRec r (done (take s)))
      onlyIf (x.st != .draining) (queueError q false) s
  | _, _ => s
def execCompletionRecordApplied (q : Nat) (s : State) : Res := .next (settle (applyRec q s))

/-! ### Slivers (R201 to R207) -/

def execSliverAssign (larder : Nat) (s : State) : Res := .next (assignOne larder s)
def execSliverStart (hen : Nat) (s : State) : Res :=
  .next (if (henOf hen s).st = .assigned then settle (startSliver hen s) else s)
def execGangStart (item : Nat) (s : State) : Res := .next (settle (gangStart item s))
def timeLimit (i : Nat) (s : State) : State :=
  match itemOf i s with
  | none => s
  | some x =>
    if x.limitUs = 0 || x.stop.isSome || (decide (0 < x.total) && allEnded x) then s
    else
      let s := timeTo (x.at_ + x.limitUs * nsUs) s
      modItem i (fun x => { x with limit := true }) (stopItem i .cancelled s)
def execTimeLimit (item : Nat) (s : State) : Res := .next (settle (timeLimit item s))
def execSliverLimit (hen : Nat) (s : State) : Res :=
  .next (if running hen s then
    settle (sliverLimit hen (timeTo ((henOf hen s).startAt + rget kSliverLimitUs s * nsUs) s)) else s)
/-- The last sliver that a JOB_HENS change let finish has ended (R199). -/
def hensDrained (job : Nat) (s : State) : State :=
  let s := settleDrains s
  if s.work.drains.contains (job, []) then
    raise 0x6140 0x01 2 job { s with work := { s.work with drains := s.work.drains.filter (fun d => d.1 != job) } }
  else s
def execJobHensDrained (job : Nat) (s : State) : Res := .next (hensDrained job s)
/-- An idle hen with no ready sliver for its larder recodes the oldest slow block of a job that has the larder in its LARDERS
(R237). -/
def backgroundRecode (h : Nat) (s : State) : State :=
  let mine (q : Nat × Nat × Nat) : Bool := match extOf q.1 s with
    | some e => (match jobOf e.job s with | some (_, j) => j.hens.larders.testBit (henLarder h) | none => false)
    | none => true
  match s.coding.recodeQ.find? mine with
  | none => s
  | some q => if henServes h s && (henOf h s).st == .idle && (nextSliver (henLarder h) s).isNone then recodeBlock q s else s
def execBackgroundRecode (hen : Nat) (s : State) : Res := .next (settle (backgroundRecode hen s))
def execEngineSliverDone (item sliver : Nat) (s : State) : Res := .next (settle (engineSliver item sliver s))

/-! ### Collectives (R244, R253, R254, R260) -/

def execRoundOpen (coll : Nat) (s : State) : Res := .next (settle (openRound coll s))
def memberTimer (c : Nat) (s : State) : State :=
  match collOf c s with
  | none => s
  | some k =>
    match k.openR with
    | none => s
    | some r =>
      match itemOf r.item s with
      | none => s
      | some x =>
        if collPhase x != 1 || x.opcode == ocNormSq || cChunks x ≤ r.low then s
        else
          let got := match r.chunks.find? (fun q => q.chunk == r.low) with | some q => q.got | none => 0
          let ms := (roundMembers k r).filter (fun m => !got.testBit m)
          missing c ms (timeTo (r.timer + cTimeout x.opcode x.body) s)
def execMemberTimerExpiry (coll : Nat) (s : State) : Res := .next (settle (memberTimer coll s))
/-- A partner answers a DELIVER; an answer other than DONE is no acknowledgement (log 44). -/
def deliverAnswer (port tag status : Nat) (s : State) : State :=
  if portLive port s && statusOf status == .done then
    { s with eng := { s.eng with delivers := s.eng.delivers.filter (fun d => !(d.port == port && d.tag == tag)) } }
  else s
def execResponse (port tag status : Nat) (s : State) : Res := .next (settle (deliverAnswer port tag status s))
def deliverTimeout (port tag : Nat) (s : State) : State :=
  match s.eng.delivers.find? (fun d => d.port == port && d.tag == tag) with
  | none => s
  | some d => match itemOf d.item s with
    | none => s
    | some x => loseDelivery d.item d.member (timeTo (d.sent + cTimeout x.opcode x.body) s)
def execDeliverTimeout (port tag : Nat) (s : State) : Res := .next (settle (deliverTimeout port tag s))
def normTimeout (c : Nat) (s : State) : State :=
  match collOf c s with
  | none => s
  | some k =>
    match k.openR with
    | none => s
    | some r =>
      match itemOf r.item s with
      | none => s
      | some x =>
        if collPhase x != 2 || x.stop.isSome then s
        else
          let s := timeTo (r.normAt + cTimeout x.opcode x.body) s
          let late := if x.opcode = ocUpdate then x.ended ++ [(0, Status.memberTimeout)] else x.ended
          modItem r.item (fun x => { x with stop := some .memberTimeout, ended := late }) s
def execNormTimeout (coll : Nat) (s : State) : Res := .next (settle (normTimeout coll s))

/-! ### Peer frames (R327, R388) -/

/-- A PEER frame arrives: it is acknowledged, and its message is delivered once every fragment has arrived. -/
def peerIn (ph : PeerHdr) (k : State → State) (s : State) : State :=
  if !(portLive ph.port s && portRolePeer ph.port s) then s
  else
    let s := send (.peerAck ph.port (ph.msgSeq % 2 ^ 32))
      (modPortTx ph.port (fun x => { x with msgRx := max x.msgRx ph.msgSeq }) s)
    let mine (f : Nat × Nat × List Nat) : Bool := f.1 == ph.port && f.2.1 == ph.msgId
    let had := match s.txn.frags.find? mine with | some f => f.2.2 | none => []
    let got := ladd had ph.frag
    let rest := s.txn.frags.filter (fun f => !mine f)
    if ph.frags ≤ got.length then k { s with txn := { s.txn with frags := rest } }
    else { s with txn := { s.txn with frags := rest ++ [(ph.port, ph.msgId, got)] } }

/-- A peer's accumulator is held until the norm phase takes it; one of an older round is discarded (R259). -/
def normArrives (src c round : Nat) (z : SumSq) (s : State) : State :=
  let drop := bump kPeerPartialsDiscarded s
  match collOf c s with
  | none => drop
  | some k =>
    let live := liveRounds k s
    let old := !live.contains round && (if live.isEmpty then roundOlder round k.next else live.all (fun r => roundOlder round r))
    if !k.peers.testBit src || src == homeIndex s || old then drop
    else
      let keep := s.eng.heldNorms.filter (fun e => !(e.1 == src && e.2.1 == c && e.2.2.1 == round))
      { s with eng := { s.eng with heldNorms := keep ++ [(src, c, round, z)] } }
def execNormPartial (ph : PeerHdr) (coll round acc flags : Nat) (s : State) : Res :=
  .next (settle (peerIn ph (normArrives ph.src coll round (ssOf acc flags)) s))
def execSearchPartial (ph : PeerHdr) (shardTag : Nat) (results : List PartialQ) (s : State) : Res :=
  .next (settle (peerIn ph (partialArrives ph.job shardTag ph.src results) s))

/-! ### Sharded searches (R321 to R323) -/

/-- COORD acknowledges: the item completes DONE. -/
def ackArrives (job tag : Nat) (s : State) : State :=
  let hit (e : Nat × Item) : Bool := match searchOf e.2 with
    | some z => e.2.job == job && qTag e.2.body == tag && z.sent && !z.closed && e.2.stop.isNone
    | none => false
  match s.work.items.find? hit with
  | none => s
  | some (i, x) => match searchOf x with
    | some z => searchCount x z (modSearch i (fun z => { z with closed := true }) s)
    | none => s
def execSearchAck (ph : PeerHdr) (shardTag : Nat) (s : State) : Res :=
  .next (settle (peerIn ph (ackArrives ph.job shardTag) s))
def partialTimeout (i : Nat) (s : State) : State :=
  match itemOf i s with
  | none => s
  | some x => match searchOf x with
    | none => s
    | some z =>
      if qPeers x.body = 0 || !isCoord x.body s || z.late || z.closed || x.stop.isSome then s
      else modSearch i (fun z => { z with late := true }) (timeTo (x.at_ + qTimeout x.body) s)
def execSearchPartialTimeout (item : Nat) (s : State) : Res := .next (settle (partialTimeout item s))
def ackTimeout (i : Nat) (s : State) : State :=
  match itemOf i s with
  | none => s
  | some x => match searchOf x with
    | none => s
    | some z =>
      if isCoord x.body s || z.closed || x.stop.isSome then s
      else modItem i (fun x => { x with stop := some .memberTimeout }) (timeTo (x.at_ + qTimeout x.body) s)
def execSearchAckTimeout (item : Nat) (s : State) : Res := .next (settle (ackTimeout item s))
/-- A held partial that nothing matched in time; its MEMBER_TIMEOUT_US is the default, 10 ms (log 43). -/
abbrev holdNs : Nat := 10 * nsMs
def holdExpiry (job tag src : Nat) (s : State) : State :=
  match s.search.held.find? (fun e => e.1 == job && e.2.1 == tag && e.2.2.1 == src) with
  | none => s
  | some e =>
    bump kShardPartialsDiscarded
      { timeTo (e.2.2.2.2 + holdNs) s with search := { s.search with held := s.search.held.erase e } }
def execPartialHoldExpiry (job shardTag src : Nat) (s : State) : Res := .next (holdExpiry job shardTag src s)

end Sys2Proof.Machine
end

