-- ==== Sys2Proof/Machine/Tiers.lean ====
section
/-!
DEFINITION. Capacities, the vault's flash translation, moves, fetches, the placement epoch, FLUSH and the loss of a tray
(03_tiers_and_placement.md).
-/
namespace Sys2Proof.Machine

/-! ### Committed and usable capacity (R30, R54, R56, R57, R93, R97) -/

/-- Granules an extent counts in the sums of R30. -/
def extGranules (e : Extent) : Nat := if fVersioned e then 2 * e.len else e.len
/-- Committed granules: LATENCY; LATENCY, NO_VAULT and SCRATCH; all. -/
def committedOf (p : Extent → Bool) (s : State) : Nat × Nat × Nat :=
  let sum (q : Extent → Bool) : Nat :=
    lsum ((s.pool.extents.filter (fun e => p e.2 && q e.2)).map (fun e => extGranules e.2))
  (sum fLatency, sum (fun e => fLatency e || fNoVault e || fScratch e), sum (fun _ => true))
def committed (s : State) : Nat × Nat × Nat := committedOf (fun _ => true) s

/-- Retired shelf slots beyond the 8 GiB allowance lower the shelf one granule per 4,096. -/
abbrev retireAllowance : Nat := 131072
def shelfLost (s : State) : Nat := ((s.tiers.retired.filter (fun r => r.1 == tierShelf)).length - retireAllowance) / 4096
/-- Usable shelf in granules: 63 GiB of each trained stack, less the allowance, the attic and retirements. -/
def shelfGranules (s : State) : Nat :=
  let failed := ((List.range 12).filter (fun l => (larderOf l s).failed)).length
  ((24 - 2 * failed) * 63 - 8 - s.tiers.atticGib) * 4 - shelfLost s
/-- Usable cellar in granules: 31/32 of the DRAM of every tray present. -/
def cellarGranules (s : State) : Nat :=
  lsum ((s.tiers.trays.filter (fun t => t.2.present)).map (fun t => t.2.dramGib * 2 ^ 30 * 31 / 32)) / granBytes
/-- Usable vault bytes of a tray (R56, R81); a worn tray counts none (R86). -/
def trayVaultB (t : Tray) : Nat :=
  if !t.present || !t.usableNand || t.worn then 0
  else min (t.nandGb * 10 ^ 9 * 7 / 8) (t.dramGib * 2 ^ 30 / 32 * 4096)
def vaultGranules (s : State) : Nat := lsum (s.tiers.trays.map (fun t => trayVaultB t.2)) / granBytes

/-- Publish a usable figure (R54). -/
def publish (key v : Nat) (s : State) : State :=
  rset key v { s with tiers := { s.tiers with published := ladd s.tiers.published key } }
/-- A figure that has been published changes. -/
def republish (key v : Nat) (s : State) : State := if s.tiers.published.contains key then rset key v s else s

/-! ### The flash translation (R82 to R86) -/

/-- Spare area left, in thousandths of the NAND: 12.5 % less the blocks retired. -/
def sparePermille (t : Tray) : Nat := 125 - (if t.blocksAll = 0 then 0 else t.blocksBad * 1000 / t.blocksAll)
/-- Erase-count spread of a tray; a block without a record has been erased 0 times. -/
def eraseSpread (t : Nat) (s : State) : Nat :=
  let bs := trayBlocks t s
  let top := bs.foldl (fun m b => max m b.erases) 0
  if bs.length < (trayOf t s).blocksAll then top else top - bs.foldl (fun m b => min m b.erases) top
/-- The copy of a DURABLE extent's crate as it stands. -/
def keepImage (ck : Nat) (s : State) : State :=
  if !crateExt ck fDurable s then s
  else
    let lo := ck * crateBytes
    let bytes := (s.mem.filter (fun c => decide (lo ≤ c.1) && decide (c.1 < lo + crateBytes))).map (fun c => (c.1 - lo, c.2))
    let bad := (s.tiers.poison.filter (fun x => lkCrate x == ck)).map (fun x => x % 512)
    let rest := s.tiers.images.filter (fun i => i.crate != ck)
    { s with tiers := { s.tiers with images := rest ++ [{ crate := ck, bytes := bytes, poison := bad }] } }
/-- The crate's vault copy lies at a location now. -/
def setCopy (ck loc : Nat) (clean : Bool) (s : State) : State :=
  keepImage ck (noteCopy ck loc (modCrate ck (fun c =>
    { c with vcopy := true, vtray := loc / 2 ^ 44, vloc := loc % 2 ^ 44, dirty := c.dirty && !clean }) s))

/-- A read of four planes counts against its block (R84). -/
def countRead (t vloc : Nat) (s : State) : State :=
  let b := blockOfTray t (blockOf t vloc s) s
  if b.written then setBlock { b with reads := b.reads + 1 } s else s

/-- Retire a block; a tray whose spare area falls to 2 % is worn (R86). -/
def retireBlock (t id : Nat) (s : State) : State :=
  let b := blockOfTray t id s
  if b.bad then s
  else
    let s := bump kVaultBlocksRetired (setBlock { b with bad := true, reclaim := false } s)
    let x := { trayOf t s with blocksBad := (trayOf t s).blocksBad + 1 }
    let worn := !x.worn && decide (sparePermille x ≤ 20)
    let s := setTray t { x with worn := x.worn || worn } s
    onlyIf worn (fun s => raise 0x5000 0x01 1 t (republish kVaultUsable (vaultGranules s) s)) s

/-- Is a crate's vault copy on its way to another address, or being written anew? -/
def copyGoing (ck : Nat) (s : State) : Bool :=
  s.tiers.cmds.any (fun x => match x.why with | .relocate k _ _ => k == ck | .journal k _ _ => k == ck | _ => false) ||
  s.tiers.moves.any (fun m => m.crate == ck && m.tier == tierVault)
/-- Move a crate's vault copy to a new address on its tray with NAND_COPY. -/
def relocateCopy (counted : Bool) (ck : Nat) (s : State) : State :=
  let c := crateOf ck s
  if !c.vcopy || copyGoing ck s then s
  else match vaultLoc c.vtray s with
    | (none, s) => s
    | (some loc, s) => trayCmd c.vtray opNandCopy 4 4 c.vloc (second (loc % 2 ^ 44)) (.relocate ck loc counted) s

/-- Erase a block that reclamation has emptied (R83). -/
def eraseEmpty (s : State) : State :=
  let busy (b : Block) : Bool := s.tiers.cmds.any (fun x => x.tray == b.tray && x.why == .erase b.id)
  each (s.tiers.blocks.filter (fun b => b.reclaim && !b.bad && b.valid.isEmpty && !busy b)) (fun b s =>
    trayCmd b.tray opNandErase 4 4 (blockAddr b.tray b.id s) [] (.erase b.id) s) s

/-- Free blocks of a tray: never written, or erased since. -/
def freeBlocks (t : Nat) (s : State) : Nat :=
  (trayOf t s).blocksAll - ((trayBlocks t s).filter (fun b => b.written || b.bad)).length

/-- Greedy reclamation: the written block with the least valid data (R83). -/
def vaultReclaim (t : Nat) (s : State) : State :=
  if (trayOf t s).blocksAll * 3 ≤ freeBlocks t s * 100 then s
  else
    let open_ (b : Block) : Bool := s.tiers.logs.any (fun l => l.1 == t * 256 + b.id / 2 ^ 36 && l.2.1 == b.id % 2 ^ 36)
    let full := (trayBlocks t s).filter (fun b => b.written && !b.bad && !b.reclaim && !open_ b)
    match minBy (fun b => b.valid.length) full with
    | none => s
    | some b => eraseEmpty (each b.valid (relocateCopy false) (setBlock { b with reclaim := true } s))
def execVaultReclaim (tray : Nat) (s : State) : Res := .next (vaultReclaim tray s)

/-- Static data lies in the block erased least (R84). -/
def vaultStaticMove (t : Nat) (s : State) : State :=
  if eraseSpread t s ≤ 512 then s
  else match minBy (fun b => b.erases) ((trayBlocks t s).filter (fun b => b.written && !b.bad && !b.valid.isEmpty)) with
    | none => s
    | some b => each b.valid (relocateCopy true) s
def execVaultStaticMove (tray : Nat) (s : State) : Res := .next (vaultStaticMove tray s)

def vaultReadRelocate (t id : Nat) (s : State) : State :=
  let b := blockOfTray t id s
  if b.reads < 80000 then s else each b.valid (relocateCopy true) s
def execVaultReadRelocate (tray block : Nat) (s : State) : Res := .next (vaultReadRelocate tray block s)

/-- Read a crate's copy for the scan. -/
def scanRead (ck t id level : Nat) (s : State) : State :=
  trayCmd t opNandRead 4 4 (crateOf ck s).vloc [] (.scan ck id level) s
/-- The 7-day scan of a block reads each of its written pages that hold a crate (R85). -/
def vaultScan (t id : Nat) (s : State) : State :=
  let b := blockOfTray t id s
  if !b.written || b.bad then s
  else
    let s := timeTo (b.scannedAt + 7 * day24) s
    each b.valid (fun ck => scanRead ck t id 0) (setBlock { b with scannedAt := s.now } s)
def execVaultScan (tray lun block : Nat) (s : State) : Res := .next (vaultScan tray (lun * 2 ^ 36 + block) s)
/-- A page set of the scan has come back: a weak one, or one that needed a retry, is relocated; one that failed is read at
the next level (R85). -/
def scanBack (ck t id level corrected : Nat) (ok : Bool) (addr : Nat) (s : State) : State :=
  let c := crateOf ck s
  if !(c.vcopy && c.vtray == t && c.vloc == addr) then s
  else if ok then onlyIf (level != 0 || decide (Config.codeLimit * 6 < corrected * 10)) (relocateCopy true ck) s
  else if level < Config.retryLevels then scanRead ck t id (level + 1) (trayCmd t opSetRetry 0 (level + 1) addr [] .retry s)
  else s

/-! ### Ends of moves and fetches -/

/-- Fetches without a destination look for one again (R606). -/
def retryFetches (s : State) : State :=
  let idle := s.tiers.fetches.filter (fun f => f.tier == 0)
  each idle (fun f s =>
    let s := startFetch f.crate { s with tiers := { s.tiers with fetches := s.tiers.fetches.filter (fun x => x.crate != f.crate) } }
    { s with tiers := { s.tiers with fetches := s.tiers.fetches.map (fun x =>
        if x.crate = f.crate then { x with since := f.since } else x) } }) s

/-- A slot whose data has left it is retired: listed, kept in flash, and counted against the shelf (R92, R93, R94). Whether
RETIRED_SLOTS counts since the cold reset or gives the list's length is not said: it counts (DESIGN CHOICE, log 90). -/
def slotRetired (tier loc : Nat) (s : State) : State :=
  let before := shelfLost s
  let s := { s with
    tiers := { s.tiers with retiring := s.tiers.retiring.filter (fun r => r != (tier, loc)),
                            retired := s.tiers.retired ++ [(tier, loc)] },
    sec := { s.sec with flash := { s.sec.flash with retired := s.sec.flash.retired ++ [(tier, loc)] } } }
  let s := bump kRetiredSlots s
  if shelfLost s = before then s
  else
    let s := republish kShelfUsable (rget kShelfUsable s - 1) s
    onlyIf (decide (rget kShelfUsable s < (committed s).1)) (raise 0x5000 0x02 0 0) s
/-- Slots being retired that hold nothing any more. -/
def finishRetires (s : State) : State :=
  each (s.tiers.retiring.filter (fun r => !(usedLocs r.1 s).contains r.2)) (fun r => slotRetired r.1 r.2) s
/-- Crates in slots being retired move out, before anything else concerns them (R68, R92). -/
def startRetires (s : State) : State :=
  let s := finishRetires s
  let stuck := s.tiers.crates.filter (fun c => !c.2.moving && !fetching c.1 s && s.tiers.retiring.contains (c.2.tier, c.2.loc) &&
    extActive (ckExt c.1) s)
  each stuck (fun c s =>
    if c.2.tier = tierShelf then
      let (ok, t) := moveTo c.1 tierShelf .retire s
      if ok || crateExt c.1 fLatency s then t else (moveTo c.1 tierCellar .retire t).2
    else if c.2.tier = tierCellar then
      let (ok, t) := moveTo c.1 tierCellar .retire s
      if ok then t else (moveTo c.1 tierShelf .retire t).2
    else s) s

/-- Crates a FLUSH writes: DIRTY ones, of the version held since the commit where the extent is versioned (R115). -/
def flushCrates (ext : Nat) (version : Option Nat) (s : State) : List Nat :=
  let all := (extCrates ext s).filter (fun c => c.2.dirty && c.2.tier != 0)
  match regionOfExt ext s, version with
  | some (_, r), some v => (all.filter (fun c => ckForm c.1 == verForm r v (ckIdx c.1))).map (·.1)
  | _, _ => all.map (·.1)
/-- Lines of an extent held M are fetched by SNP_SHARE before anything is written (R408); a dead owner's are lost. -/
def fetchModified (ext : Nat) (s : State) : State :=
  each (s.coh.ents.filter (fun x => lkExt x.line == ext)) (fun x s =>
    match x.owner with
    | some o => if !portCaches o s then loseHolder x.line o s
                else if lineOpen x.line s then s else sendSnoop .share o x.line false false none s
    | none => s) s
def modifiedLeft (ext : Nat) (s : State) : Bool :=
  s.coh.ents.any (fun x => lkExt x.line == ext && x.owner.isSome) || s.coh.snoops.any (fun x => lkExt x.line == ext)
/-- The FLUSH that runs fetches the extent's modified lines, then writes each of its crates that no move concerns (R68,
R72, R74). -/
def startFlushes (s : State) : State :=
  match s.tiers.flushes with
  | [] => s
  | f :: r =>
    if !extActive f.ext s then s
    else
      let put (g : FlushJob) (s : State) : State := { s with tiers := { s.tiers with flushes := g :: r } }
      let s := if f.stage = 2 then s else put { f with stage := 1 } (fetchModified f.ext s)
      if f.stage != 2 && modifiedLeft f.ext s then s
      else
        let left := if f.stage = 2 then f.left else flushCrates f.ext f.version s
        each left (fun ck s =>
          if (crateOf ck s).moving || (crateOf ck s).tier = tierVault || fetching ck s then s
          else (moveTo ck tierVault .flush s).2) (put { f with stage := 2, left := left } s)
/-- A crate of the running FLUSH has been written, or needs no writing. -/
def flushed (ck : Nat) (s : State) : State :=
  match s.tiers.flushes with
  | [] => s
  | f :: r => { s with tiers := { s.tiers with flushes := { f with left := f.left.filter (· != ck) } :: r } }

/-- A move's commands, or the journal record of its map change, are not answered yet (R82). -/
def moveBusy (ck : Nat) (s : State) : Bool :=
  s.tiers.cmds.any (fun c => match c.why with | .move k => k == ck | .journal k _ none => k == ck | _ => false)

/-- A crate's coded form in its slot: 8 inline blocks, filled with zero, encrypted in units of 1 KiB (R69, R71). -/
def atticImage (ck cls gen : Nat) (s : State) : List Byte :=
  let slot := match jobOf (crateJob ck s) s with | some (n, _) => n | none => 0
  let entries := match bookOf (atticBook slot) s with | some b => ((cbGenOf b gen).map (·.entries)).getD [] | none => []
  let ts := crateTuples ck s
  let block (i : Nat) : List Byte :=
    let x := encodeBlock 1 3 8 2 (atticBook slot) gen entries ((List.range 1024).map (fun j => tgetD ts (i * 1024 + j) 0)) []
    let h := if bMode x.1 = 1 then setFld x.1 127 126 3 else x.1
    bytesOf 16 h ++ x.2 ++ List.replicate (cdiv x.2.length 16 * 16 - x.2.length) 0
  let clear := (List.range 8).flatMap block
  let all := clear ++ List.replicate (cls * 8192 - clear.length) 0
  let (a, b) := extKeyPair (ckExt ck) s
  (List.range (cls * 8)).flatMap (fun u => xtsEncrypt a b (atticTweak ck u s) ((all.drop (u * 1024)).take 1024))
/-- The attic slot of a crate is written, or left. -/
def putAttic (ck cls gen : Nat) (s : State) : State :=
  { s with tiers := { s.tiers with attic := tput s.tiers.attic ck (atticImage ck cls gen s) } }
def dropAttic (ck : Nat) (s : State) : State := { s with tiers := { s.tiers with attic := tdel s.tiers.attic ck } }

/-- A move's copy is complete: the map is switched, or the move abandoned (R63, R65). -/
def moveCopyDone (ck : Nat) (s : State) : State :=
  match s.tiers.moves.find? (fun m => m.crate == ck) with
  | none => s
  | some m =>
    if moveBusy ck s then s
    else
      let c := crateOf ck s
      let s := dropMove ck (modCrate ck (fun c => { c with moving := false, redirty := false }) s)
      let s :=
        if m.tier = tierVault then
          let s := setCopy ck m.loc (!c.redirty) s
          if m.why = .flush then flushed ck s
          else if c.redirty then bump kMoveAbandoned s
          else leaveLoc ck c.tier c.loc (bump kMovesDone (modCrate ck (fun c => { c with tier := tierVault, loc := 0 }) s))
        else if c.redirty then bump kMoveAbandoned s
        else
          let s := if m.tier = tierAttic then putAttic ck (locClass m.loc) m.gen s else dropAttic ck s
          leaveLoc ck c.tier c.loc (bump kMovesDone (modCrate ck (fun c => { c with tier := m.tier, loc := m.loc, agen := m.gen }) s))
      startFlushes (startRetires (retryFetches (regroup ck s)))
def execMoveCopyDone (crate : Nat) (s : State) : Res := .next (settle (moveCopyDone crate s))

def moveSourceFreed (ck : Nat) (s : State) : State :=
  let freed (x : Source) : Bool := x.crate == ck && !s.txn.txs.any (fun t => x.txs.contains t.id) &&
    !s.txn.held.any (fun h => x.txs.contains h.id)
  if s.tiers.sources.any freed then
    startRetires <| retryFetches { s with tiers := { s.tiers with sources := s.tiers.sources.filter (fun x => !freed x) } }
  else s
def execMoveSourceFreed (crate : Nat) (s : State) : Res := .next (settle (moveSourceFreed crate s))

def fetchBusy (ck : Nat) (s : State) : Bool := s.tiers.cmds.any (fun c => c.why == .fetch ck)
/-- A fetch completes: the map is switched (R66). -/
def fetchDone (ck : Nat) (s : State) : State :=
  match s.tiers.fetches.find? (fun f => f.crate == ck) with
  | none => s
  | some f =>
    if f.tier = 0 then retryFetches s
    else if fetchBusy ck s then s
    else
      let c := crateOf ck s
      let s := { s with tiers := { s.tiers with fetches := s.tiers.fetches.filter (fun x => x.crate != ck) } }
      let s := regroup ck (modCrate ck (fun c => { c with tier := f.tier, loc := f.loc }) s)
      let s := if c.tier = tierAttic then dropAttic ck (leaveLoc ck tierAttic c.loc s) else s
      startFlushes (startRetires s)
def execFetchDone (crate : Nat) (s : State) : Res := .next (settle (fetchDone crate s))

/-- A vault read failed at every retry level (R87). -/
def vaultUncorrectable (ck : Nat) (s : State) : State :=
  match s.tiers.fetches.find? (fun f => f.crate == ck) with
  | none => s
  | some f =>
    if f.tier != tierCellar || (crateOf ck s).tier != tierVault then s
    else
      let s := { s with tiers := { s.tiers with
        fetches := s.tiers.fetches.filter (fun x => x.crate != ck),
        cmds := s.tiers.cmds.filter (fun c => c.why != .fetch ck),
        images := s.tiers.images.filter (fun i => i.crate != ck) } }
      let s := dropCopy ck (modCrate ck (fun c =>
        { c with tier := tierCellar, loc := f.loc, vcopy := false, vtray := 0, vloc := 0, dirty := true }) s)
      let s := poisonCrate ck causeVault (bump kVaultUncorrected (regroup ck s))
      -- every request that waits for the crate completes with POISONED
      { s with txn := { s.txn with txs := s.txn.txs.map (fun t =>
          if t.wait = .none || t.wait = .release || t.wait = .table then t
          else { t with parts := t.parts.map (fun p =>
            if lkCrate p.line = ck && p.res.isNone then { p with res := some .poisoned } else p) }) } }
      |> fun s => each (s.txn.held.filter (fun h => lkCrate h.line == ck)) (fun h => endHeld h .poisoned) s
def execVaultReadUncorrectable (crate : Nat) (s : State) : Res := .next (settle (vaultUncorrectable crate s))

/-- A stalled first write proceeds once its crate is placed (R61); a demotion under way is waited for. -/
def unmappedPlaced (ck : Nat) (s : State) : State :=
  let waits := s.txn.txs.any (fun t => t.wait == .space && t.parts.any (fun p => lkCrate p.line == ck && p.res.isNone)) ||
    s.txn.held.any (fun h => h.wait == .space && lkCrate h.line == ck) || s.txn.batches.any (fun b => lkCrate b.line == ck)
  if !waits || (crateOf ck s).tier != 0 then s
  else
    let going := s.tiers.moves.any (fun m =>
      (crateOf m.crate s).tier == (if crateExt ck fLatency s then tierShelf else tierCellar) && m.why == .place)
    let fits := (pickShelf ck s).isSome || (!crateExt ck fLatency s && (pickCellar ck s).isSome)
    if going && !fits then s else (placeNew ck s).2
def execUnmappedWritePlaced (crate : Nat) (s : State) : Res := .next (settle (unmappedPlaced crate s))

/-! ### The tier timeout (R77, R130) -/

def tierWaits (w : Wait) : Bool :=
  match w with
  | .attic | .vault | .space | .tray | .larder | .mirror => true
  | _ => false
/-- Is a request held on its crate, or behind one that is? -/
def tierHeld (t : Tx) (s : State) : Bool :=
  (tierWaits t.wait && (t.wait != .mirror || s.vers.mirror.rel == .lost)) ||
  (t.wait == .line && s.txn.txs.any (fun x => x.id != t.id && tierWaits x.wait &&
    x.parts.any (fun p => p.res.isNone && t.parts.any (fun q => q.line == p.line && q.res.isNone))))
/-- A MIRROR change that is given up is not applied here, and its crates are copied at the next SYNC; of a region or an OWN
command nothing has been applied yet (R130). -/
def undoChange (t : Tx) (cks : List Nat) (s : State) : State :=
  let cks := if isChange t.kind then cks else (extCrates t.ext s).map (fun c => crateKey t.ext 0 (ckIdx c.1))
  let s := each t.parts.reverse (undoPart t) s
  let s := match t.kind with
    | .own _ _ obj _ => onlyIf t.jseq.isSome (fun s => (journalOwn (ownKey t.ext obj s) s).2) s
    | _ => s
  let lines := t.parts.map (·.line)
  let free (lk : Nat) : Bool := lines.contains lk && !s.txn.txs.any (fun x => x.id != t.id && x.jlines.contains lk)
  { s with vers := { s.vers with mirror := { s.vers.mirror with
      marked := cks.foldl ladd s.vers.mirror.marked,
      jpend := s.vers.mirror.jpend.filter (fun lk => !free lk) } } }
/-- Complete a held request with TIER_TIMEOUT; the fetch goes on (R77). A MIRROR change is taken back (R130). -/
def tierTimeout (id : Nat) (s : State) : State :=
  match txOf id s with
  | none =>
    -- a request of an engine or a built-in sliver
    match s.txn.held.find? (fun h => h.id == id) with
    | none => s
    | some h =>
      if !tierWaits h.wait || h.res.isSome then s
      else
        let s := endHeld h .tierTimeout (bump kTierTimeouts (timeTo (h.since + rget kTierTimeout s * nsMs) s))
        onlyIf (h.who == .home h.item) (gangStart h.item) s
  | some t =>
    if !tierHeld t s then s
    else
      let s := bump kTierTimeouts (timeTo (t.since + rget kTierTimeout s * nsMs) s)
      let cks := (t.parts.map (fun p => lkCrate p.line)).eraseDups
      let s := if t.wait = .mirror then undoChange t cks s else s
      let s := match t.src with | .port p => onlyIf t.ans.isNone (countExec p t.seq) s | _ => s
      completeTx t .tierTimeout [] s
def execTierTimeout (tx : Nat) (s : State) : Res := .next (settle (tierTimeout tx s))

/-! ### Retired slots (R92 to R94) -/

/-- Has a slot shown its first uncorrected error, or its third corrected one within 24 h (R92)? -/
def slotFails (tier loc : Nat) (s : State) : Bool :=
  let es := s.tiers.slotErrs.filter (fun e => e.tier == tier && e.loc == loc)
  es.any (·.hard) || decide (3 ≤ (es.filter (fun e => decide (s.now < e.at_ + day24))).length)
/-- A slot with a recurring error leaves placement: its uncorrected lines are poisoned, and its data moves out before it is
retired. -/
def retireSlot (tier loc : Nat) (bad : List Nat) (s : State) : State :=
  let bad := bad.filter (fun i => decide (i < 512))
  if s.tiers.retired.contains (tier, loc) || s.tiers.retiring.contains (tier, loc) ||
      (tier != tierShelf && tier != tierCellar) || (bad.isEmpty && !slotFails tier loc s) then s
  else
    let s := match s.tiers.crates.find? (fun c => c.2.tier == tier && c.2.loc == loc) with
      | none => s
      | some c => each bad (fun i => poisonLine (c.1 * 512 + i) causeCode) s
    startRetires { s with tiers := { s.tiers with
      retiring := s.tiers.retiring ++ [(tier, loc)],
      slotErrs := s.tiers.slotErrs.filter (fun e => !(e.tier == tier && e.loc == loc)) } }
def execCrateSlotRetire (tier loc : Nat) (uncorrected : List Nat) (s : State) : Res :=
  .next (settle (retireSlot tier loc uncorrected s))

/-! ### Loss of a tray (R88 to R91) -/

/-- The vault copy of a DURABLE crate becomes its content again. -/
def restoreImage (ck : Nat) (s : State) : State :=
  match s.tiers.images.find? (fun i => i.crate == ck) with
  | none => s
  | some i =>
    let s := zeroCrate ck s
    { s with mem := i.bytes.foldl (fun m b => memPut m (ck * crateBytes + b.1) b.2) s.mem,
             tiers := { s.tiers with poison := s.tiers.poison ++ i.poison.map (fun x => ck * 512 + x) } }

/-- A crate of a SCRUBBING extent is gone; its slot stays taken until the extent is FREE (R52). -/
def keepCrate (ext ck : Nat) (s : State) : State :=
  let c := crateOf ck s
  { s with tiers := { s.tiers with crates := tdel s.tiers.crates ck, kept := s.tiers.kept ++ [(ext, c.tier, c.loc)] } }
/-- What becomes of a crate whose DRAM copy is lost (R89). -/
def loseCrate (tray ck : Nat) (s : State) : State :=
  let c := crateOf ck s
  if c.vcopy && (!c.dirty || crateExt ck fDurable s) then
    let s := if c.dirty then restoreImage ck s else s
    regroup ck (modCrate ck (fun c => { c with tier := tierVault, loc := 0, dirty := false, moving := false, redirty := false }) s)
  else
    let dest := match bestTray (fun t => t != tray && trayOk (crateJob ck s) t s) s with
      | some t => pickTraySlot t s
      | none => none
    let s := dropCopy ck s
    let c := { c with moving := false, redirty := false, dirty := true, vcopy := false, vtray := 0, vloc := 0 }
    let s := match dest with
      | some l => setCrate ck { c with tier := tierCellar, loc := l } s
      | none => setCrate ck { c with tier := 0, loc := 0 } s
    poisonCrate ck causeTray (regroup ck s)

def loseTray (t : Nat) (s : State) : State :=
  let x := trayOf t s
  let held := (s.tiers.crates.filter (fun c => c.2.tier == tierCellar && locTray c.2.loc == t)).map (·.1)
  let here (tier loc : Nat) : Bool := (tier == tierCellar && locTray loc == t) || (tier == tierVault && loc / 2 ^ 44 == t)
  let gone := (s.tiers.moves.filter (fun m => held.contains m.crate || here m.tier m.loc)).map (·.crate)
  let s := setTray t { x with lost := !trayUp t s, rebuilding := true } s
  let s := each gone abandonMove s
  let zeros := s.tiers.cmds.filterMap (fun c => match c.why with | .zero _ ck => if c.tray = t then some ck else none | _ => none)
  let read (ck : Nat) : Bool := s.tiers.cmds.any (fun c => c.tray == t && c.why == .fetch ck)
  let s := each zeros (fun ck s => keepCrate (ckExt ck) ck s) s
  let s := { s with tiers := { s.tiers with
    cmds := s.tiers.cmds.filter (fun c => c.tray != t),
    sources := s.tiers.sources.filter (fun f => !here f.tier f.loc),
    fetches := s.tiers.fetches.map (fun f => if here f.tier f.loc || read f.crate then { f with tier := 0, loc := 0 } else f),
    crates := s.tiers.crates.filter (fun c => !zeros.contains c.1) } }
  let s := each (held.filter (fun ck => !zeros.contains ck)) (loseCrate t) s
  let s := ledger 0x5000 ldTrayLost clsData (t * 2 ^ 252) s
  startFlushes (startRetires (retryFetches (raise 0x5000 0x03 1 t s)))

/-- A tray link has stayed out of ACTIVE for 1 s, or the bridge reports loss of its DRAM. -/
def trayLost (t : Nat) (s : State) : State :=
  if !trayServes t s then s
  else
    let l := linkOf (trayLink t) s
    loseTray t (if l.st = .active then s else timeTo (l.downAt + nsS) s)
def execTrayLost (tray : Nat) (s : State) : Res := .next (settle (trayLost tray s))

/-- The groups that a lost tray's reserve held are rebuilt from the journals, and kept elsewhere (R91). -/
def mapRebuilt (t : Nat) (s : State) : State :=
  if !(trayOf t s).rebuilding then s
  else
    let gs := (s.tiers.groupTray.filter (fun g => g.2 == t)).map (·.1)
    let back (c : Nat × Crate) : Nat × Crate := match tget s.tiers.journals c.1 with
      | some (u, a) => if gs.contains (groupOf c.1) && c.2.tier == tierVault then (c.1, { c.2 with vtray := u, vloc := a }) else c
      | none => c
    let s := modTray t (fun x => { x with rebuilding := false }) s
    let s := { s with tiers := { s.tiers with crates := s.tiers.crates.map back,
                                              groupTray := s.tiers.groupTray.filter (fun g => g.2 != t) } }
    each gs (fun g => regroup (g * 32)) s
def execCrateMapRebuilt (tray : Nat) (s : State) : Res := .next (settle (mapRebuilt tray s))

/-! ### Tray responses (R79, R80, R355, Table 11.10) -/

/-- What an IDENTIFY says of a tray: geometry from the first ONFI parameter page (PRESUMED, log 45). -/
def trayIdentified (d : List Byte) (t : Tray) : Tray :=
  let v := natOf (d.take 64)
  let page := d.drop 64
  let pw (o n : Nat) : Nat := natOf ((page.drop o).take n)
  let chans := fld v 335 328
  let luns := fld v 327 320
  -- the page's blocks are counted in one plane; a block here is the four of one row (R82)
  let all := pw 96 4 * chans * luns
  let usable := pw 80 4 == 16384 && decide (4 ≤ 2 ^ (pw 113 1 % 16)) && decide (4 ≤ pw 96 4) && decide (0 < pw 92 4) &&
    decide (0 < chans) && decide (0 < luns)
  { t with present := true, lost := false, dramGib := fld v 351 336, serial := fld v 479 352, chans := chans, luns := luns,
           lunBlocks := pw 96 4 / 4, pages := pw 92 4, blocksAll := pw 96 4 / 4 * chans * luns,
           nandGb := all * pw 92 4 * pw 80 4 / 10 ^ 9, usableNand := usable }

/-- A tray is identified: a new serial means the previous tray is lost and the figures change (R355). -/
def identifyTray (t : Nat) (d : List Byte) (s : State) : State :=
  let old := trayOf t s
  let new := trayIdentified d old
  let s := modLink (trayLink t) (fun l => { l with trayIdent := natOf (d.take 64) }) s
  let known := tgetD s.sec.flash.serials t 0
  if known = new.serial then setTray t new s
  else
    let s := if trayServes t s then loseTray t s else s
    let s := setTray t { new with worn := false, blocksBad := 0, rebuilding := false } s
    let flash := { s.sec.flash with serials := tput s.sec.flash.serials t new.serial }
    let s := { s with sec := { s.sec with flash := flash },
                      tiers := { s.tiers with blocks := s.tiers.blocks.filter (fun b => b.tray != t),
                                              logs := s.tiers.logs.filter (fun l => l.1 / 256 != t) } }
    let s := republish kVaultUsable (vaultGranules s) (republish kCellarUsable (cellarGranules s) s)
    raise 0x2200 0x01 1 t s

def isDiscovery (w : TrayWhy) : Bool := match w with | .discovery _ => true | _ => false
/-- The next step of discovery: IDENTIFY, HEALTH, FENCE; then the link is ACTIVE. -/
def discover1 (t step : Nat) (s : State) : State :=
  let s := modLink (trayLink t) (fun l => { l with discovery := step }) s
  match step with
  | 0 => trayCmd t opIdentify 0 0 0 [] (.discovery 0) s
  | 1 => trayCmd t opHealth 0 0 0 [] (.discovery 1) s
  | 2 => trayCmd t opTrayFence 0 0 0 [] (.discovery 2) s
  | _ =>
    let s := modLink (trayLink t) (fun l => { l with st := .active, activeAt := s.now }) s
    -- commands whose answer a fall of the link has lost go out again
    let s := each ((s.tiers.cmds.filter (fun c => c.tray == t && !isDiscovery c.why)).take trayOpenMax) sendTray s
    raise 0x2000 0x01 1 (trayLink t) s

/-- A move's program failed: its block is retired and the copy goes to another address (R86). -/
def reprogram (ck : Nat) (s : State) : State :=
  match s.tiers.moves.find? (fun m => m.crate == ck) with
  | none => s
  | some m =>
    let t := m.loc / 2 ^ 44
    let s := retireBlock t (blockOf t (m.loc % 2 ^ 44) s) s
    match (match pickVaultTray ck s with | some u => vaultLoc u s | none => (none, s)) with
    | (none, s) => abandonMove ck s
    | (some loc, s) =>
      let s := { s with tiers := { s.tiers with moves := s.tiers.moves.map (fun x => if x.crate = ck then { x with loc := loc } else x) } }
      moveCmds ck tierVault loc s

/-- Send a command that failed once more. -/
def againTray (c : TrayCmd) (s : State) : State := trayCmd c.tray c.op c.flags c.count c.addr c.data c.why s
/-- What a completed tray command does. -/
def trayDone (c : TrayCmd) (ok : Bool) (corrected : Nat) (d : List Byte) (s : State) : State :=
  match c.why with
  | .fetch ck =>
    let s := onlyIf (c.op == opNandRead) (countRead c.tray c.addr) s
    match s.tiers.fetches.find? (fun f => f.crate == ck) with
    | none => s
    | some f =>
      if ok then
        -- a slot on another tray: the data crosses the second link too (R606)
        onlyIf (c.op == opNandRead && locTray f.loc != c.tray)
          (trayCmd (locTray f.loc) opDramWrite 0 512 (trayAddr f.loc) (crateCipher ck s) (.fetch ck)) s
      else if c.op != opNandRead then againTray c s
      else
        let s := { s with tiers := { s.tiers with fetches := s.tiers.fetches.map (fun x =>
          if x.crate = ck then { x with level := x.level + 1 } else x) } }
        againTray c (trayCmd c.tray opSetRetry 0 (f.level + 1) c.addr [] .retry s)
  | .move ck =>
    if !movingCrate ck s then s
    else if c.op = opNandProgram then
      if ok then journalMap ck (c.tray * 2 ^ 44 + c.addr) none s else reprogram ck s
    else if ok then s else againTray c s
  | .zero ext ck => if ok then keepCrate ext ck s else againTray c s
  | .scan ck id level => scanBack ck c.tray id level corrected ok c.addr (countRead c.tray c.addr s)
  | .journal ck loc old =>
    if !ok then againTray c s
    else
      let s := { s with tiers := { s.tiers with journals := tput s.tiers.journals ck (loc / 2 ^ 44, loc % 2 ^ 44) } }
      match old with
      | none => s
      | some a =>
        let x := crateOf ck s
        let s := if x.vcopy && x.vtray == c.tray && x.vloc == a then
            noteCopy ck loc (modCrate ck (fun x => { x with vloc := loc % 2 ^ 44 }) s)
          else s
        eraseEmpty s
  | .discovery step => if ok then discover1 c.tray (step + 1) (if step = 0 then identifyTray c.tray d s else s) else discover1 c.tray step s
  | .relocate ck loc counted =>
    let s := countRead c.tray c.addr s
    if !ok then relocateCopy counted ck (retireBlock c.tray (blockOf c.tray (loc % 2 ^ 44) s) s)
    else
      let x := crateOf ck s
      if x.vcopy && x.vtray == c.tray && x.vloc == c.addr then
        journalMap ck loc (some c.addr) (onlyIf counted (bump kVaultRelocations) s)
      else eraseEmpty s
  | .erase id =>
    if ok then
      let b := blockOfTray c.tray id s
      setBlock { b with erases := b.erases + 1, reads := 0, written := false, reclaim := false } s
    else retireBlock c.tray id s
  | .retry => s

/-- A response frame of a tray bridge; data of several frames is joined (R79, R80). -/
def trayResponse (r : TrayRsp) (s : State) : State :=
  let t := r.link - 192
  let mine (c : TrayCmd) : Bool := c.tray == t && c.tag == r.tag && c.op == r.op
  match s.tiers.cmds.find? mine with
  | none => s
  | some c =>
    if r.link < 192 then s
    else if r.more then
      { s with tiers := { s.tiers with cmds := s.tiers.cmds.map (fun x => if mine x then { x with got := x.got ++ r.data } else x) } }
    else
      -- the first command beyond the 1,024 open ones goes out now
      let next := (s.tiers.cmds.filter (fun x => x.tray == t))[trayOpenMax]?
      let s := { s with tiers := { s.tiers with cmds := s.tiers.cmds.filter (fun x => !mine x) } }
      let s := match next with
        | some n => sendTray n s
        | none => s
      trayDone c (statusOf r.status == .done) r.corrected (c.got ++ r.data) s

/-! ### FLUSH (R72 to R74, R115) -/

def flushResult (st : Status) (seq ext left : Nat) (s : State) : State :=
  rset kFlushResult (pack [(statusCode st, 56), (seq, 48), (ext, 32), (left % 2 ^ 32, 0)]) s
/-- A write of FLUSH_CMD. -/
def commitFlush (v : Nat) (s : State) : Status × State :=
  let ext := fld v 31 16
  let seq := fld v 15 8
  let ok := match extOf ext s with | some e => e.st == .active && fDurable e | none => false
  if !ok then (.done, flushResult .refusedFormat seq ext 0 s)
  else
    let s := writeBatchesOf (fun lk => lkExt lk == ext) s
    let ver := (regionOfExt ext s).map (fun r => r.2.cur)
    let f : FlushJob := { ext := ext, seq := seq, stage := 0, left := [], version := ver }
    (.done, startFlushes { s with tiers := { s.tiers with flushes := s.tiers.flushes ++ [f] } })
/-- The running FLUSH ends: every crate is written or clean, or a tray fault, or the end of its extent, stops it. -/
def flushDone (fault : Bool) (s : State) : State :=
  match s.tiers.flushes with
  | [] => s
  | f :: r =>
    let left := f.left.filter (fun ck => (crateOf ck s).dirty && (crateOf ck s).tier != 0)
    let gone := !extActive f.ext s
    if (!left.isEmpty || f.stage != 2) && !fault && !gone then s
    else
      let left := if f.stage = 2 then left else flushCrates f.ext f.version s
      let s := flushResult (if left.isEmpty && f.stage = 2 then .done else .part) f.seq f.ext left.length
        { s with tiers := { s.tiers with flushes := r } }
      let s := match regionOfExt f.ext s with | some (rid, _) => retireVersions rid s | none => s
      startFlushes s
def execFlushDone (trayFault : Bool) (s : State) : Res := .next (settle (flushDone trayFault s))

/-- A write of ATTIC_SIZE (R55). -/
def commitAtticSize (v : Nat) (s : State) : Status × State :=
  if 512 < v || v % 32 != 0 then (.refusedFormat, s) else (.done, rset kAtticSize v s)

/-! ### The placement epoch (R59, R60, R70, R227) -/

/-- A planned move: crate, destination tier, size class and generation in the attic. -/
structure Planned where
  crate : Nat
  tier : Nat
  cls : Nat
  gen : Nat
  deriving DecidableEq, Repr

/-- The plan as it grows: free bytes as they will be, moves so far in order, the loft's state. -/
structure Plan where
  sf : Int
  af : Int
  cf : Int
  moves : List Planned
  stop : Bool
  s : State

def planned (p : Plan) (ck : Nat) : Bool := p.moves.any (fun m => m.crate == ck)
def planMove (p : Plan) (ck tier cls gen : Nat) : Plan :=
  let c := crateOf ck p.s
  let b : Int := crateBytes
  let give (t : Nat) : Int := if c.tier = t then b else 0
  let take (t : Nat) : Int := if tier = t then b else 0
  let af := p.af + (if c.tier = tierAttic then (locClass c.loc : Int) * 8192 else 0) - (if tier = tierAttic then (cls : Int) * 8192 else 0)
  { p with sf := p.sf + give tierShelf - take tierShelf, cf := p.cf + give tierCellar - take tierCellar, af := af,
           moves := p.moves ++ [{ crate := ck, tier := tier, cls := cls, gen := gen }] }
/-- demote of the pseudocode. -/
def planDemote (p : Plan) (ck : Nat) : Plan :=
  let c := crateOf ck p.s
  if rget kAtticMinHeat p.s ≤ c.heat && !c.incomp && !crateExt ck fCoded p.s then
    let (cls, gen, s) := atticTrial ck p.s
    let p := { p with s := s }
    if cls = 0 then planMove { p with s := modCrate ck (fun c => { c with incomp := true }) s } ck tierCellar 0 0
    else if (cls : Int) * 8192 ≤ p.af then planMove p ck tierAttic cls gen
    else planMove p ck tierCellar 0 0
  else planMove p ck tierCellar 0 0
def planShelfVictim (p : Plan) : Option (Nat × Crate) :=
  coldest ((demotable tierShelf fLatency p.s).filter (fun c => !planned p c.1))

/-- Thresholds are hundredths of a per cent. -/
def lowMark (key base : Nat) (s : State) : Int := (rget key s * base / 10000 : Nat)

def planPromote (low : Int) (p : Plan) (c : Nat × Crate) : Plan :=
  if p.stop || planned p c.1 then p
  else if p.sf < low then
    match planShelfVictim p with
    | none => { p with stop := true }
    | some v => if c.2.heat < v.2.heat * 2 then { p with stop := true } else planMove (planDemote p v.1) c.1 tierShelf 0 0
  else planMove p c.1 tierShelf 0 0

/-- while shelf_free < SHELF_LOW; the count bounds the loop. -/
def planShelf (low : Int) : Nat → Plan → Plan
  | 0, p => p
  | n + 1, p =>
    if low ≤ p.sf then p
    else match planShelfVictim p with
      | none => p
      | some v => planShelf low n (planDemote p v.1)
def planAttic (low : Int) : Nat → Plan → Plan
  | 0, p => p
  | n + 1, p =>
    if low ≤ p.af then p
    else match coldest ((demotable tierAttic (fun _ => false) p.s).filter (fun c => !planned p c.1)) with
      | none => p
      | some v => planAttic low n (planMove p v.1 tierCellar 0 0)

/-- Crates ranked hottest first, ties to the lower extent and index. -/
def insertHot (a : Nat × Crate) : Tbl Crate → Tbl Crate
  | [] => [a]
  | b :: r => if b.2.heat < a.2.heat || (b.2.heat == a.2.heat && decide (a.1 < b.1)) then a :: b :: r else b :: insertHot a r
def rankHot (l : Tbl Crate) : Tbl Crate := l.foldl (fun r c => insertHot c r) []

/-- Crates that lie where isolation keeps their job, or another's, out (R544). -/
def misplaced (c : Nat × Crate) (s : State) : Bool :=
  let job := crateJob c.1 s
  (c.2.tier == tierShelf && !stackOk job (locStack c.2.loc) s) || (c.2.tier == tierCellar && !trayOk job (locTray c.2.loc) s) ||
  (c.2.tier == tierVault && !trayOk job c.2.vtray s)

/-- The moves that the rules ask for, those carried over first. -/
def planEpoch (s : State) : Plan :=
  let p : Plan := { sf := shelfFree s, af := atticFree s, cf := cellarFree s, moves := [], stop := false, s := s }
  let live (ck : Nat) (s : State) : Bool := !(crateOf ck s).moving && (crateOf ck s).tier != 0 && extActive (ckExt ck) s
  -- carried over (R60); one for the attic is tried again under the codebook as it stands (R69)
  let p := s.tiers.deferred.foldl (fun p d =>
    if live d.1 p.s && (crateOf d.1 p.s).tier != d.2 then
      (if d.2 = tierAttic then planDemote p d.1 else planMove p d.1 d.2 0 0)
    else p) p
  -- misplaced crates of isolated jobs (R544)
  let p := (s.tiers.crates.filter (fun c => misplaced c s && live c.1 s && c.2.tier != tierVault)).foldl (fun p c =>
    if planned p c.1 then p else planMove p c.1 c.2.tier 0 0) p
  let shelfLow := lowMark kShelfLow (shelfUsableB s) s
  let hot := (demotable tierCellar (fun _ => false) s).filter (fun c => decide (rget kPromoteHeat s ≤ c.2.heat))
  let p := (rankHot hot).foldl (planPromote shelfLow) p
  let p := planShelf shelfLow s.tiers.crates.length p
  let p := planAttic (lowMark kAtticLow (atticB s) s) s.tiers.crates.length p
  let cellarLow := lowMark kCellarLow (cellarUsableB s) s
  (rankCold (demotable tierCellar keepVault p.s)).foldl (fun p c =>
    if planned p c.1 then p
    else if rget kVaultIdle s ≤ c.2.idle || p.cf < cellarLow then planMove p c.1 tierVault 0 0 else p) p

/-- Does a FLUSH that runs or waits still concern a crate (R68)? -/
def flushConcerns (ck : Nat) (s : State) : Bool :=
  s.tiers.flushes.any (fun f => f.ext == ckExt ck && (if f.stage = 2 then f.left.contains ck else (crateOf ck s).dirty))
/-- Begin a planned move; one that a FLUSH comes before is carried over (R68). -/
def beginPlanned (m : Planned) (s : State) : State :=
  if (crateOf m.crate s).moving || fetching m.crate s then s
  else if flushConcerns m.crate s then
    { s with tiers := { s.tiers with deferred := s.tiers.deferred ++ [(m.crate, m.tier)] } }
  else if m.tier = tierAttic then
    match pickAttic m.cls s with
    | some l => startMoveTo m.crate tierAttic l m.gen .place s
    | none => (moveTo m.crate tierCellar .place s).2
  else (moveTo m.crate m.tier .place s).2

/-- Train a new generation for jobs whose trials failed for the most part, at most once per 64 epochs (R227, R70). -/
def retrain (s : State) : State :=
  each s.tiers.atticTrials (fun x s =>
    let (job, at_, n, f) := x
    let s := { s with tiers := { s.tiers with atticTrials := tput s.tiers.atticTrials job (at_, 0, 0) } }
    match jobOf job s with
    | none => { s with tiers := { s.tiers with atticTrials := tdel s.tiers.atticTrials job } }
    | some (slot, _) =>
      let gens := match bookOf (atticBook slot) s with | some b => if b.dropping then 2 else b.gens.length | none => 2
      if n < 2 * f && gens < 2 && at_ + 64 ≤ s.tiers.epoch then
        let s := bump kAtticRetrains (trainAttic slot job s)
        { s with tiers := { s.tiers with
          atticTrials := tput s.tiers.atticTrials job (s.tiers.epoch, 0, 0),
          crates := s.tiers.crates.map (fun c => if crateJob c.1 s = job then (c.1, { c.2 with incomp := false }) else c) } }
      else s) s

/-- Attic crates of an older generation are coded again under the newest (R227). -/
def recodeAttic (n : Nat) (s : State) : State :=
  let old (c : Nat × Crate) : Bool := c.2.tier == tierAttic && !c.2.moving && !fetching c.1 s && extActive (ckExt c.1) s &&
    !flushConcerns c.1 s &&
    (match jobOf (crateJob c.1 s) s with
     | some (slot, _) => match (bookOf (atticBook slot) s).bind cbNewest with | some g => g.gen != c.2.agen | none => false
     | none => false)
  each (((s.tiers.crates.filter old).map (·.1)).take n) (fun ck s =>
    let (cls, gen, s) := atticTrial ck s
    if cls = 0 then (moveTo ck tierCellar .place (modCrate ck (fun c => { c with incomp := true }) s)).2
    else match pickAttic cls s with
      | some l => startMoveTo ck tierAttic l gen .place s
      | none => s) s

/-- Isolated jobs whose crates all lie where they may become ACTIVE (R544). -/
def settleIso (s : State) : State :=
  each (s.pool.jobs.filter (fun e => e.2.iso.enable && e.2.iso.state == 1)) (fun e s =>
    let mine (c : Nat × Crate) : Bool := misplaced c s
    if s.tiers.crates.any mine then s
    else raise 0xA000 0x04 2 e.2.id (setJob e.1 { e.2 with iso := { e.2.iso with state := 2 } } s)) s

/-- Heat halves; on every 16th epoch a cold crate's IDLE rises; on every 64th INCOMP clears. -/
def epochTick (n : Nat) (s : State) : State :=
  { s with tiers := { s.tiers with
      epoch := n,
      crates := tmap s.tiers.crates (fun _ c =>
        let h := c.heat / 2
        { c with heat := h, idle := if n % 16 = 0 && h = 0 then min 255 (c.idle + 1) else c.idle,
                 incomp := c.incomp && n % 64 != 0 }) } }

/-- The end of a placement epoch; budget moves fit in its bandwidth share. -/
def placementEpoch (budget : Nat) (s : State) : State :=
  let n := s.tiers.epoch + 1
  let p := planEpoch (retrain (startFlushes (startRetires s)))
  let now := p.moves.take budget
  let later := p.moves.drop budget
  let s := each now beginPlanned { p.s with tiers := { p.s.tiers with deferred := [] } }
  let s := { s with tiers := { s.tiers with deferred := s.tiers.deferred ++ later.map (fun m => (m.crate, m.tier)) } }
  let s := recodeAttic (budget - now.length) (bumpN kMovesDeferred later.length s)
  settleBooks (settleIso (epochTick n s))
def execPlacementEpoch (budget : Nat) (s : State) : Res := .next (settle (placementEpoch budget s))

end Sys2Proof.Machine
end

