-- ==== Sys2Proof/Machine/Pool.lean ====
section
/-!
DEFINITION. The commands of 02_pool_memory.md: what a committed write of one of its objects does, and its events.
A commit answers the STATUS of the service response; an object with a result object answers DONE and posts the outcome
there (R604).
-/
namespace Sys2Proof.Machine

/-! ### Isolation's conditions on other writes (R543) -/

/-- RATE of a port's shaper for a class. -/
def shaperRate (p cls : Nat) (s : State) : Nat := fld (rgeti kShaper (p * 8 + cls) s) 127 96
/-- Ports whose bound partner is a member of a job. -/
def jobPorts (j : Job) (s : State) : List Nat :=
  (List.range fabricPorts).filter (fun p => match boundPartner p s with
    | some q => (memberOf j q).isSome
    | none => false)
/-- What R543 asks of an isolated job. -/
def isoHolds (slot : Nat) (j : Job) (s : State) : Bool :=
  !j.closing && j.hens.exclusive &&
  (jobPorts j s).all (fun p => portJobs p s == [slot] && (List.range 8).all (fun c => shaperRate p c s != 0))
/-- Every isolated job keeps its conditions. -/
def isoAll (s : State) : Bool := s.pool.jobs.all (fun e => !e.2.iso.enable || e.2.closing || isoHolds e.1 e.2 s)

/-! ### Jobs and members -/

abbrev startReady : Nat := 2
def jobsMax : Nat := 4096
def henRecDflt : HenRec := { min := 0, max := 4608, larders := 0xFFF, exclusive := false, workMax := 4096 }
def isoOff : Iso := { enable := false, latency := 0, trays := 0, state := 0, late := 0 }
def jobOfRecord (v : Nat) : Job :=
  { id := fld v 255 240, slots := fld v 239 224, quotaShelf := fld v 191 160, quotaByte := fld v 159 128,
    quotaTotal := fld v 127 96, members := [], closing := false, hens := henRecDflt, iso := isoOff }

/-- JOB_OPEN (R19, R512, R541, R549). -/
def jobOpenStatus (v : Nat) (s : State) : Status :=
  if rget kStartState s != startReady then .retry
  else if rget kDebugState s != 0 then .denied
  else if 15 < homeIndex s then .refusedFormat
  else if (jobOf (fld v 255 240) s).isSome then .refusedFormat
  else if (freeKey s.pool.jobs jobsMax).isNone then .refusedQuota
  else .done
def commitJobOpen (v : Nat) (s : State) : Status × State :=
  match jobOpenStatus v s, freeKey s.pool.jobs jobsMax with
  | .done, some slot => (.done, post16 kJobResult .done (setJob slot (jobOfRecord v) s))
  | st, _ => (.done, post16 kJobResult st s)

def commitJobClose (v : Nat) (s : State) : Status × State :=
  if isActive v s then (.done, post16 kJobResult .done (closeJob v s)) else (.done, post16 kJobResult .refusedFormat s)

/-- JOB_SLOTS (R18). -/
def jobSlotsOk (job mask : Nat) (s : State) : Bool :=
  isActive job s &&
  !s.pool.extents.any (fun e => e.2.job == job && !isShadow e.1 s && !mask.testBit e.2.slot) &&
  !s.coh.windows.any (fun w => winValid w.2 && winJob w.2 == job && !mask.testBit (winSlot w.2))
def commitJobSlots (v : Nat) (s : State) : Status × State :=
  let job := fld v 31 16
  let mask := fld v 15 0
  if jobSlotsOk job mask s then (.done, post16 kJobResult .done (modJob job (fun j => { j with slots := mask }) s))
  else (.done, post16 kJobResult .refusedFormat s)

/-- Members named in an access list. -/
def aclNames (l : Nat) (s : State) : List Nat := bitsOf ((aclOf l s).1 ||| (aclOf l s).2) 256
/-- The partner of an extent's host key, if its key is one. -/
def hostPartner (e : Extent) (s : State) : Option Nat :=
  match keyOf e.key s with
  | some k => if k.host then some k.owner else none
  | none => none
/-- Does a list name only a partner in a job (R38)? -/
def namesOnly (job partner : Nat) (names : List Nat) (s : State) : Bool :=
  match jobOf job s with
  | some (_, j) => names.all (fun m => partnerOf j m == some partner)
  | none => false

/-- MEMBER_ADD (R20, R604). -/
def memberAddOk (job m p : Nat) (s : State) : Bool :=
  match activeJob job s with
  | none => false
  | some (slot, j) =>
    (partnerOf j m).isNone && (memberOf j p).isNone &&
    !s.pool.extents.any (fun e => e.2.job == job && (aclNames e.2.acl s).contains m &&
      (match hostPartner e.2 s with | some q => q != p | none => false)) &&
    isoAll (setJob slot { j with members := j.members ++ [(m, p)] } s)
def commitMemberAdd (v : Nat) (s : State) : Status × State :=
  let job := fld v 63 48
  let m := fld v 47 40
  let p := fld v 35 24
  if memberAddOk job m p s then
    (.done, journalAny jMember 0 0 0 (job * 2 ^ 16 + m) p []
      (modJob job (fun j => { j with members := j.members ++ [(m, p)] }) s))
  else (.refusedFormat, s)

/-- Is a binding one of a shadow extent's region, which only its primary's journal changes? -/
def bindShadow (b : Binding) (s : State) : Bool :=
  match tget s.vers.regions b.region with | some r => isShadow r.ext s | none => false
/-- What a member's removal ends (R20, R114, Table 6.3, chapter 08). -/
def removeMember (job m : Nat) (s : State) : State :=
  let p := match jobOf job s with | some (_, j) => (partnerOf j m).getD 0 | none => 0
  let s := clearBindings (fun b => b.job == job && !bindShadow b s && b.member == bindIndex b.region m p s) s
  let s := modJob job (fun j => { j with members := j.members.filter (fun x => x.1 != m) }) s
  let s := { s with vers := { s.vers with mirror := { s.vers.mirror with shadows := s.vers.mirror.shadows.map (fun h =>
    if h.takenOver then { h with members := h.members.filter (fun x => !(x.1 == job && x.2.2 == p)) } else h) } } }
  let qs := (s.work.queues.filter (fun q => q.2.job == job && q.2.member == m && q.2.st == .active)).map (·.1)
  let s := collMemberGone job m (each qs (fun q => queueError q false) s)
  journalAny jMember 0 0 0 (job * 2 ^ 16 + m) (2 ^ 12 + p) [] s
def commitMemberRemove (v : Nat) (s : State) : Status × State :=
  let job := fld v 31 16
  let m := fld v 15 8
  match activeJob job s with
  | none => (.refusedFormat, s)
  | some (_, j) => if (partnerOf j m).isSome then (.done, removeMember job m s) else (.refusedFormat, s)

/-! ### EXTENT_CMD (Table 2.7) -/

def ecOp (v : Nat) : Nat := fld v 255 248
def ecSeq (v : Nat) : Nat := fld v 247 240
def ecExt (v : Nat) : Nat := fld v 239 224
def ecJob (v : Nat) : Nat := fld v 223 208
def ecBase (v : Nat) : Nat := fld v 207 184
def ecLen (v : Nat) : Nat := fld v 183 160
def ecSlot (v : Nat) : Nat := fld v 159 156
def ecFlags (v : Nat) : Nat := fld v 155 146
def ecMirror (v : Nat) : Nat := fld v 145 142
def ecAcl (v : Nat) : Nat := fld v 141 128
def ecKey (v : Nat) : Nat := fld v 127 116

def extentResult (st : Status) (seq ext gen : Nat) (s : State) : State :=
  rset kExtentResult (pack [(statusCode st, 56), (seq, 48), (ext, 32), (gen, 16)]) s

/-- The entry that an ALLOCATE would make. -/
def newExtent (v gen : Nat) : Extent :=
  { job := ecJob v, base := ecBase v, len := ecLen v, acl := ecAcl v, key := ecKey v, st := .active, slot := ecSlot v,
    flags := ecFlags v, mirrorHome := ecMirror v, gen := gen, drainAt := 0, origin := none }

/-- A combination of Table 2.10. -/
def flagsRefused (e : Extent) (s : State) : Bool :=
  (fDurable e && fScratch e) || (fDurable e && fNoVault e) || (fKv e && fIndex e) || ((fKv e || fIndex e) && fVersioned e) ||
  (fMirror e && fScratch e) || (fMirror e && e.mirrorHome == homeIndex s)

/-- Does an extent's list suit SHARED and its key (R34, R38)? -/
def aclSuits (e : Extent) (l : Nat) (s : State) : Bool :=
  let names := aclNames l s
  (fShared e || decide (names.length ≤ 1)) &&
  (match hostPartner e s with | some p => namesOnly e.job p names s | none => true)

/-- Loaded, and of a scope that fits (R29, R38, R40). -/
def keySuits (e : Extent) (s : State) : Bool :=
  e.key != 0 &&
  (match keyOf e.key s with
   | none => false
   | some k => if k.host then !fShared e && (aclNames e.acl s).length == 1 else k.owner == e.job)

/-- The format checks of an ALLOCATE (R28, R29, R33, R34, R38, R96, R125). -/
def allocFormat (e : Extent) (s : State) : Bool :=
  (match activeJob e.job s with | some (_, j) => j.slots.testBit e.slot | none => false) &&
  e.len != 0 && decide (e.base + e.len ≤ 2 ^ 24) &&
  !s.pool.extents.any (fun x => x.2.job == e.job && x.2.slot == e.slot && decide (x.2.base < e.base + e.len) &&
    decide (e.base < x.2.base + x.2.len)) &&
  !flagsRefused e s && keySuits e s && aclSuits e e.acl s &&
  (!fVersioned e || decide (e.len ≤ 4096)) && (!fMirror e || e.mirrorHome == mirrorPeer s)

/-- The sums of R30 with the extent. The spec does not say what becomes of an ALLOCATE that adds nothing to a sum which is over
its limit already, after a retirement or a lost tray: it is not refused for that sum (DESIGN CHOICE, log 98). -/
def allocFits (e : Extent) (s : State) : Bool :=
  let (a, b, c) := committed s
  let n := extGranules e
  let shelf := rget kShelfUsable s
  let cellar := rget kCellarUsable s
  let vault := rget kVaultUsable s
  (!fLatency e || decide (a + n ≤ shelf)) &&
  (!(fLatency e || fNoVault e || fScratch e) || decide (b + n ≤ shelf + cellar)) &&
  decide (c + n ≤ shelf + cellar + vault)

abbrev noLimit : Nat := 0xFFFFFFFF
/-- Quotas, regions and extent IDs (R31, R96). -/
def allocQuota (e : Extent) (s : State) : Bool :=
  let (a, b, c) := committedOf (fun x => x.job == e.job) s
  let n := extGranules e
  let within (sum q : Nat) : Bool := q == noLimit || decide (sum + n ≤ q)
  (match activeJob e.job s with
   | none => false
   | some (_, j) => (!fLatency e || within a j.quotaShelf) &&
       (!(fLatency e || fNoVault e || fScratch e) || within b j.quotaByte) && within c j.quotaTotal) &&
  (!fVersioned e || decide (s.vers.regions.length < 4096)) && (freeKey s.pool.extents 65536).isSome

def allocStatus (e : Extent) (s : State) : Status :=
  if !allocFormat e s then .refusedFormat
  else if !allocFits e s then .refusedFit
  else if !allocQuota e s then .refusedQuota
  else .done

/-- The next generation of an extent ID. -/
def nextGen (ext : Nat) (s : State) : Nat := (tgetD s.pool.gens ext 0 + 1) % 65536

/-- The extent is made: generation, entry, tables and, where VERSIONED, its region with version 0 (Table 2.8, R24). -/
def makeExtent (ext : Nat) (e : Extent) (s : State) : State :=
  let gen := nextGen ext s
  let s := setExt ext { e with gen := gen } { s with pool := { s.pool with gens := tput s.pool.gens ext gen } }
  let s := match activeJob e.job s with | some (slot, _) => untranslate slot e.slot e.base e.len s | none => s
  if !fVersioned e then s
  else match freeKey s.vers.regions 4096 with
    | none => s
    | some rid => setRegion rid { ext := ext, cur := 0, live := [{ num := 0, forms := [] }], nextForm := 1 } s

/-- An ALLOCATE that needs no mirror, or whose mirror has answered. -/
def allocate (v : Nat) (s : State) : State :=
  let e := newExtent v 0
  match allocStatus e s, freeKey s.pool.extents 65536 with
  | .done, some ext => extentResult .done (ecSeq v) ext (nextGen ext s) (journalExt ext (makeExtent ext e s))
  | st, _ => extentResult st (ecSeq v) 0 0 s

/-- REVOKE (Table 2.8). -/
def revoke (v : Nat) (s : State) : State :=
  let ext := ecExt v
  let gen := tgetD s.pool.gens ext 0
  match extOf ext s with
  | none => extentResult .refusedFormat (ecSeq v) ext gen s
  | some e => extentResult .done (ecSeq v) ext gen (if e.st = .active then revokeExt ext s else s)

/-- SET_ACL (Table 2.8, R34, R38). -/
def setAcl (v : Nat) (s : State) : State :=
  let ext := ecExt v
  let gen := tgetD s.pool.gens ext 0
  match extOf ext s with
  | none => extentResult .refusedFormat (ecSeq v) ext gen s
  | some e =>
    if e.st = .active && aclSuits e (ecAcl v) s then
      extentResult .done (ecSeq v) ext gen (journalExt ext (setExt ext { e with acl := ecAcl v } s))
    else extentResult .refusedFormat (ecSeq v) ext gen s

/-- The key check value of a slot (R538). -/
def keyCheck (k : Key) : Nat :=
  Config.sha512 (([0x50, 0x52, 0x4B, 0x43] : List Byte) ++ bytesOf 32 k.key1 ++ bytesOf 32 k.key2) % 2 ^ 128

/-- What a shadow request carries: the entry, and above it the extent ID and the key check value (log 6). -/
def shadowWord (ext : Nat) (e : Extent) (s : State) : Nat :=
  let kcv := match keyOf e.key s with | some k => keyCheck k | none => 0
  pack [(kcv, 272), (ext, 256), (extEntry e 0 0, 0)]

/-- Ask the mirror for the shadow of the ALLOCATE at the front (R125). -/
def askShadow (v : Nat) (s : State) : State :=
  let ext := (freeKey s.pool.extents 65536).getD 0
  sendCtl (mirrorPeer s) mcShadow (shadowWord ext { newExtent v 0 with gen := nextGen ext s } s)
    { s with vers := { s.vers with mirror := { s.vers.mirror with asked := some ext } } }

/-- Execute EXTENT_CMD records in commit order until one must wait for the mirror. A MIRROR ALLOCATE that the mirror cannot
be asked for, with no live peer port to it, or that still waits when the relation goes LOST, ends with PORT_DOWN: the spec
gives it no status (DESIGN CHOICE, log 99). -/
def runExtents : List Nat → State → State
  | [], s => s
  | v :: r, s =>
    let e := newExtent v 0
    if ecOp v = 1 then
      if fMirror e && allocStatus e s == .done then
        if (peerPort (mirrorPeer s) s).isNone then runExtents r (extentResult .portDown (ecSeq v) 0 0 s)
        else askShadow v { s with vers := { s.vers with mirror := { s.vers.mirror with waiting := v :: r } } }
      else runExtents r (allocate v s)
    else if ecOp v = 2 then runExtents r (revoke v s)
    else if ecOp v = 3 then runExtents r (setAcl v s)
    else runExtents r (extentResult .refusedFormat (ecSeq v) 0 0 s)
/-- The first waiting command is over; the ones behind it run. -/
def resumeExtents (s : State) : State :=
  let r := s.vers.mirror.waiting.drop 1
  runExtents r { s with vers := { s.vers with mirror := { s.vers.mirror with waiting := [], asked := none } } }
def commitExtent (v : Nat) (s : State) : Status × State :=
  let m := s.vers.mirror
  if m.waiting.isEmpty then (.done, runExtents [v] s)
  else (.done, { s with vers := { s.vers with mirror := { m with waiting := m.waiting ++ [v] } } })

/-! ### Access lists and keys -/

/-- ACL_ENTRY (R35, R37, R38): the maps of a list, refused when an extent that uses it would break. -/
def aclWriteOk (l v : Nat) (s : State) : Bool :=
  let t := { s with pool := { s.pool with acls := tput s.pool.acls l (v % 2 ^ 256, v / 2 ^ 256 % 2 ^ 256) } }
  s.pool.extents.all (fun e => e.2.acl != l || aclSuits e.2 l t)
def writeAcl (l v : Nat) (s : State) : State :=
  let old := aclOf l s
  let r := v % 2 ^ 256
  let s := { s with pool := { s.pool with acls := tput s.pool.acls l (r, v / 2 ^ 256 % 2 ^ 256) } }
  let s := journalAny jAcl 0 0 0 l 0 (bytesOf 64 v) s
  -- R401: copies of members that may no longer read are recalled
  each ((bitsOf old.1 256).filter (fun m => !r.testBit m)) (fun m s =>
    if s.pool.extents.any (fun e => e.2.acl == l && extInWindow e.2 s) then queueScan (.acl l m) s else s) s
def commitAcl (l v : Nat) (s : State) : Status × State :=
  if aclWriteOk l v s then (.done, writeAcl l v s) else (.refusedFormat, s)

/-- KEY_DESTROY (R539): slot 0x000 is the device's own (R40). -/
def commitKeyDestroy (v : Nat) (s : State) : Status × State :=
  if v = 0 || 4096 ≤ v || keyUsers v s != 0 then (.refusedFormat, s) else (.done, destroyKey v s)

/-! ### Events -/

def drainedRow (ext : Nat) (s : State) : State :=
  match extOf ext s with
  | some e => if e.st = .draining && inflight ext s == 0 then drainedExt ext false 0 s else s
  | none => s
def execDrained (ext : Nat) (s : State) : Res := .next (settle (drainedRow ext s))
/-- The drain bound is the tier timeout (R49). -/
def drainBound (ext : Nat) (s : State) : State :=
  match extOf ext s with
  | some e =>
    if e.st = .draining && inflight ext s != 0 then
      forceDrain ext (timeTo (e.drainAt + rget kTierTimeout s * nsMs) s)
    else s
  | none => s
def execDrainBoundExpiry (ext : Nat) (s : State) : Res := .next (settle (drainBound ext s))
def execExtentFreed (ext : Nat) (s : State) : Res := .next (settle (if scrubbed ext s then freeExt ext s else s))

end Sys2Proof.Machine
end

