-- ==== Sys2Proof/Machine/WorkCmds.lean ====
section
/-!
DEFINITION. Committed writes of QUEUE_CMD, JOB_HENS and COLL_CMD (06_work_queues.md, 08_reduce_gather_filter.md).
-/
namespace Sys2Proof.Machine

/-! ### QUEUE_CMD (Table 6.1, Table 6.3) -/

def qcOp (v : Nat) : Nat := fld v 255 248
def qcSeq (v : Nat) : Nat := fld v 247 240
def qcQueue (v : Nat) : Nat := fld v 237 224
def qcJob (v : Nat) : Nat := fld v 223 208
def qcMember (v : Nat) : Nat := fld v 207 200
def qcLog2 (v : Nat) : Nat := fld v 199 195
def qcPrio (v : Nat) : Nat := fld v 193 192
def qcQcb (v : Nat) : Nat := fld v 191 136
def qcDesc (v : Nat) : Nat := fld v 135 80
def qcComp (v : Nat) : Nat := fld v 79 24

/-- The three structures of a queue: first address and bytes. -/
def queueAreas (qcb desc comp log2 : Nat) : List (Nat × Nat) :=
  [(qcb, 128), (desc, 128 * 2 ^ log2), (comp, 32 * 2 ^ log2)]
def areasMeet (a b : Nat × Nat) : Bool := decide (a.1 < b.1 + b.2) && decide (b.1 < a.1 + a.2)
/-- No two areas of a list meet. -/
def areasApart : List (Nat × Nat) → Bool
  | [] => true
  | a :: r => !r.any (areasMeet a) && areasApart r
/-- An area lies wholly in one ACTIVE extent that a queue may use, and its producer may read and write there (R180). -/
def areaOk (job member : Nat) (a : Nat × Nat) (s : State) : Bool :=
  match extAt job (fvaSlot a.1) (fvaGran a.1) s with
  | none => false
  | some (ext, e) =>
    let m := rightsMember ext e member ((partnerAt job member s).getD 0) s
    e.st == .active && fLatency e && !fVersioned e && !fKv e && !fIndex e &&
      decide (extOff e a.1 + a.2 ≤ extBytes e) && aclGrants e.acl m false s && aclGrants e.acl m true s

/-- R180, R604. -/
def queueCreateOk (v : Nat) (s : State) : Bool :=
  let areas := queueAreas (qcQcb v) (qcDesc v) (qcComp v) (qcLog2 v)
  let others := (s.work.queues.filter (fun q => q.2.job == qcJob v)).flatMap (fun q =>
    queueAreas q.2.qcb q.2.desc q.2.comp q.2.log2)
  (queueOf (qcQueue v) s).isNone &&
  (match activeJob (qcJob v) s with | some (_, j) => (partnerOf j (qcMember v)).isSome | none => false) &&
  decide (6 ≤ qcLog2 v) && decide (qcLog2 v ≤ 16) && areas.all (fun a => a.1 % 128 == 0) &&
  areas.all (fun a => areaOk (qcJob v) (qcMember v) a s) && areasApart areas &&
  !areas.any (fun a => others.any (areasMeet a))

/-- Write zero over a range of a job's memory: whole lines (R181, R90). -/
def zeroRange (job addr n : Nat) (s : State) : State :=
  match extAt job (fvaSlot addr) (fvaGran addr) s with
  | none => s
  | some (ext, e) =>
    let lo := lineKey ext 0 (extOff e addr / 128)
    let hi := lo + cdiv n 128
    let s := each ((s.tiers.poison ++ s.tiers.failing).filter (fun lk => decide (lo ≤ lk) && decide (lk < hi))) cleanLine s
    let zero : List (Option Byte) := List.replicate 128 (some 0)
    let part (ck : Nat) (s : State) : State :=
      let a := max lo (ck * 512)
      let z := min hi (ck * 512 + 512)
      let s := if (crateOf ck s).tier = 0 then (placeNew ck s).2 else s
      -- a crate that is away takes the zeros when it is back
      let s := if tierWait ck true s != .none then each ((List.range (z - a)).map (a + ·)) (fun lk => ownLine lk 0 zero) s
        else { s with mem := memClear s.mem (a * 128) (z * 128),
                      txn := { s.txn with batches := s.txn.batches.filter (fun b => b.line < a || z ≤ b.line) } }
      let s := markCrate ck (dirtyCrate ck s)
      onlyIf (journalled ext s) (each ((List.range (z - a)).map (a + ·)) (fun lk s => (journalLk lk s).2)) s
    each ((List.range (lkCrate (hi - 1) - lkCrate lo + 1)).map (fun i => lkCrate lo + i)) part s

/-- CREATE accepted: zeroed control block and completion ring, ACTIVE (R181). -/
def queueCreate (v : Nat) (s : State) : State :=
  let x : Queue := { job := qcJob v, member := qcMember v, log2 := qcLog2 v, prio := qcPrio v, qcb := qcQcb v,
                     desc := qcDesc v, comp := qcComp v, st := .active, loadTo := none, paused := false, late := false, lostExt := false }
  let s := zeroRange x.job x.comp (32 * 2 ^ x.log2) (zeroRange x.job x.qcb 128 s)
  qcbPut x offState 1 (qStCode .active) (setQueue (qcQueue v) x s)

/-- A queue command and its outcome. -/
def runQueueCmd (v : Nat) (s : State) : Status × State :=
  let q := qcQueue v
  if qcOp v = 1 then (if queueCreateOk v s then (.done, queueCreate v s) else (.refusedFormat, s))
  else match queueOf q s with
    | none => (.refusedFormat, s)
    | some x =>
      if x.st = .draining then (if qcOp v = 2 then (.done, s) else (.refusedFormat, s))
      else if qcOp v = 2 then (.done, queueDestroy q s)
      else if qcOp v = 3 then (.done, if x.st = .active then s else queueTo q .active s)
      else if qcOp v = 4 then (.done, cancelQueue q true 0 s)
      else if qcOp v = 5 then (.done, setQueue q { x with prio := qcPrio v } s)
      else (.refusedFormat, s)
def commitQueue (v : Nat) (s : State) : Status × State :=
  let (st, s) := runQueueCmd v s
  (.done, rset kQueueResult (pack [(statusCode st, 56), (qcSeq v, 48), (qcQueue v, 0)]) s)

/-! ### JOB_HENS (Table 6.10, R198, R199) -/

def henRecord (v : Nat) : HenRec :=
  { min := fld v 111 96, max := fld v 95 80, larders := fld v 79 68, exclusive := bit v 67,
    workMax := if fld v 63 48 = 0 then 65536 else fld v 63 48 }
/-- Does a record's LARDERS overlap another active job's while either is EXCLUSIVE? -/
def exclusiveClash (job : Nat) (r : HenRec) (s : State) : Bool :=
  s.pool.jobs.any (fun e => e.2.id != job && !e.2.closing && (r.exclusive || e.2.hens.exclusive) &&
    (r.larders &&& e.2.hens.larders) != 0)
def jobHensStatus (v : Nat) (s : State) : Status :=
  let job := fld v 127 112
  let r := henRecord v
  match activeJob job s with
  | none => .refusedFormat
  | some (slot, j) =>
    let mins := lsum ((s.pool.jobs.filter (fun e => e.2.id != job && !e.2.closing)).map (fun e => e.2.hens.min))
    if r.max < r.min || r.larders = 0 then .refusedFormat
    else if !isoAll (setJob slot { j with hens := r } s) then .refusedFormat
    else if hensIn r.larders s < r.min || hensInService s < mins + r.min || exclusiveClash job r s then .refusedQuota
    else .done
/-- Hens whose slivers a committed record lets finish (R199). -/
def henDrain (job : Nat) (r : HenRec) (s : State) : List Nat :=
  let busy := (s.hens.hens.filter (fun e => henBusy e.2))
  let mine := (busy.filter (fun e => e.2.job == job)).map (·.1)
  let out := mine.filter (fun h => !r.larders.testBit (henLarder h))
  let over_ := (mine.filter (fun h => decide (r.max ≤ (mine.filter (fun g => decide (g < h))).length)))
  let others := (busy.filter (fun e => e.2.job != job && r.exclusive && r.larders.testBit (henLarder e.1))).map (·.1)
  (out ++ over_ ++ others).eraseDups
def commitJobHens (v : Nat) (s : State) : Status × State :=
  let job := fld v 127 112
  let r := henRecord v
  match jobHensStatus v s with
  | .done =>
    let s := modJob job (fun j => { j with hens := r }) s
    let l := henDrain job r s
    let keep := s.work.drains.filter (fun d => d.1 != job)
    let s := { s with work := { s.work with drains := keep ++ [(job, l)] } }
    (.done, post16 kJobHensResult .done s)
  | st => (.done, post16 kJobHensResult st s)

/-! ### COLL_CMD (Table 8.2, R242) -/

def collResult (st : Status) (v : Nat) (s : State) : State :=
  rset kCollResult (pack [(statusCode st, 56), (fld v 503 496, 48), (fld v 495 484, 0)]) s
def collCreateOk (v : Nat) (s : State) : Bool :=
  let c := fld v 495 484
  let ms := v % 2 ^ 256
  let peers := fld v 463 448
  c != 0xFFF && (collOf c s).isNone && ms != 0 && (peers == 0 || peers.testBit (homeIndex s)) &&
  (match activeJob (fld v 479 464) s with
   | none => false
   | some (_, j) => (bitsOf ms 256).all (fun m => (partnerOf j m).isSome))
def runCollCmd (v : Nat) (s : State) : Status × State :=
  let c := fld v 495 484
  if fld v 511 504 = 1 then
    if collCreateOk v s then
      (.done, setColl c { job := fld v 479 464, peers := fld v 463 448, members := v % 2 ^ 256, next := 0, openR := none,
                          pending := [], excluded := 0, removed := 0, waitFrom := none } s)
    else (.refusedFormat, s)
  else if fld v 511 504 = 2 then
    match collOf c s with
    | none => (.refusedFormat, s)
    | some k =>
      if k.openR.isSome || !k.pending.isEmpty then (.retry, s)
      else (.done, { s with eng := { s.eng with colls := tdel s.eng.colls c } })
  else (.refusedFormat, s)
def commitColl (v : Nat) (s : State) : Status × State :=
  let (st, s) := runCollCmd v s
  (.done, collResult st v s)

end Sys2Proof.Machine
end

