-- ==== Sys2Proof/Machine/TxnRows.lean ====
section
/-!
DEFINITION. Requests of partners as they arrive, and the events of 04 and 12: regions, owned objects, loads, stores,
atomic operations, releases, fences, batches, the tracker and epochs.
-/
namespace Sys2Proof.Machine

/-! ### A request arrives -/

/-- A frame before ACTIVE is discarded and counted (Table 11.9). -/
def preActive (p : Nat) (s : State) : State :=
  let st := (linkOf p s).st
  if decide (p < fabricPorts) && (st == .down || st == .ident) then
    modLink p (fun l => { l with preActiveDrops := min (2 ^ 32 - 1) (l.preActiveDrops + 1) }) s
  else s
/-- A request frame: discarded outside an epoch or on a PEER port (R327); a TAG in use takes the port down (R358). -/
def request (h : Hdr) (k : TxKind) (s : State) : State :=
  if !portLive h.port s then preActive h.port s
  else if portRolePeer h.port s then
    modLink h.port (fun l => { l with peerProtoErr := min (2 ^ 32 - 1) (l.peerProtoErr + 1) }) s
  else if tagOpen h.port h.tag s then portReset h.port 5 (bump kTagDuplicate s)
  else accept h k s
/-! ### Owned objects -/

def execGiveRecallDone (obj : Nat) (s : State) : Res := .next (settle (giveRecallDone (ownKeyOf obj s) s))
/-- The transit timer's expiry edge (R122). -/
def ownReverted (obj : Nat) (s : State) : State :=
  match ownOf obj s with
  | none => s
  | some o => if o.transit then ownRevert obj (timeTo o.expiry s) else s
def execOwnReverted (obj : Nat) (s : State) : Res := .next (settle (ownReverted (ownKeyOf obj s) s))

/-! ### Releases, fences, batches (R366, R367, R372) -/

def portTag (p tag : Nat) (s : State) : Option Tx := s.txn.txs.find? (fun t => t.src == .port p && t.tag == tag)
/-- The last store a FENCE waits for has executed. -/
def fenceDone (p tag : Nat) (s : State) : State :=
  match portTag p tag s with
  | none => s
  | some t => if t.kind == .fence && t.ans.isNone && !earlierStores t s then finishTx t .done [] s else s
def execFenceDone (port tag : Nat) (s : State) : Res := .next (settle (fenceDone port tag s))
/-- The last store a release store waits for has executed. -/
def releaseRun (p tag : Nat) (s : State) : State :=
  match portTag p tag s with
  | none => s
  | some t =>
    if t.wait == .release && t.kind != .fence && !earlierStores t s then (runTx t.id ([], setTx { t with wait := .none } s)).2
    else s
def execReleaseStoreExecute (port tag : Nat) (s : State) : Res := .next (settle (releaseRun port tag s))
abbrev batchNs : Nat := 64
def batchDue (lk : Nat) (s : State) : State :=
  match batchOf lk s with
  | none => s
  | some b =>
    let s := timeTo (b.at_ + batchNs) s
    let ck := lkCrate lk
    let s := if (crateOf ck s).tier = 0 then (placeNew ck s).2 else s
    -- bytes of the 2448's own wait here for a crate that is away
    if tierWait ck true s = .none then writeBatch lk s else s
def execBatchWriteout (line : Nat) (s : State) : Res := .next (settle (batchDue line s))

/-! ### Tracker and epochs (R384, R386, R387) -/

/-- The port's oldest request without an entry takes the one that has freed. -/
def trackFreed (p tag : Nat) (s : State) : State :=
  match s.txn.stalled.find? (fun x => x.1.port == p) with
  | none => s
  | some x =>
    if x.1.tag != tag || !trackerRoom p s then s
    else enterHome x.1 x.2 { s with txn := { s.txn with stalled := s.txn.stalled.erase x } }

/-- No request of the old epoch is left in the tracker, and the loss scan has run (R384, R427). -/
def epochDrained (p : Nat) (s : State) : State :=
  if s.txn.txs.any (fun t => t.src == .port p) || (portTx p s).lossScan then s
  else if (portTx p s).draining then modPortTx p (fun x => { x with draining := false }) s
  else s
/-- TRACK_MIN of a port (R387). -/
def commitTrackMin (p v : Nat) (s : State) : Status × State :=
  if 2048 < v then (.refusedFormat, s)
  else if trackerSize < trackMinSum s - trackMinOf p s + v then (.refusedQuota, s)
  else (.done, rseti kTrackMin p v s)

/-- A cumulative acknowledgement of peer frames (R388). -/
def peerAcked (p seq : Nat) (s : State) : State :=
  if portLive p s && portRolePeer p s then modPortTx p (fun x => { x with msgAck := max x.msgAck (min seq x.msgTx) }) s
  else s
def execPeerAck (port seq : Nat) (s : State) : Res := .next (peerAcked port seq s)

end Sys2Proof.Machine
end

