-- ==== Sys2Proof/Machine/Mirror.lean ====
section
/-!
DEFINITION. Mirroring and failover (04_versions_and_handover.md R125 to R138, Tables 4.7 to 4.9), at the primary and at
the mirror.
-/
namespace Sys2Proof.Machine

def modMirror (f : Mirror → Mirror) (s : State) : State := { s with vers := { s.vers with mirror := f s.vers.mirror } }
def mirrorLostEvent (s : State) : State := raise 0x4480 0x01 1 (mirrorPeer s) s

/-! ### At the primary -/

/-- Crates that a record concerns. -/
def recCrates (r : JRec) : List Nat :=
  if r.typ = jLine then [crateKey r.ext 0 (r.arg0 / 512)]
  else if r.typ = jCopy || r.typ = jZero then [crateKey r.ext 0 r.arg0]
  else []
/-- Send the unacknowledged records again from the oldest. -/
def resend (s : State) : State :=
  let l := s.vers.mirror.unacked
  let s := modMirror (fun m => { m with unacked := l.map (fun r => (r.1, s.now)) }) s
  each l (fun r => sendPeer (mirrorPeer s) 0x01 0 0 [r.1] [] 0) s
/-- The outcomes that wait for records up to a SEQ (R126). -/
def acknowledged (seq : Nat) (s : State) : State :=
  let done := s.txn.txs.filter (fun t => t.ans.isSome && t.jlines.isEmpty && (match t.jseq with | some q => decide (q ≤ seq) | none => false))
  let s := each done landTx s
  let posts := s.vers.ownPosts.filter (fun p => decide (p.1 ≤ seq))
  each posts (fun p => rset kOwnedResult p.2)
    { s with vers := { s.vers with ownPosts := s.vers.ownPosts.filter (fun p => decide (seq < p.1)) } }
/-- Nothing waits for the old mirror any more: its records are dropped, what waited completes. -/
def forgetRecords (s : State) : State :=
  acknowledged (s.vers.mirror.nextSeq + 2 ^ 64) (modMirror (fun m => { m with unacked := [] }) s)

/-- The lines of a crate's form that hold anything. -/
def fullLines (ck : Nat) (s : State) : List Nat :=
  ((s.mem.filter (fun c => decide (ck * crateBytes ≤ c.1) && decide (c.1 < (ck + 1) * crateBytes))).map
    (fun c => c.1 / 128)).eraseDups
/-- The copy of one form of a crate: the mirror's becomes zero, then every line that is not (Table 4.8). -/
def copyForm (e : Extent) (src : Nat) (s : State) : State :=
  let ext := ckExt src
  let s := writeBatchesOf (fun lk => lkCrate lk == src) s
  let s := (journalRec jZero e.slot ext e.gen (ckIdx src) 0 [] s).2
  each (fullLines src s) (fun lk s => (journalLk lk s).2) s
/-- The copy of one crate of an extent that is not VERSIONED. -/
def copyRecords (ck : Nat) (s : State) : State :=
  match extOf (ckExt ck) s with
  | none => s
  | some e => copyForm e (crateKey (ckExt ck) 0 (ckIdx ck)) s

/-! #### The copy of a versioned region (R129): its live versions, oldest first, then its drafts, as records of Table 4.8.
The mirror binds what it is given to an index that no member has. -/

abbrev copyIndex : Nat := 0xFFFF
/-- A REGION record, with the response that gives the version. -/
def regionRecord (e : Extent) (ext rid index op version answered : Nat) (s : State) : State :=
  let pay := bytesOf 32 (pack [(op, 248), (version, 192), (fvaOf e 0, 136)])
  let rsp := regionData op { st := .done, version := answered, base := 0, live := 1, crates := 0 }
  (journalRec jRegion e.slot ext e.gen rid index (pay ++ rsp) s).2
/-- The crates in which a draft's or a later version's forms differ from a version's, as COPY and LINE records. -/
def draftRecords (e : Extent) (ext index : Nat) (forms : List (Nat × Nat × Nat)) (s : State) : State :=
  each forms (fun (f : Nat × Nat × Nat) s =>
    let src := crateKey ext f.2.1 f.1
    let dst := crateKey ext f.2.2 f.1
    let s := writeBatchesOf (fun lk => lkCrate lk == src || lkCrate lk == dst) s
    let s := (journalRec jCopy e.slot ext e.gen f.1 (2 ^ 16 + index) [] s).2
    let lines := ((fullLines src s).map (· % 512) ++ (fullLines dst s).map (· % 512)).eraseDups
    each lines (fun l s =>
      let lk := dst * 512 + l
      (journalRec jLine e.slot ext e.gen (lkLine lk) (2 ^ 16 + index) (lineCipher lk (lineRead lk 0 128 s) s) s).2) s) s
/-- The crates whose form differs between two versions: index, old form, new form. -/
def formsBetween (r : Region) (v w : Nat) : List (Nat × Nat × Nat) :=
  let written (n : Nat) : List Nat := match verOf r n with | some x => x.forms.map (·.1) | none => []
  let idxs := (written v ++ written w).eraseDups
  (idxs.map (fun i => (i, verForm r v i, verForm r w i))).filter (fun f => f.2.1 != f.2.2)
/-- The bindings that hold a version: readers' OPENs, and drafts with what they have written. -/
def bindRecords (e : Extent) (ext rid : Nat) (r : Region) (v : Nat) (s : State) : State :=
  each (s.vers.bindings.filter (fun b => b.region == rid && b.base == v)) (fun b s =>
    if b.draft then
      draftRecords e ext b.member (b.forms.map (fun f => (f.1, verForm r v f.1, f.2)))
        (regionRecord e ext rid b.member opDraft v v s)
    else regionRecord e ext rid b.member opOpen v v s) s
/-- One version after another, each published over the one before. -/
def versionRecords (e : Extent) (ext rid : Nat) (r : Region) : List Nat → Nat → State → State
  | [], _, s => s
  | w :: l, v, s =>
    let s := draftRecords e ext copyIndex (formsBetween r v w) (regionRecord e ext rid copyIndex opDraft v v s)
    let s := bindRecords e ext rid r w (regionRecord e ext rid copyIndex opPublish v w s)
    versionRecords e ext rid r l w s
/-- Every version and draft of a region. Whatever the mirror binds is released first. -/
def copyRegion (ext rid : Nat) (r : Region) (s : State) : State :=
  match extOf ext s, (r.live.map (·.num)).mergeSort (fun a b => decide (a ≤ b)) with
  | some e, v :: l =>
    let members := match jobOf e.job s with | some (_, j) => j.members.map (·.1) | none => []
    let s := each (members ++ [copyIndex]) (fun m s => regionRecord e ext rid m opDiscard 0 0 s) s
    let idxs := ((extCrates ext s).map (fun c => ckIdx c.1)).eraseDups
    let s := each idxs (fun i => copyForm e (crateKey ext (verForm r v i) i)) s
    let s := bindRecords e ext rid r v (regionRecord e ext rid copyIndex opOpen v v s)
    regionRecord e ext rid copyIndex opClose 0 0 (versionRecords e ext rid r l v s)
  | _, _ => s
/-- Extents whose changes this home mirrors. -/
def mirrorExts (s : State) : List Nat :=
  (s.pool.extents.filter (fun e => fMirror e.2 && e.2.st == .active && !isShadow e.1 s &&
    !s.vers.mirror.unmirrored.contains e.1)).map (·.1)
/-- Every crate of an extent that has an entry, by index, and every version of a VERSIONED one. -/
def copyExt (ext : Nat) (s : State) : State :=
  match regionOfExt ext s with
  | some (rid, r) => copyRegion ext rid r s
  | none => each (((extCrates ext s).map (fun c => crateKey ext 0 (ckIdx c.1))).eraseDups) copyRecords s
/-- Crates written without a record are copied; of a VERSIONED extent with a crate so marked, everything. -/
def copyMarked (s : State) : State :=
  let l := s.vers.mirror.marked.filter (fun ck => (mirrorExts s).contains (ckExt ck))
  let (vers, plain) := l.partition (fun ck => (regionOfExt (ckExt ck) s).isSome)
  each ((vers.map ckExt).eraseDups) copyExt (each plain copyRecords (modMirror (fun m => { m with marked := [] }) s))
/-- What the mirror knows of every job: the changes it has missed, then extents, members and lists as they are (R127). -/
def journalAll (s : State) : State :=
  let l := s.vers.mirror.missed
  let s := each l (fun r => journalAny r.typ r.slot r.ext r.gen r.arg0 r.arg1 r.data) (modMirror (fun m => { m with missed := [] }) s)
  let s := each ((s.pool.extents.map (·.1)).filter (fun x => !isShadow x s)) journalExt s
  let s := each s.pool.jobs (fun e s => each e.2.members (fun m => journalAny jMember 0 0 0 (e.2.id * 2 ^ 16 + m.1) m.2 []) s) s
  each s.pool.acls (fun a => journalAny jAcl 0 0 0 a.1 0 (bytesOf 64 (a.2.1 + 2 ^ 256 * a.2.2))) s

/-- Acknowledgement (R128); a LOST relation is SYNC again (Table 4.9, R130). -/
def journalAcked (src seq : Nat) (s : State) : State :=
  let m := s.vers.mirror
  if src != mirrorPeer s || (m.rel != .sync && m.rel != .lost) || m.nextSeq ≤ seq then s
  else
    let s := modMirror (fun m => { m with unacked := m.unacked.filter (fun r => decide (seq < r.1.seq)) }) s
    let s := rset kJournalSeq (max seq (rget kJournalSeq s)) s
    let s := acknowledged seq s
    if m.rel = .lost then copyMarked (resend (modMirror (fun m => { m with rel := .sync }) s)) else s
def execJournalAck (ph : PeerHdr) (seq : Nat) (s : State) : Res :=
  .next (settle (peerIn ph (journalAcked ph.src seq) s))

/-- A waiting ALLOCATE ends with the mirror's status. -/
def endWaiting (st : Status) (s : State) : State :=
  match s.vers.mirror.waiting with
  | [] => s
  | v :: _ => resumeExtents (extentResult st (ecSeq v) 0 0 s)
/-- The relation is LOST: MIRROR_LOST, the changes that wait for a record are held from now on (Table 4.9). -/
def relationLost (s : State) : State :=
  let s := mirrorLostEvent (modMirror (fun m => { m with rel := .lost }) s)
  let unsure := s.txn.txs.filter (fun t => t.ans.isSome && (t.jseq.isSome || !t.jlines.isEmpty))
  endWaiting .portDown (each unsure (fun t => holdTx t .mirror) s)
/-- An acknowledgement is late, or the peer port is down: the relation is LOST (Table 4.9). -/
def mirrorLost (s : State) : State :=
  let m := s.vers.mirror
  let dead := (peerPort (mirrorPeer s) s).isNone
  if m.rel != .sync then s
  else match m.unacked, dead with
    | [], false => s
    | u, _ =>
      let s := if dead then s else timeTo ((u.map (·.2)).foldl min s.now + rget kMirrorTimeout s * nsUs) s
      relationLost s
def execMirrorLost (s : State) : Res := .next (settle (mirrorLost s))

/-- MIRROR_RELEASE: held changes go on without a record; crates whose records are dropped are marked. -/
def commitMirrorRelease (s : State) : Status × State :=
  let m := s.vers.mirror
  if m.rel != .lost then (.done, s)
  else
    let cks := m.unacked.flatMap (fun r => recCrates r.1)
    let known := (m.unacked.map (·.1)).filter (fun r => r.typ == jExtent || r.typ == jMember || r.typ == jAcl || r.typ == jOwn)
    (.done, forgetRecords (modMirror (fun m => { m with rel := .degraded, marked := cks.foldl ladd m.marked,
                                                        missed := m.missed ++ known, copying := false }) s))
/-- MIRROR_RESYNC: the marked crates are copied, then journalling resumes. -/
def commitMirrorResync (s : State) : Status × State :=
  if s.vers.mirror.rel != .degraded || (peerPort (mirrorPeer s) s).isNone then (.done, s)
  else (.done, copyMarked (journalAll (modMirror (fun m => { m with rel := .sync, copying := true }) s)))
/-- The copy ends; what was written meanwhile is copied too, and journalling resumes. Extents refused run unmirrored. -/
def mirrorCopyDone (refused : List Nat) (s : State) : State :=
  if !s.vers.mirror.copying || s.vers.mirror.rel != .sync then s
  else
    let s := each (refused.filter (fun x => (mirrorExts s).contains x)) (fun x s =>
      mirrorLostEvent (modMirror (fun m => { m with unmirrored := ladd m.unmirrored x }) s)) s
    modMirror (fun m => { m with copying := false }) (copyMarked s)
def execMirrorCopyDone (refused : List Nat) (s : State) : Res := .next (settle (mirrorCopyDone refused s))

/-- Local extents of shadows held for living primaries. -/
def shadowExts (s : State) : List Nat :=
  (s.vers.mirror.shadows.filter (fun h => !h.takenOver)).flatMap (fun h => h.exts.map (·.2.1))
/-- MIRROR_PEER written or cleared (Table 4.9, R129). -/
def commitMirrorPeer (v : Nat) (s : State) : Status × State :=
  let old := mirrorPeer s
  if v != 0xFF && (15 < v || v == homeIndex s) then (.refusedFormat, s)
  else if v = old then (.done, s)
  else
    let s := if old = 0xFF then s else sendCtl old mcRelease 0 s
    let s := forgetRecords (endWaiting .portDown s)
    let s := rset kMirrorPeer v s
    let m := s.vers.mirror
    if v = 0xFF then (.done, { s with vers := { s.vers with mirror := { m with rel := .none, copying := false } } })
    else
      let s := { s with vers := { s.vers with mirror :=
        { m with rel := .sync, nextSeq := 1, copying := true, unmirrored := shadowExts s } } }
      let s := rset kJournalSeq 0 s
      let exts := (s.pool.extents.filter (fun e => fMirror e.2 && !isShadow e.1 s)).map (·.1)
      let s := each exts (fun x s => match extOf x s with | some e => setExt x { e with mirrorHome := v } s | none => s) s
      let s := each (mirrorExts s) (fun x s => match extOf x s with
        | some e => sendCtl v mcShadow (shadowWord x e s) s
        | none => s) s
      let s := modMirror (fun m => { m with marked := [] }) s
      (.done, each (mirrorExts s) copyExt (journalAll s))

/-- The mirror's answer to a shadow request (R125, R129). -/
def shadowAnswered (ext st : Nat) (s : State) : State :=
  match if s.vers.mirror.asked = some ext then s.vers.mirror.waiting else [] with
  | v :: _ =>
    let e := newExtent v 0
    if statusOf st != .done then endWaiting (statusOf st) s
    else if allocStatus e s != .done || (extOf ext s).isSome then
      endWaiting (if allocStatus e s != .done then allocStatus e s else .refusedQuota) s
    else resumeExtents (extentResult .done (ecSeq v) ext (nextGen ext s) (journalExt ext (makeExtent ext e s)))
  | [] =>
    if statusOf st = .done || !(mirrorExts s).contains ext then s
    else mirrorLostEvent (modMirror (fun m => { m with unmirrored := ladd m.unmirrored ext }) s)

/-! ### At the mirror -/

def shadowDflt (p : Nat) : Shadow :=
  { primary := p, lastSeq := 0, exts := [], members := [], acls := [], owned := [], unmirrored := [], takenOver := false }
def shadowFor (p : Nat) (s : State) : Option Shadow := s.vers.mirror.shadows.find? (fun h => h.primary == p)
def putShadow (h : Shadow) (s : State) : State :=
  modMirror (fun m => { m with shadows := m.shadows.filter (fun x => x.primary != h.primary) ++ [h] }) s
/-- Where a failed or living primary's lists stand beside this home's own (R133). -/
def aclBase (p : Nat) : Nat := 16384 * (1 + p)

/-- The extent that an entry (Table 2.6) describes, as a shadow. -/
def extOfEntry (p v : Nat) : Extent :=
  { job := fld v 255 240, base := fld v 239 216, len := fld v 215 192, acl := aclBase p + fld v 189 176,
    key := fld v 171 160, st := .active, slot := fld v 155 152, flags := fld v 151 142, mirrorHome := fld v 141 138,
    gen := 0, drainAt := 0, origin := none }
/-- The local extent of a primary's extent and generation. -/
def localExt (h : Shadow) (ext gen : Nat) : Option Nat :=
  (h.exts.find? (fun x => x.1 == ext && x.2.2 == gen)).map (fun x => x.2.1)

/-- A shadow is asked for (R125): its outcome, and the shadow made. -/
def shadowMade (p entry kcv : Nat) (s : State) : Status × State :=
  let h := (shadowFor p s).getD (shadowDflt p)
  let e := extOfEntry p entry
  let ext := fld entry 271 256
  let gen := fld entry 111 96
  let keyOk := match keyOf e.key s with | some k => e.key != 0 && keyCheck k == kcv | none => false
  if (localExt h ext gen).isSome then (.done, s)
  else if !keyOk then (.refusedFormat, s)
  else if !allocFits e s then (.refusedFit, s)
  else match freeKey s.pool.extents 65536 with
    | none => (.refusedQuota, s)
    | some n =>
      if fVersioned e && decide (4096 ≤ s.vers.regions.length) then (.refusedQuota, s)
      else
        let s := makeExtent n e s
        let s := putShadow { h with exts := h.exts ++ [(ext, n, gen)] } s
        (.done, modMirror (fun m => { m with unmirrored := ladd m.unmirrored n }) s)

/-- Write one line of a shadow from its ciphertext (R128). -/
def shadowLine (lk : Nat) (d : List Byte) (s : State) : State :=
  dirtyCrate (lkCrate lk) (ownLine lk 0 ((lineClear lk d s).map some) (cleanLine lk s))
/-- The draft form of a crate under a member's binding; made where the record comes first. -/
def shadowDraft (ext idx member : Nat) (s : State) : Option Nat × State :=
  match regionOfExt ext s with
  | none => (none, s)
  | some (rid, _) => match s.vers.bindings.find? (fun b => b.region == rid && b.member == member && b.draft) with
    | none => (none, s)
    | some b => draftCrate rid idx b s
/-- A region command repeated as its record says, not judged again: the primary's version numbers stand (R128, Table 4.8).
The first OPEN of a copy gives its number to the version that the copy's records have made (R129). -/
def shadowRegion (ext member op version answered : Nat) (s : State) : State :=
  let version := if op = opOpen || op = opDraft then answered else version
  match extOf ext s, regionOfExt ext s with
  | some e, some (rid, r) =>
    let s := if member == copyIndex && op == opOpen && !regionLive r version then
        setRegion rid { r with cur := version, live := r.live.map (fun v => if v.num = r.cur then { v with num := version } else v) } s
      else s
    let cur := match tget s.vers.regions rid with | some r => r.cur | none => 0
    let op := if op = opClose || op = opDiscard then
        (match bindingOf e.job member rid s with | some b => if b.draft then opDiscard else opClose | none => op)
      else op
    let s := (regionCmd false ext e.job member op false (if op = opPublish then cur else version) s).2
    match tget s.vers.regions rid with
    | none => s
    | some r =>
      if op != opPublish || r.cur = answered then s
      else
        let ren (n : Nat) : Nat := if n = r.cur then answered else n
        let s := setRegion rid { r with cur := answered, live := r.live.map (fun v => { v with num := ren v.num }) } s
        { s with vers := { s.vers with bindings := s.vers.bindings.map (fun b =>
            if b.region = rid then { b with base := ren b.base } else b) } }
  | _, _ => s

/-- An object's record (OWNED_ENTRY) read back. -/
def ownOfEntry (v : Nat) : OwnObj :=
  let c := v / 2 ^ 128
  { ownedOfCmd c with transit := bit v 126, taker := fld v 109 96, epoch := fld v 95 64 }

/-- Apply one record (Table 4.8). -/
def applyRecord (p : Nat) (r : JRec) (s : State) : State :=
  let h := (shadowFor p s).getD (shadowDflt p)
  let h := { h with lastSeq := r.seq }
  let s := putShadow h s
  let v := natOf r.data
  if r.typ = jOwn then
    let o := ownOfEntry v
    putShadow { h with owned := if (ownRanges o).isEmpty then tdel h.owned r.arg0 else tput h.owned r.arg0 o } s
  else if r.typ = jMember then
    let job := r.arg0 / 2 ^ 16
    let m := r.arg0 % 256
    let keep := h.members.filter (fun x => !(x.1 == job && x.2.1 == m))
    let mine (rid : Nat) : Bool := match tget s.vers.regions rid with
      | some g => h.exts.any (fun x => x.2.1 == g.ext)
      | none => false
    -- a removed member's bindings are released here too (R114)
    let s := onlyIf (bit r.arg1 12) (clearBindings (fun b => b.job == job && b.member == m && mine b.region)) s
    putShadow { h with members := if bit r.arg1 12 then keep else keep ++ [(job, m, r.arg1 % 4096)] } s
  else if r.typ = jAcl then putShadow { h with acls := tput h.acls r.arg0 (v % 2 ^ 256, v / 2 ^ 256 % 2 ^ 256) } s
  else if r.typ = jExtent then
    let e := extOfEntry p v
    let me := (e.job, e.slot, e.base, e.len)
    match localExt h r.arg0 r.gen with
    | some n =>
      if r.arg1 % 16 = 1 then (match extOf n s with | some x => setExt n { x with acl := e.acl } s | none => s)
      else revokeExt n s
    | none =>
      let keep := h.unmirrored.filter (fun u => u != me)
      putShadow { h with unmirrored := if r.arg1 % 16 = 3 || r.arg1 % 16 = 0 then keep else keep ++ [me] } s
  else match localExt h r.ext r.gen with
    | none => s
    | some n =>
      if r.typ = jRegion then shadowRegion n (r.arg1 % 65536) (fld (v % 2 ^ 256) 255 248) (fld v 223 192) (fld v 351 320) s
      else if r.typ = jCopy then (shadowDraft n r.arg0 (r.arg1 % 65536) s).2
      else if r.typ = jZero then
        let form := match regionOfExt n s with | some (_, g) => verForm g g.cur r.arg0 | none => 0
        let ck := crateKey n form r.arg0
        dirtyCrate ck (zeroCrate ck s)
      else if r.typ = jLine then
        if bit r.arg1 16 then
          match shadowDraft n (r.arg0 / 512) (r.arg1 % 65536) s with
          | (some f, s) => shadowLine (lineKey n f r.arg0) r.data s
          | (none, s) => s
        else
          let form := match regionOfExt n s with | some (_, g) => verForm g g.cur (r.arg0 / 512) | none => 0
          shadowLine (lineKey n form r.arg0) r.data s
      else s

/-- Records in SEQ order; one that has been applied is passed over, a gap stops (R128). -/
def applyRecords (p : Nat) : List JRec → State → State
  | [], s => s
  | r :: l, s =>
    let last := match shadowFor p s with | some h => h.lastSeq | none => 0
    if r.seq ≤ last then applyRecords p l s
    else if r.seq = last + 1 then applyRecords p l (applyRecord p r s)
    else s
/-- A journal message: applied and acknowledged, or refused after a takeover (R128, R132). -/
def journalIn (p : Nat) (recs : List JRec) (s : State) : State :=
  match shadowFor p s with
  | some h =>
    if h.takenOver then sendCtl p mcTakeover 0 s
    else
      let s := applyRecords p recs s
      let last := match shadowFor p s with | some h => h.lastSeq | none => 0
      sendPeer p 0x02 0 0 [] [] last (rset kJournalSeq last s)
  | none =>
    let s := applyRecords p recs (putShadow (shadowDflt p) s)
    let last := match shadowFor p s with | some h => h.lastSeq | none => 0
    sendPeer p 0x02 0 0 [] [] last (rset kJournalSeq last s)
def execJournal (ph : PeerHdr) (recs : List JRec) (s : State) : Res :=
  .next (settle (peerIn ph (journalIn ph.src recs) s))

/-- The shadows of a sender are released (R129). -/
def shadowsReleased (p : Nat) (s : State) : State :=
  match shadowFor p s with
  | none => s
  | some h =>
    if h.takenOver then s
    else
      let s := each (h.exts.map (·.2.1)) revokeExt s
      modMirror (fun m => { m with shadows := m.shadows.filter (fun x => x.primary != p) }) s
/-- MIRROR_CTL (R51, R125, R129, R132). -/
def mirrorCtl (p : Nat) (c : MirrorMsg) (s : State) : State :=
  let over_ := match shadowFor p s with | some h => h.takenOver | none => false
  match c with
  | .revoke ext gen =>
    (match (shadowFor p s).bind (fun h => localExt h ext gen) with
     | some n => if over_ then s else revokeExt n s
     | none => s)
  | .shadow entry kcv =>
    if over_ then sendCtl p mcTakeover 0 s
    else
      let (st, s) := shadowMade p entry kcv s
      sendCtl p mcAnswer (pack [(statusCode st, 16), (fld entry 271 256, 0)]) s
  | .shadowAnswer ext st => if p = mirrorPeer s then shadowAnswered ext st s else s
  | .release => shadowsReleased p s
  | .takeoverRefused =>
    onlyIf (p == mirrorPeer s && s.vers.mirror.rel == .sync) relationLost s
def execMirrorCtl (ph : PeerHdr) (m : MirrorMsg) (s : State) : Res :=
  .next (settle (peerIn ph (mirrorCtl ph.src m) s))

/-! ### Takeover (R131 to R138) -/

/-- Jobs of a primary with the slots its extents and shadows have. -/
def primaryJobs (h : Shadow) (s : State) : List Nat :=
  ((h.members.map (·.1)) ++ h.unmirrored.map (·.1) ++
    h.exts.filterMap (fun x => (extOf x.2.1 s).map (·.job))).eraseDups
def primarySlots (h : Shadow) (job : Nat) (s : State) : List Nat :=
  ((h.unmirrored.filter (fun u => u.1 == job)).map (fun u => u.2.1) ++
    h.exts.filterMap (fun x => match extOf x.2.1 s with
      | some e => if e.job = job then some e.slot else none
      | none => none)).eraseDups
/-- One job of the primary becomes active with its slots, or is lost (R133, R138). Of a lost job that only its members tell
of no slot is known: its requests get STATE_LOST in every slot. -/
def takeJob (h : Shadow) (job : Nat) (s : State) : State :=
  let slots := primarySlots h job s
  let gone := if slots.isEmpty then List.range 16 else slots
  let lose (s : State) : State :=
    bump kTakeoverJobsLost (modMirror (fun m => { m with lostJobs := m.lostJobs ++ gone.map (fun x => (job, x)) }) s)
  match jobOf job s with
  | some (n, j) => if j.closing then lose s else setJob n { j with slots := mapOf (bitsOf j.slots 16 ++ slots) } s
  | none => match freeKey s.pool.jobs jobsMax with
    | none => lose s
    | some n =>
      setJob n { id := job, slots := mapOf slots, quotaShelf := noLimit, quotaByte := noLimit, quotaTotal := noLimit,
                 members := (h.members.filter (fun x => x.1 == job)).map (fun x => x.2), closing := false,
                 hens := henRecDflt, iso := isoOff } s
/-- An object as this home holds it: lists beside its own, local extents, its timer started anew (R133, R135). -/
def takeOwned (h : Shadow) (x : Nat × OwnObj) (s : State) : State :=
  let o := x.2
  let lst (l : Nat) : Nat := if l = 0x3FFF then l else aclBase h.primary + l
  let us := if o.timeout = 0 then 1000 else o.timeout
  setOwn (16384 * (1 + h.primary) + x.1)
    { o with owner := lst o.owner, permit := o.permit.map lst, taker := lst o.taker, expiry := s.now + us * nsUs,
             ranges := o.ranges.map (fun r => match h.exts.find? (fun e => e.1 == r.1) with
               | some e => (e.2.1, r.2.1, r.2.2)
               | none => (r.1, r.2.1, 0)) } s
def takeOver (h : Shadow) (s : State) : State :=
  let s := putShadow { h with takenOver := true } s
  let s := each (primaryJobs h s) (takeJob h) s
  let s := { s with pool := { s.pool with acls := h.acls.foldl (fun t a => tput t (aclBase h.primary + a.1) a.2) s.pool.acls } }
  let s := each h.exts (fun x s => match extOf x.2.1 s with
    | some e => setExt x.2.1 { e with origin := some (x.1, x.2.2) } s
    | none => s) s
  let s := each h.owned (takeOwned h) s
  let s := ledger 0x4480 ldTakenOver clsInfo (pack [(h.primary, 252), (h.lastSeq % 2 ^ 64, 128)]) s
  raise 0x4480 0x02 9 (pack [(h.lastSeq % 2 ^ 64, 8), (h.primary, 0)]) s
/-- MIRROR_TAKEOVER. The spec gives no answer to one that names a home of which no shadow is held here: REFUSED_FORMAT
(DESIGN CHOICE, log 100). -/
def commitTakeover (v : Nat) (s : State) : Status × State :=
  match shadowFor v s with
  | some h => if h.takenOver then (.done, s) else (.done, takeOver h s)
  | none => (.refusedFormat, s)

end Sys2Proof.Machine
end

