-- ==== Sys2Proof/Machine/CohRows.lean ====
section
/-!
DEFINITION. The commands of 13_coherence.md: windows, answers of caching partners, timeouts, scans.
-/
namespace Sys2Proof.Machine

/-- What a change in the filter lets go on: a FLUSH waiting for modified lines, then everything else. -/
def cohSettle (s : State) : State := settle (startFlushes s)

/-! ### COH_WINDOW (Table 13.1, R392, R393, R604) -/

def windowOk (w v : Nat) (s : State) : Bool :=
  !winValid v ||
  ((match activeJob (winJob v) s with | some (_, j) => j.slots.testBit (winSlot v) | none => false) &&
   winLen v != 0 && decide (winBase v + winLen v ≤ 2 ^ 24) &&
   !s.coh.windows.any (fun x => x.1 != w && winValid x.2 && winJob x.2 == winJob v && winSlot x.2 == winSlot v &&
     decide (winBase x.2 < winBase v + winLen v) && decide (winBase v < winBase x.2 + winLen x.2)))
/-- Does a window's new value keep every line of the old one? -/
def windowKeeps (old new : Nat) : Bool :=
  !winValid old || (winValid new && winJob new == winJob old && winSlot new == winSlot old &&
    decide (winBase new ≤ winBase old) && decide (winBase old + winLen old ≤ winBase new + winLen new))
def commitCohWindow (w v : Nat) (s : State) : Status × State :=
  if !s.coh.removing.isEmpty then (.retry, post16 kCohWindowResult .retry s)
  else if !windowOk w v s then (.refusedFormat, post16 kCohWindowResult .refusedFormat s)
  else if windowKeeps (tgetD s.coh.windows w 0) v then (.done, post16 kCohWindowResult .done (putWindow w v s))
  else (.done, queueScan (.window w) { s with coh := { s.coh with removing := [(w, v, true)] } })

/-! ### Frames of caching partners (R402 to R405) -/

/-- A protocol error: the port goes DOWN and its copies are lost (R403). -/
def cohError (p : Nat) (s : State) : State := portReset p 5 (bump kCohProtoErr s)
/-- A coherence frame on VC2, as far as its port goes. -/
def cohFrame (p : Nat) (k : State → State) (s : State) : State :=
  if !portLive p s then preActive p s
  else if portRolePeer p s then
    modLink p (fun l => { l with peerProtoErr := min (2 ^ 32 - 1) (l.peerProtoErr + 1) }) s
  else if !portCaches p s then cohError p s
  else k s

def closeSnoop (x : Snoop) (s : State) : State := { s with coh := { s.coh with snoops := s.coh.snoops.erase x } }
/-- A line whose every holder has been asked to give it up is free when all have answered (Table 13.5). -/
def freeIfAnswered (x : Snoop) (s : State) : State :=
  if x.all then (if lineOpen x.line s then s else dropEnt x.line s) else dropHolder x.line x.port s

/-- The M owner's data has come back (Table 13.5). -/
def ownerData (x : Snoop) (keep : Bool) (data : List Byte) (s : State) : State :=
  let s := onlyIf (x.kind == .share) (bump kForwards) (bump kMigrationRecalls s)
  let s := if x.discard then s else mergeBack x.line data s
  if keep then
    match entOf x.line s with
    | some e => putEnt { e with owner := none, holders := [x.port], lseq := 0 } s
    | none => s
  else dropEnt x.line s

/-- MISS or CLEAN from the recorded owner: the EVICT held for it brings the data (R607). -/
def heldData (x : Snoop) (s : State) : Option HeldEvict :=
  match entOf x.line s with
  | none => none
  | some e => s.coh.evicts.find? (fun v => v.port == x.port && v.line == x.line && v.dirty && v.lseq == e.lseq)

/-- A snoop response that matches an open snoop (Tables 13.4 to 13.6). -/
def snoopAnswer (x : Snoop) (result : Nat) (data : List Byte) (s : State) : State :=
  let owns := match entOf x.line s with | some e => e.owner == some x.port | none => false
  let dataOk := if result = 2 || result = 3 then data.length == 128 else data.isEmpty
  if 3 < result || !dataOk || (result = 2 && x.kind == .inv) then cohError x.port s
  else if result ≤ 1 then
    let s := onlyIf (result == 0) (bump kSnoopMisses) s
    if owns then
      match heldData x s with
      | none => cohError x.port s
      | some v =>
        let s := closeSnoop x { s with coh := { s.coh with evicts := s.coh.evicts.erase v } }
        cohAck x.port x.line 0 v.lseq (ownerData x false v.data s)
    else
      let s := closeSnoop x s
      if x.kind == .inv then freeIfAnswered x s else dropHolder x.line x.port s
  else if owns then ownerData x (result == 2) data (closeSnoop x s)
  else
    -- data of a copy that was not M changes nothing
    let s := closeSnoop x s
    if x.kind == .inv then freeIfAnswered x s else s
def snpRsp (p ctag result : Nat) (data : List Byte) (s : State) : State :=
  match s.coh.snoops.find? (fun x => x.ctag == ctag && x.port == p && x.kind != .migrate) with
  | none => cohError p s
  | some x => snoopAnswer x result data s
def execSnpRsp (port ctag result : Nat) (data : List Byte) (s : State) : Res :=
  .next (cohSettle (cohFrame port (snpRsp port ctag result data) s))

/-- EVICT: counted, held while the line's transaction is open (R421), else processed. -/
def evictIn (p job addr lseq result : Nat) (data : List Byte) (s : State) : State :=
  if 1 < result || data.length != (if result = 1 then 128 else 0) then cohError p s
  else
    let s := cohCount p (fun c => (c.1, c.2.1 + 1, c.2.2)) (bump kEvicts s)
    match addrLine job addr s with
    | none => send (.coh p 0x63 job addr 0 lseq 1 []) (bump kEvictStale s)
    | some lk =>
      -- the port's own earlier requests of the line, and atomics queued for it, come first
      let first := s.txn.txs.filter (fun t => t.wait != .release && t.parts.any (fun q => q.line == lk && q.res.isNone) &&
        (t.src == .port p || (match t.kind with | .atomic _ _ _ _ => true | _ => false)))
      let e : HeldEvict := { port := p, line := lk, lseq := lseq, dirty := result == 1, data := data, behind := first.map (·.id) }
      if lineOpen lk s || !first.isEmpty then { s with coh := { s.coh with evicts := s.coh.evicts ++ [e] } } else doEvict e s
def execEvict (port job addr lseq result : Nat) (data : List Byte) (s : State) : Res :=
  .next (cohSettle (cohFrame port (evictIn port job addr lseq result data) s))

/-- MIG_ACK closes the port's migration of the line (R418). -/
def migAck (p job addr : Nat) (s : State) : State :=
  match s.coh.snoops.find? (fun x => x.kind == .migrate && x.port == p && lineAddr x.line s == (job, addr)) with
  | none => cohError p s
  | some x => closeSnoop x s
def execMigAck (port job addr : Nat) (s : State) : Res := .next (cohSettle (cohFrame port (migAck port job addr) s))

/-- A coherence frame that breaks R403 in another way: a reserved or home-direction opcode. -/
def execCoherenceProtocolError (port : Nat) (s : State) : Res := .next (cohSettle (cohFrame port (cohError port) s))

/-! ### Timeout and scans (R400, R425 to R427) -/

def snoopTimeout (ctag : Nat) (s : State) : State :=
  match s.coh.snoops.find? (fun x => x.ctag == ctag) with
  | none => s
  | some x =>
    let s := bump kSnoopTimeouts (timeTo (x.at_ + rget kSnoopTimeoutUs s * nsUs) s)
    let (job, addr) := lineAddr x.line s
    let s := ledger 0x9000 ldSnoopTimeout clsUnit (pack [(x.port, 248), (job, 232), (addr, 144)]) s
    let s := raise 0x9000 0x01 11 (pack [(addr, 24), (job, 8), (x.port, 0)]) s
    let s := portReset x.port 5 s
    if s.coh.snoops.contains x then loseSnoop x (closeSnoop x s) else s
def execSnoopTimeout (ctag : Nat) (s : State) : Res := .next (cohSettle (snoopTimeout ctag s))

/-- The running scan ends: every purpose it serves is applied, and the next begins. -/
def scanDone (s : State) : State :=
  if s.coh.running.isEmpty then s
  else
    let now := s.coh.running
    let s := bump kFilterScans { s with coh := { s.coh with running := s.coh.scans, scans := [] } }
    let s := each now scanApply s
    each now (fun x s => match x with
      | .portLoss p => modPortTx p (fun t => { t with lossScan := false }) s
      | _ => s) s
def execFilterScanDone (s : State) : Res := .next (cohSettle (scanDone s))
/-- A way of a full set has no open transaction any more: its waiting requests go on (R423). -/
def wayFreed (q : Nat) (s : State) : State :=
  if s.txn.txs.any (fun t => t.wait == .filterSet && t.parts.any (fun p => lineSlice p.line == q && p.res.isNone)) then settle s
  else s
def execFilterWayFreed (quarter : Nat) (s : State) : Res := .next (wayFreed quarter s)

end Sys2Proof.Machine
end

