-- ==== Sys2Proof/Machine/FlitTx.lean ====
section
/-!
DEFINITION. What a Prerek link sends (11_prerek_links.md): the link CRC, flits, the replay buffer, frames cut into flits,
link management frames, credit returns.
-/
namespace Sys2Proof.Machine

/-! ### The link CRC (R329) -/

/-- One bit into the CRC-24 register. -/
def crc24Bit (c : Nat) (b : Bool) : Nat :=
  let d := c * 2 % 2 ^ 24
  if c.testBit 23 != b then d ^^^ 0x5D6DCB else d
/-- The n low bits of a number, most significant first. -/
def crc24Bits (n v c : Nat) : Nat := (List.range n).foldl (fun c i => crc24Bit c (v.testBit (n - 1 - i))) c
/-- CRC of header bits [63:24] and the payload's bytes. -/
def linkCrc (hdr40 : Nat) (payload : List Byte) : Nat :=
  payload.foldl (fun c b => crc24Bits 8 b.toNat c) (crc24Bits 40 hdr40 0xFFFFFF)
/-- Header bits [63:24] of Table 11.2. -/
def flitHdr40 (f : FlitHdr) : Nat :=
  pack [(f.typ % 4, 38), (f.vc % 8, 35), (f.resv % 2, 34), (f.seq % 4096, 22), (f.ack % 4096, 10), (f.cvc % 8, 7), (f.ccnt % 128, 0)]

/-! ### Flits sent (Tables 11.2 and 11.3, R330, R332, R333) -/

abbrev ftIdle : Nat := 0
abbrev ftData : Nat := 1
abbrev ftCredit : Nat := 2
abbrev ftNak : Nat := 3
abbrev flitBytes : Nat := 248
/-- The last sequence number received in order and intact. -/
def lastGood (l : Link) : Nat := (l.rxSeq + 4095) % 4096
/-- A sequenced flit leaves, with a current ACK. -/
def sendFlit (p : Nat) (f : TxFlit) (s : State) : State :=
  send (.flit p f.typ f.vc f.seq (lastGood (linkOf p s)) f.payload) s
/-- An IDLE or NAK flit leaves. -/
def sendBare (p typ : Nat) (s : State) : State := send (.flit p typ 0 0 (lastGood (linkOf p s)) []) s
/-- Flits that may be unacknowledged at once; before PARAM has said how many, the 2448's own depth. -/
def replayRoom (l : Link) : Nat := (if l.peerDepth = 0 then 2048 else min 2048 l.peerDepth) - l.unacked.length
/-- A new sequenced flit enters the replay buffer and leaves. -/
def newFlit (p typ vc : Nat) (payload : List Byte) (s : State) : State :=
  let l := linkOf p s
  let f : TxFlit := { seq := l.txSeq, typ := typ, vc := vc, payload := payload ++ List.replicate (flitBytes - payload.length) 0 }
  let l := { l with txSeq := (l.txSeq + 1) % 4096, ackAt := if l.unacked.isEmpty then s.now else l.ackAt, unacked := l.unacked ++ [f] }
  sendFlit p f (setLink p l s)
/-- Payloads of a frame: its bytes in order, the last one filled with zero. -/
def cutFrame (content : List Byte) : Nat → List (List Byte)
  | 0 => []
  | n + 1 => content.take flitBytes :: cutFrame (content.drop flitBytes) n
def flitsOf (content : List Byte) : List (List Byte) := cutFrame content (cdiv content.length flitBytes)
/-- Credits that a frame costs (R339). -/
def frameCost (bytes : Nat) : Nat := cdiv bytes 256
/-- The link runs: flits are sent and received. -/
def linkRuns (l : Link) : Bool :=
  l.st == .active || l.st == .ident || (l.st == .down && l.phase == .param)
def debit (vc n : Nat) (l : Link) : Link :=
  { l with credits := l.credits.set vc ((l.credits[vc]?).getD 0 - n) }
/-- May a frame be sent whole now? -/
def canSend (p vc bytes : Nat) (s : State) : Bool :=
  let l := linkOf p s
  linkRuns l && decide (frameCost bytes ≤ (l.credits[vc]?).getD 0) && decide (cdiv bytes flitBytes ≤ replayRoom l)
/-- Send a frame whole on a channel. -/
def sendFrame (p vc : Nat) (content : List Byte) (s : State) : State :=
  let s := modLink p (debit vc (frameCost content.length)) s
  each (flitsOf content) (fun b => newFlit p ftData vc b) s
/-- A link management frame: its 8 B word, then a body of n bytes. PARAM is sent before credits are known and debits
none. -/
def sendMgmt (p op n body : Nat) (s : State) : State :=
  let content := bytesOf 8 (pack [(op, 16), ((8 + n) / 8, 0)]) ++ bytesOf n body
  sendFrame p 0 content (send (.linkFrame p op body) s)

/-! ### Credit returns (R340) -/

/-- Credits become free: they are returned by a CREDIT flit as soon as the replay buffer has room for one; a quiesce
stops their return on every port (R557). -/
def payCredits (p : Nat) (s : State) : State :=
  let l := linkOf p s
  if !linkRuns l || l.owed.all (fun c => c == 0) || replayRoom l = 0 ||
     (s.rst.quiesce.isSome && decide (p < fabricPorts)) then s
  else
    let pay := (List.range 8).flatMap (fun i => bytesOf 2 ((l.owed[i]?).getD 0))
    let adv := (List.range 8).map (fun i => (l.advert[i]?).getD 0 + (l.owed[i]?).getD 0)
    newFlit p ftCredit 0 pay (setLink p { l with advert := adv, owed := [] } s)
/-- n credits of a channel are free again. -/
def owe (p vc n : Nat) (s : State) : State :=
  modLink p (fun l => { l with owed := (List.range 8).map (fun i => (l.owed[i]?).getD 0 + if i = vc then n else 0) }) s

end Sys2Proof.Machine
end

