-- ==== Sys2Proof/Machine/Traffic.lean ====
section
/-!
DEFINITION. Traffic classes (15_traffic_classes.md): meters, shapers and gate lists, and the writes that set them.
-/
namespace Sys2Proof.Machine

/-- Saturating 32-bit and 64-bit counts. -/
def cnt32 (n : Nat) : Nat := min (2 ^ 32 - 1) (n + 1)
def cnt64 (n : Nat) : Nat := min (2 ^ 64 - 1) (n + 1)

/-! ### Meters (R464 to R468) -/

abbrev tcKey (p c : Nat) : Nat := p * 8 + c
def polRec (p c : Nat) (s : State) : Nat := rgeti kPolicer (tcKey p c) s
def polOn (v : Nat) : Bool := bit v 15
def polCir (v : Nat) : Nat := fld v 127 96
def polPir (v : Nat) : Nat := fld v 95 64
def polCbs (v : Nat) : Nat := fld v 63 40
def polPbs (v : Nat) : Nat := fld v 39 16
def meterFull (v now : Nat) : Meter :=
  { tc := polCbs v * 1000, tp := polPbs v * 1000, at_ := now, green := 0, yellow := 0, red := 0, heldNs := 0, redAt := none }
/-- A meter with its buckets filled up to now. -/
def meterNow (p c : Nat) (s : State) : Meter :=
  let v := polRec p c s
  let m := tgetD s.traf.meters (tcKey p c) (meterFull v s.now)
  let dt := s.now - m.at_
  { m with tc := min (polCbs v * 1000) (m.tc + polCir v * dt), tp := min (polPbs v * 1000) (m.tp + polPir v * dt), at_ := s.now }
def setMeter (p c : Nat) (m : Meter) (s : State) : State :=
  { s with traf := { s.traf with meters := tput s.traf.meters (tcKey p c) m } }
inductive Colour where
  | green | yellow | red
  deriving DecidableEq, Repr
/-- Colour a frame of B bytes (R466). -/
def meterFrame (p c bytes : Nat) (s : State) : Colour × State :=
  let v := polRec p c s
  let m := meterNow p c s
  let b := bytes * 1000
  if !polOn v then (.green, setMeter p c { m with green := cnt64 m.green } s)
  else if m.tp < b then (.red, setMeter p c { m with red := cnt64 m.red } s)
  else if m.tc < b then (.yellow, setMeter p c { m with tp := m.tp - b, yellow := cnt64 m.yellow } s)
  else (.green, setMeter p c { m with tp := m.tp - b, tc := m.tc - b, green := cnt64 m.green } s)

/-- The control meter in units of 1/25,600,000 cell: CTRL_PERMILLE thousandths of 25.63 GB/s a lane (R464). -/
abbrev ctrlUnit : Nat := 25600000
def ctrlNow (p : Nat) (s : State) : Nat :=
  let (t, a) := tgetD s.traf.ctrl p (17 * ctrlUnit, s.now)
  min (17 * ctrlUnit) (t + rget kCtrlPermille s * portWidth p s * 2563 * (s.now - a))
/-- Does a VC0 frame of c cells find its cells? -/
def ctrlTake (p c : Nat) (s : State) : Bool × State :=
  let t := ctrlNow p s
  let ok := decide (c * ctrlUnit ≤ t)
  let s := { s with traf := { s.traf with ctrl := tput s.traf.ctrl p (if ok then t - c * ctrlUnit else t, s.now) } }
  (ok, onlyIf (!ok) (bump kCtrlDemoted) s)

/-! ### Shapers (R469, R470) -/

def shpRec (p c : Nat) (s : State) : Nat := rgeti kShaper (tcKey p c) s
def shpRate (v : Nat) : Nat := fld v 127 96
def shpBurst (v : Nat) : Nat := fld v 95 64
def shpOverhead (v : Nat) : Int := toS 8 (fld v 63 56)
def shaperDflt : Shaper := { tokens := 0, at_ := 0, waited := 0, waitFrom := none }
def shaperNow (p c : Nat) (s : State) : Shaper :=
  let v := shpRec p c s
  let x := tgetD s.traf.shapers (tcKey p c) shaperDflt
  { x with tokens := min ((shpBurst v * 1000 : Nat) : Int) (x.tokens + ((shpRate v * (s.now - x.at_) : Nat) : Int)), at_ := s.now }
def setShaper (p c : Nat) (x : Shaper) (s : State) : State :=
  { s with traf := { s.traf with shapers := tput s.traf.shapers (tcKey p c) x } }
def shaperOpen (p c : Nat) (s : State) : Bool := shpRate (shpRec p c s) == 0 || decide (0 ≤ (shaperNow p c s).tokens)
/-- Charge a granted frame. -/
def shaperCharge (p c bytes : Nat) (s : State) : State :=
  let v := shpRec p c s
  if shpRate v = 0 then s
  else
    let x := shaperNow p c s
    let w := match x.waitFrom with | some t => s.now - t | none => 0
    let n : Int := max ((bytes : Int) + shpOverhead v) 8
    setShaper p c { x with tokens := x.tokens - 1000 * n, waited := min (2 ^ 64 - 1) (x.waited + w), waitFrom := none } s
/-- A head frame waits for tokens. -/
def shaperWait (p c : Nat) (s : State) : State :=
  let x := shaperNow p c s
  if x.waitFrom.isSome then s else setShaper p c { x with waitFrom := some s.now } s

/-- A link-up from DOWN fills a port's meters and empties its shapers (R468, R470); the control meter fills. -/
def trafficLinkUp (p : Nat) (s : State) : State :=
  let fill (s : State) (c : Nat) : State :=
    let m := meterNow p c s
    let v := polRec p c s
    setShaper p c { shaperNow p c s with tokens := 0 }
      (setMeter p c { m with tc := polCbs v * 1000, tp := polPbs v * 1000 } s)
  let s := (List.range 8).foldl fill s
  { s with traf := { s.traf with ctrl := tdel s.traf.ctrl p } }

/-! ### Gate lists (R471 to R477) -/

def gateDflt : Gate :=
  { oper := 0, pend := 0, st := .none, t := 0, entry := 0, entryEnd := 0, cycleStart := 0, closing := false,
    dueFrom := 0, stepped := false }
def gateOf (l : Nat) (s : State) : Gate := tgetD s.traf.gates l gateDflt
def setGate (l : Nat) (g : Gate) (s : State) : State := { s with traf := { s.traf with gates := tput s.traf.gates l g } }
def gtBase (v : Nat) : Nat := fld v 4223 4160
def gtCycle (v : Nat) : Nat := fld v 4159 4128
def gtExt (v : Nat) : Nat := fld v 4127 4104
def gtCount (v : Nat) : Nat := fld v 4103 4096
def gtEntry (v i : Nat) : Nat := fld v (32 * i + 31) (32 * i)
def gtGates (e : Nat) : Nat := fld e 31 24
def gtInterval (e : Nat) : Nat := fld e 23 0
def gtEntries (v : Nat) : List Nat := (List.range (gtCount v)).map (gtEntry v)
/-- The gate list of a port, none when it names none. -/
def portList (p : Nat) (s : State) : Option Nat :=
  let v := tgetD s.traf.portGate p 0xFF
  if v ≤ 15 then some v else none
/-- Lengths of the runs of open entries of a class around the cycle; one that never closes is the whole cycle. -/
def gateRuns (es : List Nat) (c : Nat) : List Nat :=
  let opens := es.map (fun e => bit (gtGates e) c)
  if opens.all (fun b => b) then [] else
    -- start behind a closed entry, so that no run wraps
    let k := (opens.takeWhile (fun b => b)).length
    let r := (es.drop k ++ es.take k).foldl (fun (x : List Nat × Nat) e =>
      if bit (gtGates e) c then (x.1, x.2 + gtInterval e)
      else (if x.2 = 0 then x.1 else x.1 ++ [x.2], 0)) ([], 0)
    if r.2 = 0 then r.1 else r.1 ++ [r.2]
/-- The time of n cells at a width: n * 256 B at 25.63 GB/s a lane, as a comparison with ns. -/
def cellsFit (n lanes ns : Nat) : Bool := decide (n * 25600 ≤ ns * lanes * 2563)
/-- Every window of a list leaves room for 81 cells at a width (R472). -/
def gateWindows (v lanes : Nat) : Bool :=
  (List.range 8).all (fun c => (gateRuns (gtEntries v) c).all (fun n => cellsFit 81 lanes n))
/-- The ports that name a list. -/
def listPorts (l : Nat) (s : State) : List Nat :=
  (List.range fabricPorts).filter (fun p => portWidth p s != 0 && portList p s == some l)

/-- Remaining time for which a class stays open from now on; none = for ever. 0 when it is closed. -/
def gateOpenFor (g : Gate) (c now : Nat) : Option Nat :=
  let es := gtEntries g.oper
  let isOpen (e : Nat) : Bool := bit (gtGates e) c
  let rest := es.drop (g.entry + 1)
  if !isOpen (gtEntry g.oper g.entry) then some 0
  -- every gate opens as the list ends with its cycle
  else if g.closing && rest.all isOpen then none
  else
    let w : Option Nat := if es.all isOpen then none
      else some ((g.entryEnd - now) + lsum (((rest ++ es.take g.entry).takeWhile isOpen).map gtInterval))
    let swapped := g.st == .swapping && !g.closing && (match w with | none => true | some x => decide (g.t ≤ now + x))
    if !swapped then w
    else
      -- from T on the pending list's gates apply
      let ps := gtEntries g.pend
      if ps.all isOpen then none else some ((g.t - now) + lsum ((ps.takeWhile isOpen).map gtInterval))
/-- The full length of the open run that the current entry lies in. -/
def gateRunNow (g : Gate) (c : Nat) : Nat :=
  let es := gtEntries g.oper
  let isOpen (e : Nat) : Bool := bit (gtGates e) c
  let back := ((es.take g.entry).reverse ++ (es.drop (g.entry + 1)).reverse).takeWhile isOpen
  let fwd := (es.drop (g.entry + 1) ++ es.take g.entry).takeWhile isOpen
  lsum (fwd.map gtInterval) + lsum (back.map gtInterval) + gtInterval (gtEntry g.oper g.entry)
/-- May the gate of a class admit a frame of n cells behind E cells toward a port, and does it overrun (R473, R474)? -/
def gateAdmits (p c n e : Nat) (s : State) : Bool × Bool :=
  match portList p s with
  | none => (true, false)
  | some l =>
    let g := gateOf l s
    if g.st != .running && g.st != .swapping then (true, false)
    else match gateOpenFor g c (timebase s) with
      | none => (true, false)
      | some w =>
        let lanes := (linkOf p s).width
        if w = 0 then (false, false)
        else if cellsFit (e + n) lanes w then (true, false)
        else
          let short := decide (lanes < portWidth p s) && !cellsFit (e + n) lanes (gateRunNow g c) &&
            cellsFit (e + n) (portWidth p s) (gateRunNow g c)
          (short, short)

/-! ### Writes (R458, R463, R468, R470, R472) -/

/-- TC_RESULT keeps the outcome of the last write of 0x3200 or 0x3210; the write's own STATUS says it too (Table 16.8). -/
def tcPost (x : Status × State) : Status × State := (x.1, post16 kTcResult x.1 x.2)
/-- Is an object one of 0x3200 or 0x3210? -/
def isTc (key : Nat) : Bool := key / 256 == 0x3200 || key / 256 == 0x3210
def commitTcMap (v : Nat) (s : State) : Status × State :=
  tcPost (if (List.range 8).any (fun c => fld v (2 * c + 1) (2 * c) == 3) then (.refusedFormat, s) else (.done, rset kTcMap v s))
def commitQuantum (v : Nat) (s : State) : Status × State :=
  let ok := (List.range 8).all (fun c => decide (17 ≤ fld v (16 * c + 15) (16 * c)) && decide (fld v (16 * c + 15) (16 * c) ≤ 4096))
  tcPost (if ok then (.done, rset kQuantum v s) else (.refusedFormat, s))
def shaperBad (v : Nat) : Bool := decide (205000 < shpRate v) || decide (16777215 < shpBurst v)
/-- SHAPER, unless it would break an isolated job's conditions (R543). -/
def commitShaper (i v : Nat) (s : State) : Status × State :=
  let p := i / 8
  let c := i % 8
  let x := shaperNow p c s
  let t := rseti kShaper i v (setShaper p c { x with tokens := 0, waitFrom := none } s)
  tcPost (if shaperBad v || !isoAll t then (.refusedFormat, s) else (.done, t))
def commitPortGate (p v : Nat) (s : State) : Status × State :=
  let bad := if v ≤ 15 then
      let g := gateOf v s
      portWidth p s != 0 && ((g.st != .none && g.st != .pending && !gateWindows g.oper (portWidth p s)) ||
        ((g.st == .pending || g.st == .swapping) && !gateWindows g.pend (portWidth p s)))
    else v != 0xFF
  tcPost (if bad then (.refusedFormat, s)
    else (.done, rseti kPortGateList p v { s with traf := { s.traf with portGate := tput s.traf.portGate p v } }))

/-- Time until the timebase reaches a value. -/
def timebaseTo (t : Nat) (s : State) : State := if t ≤ timebase s then s else timeTo (timebaseAt t s) s

/-! ### The gate lists' state machine (Table 15.4) -/

def gStCode : GSt → Nat
  | .none => 0 | .pending => 1 | .running => 2 | .swapping => 3
/-- Move a list; each change of STATE is an event. -/
def gateTo (l : Nat) (g : Gate) (s : State) : State :=
  let was := (gateOf l s).st
  let r := pack [(g.t % 2 ^ 64, 16), (gStCode g.st, 8), (l, 0)]
  onlyIf (was != g.st) (raise 0x3300 0x01 10 r) (setGate l g s)
/-- The first instant at or after both BASE_TIME and a time that has the form BASE_TIME + n * CYCLE_NS. -/
def gateT (v dueFrom : Nat) : Nat :=
  if dueFrom ≤ gtBase v then gtBase v else gtBase v + cdiv (dueFrom - gtBase v) (gtCycle v) * gtCycle v
/-- R472. -/
def gateRecOk (l v : Nat) (s : State) : Bool :=
  decide (gtCount v ≤ 128) && decide (1000 ≤ gtCycle v) && decide (gtCycle v ≤ 1000000000) &&
  lsum ((gtEntries v).map gtInterval) == gtCycle v && (gtEntries v).all (fun e => decide (32 ≤ gtInterval e)) &&
  (listPorts l s).all (fun p => gateWindows v (portWidth p s))
def gateCommitStatus (l : Nat) (s : State) : Status × State :=
  let v := rgeti kGateAdmin l s
  let g := gateOf l s
  if gtCount v = 0 then
    match g.st with
    | .none => (.done, s)
    | .pending => (.done, gateTo l { g with st := .none, pend := 0, t := 0 } s)
    | .running | .swapping => (.done, setGate l { g with closing := true } s)
  else if !gateRecOk l v s then (.refusedFormat, s)
  else
    let dueFrom := timebase s + 100 * nsUs
    let t := gateT v dueFrom
    let st : GSt := match g.st with
      | .none | .pending => .pending
      | .running | .swapping => .swapping
    (.done, gateTo l { g with st := st, pend := v, t := t, dueFrom := dueFrom, closing := false } s)
def commitGate (v : Nat) (s : State) : Status × State :=
  let (st, t) := if v ≤ 15 then gateCommitStatus v s else (.refusedFormat, s)
  (.done, post16 kGateResult st t)

/-- Entry i of the running list begins. -/
def gateEnter (l i start : Nat) (s : State) : State :=
  let g := gateOf l s
  setGate l { g with entry := i, cycleStart := if i = 0 then start else g.cycleStart,
                     entryEnd := start + gtInterval (gtEntry g.oper i) } s
/-- T is reached: the pending list begins (R475), a running one is swapped out (R476). -/
def gateSwitch (l : Nat) (s : State) : State :=
  let g := gateOf l s
  if (g.st != .pending && g.st != .swapping) || g.closing then s
  else
    let s := timebaseTo g.t s
    let swap := g.st == .swapping
    let cut := swap && (g.t - gtBase g.oper) % gtCycle g.oper != 0
    let s := onlyIf cut (bump kGateTruncated) (onlyIf swap (bump kGateChanges) s)
    gateEnter l 0 g.t (gateTo l { g with st := .running, oper := g.pend, pend := 0, closing := false } s)
def execGateSwitch (list : Nat) (s : State) : Res := .next (gateSwitch list s)
/-- The entry that a time selects, and the end of its interval. -/
def gateSelect (g : Gate) (t : Nat) : Gate :=
  let start := gtBase g.oper + (t - gtBase g.oper) / gtCycle g.oper * gtCycle g.oper
  let es := gtEntries g.oper
  let ends := (List.range es.length).map (fun i => start + lsum ((es.take (i + 1)).map gtInterval))
  let i := (ends.takeWhile (fun e => decide (e ≤ t))).length
  { g with entry := i, entryEnd := (ends[i]?).getD t, cycleStart := start }
/-- The current entry ends: the next one, or at the cycle's end NONE, or the last entry runs on to T (R471, R476). -/
def gateEntryEnd (l : Nat) (s : State) : State :=
  let g := gateOf l s
  if g.st != .running && g.st != .swapping then s
  else
    let s := timebaseTo g.entryEnd s
    let g := { g with stepped := false }
    if (gateOf l s).stepped then setGate l (gateSelect g g.entryEnd) s
    else if g.entry + 1 < gtCount g.oper then gateEnter l (g.entry + 1) g.entryEnd s
    else if g.closing then gateTo l { gateDflt with st := .none } s
    else if g.st == .swapping && decide (g.entryEnd < g.t) && decide (g.t - g.entryEnd < gtExt g.oper) then
      setGate l { g with entryEnd := g.t } s
    else gateEnter l 0 g.entryEnd s
def execGateEntryEnd (list : Nat) (s : State) : Res := .next (gateEntryEnd list s)
/-- The timebase steps (R477): running lists keep their current entry's remaining time; a pending T is recomputed. -/
def gatesStep (old new : Nat) (s : State) : State :=
  { s with traf := { s.traf with gates := tmap s.traf.gates (fun _ g =>
      let dueFrom := new + g.dueFrom - old
      let g := { g with entryEnd := new + (g.entryEnd - old), stepped := g.st == .running || g.st == .swapping }
      if g.st == .pending || g.st == .swapping then { g with dueFrom := dueFrom, t := gateT g.pend dueFrom } else g) } }

end Sys2Proof.Machine
end

