-- ==== Sys2Proof/Machine/Links.lean ====
section
/-!
DEFINITION. Prerek links (11_prerek_links.md): configuration, link-up, identity binding, recovery, hold-down. Links 0 to
191 are the fabric ports, 192 to 207 the tray links. The flits are in Flits.lean.
-/
namespace Sys2Proof.Machine

/-! ### Widths and credits (Table 11.1, Tables 14.3 and 14.4) -/

def isTray (p : Nat) : Bool := decide (fabricPorts ≤ p)
def cfgWidth (p : Nat) (s : State) : Nat := if isTray p then 4 else portWidth p s
/-- MIN_WIDTH, where 0 counts as 1 (R343). -/
def minWidth (p : Nat) (s : State) : Nat := if isTray p then 1 else max 1 (fld (portCfg p s) 57 54)
/-- Is the link a port of its octet's shape? -/
def isPort (p : Nat) (s : State) : Bool := cfgWidth p s != 0
/-- Guaranteed cells of a link port of a width: its round trip at 25.6 GB/s for each lane. -/
def linkGuarantee (lanes : Nat) (s : State) : Nat := cdiv (rget kRoundTripNs s * lanes) 10
def guaranteeOf (p : Nat) (s : State) : Nat := linkGuarantee (cfgWidth p s) s
/-- The sum of the guarantees of all attachments (R436). -/
def guaranteedTotal (s : State) : Nat :=
  lsum ((List.range fabricPorts).map (fun p => guaranteeOf p s)) + 16 * linkGuarantee 4 s + 12 * rget kGwGuarantee s +
    16 * rget kEngineGuarantee s + 4 * rget kHaGuarantee s + 64
abbrev guaranteeMax : Nat := 131072
/-- What a port advertises (Table 14.4): VC0 to VC7. -/
def advertOf (p : Nat) (s : State) : List Nat :=
  let g := guaranteeOf p s
  if isTray p then [17, g - 17, 0, 0, 0, 0, 0, 0]
  else if portRolePeer p s then [17, (g - 17) / 4, 0, 0, 0, 0, 0, g - 17 - (g - 17) / 4]
  else
    let q := (g - 51) / 4
    [17, q, 17, 17, g - 51 - 3 * q, q, q, 0]

/-! ### PORT_CONFIG (R325, R326) -/

def cfgW (v : Nat) : Nat := fld v 63 60
/-- Table 11.1, or unconfigured. -/
def octetValid (vs : List Nat) : Bool :=
  let shapes : List (List Nat) := [[2, 2, 2, 2], [4, 0, 4, 0], [4, 0, 2, 2], [2, 2, 4, 0], [8, 0, 0, 0]]
  shapes.contains (vs.map cfgW) || vs.all (fun v => v == 0)
def octetCfg (o : Nat) (f : Nat → Nat) : List Nat := (List.range 4).map (fun i => f (4 * o + i))
def roleOk (v : Nat) : Bool := decide (fld v 59 58 ≤ 1)

/-- A port reset ends when its port is ACTIVE again, or is disabled or held: RESET record and event (R570). -/
def resetRecord (r : ResetRec) (ended unrecorded : Nat) (s : State) : State :=
  let sc := match r.scope with | .port => 0 | .job => 1 | .larder => 2 | .warm => 3 | .cold => 4
  let body := pack [(sc, 252), (r.cause, 248), (r.target % 65536, 232), (ended % 2 ^ 32, 200), (unrecorded % 2 ^ 32, 168),
    (min (2 ^ 32 - 1) ((s.now - r.at_) / nsUs), 136)]
  raise 0xB000 0x02 32 body (rset kLastReset body (ledger 0xB000 ldReset clsInfo body s))
def endPortReset (p : Nat) (s : State) : State :=
  match s.rst.inProgress.find? (fun r => r.scope == .port && r.target == p) with
  | none => s
  | some r => resetRecord r 0 0 { s with rst := { s.rst with inProgress := s.rst.inProgress.erase r } }

/-- Every port of an octet whose shape has changed starts anew, or is DISABLED. -/
def reshape (o : Nat) (s : State) : State :=
  each (List.range 4) (fun i s =>
    let p := 4 * o + i
    if isPort p s && portEnabled p s then portLeaves p .down clsInfo s
    else endPortReset p (portLeaves p .disabled clsInfo s)) s
/-- A set of PORT_CONFIG writes judged together: the outcome of each in order, and the records as they then stand. -/
def commitPortConfigs (raw : List (Nat × Nat)) (s : State) : List Status × State :=
  let ws := raw.map (fun w => (w.1, unreserved kPortConfig w.2))
  let good := ws.filter (fun w => roleOk w.2)
  let next (p : Nat) : Nat := match good.reverse.find? (fun w => w.1 == p) with
    | some w => w.2
    | none => rgeti kPortConfig p s
  let bad (o : Nat) : Bool := !octetValid (octetCfg o next)
  let fits := good.filter (fun w => !bad (w.1 / 4))
  let t := each fits (fun w => rseti kPortConfig w.1 w.2) s
  let quota := guaranteeMax < guaranteedTotal t
  let st (w : Nat × Nat) : Status :=
    if !roleOk w.2 || bad (w.1 / 4) then .refusedFormat else if quota then .refusedQuota else .done
  if quota then (ws.map st, s)
  else
    let octets := ((fits.map (fun w => w.1 / 4)).eraseDups).filter (fun o =>
      (octetCfg o (fun p => rgeti kPortConfig p s)).map cfgW != (octetCfg o (fun p => rgeti kPortConfig p t)).map cfgW)
    (ws.map st, each octets reshape t)
def commitPortConfig (p v : Nat) (s : State) : Status × State :=
  let (st, t) := commitPortConfigs [(p, v)] s
  (st.headD .refusedFormat, settle t)

/-! ### Counters and events of a link -/

/-- An event of a port or tray link: one byte of payload. -/
def linkEvent (n p : Nat) (s : State) : State := raise 0x2000 n 1 p s

/-! ### Hold-down (R352, R353) -/

def holdSeconds (n : Nat) : Nat := min (2 ^ (n - 1)) 64
/-- The lanes go to electrical idle; the n-th consecutive hold starts its timer. -/
def toHeld (p : Nat) (s : State) : State :=
  let s := portLeaves p .held clsUnit s
  let n := (linkOf p s).holdN + 1
  let s := modLink p (fun l => { l with holdN := n, holdUntil := s.now + holdSeconds n * nsS, holds := cnt32 l.holds }) s
  endPortReset p (linkEvent 0x04 p s)
/-- Count a retrain; one that would be the fifth within 1 s holds the port instead and is not counted (R352). -/
def linkRetrain (p : Nat) (k : State → State) (s : State) : State :=
  let l := linkOf p s
  let r := l.retrains.filter (fun t => decide (s.now < t + nsS))
  if 4 ≤ r.length then toHeld p (modLink p (fun l => { l with retrains := r }) s)
  else k (modLink p (fun l => { l with retrains := r ++ [s.now], retrainCount := cnt32 l.retrainCount }) s)
/-- Entry to RECOVERY from ACTIVE (R348). -/
def enterRecovery (p : Nat) (s : State) : State :=
  if (linkOf p s).st != .active then s
  else linkRetrain p (modLink p (fun l => { l with st := .recovery, recoveryAt := s.now })) s

/-! ### Link-up (Table 11.4) -/

/-- Link-up starts from DOWN. -/
def startLinkup (p : Nat) (s : State) : State :=
  modLink p (fun l => { l with st := .down, phase := .detect, phaseAt := s.now, evidence := none, width := 0, lanes := [] }) s
/-- A phase fails, or an identity is refused: counted, and link-up starts again. -/
def linkFail (p : Nat) (s : State) : State :=
  startLinkup p (modLink p (fun l => { l with linkupFail := cnt32 l.linkupFail }) s)
/-- In a phase of link-up: go on, at the given phase. -/
def inPhase (p : Nat) (ph : Phase) (k : State → State) (s : State) : State :=
  if (linkOf p s).st == .down && (linkOf p s).phase == ph then k s else s
def toPhase (p : Nat) (ph : Phase) (s : State) : State := modLink p (fun l => { l with phase := ph, phaseAt := s.now }) s

/-- Link-up leaves DOWN: the configuration now takes effect (R326). -/
def trainLink (p : Nat) (s : State) : State :=
  toPhase p .equalise (modLink p (fun l => { l with cfg := rgeti kPortConfig p s }) s)
def execDetectDone (link : Nat) (s : State) : Res :=
  .next (settle (inPhase link .detect (linkRetrain link (trainLink link)) s))
def execEqualiseDone (link : Nat) (s : State) : Res := .next (inPhase link .equalise (toPhase link .fecLock) s)
def execFecLockDone (link : Nat) (s : State) : Res := .next (inPhase link .fecLock (toPhase link .order) s)
/-- PARAM starts: SEQ from 0, the credits of Table 14.4, the frame itself (Table 11.5). -/
def startParam (p : Nat) (lanes : List Nat) (s : State) : State :=
  let adv := advertOf p s
  let role := if isTray p then 2 else b2n (portRolePeer p s)
  let body := pack ([(1, 312), (role, 304), (lanes.length, 296), (min 2048 (256 * cfgWidth p s), 272)] ++
    ((List.range 8).map (fun i => ((adv[i]?).getD 0 % 65536, 16 * i))))
  let l := { linkOf p s with phase := .param, phaseAt := s.now, lanes := lanes, width := lanes.length, advert := adv }
  let l := { l with txSeq := 0, rxSeq := 0, unacked := [], credits := [], owed := [], nakPending := false, lastReplay := none, sameReplays := 0 }
  let s := setLink p { l with stream := [], fecTimes := [], ackAt := s.now } s
  -- frames of an earlier link-up return no credits to this one
  let s := { s with sw := { s.sw with frames := s.sw.frames.map (fun f => if f.ingress = p then { f with credit := 0 } else f) } }
  sendMgmt p 0xF0 40 body s
def orderDone (p : Nat) (lanes : List Nat) (s : State) : State :=
  let ls := (lanes.filter (fun l => decide (l < cfgWidth p s))).eraseDups
  if ls.length < minWidth p s then linkFail p s else startParam p ls s
def execOrderDone (link : Nat) (lanes : List Nat) (s : State) : Res := .next (inPhase link .order (orderDone link lanes) s)

/-- The bound of a phase, ns. -/
def phaseBound (ph : Phase) : Nat :=
  match ph with
  | .detect => 100 * nsMs
  | .equalise => 50 * nsMs
  | .fecLock | .order | .param => nsMs
  | .ident => 60 * nsS
/-- A phase of link-up overruns its bound; DETECT repeats without a failure. -/
def phaseTimeout (p : Nat) (s : State) : State :=
  let l := linkOf p s
  if l.st == .down then
    let s := timeTo (l.phaseAt + phaseBound l.phase) s
    if l.phase = .detect then toPhase p .detect s else linkFail p s
  else if l.st == .ident && isTray p then linkFail p (timeTo (l.phaseAt + phaseBound .ident) s)
  else s
def execLinkupPhaseTimeout (link : Nat) (s : State) : Res := .next (settle (phaseTimeout link s))

/-! ### PARAM (R344) -/

/-- R340: none or at least 17 on every channel; R342 for a partner, a caching one too. -/
def creditsOk (p : Nat) (cs : List Nat) (s : State) : Bool :=
  let c (i : Nat) : Nat := (cs[i]?).getD 0
  (List.range 8).all (fun i => c i == 0 || decide (17 ≤ c i)) &&
  (isTray p || portRolePeer p s ||
    (decide (17 ≤ c 0) && decide (17 ≤ c 1) && (!bit (rgeti kCohPortCaching p s) 0 || decide (17 ≤ c 3))))
/-- The nonce of an identity exchange, a free value. -/
def sendNonce (p : Nat) (s : State) : State :=
  let (n, s) := draw s
  let n := n % 2 ^ 256
  sendMgmt p 0xF1 40 (pack [(s.sec.flash.idTag % 2 ^ 64, 256), (n, 0)])
    (modLink p (fun l => { l with nonce := n, evidence := none }) s)
/-- Link-up reaches IDENT: the exchange starts, or a tray's discovery (R354). -/
def startIdent (p : Nat) (s : State) : State :=
  let s := modLink p (fun l => { l with st := .ident, phase := .ident, phaseAt := s.now }) s
  if isTray p then
    let s := { s with tiers := { s.tiers with cmds := s.tiers.cmds.filter (fun c => !(c.tray == p - 192 && isDiscovery c.why)) } }
    discover1 (p - 192) 0 s
  else sendNonce p s
def paramIn (p version role width depth : Nat) (credits : List Nat) (s : State) : State :=
  let l := linkOf p s
  let want := if isTray p then 2 else b2n (portRolePeer p s)
  let w := min l.lanes.length width
  if version != 1 || role != want || !creditsOk p credits s || w = 0 then linkFail p s
  else
    let caching := !isTray p && bit (rgeti kCohPortCaching p s) 0
    let l := { l with width := w, lanes := l.lanes.take w, peerDepth := min 2048 depth, credits := credits }
    startIdent p (trafficLinkUp p <| setLink p { l with caching := caching, tcMap := rgeti kTcMap p s } s)
def execParam (link version role width depth : Nat) (credits : List Nat) (s : State) : Res :=
  .next (settle (inPhase link .param (paramIn link version role width depth credits) s))

/-! ### Identity binding (R345, R346) -/

def expectId (p : Nat) (s : State) : Nat := fld (rgeti kPortExpect p s) 511 500
def expectDigest (p : Nat) (s : State) : Nat := rgeti kPortExpect p s % 2 ^ 256
/-- The message that an IDENT signs. -/
def identMsg (nonce tag port claim : Nat) : List Byte :=
  ([0x50, 0x52, 0x4B, 0x31] : List Byte) ++ bytesOf 32 nonce ++ bytesOf 8 tag ++ bytesOf 2 port ++ bytesOf 2 claim
/-- First 32 B of the hash of MODULUS followed by EXPONENT. -/
def keyDigest (modulus exponent : Nat) : Nat := Config.sha512 (bytesOf 512 modulus ++ bytesOf 4 exponent) % 2 ^ 256
def identRecord (claim result digest : Nat) : Nat := pack [(claim % 4096, 500), (result, 492), (digest % 2 ^ 256, 0)]

/-- The claim is refused: IDENT_RESULT DENIED, and back to DOWN. -/
def identDenied (p claim digest : Nat) (s : State) : State :=
  let s := modLink p (fun l => { l with identRec := identRecord claim (statusCode .denied) digest }) s
  linkFail p (sendMgmt p 0xF3 8 (statusCode .denied) s)
/-- The attachment of a link in the switch core (ATTACH_SELECT). -/
def rejoin (a : Nat) (s : State) : State :=
  let x := tgetD s.sw.attach a { g := 0, s := 0, early := 0, re := .normal, warm := 0, warmAt := 0 }
  bump kReadmits { s with sw := { s.sw with attach := tput s.sw.attach a { x with re := .cyclic, warm := 0, warmAt := s.now } } }
/-- The port is bound and ACTIVE in a new epoch (R345, R384, Table 14.6). -/
def bindPort (p claim digest : Nat) (s : State) : State :=
  let s := modLink p (fun l => { l with st := .active, activeAt := s.now, bound := some claim, evidence := none,
                                          identRec := identRecord claim (statusCode .done) digest }) s
  let s := modPortTx p (fun x => { portTxDflt with epoch := x.epoch + 1 }) s
  let s := sendMgmt p 0xF3 8 (statusCode .done) s
  rejoin p (linkEvent 0x01 p (endPortReset p s))
/-- Every IDENT exchange of the port is answered DENIED: its own identity has failed, or the certificate's chain (R528,
R529). -/
def identBarred (p : Nat) (s : State) : Bool :=
  let st := rget kIdentityStatus s
  st == 3 || (portRolePeer p s && (st == 1 || st == 2))
/-- Nothing of the old epoch is left (R384, R427), and a PEER's own identity is derived (R550). -/
def mayEnter (p : Nat) (s : State) : Bool :=
  !(portTx p s).draining && !(portTx p s).lossScan && (!portRolePeer p s || s.sec.identityDone)
/-- Judge the evidence a port holds against PORT_EXPECT, once there is one. -/
def tryBind (p : Nat) (s : State) : State :=
  match (linkOf p s).st, (linkOf p s).evidence with
  | .ident, some (claim, digest, ok) =>
    if identBarred p s then identDenied p claim digest s
    else if expectId p s = 0xFFF then s
    else if !ok || expectId p s != claim || expectDigest p s != digest then identDenied p claim digest s
    -- a binding that would break an isolated job's conditions (R543)
    else if !isoAll (modLink p (fun l => { l with bound := some claim }) s) then identDenied p claim digest s
    else if !mayEnter p s then s
    else bindPort p claim digest s
  | _, _ => s
/-- An IDENT arrives: its evidence is judged, or held while PORT_EXPECT is empty, whatever it is worth (R345, R346). -/
def identIn (p claim exponent modulus sig nonce : Nat) (s : State) : State :=
  let l := linkOf p s
  if isTray p || l.st != .ident || l.evidence.isSome then s
  else
    let d := keyDigest modulus exponent
    let ok := nonce == l.nonce &&
      Config.rsaVerify modulus exponent (identMsg nonce (s.sec.flash.idTag % 2 ^ 64) p claim) sig
    if identBarred p s then identDenied p claim d s
    else
      let s := modLink p (fun l => { l with evidence := some (claim, d, ok), identRec := identRecord claim (statusCode .retry) d }) s
      if expectId p s = 0xFFF then linkEvent 0x05 p s else tryBind p s
def execIdent (port claim exponent modulus sig nonce : Nat) (s : State) : Res :=
  .next (settle (identIn port claim exponent modulus sig nonce s))

/-- A peer's nonce is answered with this home's IDENT, once its identity is derived (R345, R550). -/
def nonceIn (p nonce tag : Nat) (s : State) : State :=
  let l := linkOf p s
  if !portRolePeer p s || isTray p || !s.sec.identityDone || !(l.st == .ident || (l.st == .down && l.phase == .param)) then s
  else if identBarred p s then sendMgmt p 0xF3 8 (statusCode .denied) s
  else
    let sig := Config.rsaSign (identityKey s) (identMsg (nonce % 2 ^ 256) (tag % 2 ^ 64) p (homeIndex s))
    sendMgmt p 0xF2 1064 (pack [(homeIndex s % 16, 8500), (65537, 8448),
      (Config.identityModulus (identityKey s) % 2 ^ 4096, 4352), (sig % 2 ^ 4096, 256), (nonce % 2 ^ 256, 0)]) s
def execIdentNonce (port nonce tag : Nat) (s : State) : Res := .next (nonceIn port nonce tag s)
/-- A peer's verdict on this home's IDENT: a refusal ends the exchange. -/
def identVerdict (p status : Nat) (s : State) : State :=
  if (linkOf p s).st == .ident && portRolePeer p s && statusOf status != .done then linkFail p s else tryBind p s
def execIdentResult (port status : Nat) (s : State) : Res := .next (settle (identVerdict port status s))
/-- 60 s pass in IDENT; a PEER's bound runs from the end of identity derivation (R346, R550). -/
def identTimeout (p : Nat) (s : State) : State :=
  let l := linkOf p s
  if l.st != .ident || (portRolePeer p s && !s.sec.identityDone) then s
  else
    let from_ := if portRolePeer p s then max l.phaseAt (s.sec.identityAt.getD 0) else l.phaseAt
    let s := timeTo (from_ + phaseBound .ident) s
    let s := match l.evidence with
      | some (c, d, _) => modLink p (fun l => { l with identRec := identRecord c (statusCode .denied) d }) s
      | none => s
    linkFail p s
def execIdentTimeout (port : Nat) (s : State) : Res := .next (settle (identTimeout port s))
/-- PORT_EXPECT: held evidence is judged (R346). -/
def commitPortExpect (p v : Nat) (s : State) : Status × State := (.done, tryBind p (rseti kPortExpect p v s))
/-- The tracker holds nothing of the old epoch any more: a port waiting for that enters ACTIVE (R384). -/
def execEpochDrained (port : Nat) (s : State) : Res := .next (settle (tryBind port (epochDrained port s)))

/-- A tray's answer; the last of discovery brings its link to ACTIVE (R79, Table 14.6). -/
def trayAnswered (r : TrayRsp) (s : State) : State :=
  let was := (linkOf r.link s).st
  let s := trayResponse r s
  if was == .ident && (linkOf r.link s).st == .active then rejoin r.link (endPortReset r.link s) else s
def execTrayResponse (r : TrayRsp) (s : State) : Res := .next (settle (trayAnswered r s))

/-! ### PORT_CMD and TLINK_CMD (Table 11.9, R552) -/

/-- RESET begins 100 µs after its commit (R552); a port outside IDENT, ACTIVE and RECOVERY is unchanged. -/
def queueReset (scope : Scope) (target : Nat) (s : State) : State :=
  { s with rst := { s.rst with pendingR := s.rst.pendingR ++
      [{ scope := scope, target := target, cause := 0, at_ := s.now + 100 * nsUs, ended := 0, unrec := 0 }] } }
def commitPortCmd (p v : Nat) (s : State) : Status × State :=
  let st := (linkOf p s).st
  if v = 1 then (.done, if st == .disabled && isPort p s then startLinkup p s else s)
  else if v = 2 then
    (.done, if st == .disabled then s else settle (endPortReset p (portLeaves p .disabled clsInfo s)))
  else if v = 3 then
    (.done, if st == .ident || st == .active || st == .recovery then queueReset .port p s else s)
  else if v = 4 then (.done, if st == .held then startLinkup p s else s)
  else (.refusedFormat, s)

/-! ### Recovery and holds (R348 to R353) -/

/-- Start resending every unacknowledged flit from the oldest (R335); too many replays from one SEQ retrain the link
(R336). -/
def replay (p : Nat) (s : State) : State :=
  let l := linkOf p s
  match l.unacked with
  | [] => s
  | f :: _ =>
    let n := if l.lastReplay = some f.seq then l.sameReplays + 1 else 1
    let s := modLink p (fun l => { l with lastReplay := some f.seq, sameReplays := n, replays := cnt64 l.replays, ackAt := s.now }) s
    let s := each l.unacked (fun f => sendFlit p f) s
    if rget kReplayLimit s ≤ n then enterRecovery p (modLink p (fun l => { l with lastReplay := none, sameReplays := 0 }) s) else s

def lossOfLock (p lane : Nat) (s : State) : State := if (linkOf p s).lanes.contains lane then enterRecovery p s else s
def execLossOfLock (link lane : Nat) (s : State) : Res := .next (settle (lossOfLock link lane s))
def execTs1Received (link : Nat) (s : State) : Res := .next (settle (enterRecovery link s))
/-- RECOVERY ends: back to ACTIVE with the lanes left, or DOWN when they are too few (R349 to R351). -/
def recoveryDone (p : Nat) (lanes : List Nat) (s : State) : State :=
  let l := linkOf p s
  if l.st != .recovery then s
  else
    let ls := l.lanes.filter (fun x => lanes.contains x)
    if ls.length < minWidth p s then portLeaves p .down clsUnit s
    else
      let s := modLink p (fun l => { l with st := .active, lanes := ls, width := ls.length, activeAt := s.now, fecTimes := [] }) s
      replay p (onlyIf (decide (ls.length < l.width)) (linkEvent 0x03 p) s)
def execRecoveryDone (link : Nat) (lanes : List Nat) (s : State) : Res := .next (settle (recoveryDone link lanes s))
def recoveryTimeout (p : Nat) (s : State) : State :=
  let l := linkOf p s
  if l.st != .recovery then s else portLeaves p .down clsUnit (timeTo (l.recoveryAt + 10 * nsMs) s)
def execRecoveryTimeout (link : Nat) (s : State) : Res := .next (settle (recoveryTimeout link s))
def holdExpired (p : Nat) (s : State) : State :=
  let l := linkOf p s
  if l.st != .held then s else startLinkup p (timeTo l.holdUntil s)
def execHoldTimerExpiry (link : Nat) (s : State) : Res := .next (holdExpired link s)
def holdReset (p : Nat) (s : State) : State :=
  let l := linkOf p s
  if l.st != .active || l.holdN = 0 then s else modLink p (fun l => { l with holdN := 0 }) (timeTo (l.activeAt + 64 * nsS) s)
def execHoldCountReset (link : Nat) (s : State) : Res := .next (holdReset link s)

end Sys2Proof.Machine
end

