-- ==== Sys2Proof/Machine/Switch.lean ====
section
/-!
DEFINITION. The switch core's buffer (14_switch_core.md): attachments, flows and buckets, cells and their accounting,
how a frame enters and leaves, capture sessions, the goose.
-/
namespace Sys2Proof.Machine

/-! ### Attachments (Table 14.1; numbered as ATTACH_SELECT) -/

abbrev attTray (t : Nat) : Nat := 192 + t
abbrev attGw (l : Nat) : Nat := 208 + l
abbrev attEngine (slice k : Nat) : Nat := 220 + 4 * slice + k
abbrev attLoft : Nat := 236
abbrev attHome (slice : Nat) : Nat := 237 + slice
abbrev attachments : Nat := 241
/-- The sub-port that carries traffic between an attachment and another: units with several spread by the other. -/
def subPort (a other : Nat) : Nat :=
  if a < 192 then a / 4
  else if a < 208 then 48 + (a - 192)
  else if a < 220 then 64 + (a - 208)
  else if a < 236 then
    match (a - 220) % 4 with
    | 0 => 76 + other % 6
    | 1 => 82 + other % 4
    | 2 => 86 + other % 4
    | _ => 90
  else if a = attLoft then 91
  else 92 + other % 4
abbrev subPorts : Nat := 96

def attachDflt : Attach := { g := 0, s := 0, early := 0, re := .normal, warm := 0, warmAt := 0 }
def attachOf (a : Nat) (s : State) : Attach := tgetD s.sw.attach a attachDflt
def setAttach (a : Nat) (x : Attach) (s : State) : State := { s with sw := { s.sw with attach := tput s.sw.attach a x } }
def modAttach (a : Nat) (f : Attach → Attach) (s : State) : State := setAttach a (f (attachOf a s)) s
/-- In cyclic mode: CYCLIC or JOINING. -/
def isCyclic (a : Nat) (s : State) : Bool := (attachOf a s).re != .normal
def anyCyclic (s : State) : Bool := s.sw.attach.any (fun e => e.2.re != .normal)

/-- A slice as it leaves reset: two-stage at full width until its scheduler's self-test (Table 14.5). -/
def sliceDflt : Slice :=
  { mode := .twoStage, held := [], gptr := [], aptr := [], sptr := 0, cycle := 0, lanes := [], rotation := [], reseq := [],
    matched := 0, matchedAt := 0, matchedLast := 0, faultAt := none, tested := false }
def sliceOf (i : Nat) (s : State) : Slice := tgetD s.sw.slices i sliceDflt
def setSlice (i : Nat) (x : Slice) (s : State) : State := { s with sw := { s.sw with slices := tput s.sw.slices i x } }
def modSlice (i : Nat) (f : Slice → Slice) (s : State) : State := setSlice i (f (sliceOf i s)) s

/-! ### Cells (R430, R431) -/

abbrev bankCells : Nat := 49152
def cellsOf (bytes : Nat) : Nat := cdiv bytes 256
def bankFree (b : Nat) (s : State) : Nat := (tgetD s.sw.freeCells b []).length + (bankCells - tgetD s.sw.freshCells b 0)
/-- The bank a slice writes its next cell to. -/
def pickBank (slice : Nat) (s : State) : Nat :=
  if bankFree slice s != 0 then slice
  else (List.range 4).foldl (fun b c => if bankFree b s < bankFree c s then c else b) 0
def takeCell (b : Nat) (s : State) : Nat × State :=
  match tgetD s.sw.freeCells b [] with
  | c :: r => (b * bankCells + c, { s with sw := { s.sw with freeCells := tput s.sw.freeCells b r } })
  | [] =>
    let n := tgetD s.sw.freshCells b 0
    (b * bankCells + n, { s with sw := { s.sw with freshCells := tput s.sw.freshCells b (n + 1) } })
def takeCells (slice : Nat) : Nat → State → List Nat × State
  | 0, s => ([], s)
  | n + 1, s =>
    let b := pickBank slice s
    if bankFree b s = 0 then ([], s)
    else
      let (c, s) := takeCell b s
      let (r, s) := takeCells slice n (onlyIf (b != slice) (bump kRemoteCells) s)
      (c :: r, s)
def freeCell (c : Nat) (s : State) : State :=
  let b := c / bankCells
  { s with sw := { s.sw with freeCells := tput s.sw.freeCells b (tgetD s.sw.freeCells b [] ++ [c % bankCells]) } }

/-! ### Accounting (R438, R439) -/

/-- S - the shared cells in use. -/
def sharedFree (s : State) : Nat := 196608 - guaranteedTotal s - lsum (s.sw.attach.map (fun e => e.2.s))
def setFrame (f : Frame) (s : State) : State :=
  { s with sw := { s.sw with frames := s.sw.frames.map (fun x => if x.id = f.id then f else x) } }
def frameOf (id : Nat) (s : State) : Option Frame := s.sw.frames.find? (fun f => f.id == id)
/-- Shared cells of a virtual output queue. -/
def voqShared (f : Frame) (s : State) : Nat :=
  lsum ((s.sw.frames.filter (fun x => x.shared && x.slice == f.slice && x.inSub == f.inSub && x.dest == f.dest && x.vc == f.vc)).map
    (·.cells))
/-- A port of a job in isolation mode never shares (R545). -/
def isoPort (p : Nat) (s : State) : Bool :=
  decide (p < 192) && (portJobs p s).any (fun slot => match tget s.pool.jobs slot with | some j => j.iso.enable | none => false)
def mayShare (f : Frame) (s : State) : Bool :=
  let free := sharedFree s
  !f.shared && !f.yellow && !f.red && !isoPort f.ingress s && decide (f.cells ≤ free) &&
  decide (((attachOf f.ingress s).s + f.cells) * 8 ≤ 2 ^ rget kShareAlpha s * (free - f.cells)) &&
  decide (voqShared f s < rget kVoqSharedMax s)
/-- Credits of a link frame are free again. -/
def creditBack (f : Frame) (s : State) : State := if f.ingress < 208 then owe f.ingress f.vc f.credit s else s
/-- Move a frame to the shared pool when R438 lets it: its credits return at once. -/
def shareFrame (id : Nat) (s : State) : State :=
  match frameOf id s with
  | none => s
  | some f =>
    if !mayShare f s then s
    else
      let s := modAttach f.ingress (fun a => { a with g := a.g - f.cells, s := a.s + f.cells, early := min (2 ^ 64 - 1) (a.early + f.cells) }) s
      creditBack f (setFrame { f with shared := true } s)
/-- Apply R438 to every frame in the guarantee, oldest first. -/
def reshare (s : State) : State := each (s.sw.frames.map (·.id)) shareFrame s
/-- Take a frame out of the buffer: its cells and counts return (R439). -/
def frameLeaves (f : Frame) (s : State) : State :=
  let s := { s with sw := { s.sw with frames := s.sw.frames.filter (fun x => x.id != f.id) } }
  let s := each f.addrs freeCell s
  let s := modAttach f.ingress (fun a => if f.shared then { a with s := a.s - f.cells } else { a with g := a.g - f.cells }) s
  let s := modSlice f.slice (fun x => { x with held := x.held.filter (fun h => h.2.2 != f.id),
                                               lanes := tmap x.lanes (fun _ l => l.filter (fun i => i != f.id)),
                                               reseq := x.reseq.filter (fun i => i != f.id) }) s
  onlyIf (!f.shared) (creditBack f) s

/-! ### Flows and buckets (Table 14.2, R432, R435) -/

def frameBits (content : List Byte) (hi lo : Nat) : Nat :=
  fld (natOf ((content.drop (lo / 8)).take (hi / 8 + 1 - lo / 8))) (hi - lo / 8 * 8) (lo % 8)
def frameOp (content : List Byte) : Nat := frameBits content 23 16
def bucketOf (key : Nat) : Nat := Config.flowHash key % 256
def bucketSlice (b : Nat) (s : State) : Nat := tgetD s.sw.buckets b (b % 4)
/-- The flow key of a frame that enters at a link: none where Table 14.2 names the slice itself. -/
def flowKey (link : Nat) (content : List Byte) : Option Nat :=
  let op := frameOp content
  let key (kind x : Nat) : Option Nat := some (pack [(kind, 88), (link, 80), (x, 0)])
  if isTray link then key 6 (frameBits content 183 168)
  else if op = 0x28 then key 2 (frameBits content 255 244 * 2 ^ 30 + frameBits content 229 200)
  else if op = 0x80 then key 3 (frameBits content 95 80)
  else if op = 0x40 then key 4 (frameBits content 191 160)
  else if op = 0x41 then key 4 0
  else if op = 0x70 || op = 0x72 then none
  else key 1 (frameBits content 199 184 * 2 ^ 49 + (if op = 0x04 then 0 else frameBits content 255 207))
/-- The slice that a link's frame enters. -/
def sliceFor (link : Nat) (content : List Byte) (s : State) : Nat :=
  match flowKey link content with
  | some k => if isTray link then frameBits content 183 168 % 4 else bucketSlice (bucketOf k) s
  | none =>
    if frameOp content = 0x70 then frameBits content 183 182
    else match addrLine (frameBits content 199 184) (frameBits content 255 200) s with
      | some lk => lineSlice lk
      | none => 0
/-- The attachment that a link's frame is for. -/
def destOf (link slice : Nat) (content : List Byte) : Nat :=
  let op := frameOp content
  if isTray link then attHome slice
  else if op = 0x28 || op = 0x80 then attEngine slice 0
  else if op = 0x40 || op = 0x41 then attLoft
  else attHome slice
/-- Class of Table 15.1. -/
def classOf (link vc : Nat) (content : List Byte) (s : State) : Nat :=
  if isTray link then rget kTrayTc s
  else if vc = 0 || vc = 2 || vc = 3 then 0
  else if 4 ≤ vc && vc ≤ 6 then frameBits content 122 120
  else if frameOp content = 0x80 then rget kDeliverTc s
  else rget kPeerTc s

def sameFlow (a b : Frame) : Bool :=
  a.slice == b.slice && (match a.flow, b.flow with
    | some x, some y => x.1 == y.1
    | none, none => a.ingress == b.ingress && a.dest == b.dest && a.vc == b.vc
    | _, _ => false)
def sameVoq (a b : Frame) : Bool := a.slice == b.slice && a.inSub == b.inSub && a.dest == b.dest && a.vc == b.vc
/-- High level (R462). -/
def highFrame (f : Frame) : Bool := (f.vc == 0 || f.vc == 2 || f.vc == 3) && !f.demoted

/-! ### A frame enters -/

/-- A new frame of the buffer, charged to its guarantee (R438). -/
def placeFrame (f : Frame) (s : State) : State :=
  let (addrs, s) := takeCells f.slice f.cells s
  let f := { f with id := s.sw.nextFrame, addrs := addrs }
  let s := modAttach f.ingress (fun a => { a with g := a.g + f.cells }) s
  shareFrame f.id { s with sw := { s.sw with frames := s.sw.frames ++ [f], nextFrame := f.id + 1 } }
/-- R460: a frame stands behind an earlier frame of its flow in another class, and takes its class. -/
def inheritClass (f : Frame) (s : State) : Frame × State :=
  if highFrame f then (f, s)
  else match s.sw.frames.reverse.find? (fun x => sameFlow x f && sameVoq x f && x.sent == 0 && !highFrame x) with
    | some x => if x.cls = f.cls then (f, s) else ({ f with cls := x.cls }, bump kClassInherited s)
    | none => (f, s)
/-- Colour a frame of a PARTNER port on VC4 to VC6; later frames of a port and class wait behind a red one (R465 to R467). -/
def colourFrame (f : Frame) (tc : Nat) (s : State) : Frame × State :=
  if isTray f.ingress || portRolePeer f.ingress s || !(decide (4 ≤ f.vc) && decide (f.vc ≤ 6)) then (f, s)
  else if s.sw.frames.any (fun x => x.red && x.ingress == f.ingress && x.own == tc) then ({ f with red := true }, s)
  else
    let (c, s) := meterFrame f.ingress tc f.bytes s
    let s := if c = .red then setMeter f.ingress tc { meterNow f.ingress tc s with redAt := some s.now } s else s
    ({ f with red := c == .red, yellow := c == .yellow }, s)
/-- A whole frame from a link enters its slice. -/
def switchIn (link vc credit : Nat) (content : List Byte) (s : State) : State :=
  let slice := sliceFor link content s
  let flow := (flowKey link content).map (fun k => (k, bucketOf k))
  let dest := destOf link slice content
  let cls := classOf link vc content s
  let c := cellsOf content.length
  -- a bucket on its way to another slice enters it behind a barrier (R435)
  let barrier := match flow with
    | some (_, b) => !isTray link && s.sw.moving.any (fun m => m.1 == b)
    | none => false
  let (ok, s) := if vc = 0 && !isTray link && !portRolePeer link s then ctrlTake link c s else (true, s)
  let f : Frame :=
    { id := 0, slice := slice, ingress := link, inSub := subPort link dest, dest := dest, outSub := subPort dest link,
      vc := vc, cls := if ok then cls else 7, own := cls, cells := c, credit := credit,
      bytes := content.length, flow := flow,
      content := content, addrs := [], sent := 0, out := 0, shared := false, yellow := false, red := false,
      barrier := barrier, cyclic := false, turn := 0, demoted := !ok }
  let (f, s) := inheritClass f s
  let (f, s) := colourFrame f cls s
  placeFrame f s
/-- A frame that a unit of the block sends enters a slice, of a flow (Table 14.2) where one is given; one whose bucket is on
its way to another slice enters behind a barrier (R435). -/
def switchFrom (slice ingress dest vc cls : Nat) (flow : Option (Nat × Nat)) (content : List Byte) (s : State) : State :=
  let barrier := match flow with
    | some (_, b) => s.sw.moving.any (fun m => m.1 == b)
    | none => false
  let f : Frame :=
    { id := 0, slice := slice, ingress := ingress, inSub := subPort ingress dest, dest := dest,
      outSub := subPort dest ingress, vc := vc, cls := cls, own := cls, cells := cellsOf content.length, credit := 0,
      bytes := content.length, flow := flow, content := content, addrs := [], sent := 0, out := 0, shared := false,
      yellow := false, red := false, barrier := barrier, cyclic := false, turn := 0, demoted := false }
  let (f, s) := inheritClass f s
  placeFrame f s
/-- A frame that a unit of the block sends enters the slice it is produced in. -/
def switchOut (slice ingress dest vc cls : Nat) (content : List Byte) (s : State) : State :=
  switchFrom slice ingress dest vc cls none content s
/-- A hen's frame enters at its larder's gateway: flow key hen and line address, slice by bucket (Table 14.2), class HEN_TC
(Table 15.1). The spec gives no channel and no bytes for it: VC4, and a header with the request's fields (DESIGN CHOICE,
log 93). -/
def switchHen (hen line dest vc : Nat) (content : List Byte) (s : State) : State :=
  let key := pack [(7, 88), (hen, 64), (line, 0)]
  let b := bucketOf key
  let slice := bucketSlice b s
  switchFrom slice (attGw (henLarder hen)) (if dest = attHome 0 then attHome slice else dest) vc (rget kHenTc s) (some (key, b))
    content s

/-- A red frame is metered again once Tp has reached its length; it leaves when it is yellow or green, and the frames
behind it are metered in turn (R467). -/
def remeter (p c : Nat) : Nat → State → State
  | 0, s => s
  | n + 1, s =>
    match s.sw.frames.find? (fun f => f.red && f.ingress == p && f.own == c) with
    | none => setMeter p c { meterNow p c s with redAt := none } s
    | some f =>
      let (col, s) := meterFrame p c f.bytes s
      let m := meterNow p c s
      let held := match m.redAt with | some t => s.now - t | none => 0
      if col = .red then setMeter p c { m with redAt := some s.now, heldNs := min (2 ^ 64 - 1) (m.heldNs + held) } s
      else
        let s := setMeter p c { m with redAt := none, heldNs := min (2 ^ 64 - 1) (m.heldNs + held) } s
        remeter p c n (shareFrame f.id (setFrame { f with red := false, yellow := col == .yellow } s))
def remeterAll (p c : Nat) (s : State) : State := remeter p c (s.sw.frames.length + 1) s

/-! ### Capture sessions (R452 to R455) -/

def capLines (v : Nat) : Nat := 2 ^ fld v 119 115
def captureDflt : Capture := { rec_ := 0, written := 0, dropped := 0, pendingDrop := 0, seen := 0, half := none }
def captureOf (i : Nat) (s : State) : Capture := tgetD s.sw.captures i captureDflt
def setCapture (i : Nat) (x : Capture) (s : State) : State := { s with sw := { s.sw with captures := tput s.sw.captures i x } }
/-- A line of a session's ring: line 0 is the control line. -/
def capLine (v n : Nat) (s : State) : Option Nat := addrLine (capJob v) (capRing v + n * 128) s
/-- R452. -/
def captureOk (v : Nat) (s : State) : Bool :=
  capMode v == 0 ||
  (decide (capMode v ≤ 2) && (decide (fld v 247 240 ≤ 191) || fld v 247 240 == 0xFF) &&
    (capMode v == 1 || decide (1 ≤ fld v 207 176)) && capRing v % 128 == 0 && decide (6 ≤ fld v 119 115) &&
    decide (fld v 119 115 ≤ 20) &&
    (match extAt (capJob v) (fvaSlot (capRing v)) (fvaGran (capRing v)) s with
     | none => false
     | some (x, e) => extActive x s && isActive (capJob v) s && fLatency e && !fVersioned e && !fCoded e && !fKv e && !fIndex e &&
         decide (extOff e (capRing v) + (capLines v + 1) * 128 ≤ extBytes e)))
/-- The JOB field of a frame. -/
def frameJob (content : List Byte) : Nat :=
  let op := frameOp content
  if op = 0x80 || op = 0x41 then frameBits content 79 64
  else if op = 0x40 then frameBits content 127 112
  else frameBits content 199 184
/-- A store by the 2448 to a line of a ring, journalled like any change (R126). -/
def capPoke (lk off : Nat) (d : List Byte) (s : State) : State := ownPut lk off (d.map some) s
def capDrop (i : Nat) (x : Capture) (s : State) : State :=
  setCapture i { x with dropped := cnt64 x.dropped, pendingDrop := cnt32 x.pendingDrop } s
/-- Write lines of the records area from a line on, a line's rest zero, then move PRODUCER past them (R455). -/
def capLinesPut (v ctl prod first : Nat) (lines : List (List Byte)) (s : State) : State :=
  let put (l : Nat) (d : List Byte) (s : State) : State := match capLine v (1 + l) s with
    | some lk => capPoke lk 0 (d ++ List.replicate (128 - d.length) 0) s
    | none => s
  let s := each ((List.range lines.length).zip lines) (fun x s => put ((first + x.1) % capLines v) x.2 s) s
  capPoke ctl 0 (bytesOf 4 (prod + lines.length)) s
/-- A HEADER record that waited for another to share its line is written with a zero second half. -/
def capFlush (i : Nat) (s : State) : State :=
  let x := captureOf i s
  let v := rgeti kCaptureSession i s
  match x.half, capLine v 0 s with
  | some h, some ctl =>
    let prod := natOf (lineRead ctl 0 4 s)
    capLinesPut v ctl prod (prod % capLines v) [h] (setCapture i { x with half := none } s)
  | _, _ => setCapture i { x with half := none } s
def commitCapture (i v : Nat) (s : State) : Status × State :=
  if captureOk v s then
    let s := capFlush i s
    let x := captureOf i s
    (.done, post16 kCaptureResult .done (setCapture i { x with pendingDrop := 0, seen := 0 } (rseti kCaptureSession i v s)))
  else (.refusedFormat, post16 kCaptureResult .refusedFormat s)
/-- Write one record: its lines first, then PRODUCER (R455). Whether a HEADER record waits for the next one, to share its
line, is a free value (log 107). -/
def captureWrite (i v port : Nat) (egress : Bool) (slice : Nat) (content : List Byte) (s : State) : State :=
  let x := captureOf i s
  let n := capLines v
  match capLine v 0 s with
  | none => s
  | some ctl =>
    let prod := natOf (lineRead ctl 0 4 s)
    let cons := natOf (lineRead ctl 4 4 s)
    let need := if capMode v = 1 then 1 else cdiv (32 + content.length) 128
    let at_ := prod % n
    -- a record never wraps: the lines to the end of the area are skipped
    let skip := if n < at_ + need then n - at_ else 0
    if n < sub32 prod cons + skip + need || sharedFree s < 8192 || n < need then capDrop i x s
    else
      let hdr := pack [(timebase s % 2 ^ 64, 192), (port, 184), (b2n egress, 183), (i, 180), (slice, 178), (content.length % 2 ^ 16, 160),
        (need % 256, 152), (x.pendingDrop, 96)]
      let body := bytesOf 32 hdr ++ (if capMode v = 1 then content.take 32 else content)
      let (wait, s) : Nat × State := if capMode v = 1 && x.half.isNone then draw s else (0, s)
      if wait % 2 = 1 then
        let half := body ++ List.replicate (64 - body.length) 0
        setCapture i { x with written := cnt64 x.written, pendingDrop := 0, half := some half } s
      else
        let body := (x.half.getD []) ++ body
        let lines := List.replicate skip [] ++ (List.range need).map (fun k => (body.drop (128 * k)).take 128)
        setCapture i { x with written := cnt64 x.written, pendingDrop := 0, half := none } (capLinesPut v ctl prod at_ lines s)
/-- Offer a frame that crosses a port to the eight sessions; link management frames are never copied. -/
def capture (port : Nat) (egress : Bool) (slice : Nat) (content : List Byte) (s : State) : State :=
  if 192 ≤ port || 0xF0 ≤ frameOp content then s
  else each (List.range 8) (fun i s =>
    let v := rgeti kCaptureSession i s
    let dir := if egress then bit v 249 else bit v 248
    let op := fld v 223 216
    if capMode v = 0 || !dir || !(fld v 247 240 == 0xFF || fld v 247 240 == port) || frameJob content != capJob v ||
        !(op == 0 || op == frameOp content) then s
    else
      let x := captureOf i s
      let take := capMode v == 1 || x.seen % fld v 207 176 == 0
      let s := setCapture i { x with seen := x.seen + 1 } s
      if take then captureWrite i v port egress slice content s else s) s

/-! ### Discards and the goose (R433, R434, R450, R451) -/

/-- Discard a frame whole; a partner's request is answered INTERNAL. -/
def discardFrame (f : Frame) (s : State) : State :=
  let s := bump kCellDiscards (frameLeaves f s)
  let op := frameOp f.content
  let b (hi lo : Nat) : Nat := frameBits f.content hi lo
  if f.ingress < 192 && (op < 0x28 || op == 0x28) && portLive f.ingress s then
    respond f.ingress (b 151 136) (b 183 152) (b 199 184) op 0 (b 122 120) s.now .internal []
      (countExec f.ingress (b 183 152) s)
  else s
/-- A cell of a frame fails its check: the frame is discarded whole; with its header cell the ingress port goes DOWN (R433,
R434). -/
def cellFails (c : Nat) (f : Frame) (s : State) : State :=
  if f.addrs.head? == some c && decide (f.ingress < 208) then portReset f.ingress 5 (bump kCellDiscards (frameLeaves f s))
  else discardFrame f s
def cellBad (c : Nat) (s : State) : State := each (s.sw.frames.filter (fun f => f.addrs.contains c)) (cellFails c) s
/-- One sweep of a bank. -/
def gooseSweep (bank : Nat) (s : State) : State :=
  let mine (f : Frame) : List Nat := (f.addrs.filter (fun c => c / bankCells == bank)).map (fun c => c % bankCells)
  -- cells referenced by two frames
  let twice := s.sw.frames.filter (fun f => (mine f).any (fun c => s.sw.frames.any (fun x => x.id != f.id && (mine x).contains c)))
  let s := each twice (fun f s => match (mine f).find? (fun c => twice.any (fun x => x.id != f.id && (mine x).contains c)) with
    | some c => cellFails (bank * bankCells + c) f s
    | none => s) s
  let refs := s.sw.frames.flatMap mine
  let free := tgetD s.sw.freeCells bank []
  -- free-listed twice, or free-listed and referenced
  let dups := (free.filter (fun c => 1 < free.count c || refs.contains c)).eraseDups
  let keep (c : Nat) : Bool := !refs.contains c
  let free := free.eraseDups.filter keep
  let s := each dups (fun c s =>
    raise 0x3000 0x02 5 (pack [(c, 8), (bank, 0)])
      (ledger 0x3000 ldGoose clsBlock (pack [(bank, 254), (c, 208)]) (bump kGooseDuplicates s))) s
  -- neither free nor referenced
  let fresh := tgetD s.sw.freshCells bank 0
  let stray := (List.range fresh).filter (fun c => !free.contains c && !refs.contains c)
  let had := tgetD s.sw.suspects bank []
  let leaks := stray.filter (fun c => had.contains c)
  let s := bumpN kGooseLeaks leaks.length s
  let s := { s with sw := { s.sw with freeCells := tput s.sw.freeCells bank (free ++ leaks),
                                      suspects := tput s.sw.suspects bank (stray.filter (fun c => !had.contains c)) } }
  -- counts
  let sum (a : Nat) (sh : Bool) : Nat :=
    lsum ((s.sw.frames.filter (fun f => f.ingress == a && f.shared == sh)).map (·.cells))
  let wrong := (List.range attachments).filter (fun a => (attachOf a s).g != sum a false || (attachOf a s).s != sum a true)
  let s := each wrong (fun a => modAttach a (fun x => { x with g := sum a false, s := sum a true })) s
  onlyIf (!wrong.isEmpty) (bump kGooseCountFixes) (bump kGooseSweeps s)
def execGooseSweep (bank : Nat) (s : State) : Res := .next (if bank < 4 then gooseSweep bank s else s)

/-! ### Guarantees (R436) -/

def guaranteeKey (sub : Nat) : Option Nat :=
  match sub with
  | 1 => some kRoundTripNs | 2 => some kGwGuarantee | 3 => some kEngineGuarantee | 4 => some kHaGuarantee | _ => none
def guaranteeRange (sub v : Nat) : Bool :=
  match sub with
  | 1 => decide (500 ≤ v) && decide (v ≤ 3000)
  | 2 => decide (128 ≤ v) && decide (v ≤ 4096)
  | 3 => decide (64 ≤ v) && decide (v ≤ 1024)
  | 4 => decide (256 ≤ v) && decide (v ≤ 8192)
  | _ => false
def commitGuarantee (sub v : Nat) (s : State) : Status × State :=
  match guaranteeKey sub with
  | none => (.refusedFormat, s)
  | some k =>
    if !guaranteeRange sub v then (.refusedFormat, s)
    else
      let t := rset k v s
      if guaranteeMax < guaranteedTotal t then (.refusedQuota, s) else (.done, t)

end Sys2Proof.Machine
end

