-- ==== Sys2Proof/Machine/CellTime.lean ====
section
/-!
DEFINITION. One slice cycle (14_switch_core.md, 15_traffic_classes.md): what the block sends becomes frames, inputs offer,
the sheepdog matches, cyclic paths move cells, egress buffers empty.
-/
namespace Sys2Proof.Machine

/-! ### Messages become frames (Tables 12.1, 12.2, 12.8, 13.3, 3.9) -/

/-- LEN and opcode in the low bits of a header of n bytes. -/
def frameBytes (n op : Nat) (fields : List (Nat × Nat)) (data : List Byte) : List Byte :=
  let pad := (8 - (n + data.length) % 8) % 8
  bytesOf n (pack ([((n + data.length + pad) / 8, 0), (op, 16)] ++ fields)) ++ data ++ List.replicate pad 0
/-- Fragment i of a peer message's body. -/
def peerFragment (body : List Byte) (i : Nat) : List Byte := (body.drop (4064 * i)).take 4064

/-- One message becomes the frames that carry it. -/
def portMessage (o : Out) (s : State) : State :=
  match o with
  | .response port tag seq job status op flags tc data =>
    let slice := tag % 4
    switchOut slice (attHome slice) port 1 tc (frameBytes 16 0x80
      [(seq % 2 ^ 32, 96), (tag % 2 ^ 16, 80), (job % 2 ^ 16, 64), (data.length % 2 ^ 13, 51), (flags % 256, 40),
       (op % 256, 32), (status % 256, 24)] data) s
  | .deliver port tag job coll round off fmt data =>
    let slice := tag % 4
    let tc := rget kDeliverTc s
    -- LENGTH is the decoded size of a coded frame
    let h := natOf (data.take 16)
    let len := if 16 ≤ fmt then bTuples h * bTuple h * elemBits (fmt % 16) / 8 else data.length
    switchOut slice (attEngine slice 0) port (tcVc port tc s) tc (frameBytes 32 0x29
      [(coll % 4096, 244), (off % 2 ^ 40, 200), (job % 2 ^ 16, 184), (tag % 2 ^ 32, 152), (tag % 2 ^ 16, 136),
       (len % 2 ^ 13, 123), (tc % 8, 120), (b2n (16 ≤ fmt), 114), (round % 2 ^ 16, 96), (fmt % 16, 92)] data) s
  | .coh port op job addr ctag lseq result data =>
    let slice := if op = 0x60 || op = 0x61 then fld ctag 15 14 else lseq % 4
    switchOut slice (attHome slice) port 3 0 (frameBytes 32 op
      [(addr % 2 ^ 56, 200), (job % 2 ^ 16, 184), (ctag % 2 ^ 16, 168), (lseq % 2 ^ 24, 144), (result % 256, 136)] data) s
  | .peer port kind msgSeq msgId key job dst body =>
    let n := fragsOf body
    each (List.range n) (fun i s => switchOut (msgId % 4) attLoft port 7 (rget kPeerTc s) (frameBytes 32 0x40
      [((msgSeq + i) % 2 ^ 64, 192), (msgId % 2 ^ 32, 160), (i, 144), (n % 2 ^ 16, 128), (job % 2 ^ 16, 112),
       (key % 2 ^ 32, 64), (dst % 16, 36), (homeIndex s % 16, 32), (kind % 256, 24)] (peerFragment body i)) s) s
  | .peerAck port seq =>
    switchOut (seq % 4) attLoft port 1 (rget kPeerTc s) (frameBytes 16 0x41 [(seq % 2 ^ 32, 96)] []) s
  | .tray link op tag flags count addr data =>
    let slice := tag % 4
    let n := max 1 (cdiv data.length 4096)
    each (List.range n) (fun i s =>
      let fl := setFld flags 3 3 (b2n (i + 1 < n))
      switchOut slice (attHome slice) link 0 (rget kTrayTc s) (frameBytes 24 0x01
        [(op, 184), (tag % 2 ^ 16, 168), (fl % 256, 160), (count % 2 ^ 16, 144), (addr % 2 ^ 64, 64)]
        ((data.drop (4096 * i)).take 4096)) s) s
  | .henRequest hen write job addr bytes =>
    switchHen hen (addr / 128) (attHome 0) 4 (frameBytes 32 (if write then 0x01 else 0x00)
      [(addr % 2 ^ 56, 200), (job % 2 ^ 16, 184), (hen % 2 ^ 13, 136)] (List.replicate (if write then bytes else 0) 0)) s
  | .henAnswer hen bytes =>
    let slice := hen % 4
    switchOut slice (attHome slice) (attGw (henLarder hen)) 1 (rget kHenTc s) (frameBytes 16 0x80 [(hen % 2 ^ 13, 80)]
      (List.replicate bytes 0)) s
  | .henMessage hen target =>
    switchHen hen target (attGw (henLarder target)) 6 (frameBytes 32 0x00 [(target % 2 ^ 13, 136)] (List.replicate 64 0)) s
  | _ => s
/-- Messages sent since the last cell time. -/
def portOut (s : State) : State :=
  let new := s.out.drop s.sw.ported
  let s := { s with sw := { s.sw with ported := s.out.length } }
  each new portMessage s

/-! ### Egress buffers -/

abbrev egressCells : Nat := 64
/-- Cells of frames that hold room in the egress buffer of an output and destination: a frame holds room for all its
cells from its first one on; a unit of the block takes cells as they come, but for a home agent that takes no request. -/
def egressUsed (slice outSub dest : Nat) (s : State) : Nat :=
  if 208 ≤ dest && !(dest == attHome slice && homeFull (some slice) s) then 0
  else lsum ((s.sw.frames.filter (fun f => f.slice == slice && f.outSub == outSub && f.dest == dest)).map
    (fun f => if f.sent = 0 || (f.cyclic && f.out == 0) then 0 else f.cells))
def destLive (dest : Nat) (s : State) : Bool :=
  if dest < 192 then portLive dest s
  else if dest < 208 then (linkOf dest s).st == .active || (linkOf dest s).st == .recovery
  else true
/-- May a frame follow what its tray link sent last? Nothing of another TAG comes between the frames of one command (R80). -/
def inTrayTurn (f : Frame) (s : State) : Bool :=
  !isTray f.dest || (match tget s.sw.midTray f.dest with | some t => t == frameBits f.content 183 168 | none => true)
/-- Note whether a frame's command has more frames to come on its tray link. -/
def noteTray (f : Frame) (s : State) : State :=
  let m := if frameBits f.content 163 163 = 1 then tput s.sw.midTray f.dest (frameBits f.content 183 168)
    else tdel s.sw.midTray f.dest
  if isTray f.dest then { s with sw := { s.sw with midTray := m } } else s
/-- Send or consume the frames that lie whole in a slice's egress buffers, in order on each channel; a frame for a link
that is not in service goes nowhere. -/
def egressStep (x : List (Nat × Nat) × State) (id : Nat) : List (Nat × Nat) × State :=
  let (blocked, s) := x
  match frameOf id s with
  | none => x
  | some f =>
    if f.out < f.cells || blocked.contains (f.dest, f.vc) then x
    -- a home agent whose wait queue is full takes no request (R377)
    else if f.dest == attHome f.slice && 4 ≤ f.vc && homeFull (some f.slice) s then ((f.dest, f.vc) :: blocked, s)
    else if 208 ≤ f.dest then (blocked, frameLeaves f s)
    else if !destLive f.dest s then (blocked, frameLeaves f { s with sw := { s.sw with midTray := tdel s.sw.midTray f.dest } })
    else if canSend f.dest f.vc f.bytes s && inTrayTurn f s && (linkOf f.dest s).st == .active then
      (blocked, frameLeaves f (noteTray f (capture f.dest true f.slice f.content (sendFrame f.dest f.vc f.content s))))
    else ((f.dest, f.vc) :: blocked, s)
def egress (slice : Nat) (s : State) : State :=
  let ids := (s.sw.frames.filter (fun f => f.slice == slice)).map (·.id)
  let s := onlyIf (homeFull (some slice) s) (bump kLineQueueFull) (ids.foldl egressStep ([], s)).2
  let s := reshare s
  each (s.links.map (·.1)) payCredits s

/-! ### Eligible frames (R461, R435, R447) -/

/-- Frames of the same flow and slice that entered earlier. -/
def flowAhead (f : Frame) (s : State) : List Frame := (s.sw.frames.takeWhile (fun x => x.id != f.id)).filter (fun x => sameFlow x f)
/-- Has a frame cells on a cyclic path? -/
def onPath (f : Frame) : Bool := f.cyclic && f.sent != 0 && f.out < f.cells
/-- The way a frame starts now: cyclic or through the sheepdog (Table 14.6, R447, R449). -/
def takesPath (f : Frame) (s : State) : Bool :=
  let sl := sliceOf f.slice s
  let lag := (flowAhead f s).any onPath
  match sl.mode with
  | .twoStage => true
  | .joining => lag || (attachOf f.ingress s).re == .cyclic || (attachOf f.dest s).re == .cyclic
  | .sheepdog => (attachOf f.ingress s).re == .cyclic || (attachOf f.dest s).re == .cyclic ||
      ((isCyclic f.ingress s || isCyclic f.dest s) && lag)
/-- May a frame that has not started be moved at all: not held, behind no barrier, nothing of its flow waiting before it or
under way on the other kind of path? -/
def mayStart (f : Frame) (cyclic : Bool) (s : State) : Bool :=
  f.sent == 0 && !f.red && !f.barrier &&
  (flowAhead f s).all (fun x => x.sent != 0 && (x.cells ≤ x.out || x.cyclic == cyclic))
/-- Shaper and gate of a normal-level frame toward a fabric port. -/
def classOpen (f : Frame) (s : State) : Bool :=
  if highFrame f || 192 ≤ f.dest then true
  else shaperOpen f.dest f.cls s && (gateAdmits f.dest f.cls f.cells (egressUsed f.slice f.outSub f.dest s) s).1
def egressRoom (f : Frame) (s : State) : Bool := decide (egressUsed f.slice f.outSub f.dest s + f.cells ≤ egressCells)
def eligible (f : Frame) (s : State) : Bool :=
  mayStart f false s && !takesPath f s && egressRoom f s && classOpen f s
/-- Account a normal-level frame as granted: shaper, gate overruns. -/
def grantClass (f : Frame) (s : State) : State :=
  if highFrame f || 192 ≤ f.dest then s
  else
    let over_ := (gateAdmits f.dest f.cls f.cells (egressUsed f.slice f.outSub f.dest s) s).2
    shaperCharge f.dest f.cls f.bytes (onlyIf over_ (bump kGateOverruns) s)

/-! ### What an input offers (R462, R463) -/

/-- The least element in the rotating order that starts at a number. -/
def rotFirst (start n : Nat) (l : List Nat) : Option Nat :=
  l.foldl (fun a x => match a with
    | none => some x
    | some b => if (x + n - start % n) % n < (b + n - start % n) % n then some x else some b) none
abbrev drrKey (slice i o : Nat) : Nat := (slice * 96 + i) * 96 + o
def drrDflt : Drr := { cur := 0, fresh := true, defs := [0, 0, 0, 0, 0, 0, 0, 0], lastSub := [], lastHigh := [] }
def drrOf (slice i o : Nat) (s : State) : Drr := tgetD s.traf.drr (drrKey slice i o) drrDflt
def setDrr (slice i o : Nat) (d : Drr) (s : State) : State :=
  { s with traf := { s.traf with drr := tput s.traf.drr (drrKey slice i o) d } }
/-- Frames of a slice that wait at an input for an output. -/
def pairFrames (slice i o : Nat) (s : State) : List Frame :=
  s.sw.frames.filter (fun f => f.slice == slice && f.inSub == i && f.outSub == o && f.sent == 0)
/-- The first frame waiting in each queue, of those given. -/
def headsOf (l : List Frame) (key : Frame → Nat) : List Frame :=
  l.foldl (fun r f => if r.any (fun x => key x == key f) then r else r ++ [f]) []
def subKey (f : Frame) : Nat := f.dest * 8 + f.vc
/-- The place after the one served last, the first where none was. -/
def afterLast (l : Tbl Nat) (k : Nat) : Nat := match tget l k with | some x => x + 1 | none => 0
/-- The high-level offer: VC2, then VC3, then VC0; within one, the destination after the one served last. -/
def highOffer (slice i o : Nat) (s : State) : Option Frame :=
  let d := drrOf slice i o s
  let l := (pairFrames slice i o s).filter highFrame
  let pick (vc : Nat) : Option Frame :=
    let hs := (headsOf (l.filter (fun f => f.vc == vc)) (·.dest)).filter (fun f => eligible f s)
    match rotFirst (afterLast d.lastHigh vc) attachments (hs.map (·.dest)) with
    | some x => hs.find? (fun f => f.dest == x)
    | none => none
  match pick 2, pick 3, pick 0 with
  | some f, _, _ => some f
  | _, some f, _ => some f
  | _, _, r => r
/-- The head of a class: of its sub-queues in ascending (destination, channel) order, the one after the last served whose
first frame is eligible. -/
def classHead (slice i o c : Nat) (s : State) : Option Frame :=
  let d := drrOf slice i o s
  let l := (pairFrames slice i o s).filter (fun f => !highFrame f && f.cls == c)
  let hs := (headsOf l subKey).filter (fun f => eligible f s)
  match rotFirst (afterLast d.lastSub c) (attachments * 8) (hs.map subKey) with
  | some x => hs.find? (fun f => subKey f == x)
  | none => none
def quantumOf (c : Nat) (s : State) : Nat := fld (rget kQuantum s) (16 * c + 15) (16 * c)
/-- The loop of R463; every class is visited at most twice. -/
def drrLoop (heads : List (Option Frame)) (quanta : List Nat) : Nat → Drr → Option Frame × Drr
  | 0, d => (none, d)
  | n + 1, d =>
    let c := d.cur
    let h := (heads[c]?).getD none
    let def_ := (d.defs[c]?).getD 0
    let def_ := if d.fresh then (if h.isSome then def_ + (quanta[c]?).getD 0 else 0) else def_
    match h with
    | some f =>
      if f.cells ≤ def_ then (some f, { d with fresh := false, defs := d.defs.set c def_ })
      else drrLoop heads quanta n { d with cur := (c + 1) % 8, fresh := true, defs := d.defs.set c def_ }
    | none => drrLoop heads quanta n { d with cur := (c + 1) % 8, fresh := true, defs := d.defs.set c 0 }
def normalOffer (slice i o : Nat) (s : State) : Option Frame × State :=
  let heads := (List.range 8).map (fun c => classHead slice i o c s)
  if heads.all Option.isNone then (none, s)
  else
    let (f, d) := drrLoop heads ((List.range 8).map (fun c => quantumOf c s)) 17 (drrOf slice i o s)
    (f, setDrr slice i o d s)
/-- An offer: input, output, level (1 high), frame. -/
structure Offer where
  inp : Nat
  outp : Nat
  lvl : Nat
  frame : Frame
  deriving DecidableEq, Repr
/-- Every pair of input and output that has a waiting frame. -/
def pairs (slice : Nat) (s : State) : List (Nat × Nat) :=
  ((s.sw.frames.filter (fun f => f.slice == slice && f.sent == 0)).map (fun f => (f.inSub, f.outSub))).eraseDups
def offers (slice : Nat) (s : State) : List Offer × State :=
  (pairs slice s).foldl (fun x io =>
    let (l, s) := x
    match highOffer slice io.1 io.2 s with
    | some f => (l ++ [{ inp := io.1, outp := io.2, lvl := 1, frame := f }], s)
    | none =>
      match normalOffer slice io.1 io.2 s with
      | (some f, s) => (l ++ [{ inp := io.1, outp := io.2, lvl := 0, frame := f }], s)
      | (none, s) => (l, s)) ([], s)
/-- Heads that only lack tokens wait for them (SHAPER_STATE). -/
def noteWaits (slice : Nat) (s : State) : State :=
  let hs := headsOf (s.sw.frames.filter (fun f => f.slice == slice && f.sent == 0 && !highFrame f && f.dest < 192))
    (fun f => (f.inSub * 2 ^ 16 + subKey f) * 8 + f.cls)
  each hs (fun f s =>
    let blocked := mayStart f false s && egressRoom f s && !shaperOpen f.dest f.cls s
    if blocked then shaperWait f.dest f.cls s else s) s

/-! ### The sheepdog (R440) -/

structure Match where
  slice : Slice
  pairsM : List Offer
  deriving DecidableEq, Repr
/-- Inputs and outputs matched so far, held pairs among them. -/
def busyIn (m : Match) (i : Nat) : Bool := m.slice.held.any (fun h => h.1 == i) || m.pairsM.any (fun o => o.inp == i)
def busyOut (m : Match) (o : Nat) : Bool := m.slice.held.any (fun h => h.2.1 == o) || m.pairsM.any (fun x => x.outp == o)
def matchedN (m : Match) : Nat := m.slice.held.length + m.pairsM.length
def topLevel (l : List Offer) : Nat := if l.any (fun o => o.lvl == 1) then 1 else 0
/-- The grant of each output. -/
def grants (os : List Offer) (m : Match) : List Offer :=
  ((os.map (·.outp)).eraseDups.filter (fun o => !busyOut m o)).filterMap (fun o =>
    let rs := os.filter (fun x => x.outp == o && !busyIn m x.inp)
    let lv := topLevel rs
    let rs := rs.filter (fun x => x.lvl == lv)
    match rotFirst (tgetD m.slice.gptr (o * 2 + lv) 0) subPorts (rs.map (·.inp)) with
    | some i => rs.find? (fun x => x.inp == i)
    | none => none)
/-- The accept of one input. -/
def acceptOne (gs : List Offer) (paths it : Nat) (m : Match) (i : Nat) : Match :=
  if busyIn m i then m
  else
    let mine := gs.filter (fun x => x.inp == i)
    let lv := topLevel mine
    let mine := mine.filter (fun x => x.lvl == lv)
    match rotFirst (tgetD m.slice.aptr (i * 2 + lv) 0) subPorts (mine.map (·.outp)) with
    | none => m
    | some a =>
      match mine.find? (fun x => x.outp == a) with
      | none => m
      | some o =>
        if paths ≤ matchedN m then m
        else
          let sl := if it = 0 then
              { m.slice with gptr := tput m.slice.gptr (a * 2 + lv) ((i + 1) % 96), aptr := tput m.slice.aptr (i * 2 + lv) ((a + 1) % 96) }
            else m.slice
          { m with slice := sl, pairsM := m.pairsM ++ [o] }
def iteration (os : List Offer) (paths : Nat) (m : Match) (it : Nat) : Match :=
  let gs := grants os m
  let order := (List.range 96).map (fun k => (k + m.slice.sptr) % 96)
  let inputs := order.filter (fun i => gs.any (fun g => g.inp == i))
  inputs.foldl (acceptOne gs paths it) m
/-- The matching of one slice cycle: three iterations, then sptr moves on. -/
def sheepdogMatch (os : List Offer) (paths : Nat) (sl : Slice) : Match :=
  let m := (List.range 3).foldl (iteration os paths) { slice := sl, pairsM := [] }
  { m with slice := { m.slice with sptr := (m.slice.sptr + 1) % 96 } }

/-- One cell of a frame crosses the slice. -/
def moveCell (id : Nat) (s : State) : State :=
  match frameOf id s with
  | none => s
  | some f =>
    let s := setFrame { f with sent := f.sent + 1, out := f.out + 1 } s
    let s := match f.flow with
      | some (_, b) => { s with sw := { s.sw with busy := tput s.sw.busy b (tgetD s.sw.busy b 0 + 1) } }
      | none => s
    modSlice f.slice (fun x => { x with matched := x.matched + 1 }) s
/-- A grant: deficits and turns (granted of R463), the shaper, the pair held until the frame is done. -/
def grantOffer (slice : Nat) (o : Offer) (s : State) : State :=
  let f := o.frame
  let d := drrOf slice o.inp o.outp s
  let d := if o.lvl = 1 then { d with lastHigh := tput d.lastHigh f.vc f.dest }
    else { d with lastSub := tput d.lastSub f.cls (subKey f), defs := d.defs.set f.cls ((d.defs[f.cls]?).getD 0 - f.cells) }
  let s := grantClass f (setDrr slice o.inp o.outp d s)
  modSlice slice (fun x => { x with held := x.held ++ [(o.inp, o.outp, f.id)] }) s
/-- Pairs whose frame is done are free again. -/
def endPairs (slice : Nat) (s : State) : State :=
  modSlice slice (fun x => { x with held := x.held.filter (fun h =>
    match frameOf h.2.2 s with | some f => f.sent < f.cells | none => false) }) s
def heldCells (slice : Nat) (s : State) : State := endPairs slice (each ((sliceOf slice s).held.map (·.2.2)) moveCell s)
def sheepdogCycle (slice paths : Nat) (s : State) : State :=
  let (os, s) := offers slice (noteWaits slice s)
  let m := sheepdogMatch os paths (sliceOf slice s)
  heldCells slice (each m.pairsM (grantOffer slice) (setSlice slice m.slice s))

/-! ### Cyclic paths (R443, R444) -/

abbrev laneCells : Nat := 512
abbrev reseqCells : Nat := 1024
/-- The frame whose cell an input offers a cyclic path: one under way, else the oldest that may start on it. -/
def pathFrame (slice i : Nat) (s : State) : Option Frame :=
  let l := s.sw.frames.filter (fun f => f.slice == slice && f.inSub == i)
  match l.find? (fun f => f.cyclic && f.sent != 0 && f.sent < f.cells) with
  | some f => some f
  | none =>
    match l.find? (fun f => f.sent == 0 && highFrame f && takesPath f s && mayStart f true s) with
    | some f => some f
    | none => l.find? (fun f => f.sent == 0 && takesPath f s && mayStart f true s && classOpen f s)
/-- A cell's turn in its input's and destination's sequence, the order of entry to the paths, has come. -/
def inOrder (f : Frame) (s : State) : Bool :=
  s.sw.frames.all (fun x => !(onPath x && x.slice == f.slice && x.inSub == f.inSub && x.dest == f.dest && decide (x.turn < f.turn)))
/-- The next turn. -/
def nextTurn (s : State) : Nat := s.sw.frames.foldl (fun m x => max m (x.turn + 1)) 1
def arrive (id : Nat) (s : State) : State :=
  match frameOf id s with
  | some f => setFrame { f with out := f.out + 1 } s
  | none => s
def outRoom (f : Frame) (s : State) : Bool := decide (0 < f.out) || egressRoom f s
/-- The resequencer releases what has come into order. -/
def reseqStep (slice : Nat) (s : State) (id : Nat) : State :=
  match frameOf id s with
  | none => s
  | some f =>
    if inOrder f s && outRoom f s then arrive id (modSlice slice (fun x => { x with reseq := x.reseq.erase id }) s) else s
def reseqDrain (slice : Nat) (s : State) : State := (sliceOf slice s).reseq.foldl (reseqStep slice) s
/-- Stage 1: one cell from the next input of the rotation to lane n mod 8. Inputs that have sent a cell this cycle are
listed. -/
def stageOne (slice path lane : Nat) (used : List Nat) (s : State) : List Nat × State :=
  let sl := sliceOf slice s
  if laneCells ≤ (tgetD sl.lanes (path * 8 + lane) []).length then (used, s)
  else
    let ins := (((s.sw.frames.filter (fun f => f.slice == slice && f.sent < f.cells)).map (·.inSub)).eraseDups).filter
      (fun i => !used.contains i && !sl.held.any (fun h => h.1 == i) && (pathFrame slice i s).isSome)
    match rotFirst (tgetD sl.rotation path path) subPorts ins with
    | none => (used, s)
    | some i =>
      match pathFrame slice i s with
      | none => (used, s)
      | some f =>
        let s := if f.sent = 0 then grantClass f s else s
        let s := setFrame { f with sent := f.sent + 1, cyclic := true, turn := if f.sent = 0 then nextTurn s else f.turn } s
        let s := modSlice slice (fun x => { x with rotation := tput x.rotation path ((i + 1) % 96), matched := x.matched + 1 }) s
        let s := modSlice slice (fun x => { x with lanes := tput x.lanes (path * 8 + lane) (tgetD x.lanes (path * 8 + lane) [] ++ [f.id]) }) s
        let warm (a : Nat) (s : State) : State := if (attachOf a s).re == .cyclic then modAttach a (fun x => { x with warm := x.warm + 1 }) s else s
        (i :: used, bump kCyclicCells (warm f.ingress (warm f.dest s)))
/-- Stage 2: the head cell of lane n mod 8 goes to its egress buffer, or waits in the resequencer for its turn. -/
def stageTwo (slice path lane : Nat) (s : State) : State :=
  let sl := sliceOf slice s
  match tgetD sl.lanes (path * 8 + lane) [] with
  | [] => s
  | id :: r =>
    let pop (s : State) : State := modSlice slice (fun x => { x with lanes := tput x.lanes (path * 8 + lane) r }) s
    match frameOf id s with
    | none => pop s
    | some f =>
      if inOrder f s then (if outRoom f s then arrive id (pop s) else s)
      else if sl.reseq.length < reseqCells then pop (modSlice slice (fun x => { x with reseq := x.reseq ++ [id] }) s)
      else s
/-- One cycle of cyclic paths 0 to m - 1, of which the first n take cells. -/
def cyclicCycle (slice n m : Nat) (s : State) : State :=
  let sl := sliceOf slice s
  let lane := sl.cycle % 8
  let full := decide (reseqCells ≤ sl.reseq.length)
  let s := onlyIf full (bump kReseqFull) s
  let s := if full then s
    else ((List.range n).foldl (fun x p => stageOne slice p lane x.1 x.2) (([] : List Nat), s)).2
  let s := (List.range m).foldl (fun s p => reseqDrain slice (stageTwo slice p lane s)) s
  modSlice slice (fun x => { x with cycle := x.cycle + 1 }) s

/-! ### One slice cycle -/

/-- Does any cell of a slice lie in a lane or in the resequencer? -/
def lanesEmpty (slice : Nat) (s : State) : Bool :=
  let sl := sliceOf slice s
  sl.reseq.isEmpty && sl.lanes.all (fun l => l.2.isEmpty)
/-- Is an attachment in service? A larder's gateway is not while the larder is out or resets. -/
def inService (a : Nat) (s : State) : Bool :=
  if 208 ≤ a && a < 220 then !(larderOf (a - 208) s).out && !(larderOf (a - 208) s).resetting else destLive a s
/-- An attachment that has left service is no longer cyclic; its frames on the path are discarded (Table 14.6). -/
def settleAttach (s : State) : State :=
  let gone := (s.sw.attach.map (·.1)).filter (fun a => isCyclic a s && !inService a s)
  each gone (fun a s =>
    let fs := s.sw.frames.filter (fun f => onPath f && (f.ingress == a || f.dest == a))
    modAttach a (fun x => { x with re := .normal, warm := 0 }) (each fs frameLeaves s)) s
/-- The cells matched in each running 100 µs. -/
def matchWindow (slice : Nat) (s : State) : State :=
  modSlice slice (fun x => if x.matchedAt + 100 * nsUs ≤ s.now then { x with matchedLast := x.matched, matched := 0, matchedAt := s.now } else x) s
def sliceCycle (slice : Nat) (s : State) : State :=
  let s := settleAttach (matchWindow slice (portOut s))
  let s := match (sliceOf slice s).mode with
    | .twoStage => cyclicCycle slice 16 16 (heldCells slice s)
    | .joining =>
      -- flows that lag keep the lanes, and go on by the reserved path; the slice joins when they are empty (R430, R449)
      let s := cyclicCycle slice 1 16 (sheepdogCycle slice 15 s)
      onlyIf (lanesEmpty slice s) (modSlice slice (fun x => { x with mode := .sheepdog })) s
    | .sheepdog =>
      if anyCyclic s then cyclicCycle slice 1 1 (sheepdogCycle slice 15 s) else sheepdogCycle slice 16 s
  egress slice s
def execCellTime (x : SliceTick) (s : State) : Res :=
  let s := match x.badCell with | some c => settle (cellBad c s) | none => s
  .next (if x.slice < 4 then sliceCycle x.slice s else s)

/-! ### Slice modes (Table 14.5, R442, R449) -/

def commitTwoStage (slice : Nat) (s : State) : Status × State := (.done, modSlice slice (fun x => { x with mode := .twoStage }) s)
/-- A slice that has passed its self-test leaves two-stage mode by joining. -/
def sliceJoins (slice : Nat) (s : State) : State :=
  modSlice slice (fun x => if x.mode == .twoStage && x.tested && x.faultAt.isNone then { x with mode := .joining } else x) s
def commitSheepdog (slice : Nat) (s : State) : Status × State := (.done, sliceJoins slice s)
def sheepdogFault (slice : Nat) (s : State) : State :=
  let s := modSlice slice (fun x => { x with mode := .twoStage, gptr := [], aptr := [], sptr := 0, faultAt := some s.now, tested := false }) s
  raise 0x3000 0x01 1 slice (ledger 0x3000 ldSheepdog clsBlock (pack [(slice, 254)]) (bump kSheepdogFaults s))
def execSheepdogFault (slice : Nat) (s : State) : Res := .next (if slice < 4 then sheepdogFault slice s else s)
/-- 100 µs after a fault, with the self-test passed. -/
def sheepdogReturn (slice : Nat) (s : State) : State :=
  match (sliceOf slice s).faultAt with
  | none => s
  | some t => sliceJoins slice (modSlice slice (fun x => { x with faultAt := none, tested := true }) (timeTo (t + 100 * nsUs) s))
def execSheepdogReturn (slice : Nat) (s : State) : Res := .next (if slice < 4 then sheepdogReturn slice s else s)

/-! ### Re-pinning (R435) -/

/-- Begin to move a bucket: its new frames enter the new slice behind a barrier. -/
def startRepin (b to_ : Nat) (s : State) : State :=
  let a := bucketSlice b s
  if a = to_ then s
  else { s with sw := { s.sw with moving := s.sw.moving ++ [(b, a, to_)], buckets := tput s.sw.buckets b to_ } }
/-- BUCKET_SLICE: a bucket already on its way takes the new move after that one. -/
def commitBucketSlice (b v : Nat) (s : State) : Status × State :=
  if 3 < v then (.refusedFormat, s)
  else if s.sw.moving.any (fun m => m.1 == b) then (.done, { s with sw := { s.sw with planned := s.sw.planned ++ [(b, v)] } })
  else (.done, startRepin b v s)
def inBucket (b slice : Nat) (f : Frame) : Bool :=
  f.slice == slice && !(decide (192 ≤ f.ingress) && decide (f.ingress < 208)) && (match f.flow with | some (_, x) => x == b | none => false)
/-- The old slice holds nothing of the bucket: the barrier releases, the next planned move begins. -/
def bucketDrained (b : Nat) (s : State) : State :=
  match s.sw.moving.find? (fun m => m.1 == b) with
  | none => s
  | some (_, a, to_) =>
    if s.sw.frames.any (inBucket b a) then s
    else
      let frames := s.sw.frames.map (fun f => if inBucket b to_ f then { f with barrier := false } else f)
      let s := bump kRepins { s with sw := { s.sw with frames := frames, moving := s.sw.moving.filter (fun m => m.1 != b) } }
      match s.sw.planned with
      | [] => s
      | (b2, v) :: r => startRepin b2 v { s with sw := { s.sw with planned := r } }
def execBucketDrained (bucket : Nat) (s : State) : Res := .next (bucketDrained bucket s)
/-- Buckets of a slice by cells matched since the last check, busiest first. -/
def busiest (slice n : Nat) (s : State) : List Nat :=
  let bs := (s.sw.busy.filter (fun e => bucketSlice e.1 s == slice && e.2 != 0 && !s.sw.moving.any (fun m => m.1 == e.1)))
  ((bs.mergeSort (fun a b => b.2 < a.2 || (a.2 == b.2 && a.1 ≤ b.1))).take n).map (·.1)
/-- The 1 ms check: one slice above the mean of the four by more than 25 %. -/
def rebalance (s : State) : State :=
  if rget kRebalance s = 0 then s
  else
    let load (i : Nat) : Nat := let x := sliceOf i s; if x.matchedAt + 100 * nsUs ≤ s.now then x.matched else x.matchedLast
    let sum := load 0 + load 1 + load 2 + load 3
    let hot := (List.range 4).find? (fun i => 5 * sum < 16 * load i)
    let cold := (List.range 4).foldl (fun b i => if load i < load b then i else b) 0
    let s' := match hot with
      | none => s
      | some h =>
        match (busiest h 4 s).map (fun b => (b, cold)) with
        | [] => s
        | (b, v) :: r =>
          let s := { s with sw := { s.sw with planned := s.sw.planned ++ r } }
          if s.sw.moving.isEmpty then startRepin b v s else { s with sw := { s.sw with planned := (b, v) :: s.sw.planned } }
    { s' with sw := { s'.sw with busy := [] } }
def execRebalanceCheck (s : State) : Res := .next (rebalance s)

/-! ### Readmission (Table 14.6) -/

/-- An attachment in service returns; one already in cyclic mode stays as it is. -/
def readmit (a : Nat) (s : State) : State :=
  if a < attachments && inService a s && !isCyclic a s then rejoin a s else s
def execReadmit (attach : Nat) (s : State) : Res := .next (readmit attach s)
/-- WARM_CELLS or WARM_US, whichever first (R445, R446). -/
def warmReached (a : Nat) (s : State) : State :=
  let x := attachOf a s
  if x.re != .cyclic then s
  else
    let s := if rget kWarmCells s ≤ x.warm then s else timeTo (x.warmAt + rget kWarmUs s * nsUs) s
    modAttach a (fun x => { x with re := .joining }) s
def execWarmReached (attach : Nat) (s : State) : Res := .next (warmReached attach s)
/-- The last cell has left the path and the resequencer. -/
def joiningDone (a : Nat) (s : State) : State :=
  if (attachOf a s).re != .joining || s.sw.frames.any (fun f => onPath f && (f.ingress == a || f.dest == a)) then s
  else modAttach a (fun x => { x with re := .normal, warm := 0 }) s
def execJoiningDone (attach : Nat) (s : State) : Res := .next (joiningDone attach s)

/-! ### Policing (R467, R468) -/

/-- A held red frame's Tp bucket reaches its length. -/
def redRemeter (p c : Nat) (s : State) : State :=
  match s.sw.frames.find? (fun f => f.red && f.ingress == p && f.own == c) with
  | none => s
  | some f =>
    let v := polRec p c s
    let m := meterNow p c s
    let need := f.bytes * 1000
    if polOn v && m.tp < need && polPir v = 0 then s
    else remeterAll p c (if polOn v && m.tp < need then timeTo (s.now + cdiv (need - m.tp) (polPir v)) s else s)
def execRedRemeter (port cls : Nat) (s : State) : Res := .next (redRemeter port cls s)
def policerBad (v : Nat) : Bool :=
  polOn v && (decide (polPir v < polCir v) || decide (205000 < polPir v) || decide (polCbs v < 4160) || decide (polPbs v < 4160))
/-- POLICER: both buckets fill, a red frame is metered again at once. -/
def commitPolicer (i v : Nat) (s : State) : Status × State :=
  if policerBad v then tcPost (.refusedFormat, s)
  else
    let p := i / 8
    let c := i % 8
    let m := meterNow p c s
    let s := setMeter p c { m with tc := polCbs v * 1000, tp := polPbs v * 1000 } (rseti kPolicer i v s)
    tcPost (.done, remeterAll p c s)

end Sys2Proof.Machine
end

