-- ==== Sys2Proof/Machine/Flits.lean ====
section
/-!
DEFINITION. Flits received (11_prerek_links.md): FEC and CRC, acknowledgement, NAK and replay, credits, frames taken from
the channels' byte streams and handed to the switch core.
-/
namespace Sys2Proof.Machine

/-- An uncorrectable codeword on a lane: counted; more than 16 within 1 ms on a lane in service retrain the port (R328, R348). -/
def fecBad (p lane : Nat) (s : State) : State :=
  let l := linkOf p s
  let ts := (l.fecTimes.filter (fun e => decide (s.now < e.2 + nsMs))) ++ [(lane, s.now)]
  let n := (ts.filter (fun e => e.1 == lane)).length
  let s := setLink p { l with fecTimes := ts, fecUncorrected := tput l.fecUncorrected lane (cnt64 (tgetD l.fecUncorrected lane 0)) } s
  if 16 < n && l.st == .active then enterRecovery p (modLink p (fun l => { l with fecTimes := [] }) s) else s
/-- A flit is intact: no bad codeword overlaps it and its CRC is right (R328, R329). -/
def flitGood (f : FlitHdr) (payload : List Byte) (badLane : Option Nat) : Bool :=
  badLane.isNone && linkCrc (flitHdr40 f) payload == f.crc % 2 ^ 24

/-- Codewords that the FEC corrected under a flit are counted (FEC_CORRECTED). -/
def fecFixed (p : Nat) (f : FlitHdr) (s : State) : State :=
  modLink p (fun l => { l with fecCorrected := min (2 ^ 64 - 1) (l.fecCorrected + f.fixed) }) s

/-- ACK progress: flits up to the acknowledged one leave the replay buffer. -/
def ackIn (p ack : Nat) (s : State) : State :=
  let l := linkOf p s
  if l.unacked.any (fun f => f.seq == ack) then
    let rest := (l.unacked.dropWhile (fun f => f.seq != ack)).drop 1
    setLink p { l with unacked := rest, ackAt := s.now } s
  else s
/-- Send a NAK, once for a point until its flit arrives or REPLAY_TIMEOUT has passed (R334). -/
def nakOut (p : Nat) (s : State) : State :=
  let l := linkOf p s
  if l.nakPending && decide (s.now < l.nakAt + rget kReplayTimeout s) then s
  else sendBare p ftNak (setLink p { l with nakPending := true, nakAt := s.now, naksSent := cnt64 l.naksSent } s)
/-- A flit fails. -/
def flitBad (p : Nat) (badLane : Option Nat) (s : State) : State :=
  let s := modLink p (fun l => { l with crcErrors := cnt64 l.crcErrors }) s
  let s := match badLane with | some n => fecBad p n s | none => s
  if linkRuns (linkOf p s) then nakOut p s else s
/-- Credits the far side returns. -/
def creditsIn (p : Nat) (add : List Nat) (s : State) : State :=
  modLink p (fun l => { l with credits := (List.range 8).map (fun i => (l.credits[i]?).getD 0 + (add[i]?).getD 0) }) s
/-- A sequenced flit: accepted in order with its credits, else discarded (R333, R334, R337). -/
def sequencedIn (p : Nat) (f : FlitHdr) (payload : List Byte) (badLane : Option Nat) (k : State → State) (s : State) : State :=
  let s := fecFixed p f s
  let l := linkOf p s
  if !linkRuns l then s
  else if !flitGood f payload badLane then flitBad p badLane s
  else
    let s := ackIn p (f.ack % 4096) s
    let gap := (f.seq % 4096 + 4096 - l.rxSeq) % 4096
    if gap = 0 then
      let s := modLink p (fun l => { l with rxSeq := (l.rxSeq + 1) % 4096, nakPending := false }) s
      let s := if f.ccnt % 128 = 0 then s
        else creditsIn p ((List.range 8).map (fun i => if i = f.cvc % 8 then f.ccnt % 128 else 0)) s
      let s := k s
      if linkRuns (linkOf p s) then sendBare p ftIdle (payCredits p s) else s
    else if 2048 ≤ gap then sendBare p ftIdle s
    else nakOut p s

/-! ### Frames out of the streams (R330, R331, R341) -/

/-- Framing is lost: FRAMING_ERR and RECOVERY. -/
def framingError (p vc : Nat) (s : State) : State :=
  enterRecovery p (modLink p (fun l => { l with framingErr := cnt32 l.framingErr, stream := tdel l.stream vc }) s)
/-- The elements of the EXPPLANE blocks of a coded payload; none where a block is not valid. -/
def expandBlocks : Nat → List Byte → Option (List Byte)
  | 0, _ => none
  | n + 1, bs =>
    if bs.length < 16 then some []
    else
      let h := natOf (bs.take 16)
      match decodeBlock h none ((bs.drop 16).take (bLen h)) with
      | .error _ => none
      | .ok (ts, _) => (expandBlocks n (bs.drop (16 + cdiv (bLen h) 16 * 16))).map (fun r =>
          packElems (bFmt h) (elemsOf (bFmt h) (bTuple h) ts) ++ r)
/-- The port expander decodes a CONTRIB frame marked coded before it enters the switch core; one with a block that is not
valid enters as it came, for its contribution to be refused (R238, R218). -/
def expandFrame (content : List Byte) : List Byte :=
  if frameOp content = 0x28 && frameBits content 114 114 == 1 then
    match expandBlocks 5 (content.drop 32) with
    | some d => bytesOf 2 ((32 + d.length + 7) / 8) ++ (content.take 32).drop 2 ++ d ++ List.replicate ((8 - d.length % 8) % 8) 0
    | none => content
  else content
/-- A whole frame has arrived on a channel. -/
def frameIn (p vc : Nat) (content : List Byte) (s : State) : State :=
  let l := linkOf p s
  let cost := frameCost content.length
  let have_ := (l.advert[vc]?).getD 0
  if have_ < cost then
    portReset p 5 (modLink p (fun l => { l with creditOverrun := cnt32 l.creditOverrun }) s)
  else
    let s := setLink p { l with advert := l.advert.set vc (have_ - cost) } s
    let op := frameOp content
    if 0xF0 ≤ op then owe p vc cost s
    else if l.st != .active then
      owe p vc cost (modLink p (fun l => { l with preActiveDrops := cnt64 l.preActiveDrops }) s)
    else if !isTray p && portRolePeer p s && op != 0x40 && op != 0x41 then
      owe p vc cost (modLink p (fun l => { l with peerProtoErr := cnt64 l.peerProtoErr }) s)
    else if !isTray p && portRolePeer p s && op == 0x40 &&
            (frameBits content 31 24 == 0 || decide (6 < frameBits content 31 24)) then
      -- a PEER frame of another KIND (Table 12.8)
      bump kPeerProtoKind (owe p vc cost (modLink p (fun l => { l with peerProtoErr := cnt64 l.peerProtoErr }) s))
    else
      let content := if isTray p then content else expandFrame content
      let s := switchIn p vc cost content s
      capture p false (sliceFor p content s) content s
/-- Take the frames that a channel's bytes hold; what is left waits for the next flit. A zero word where a frame would
begin skips the rest of the flit. -/
def takeFrames (p vc : Nat) : Nat → List Byte → State → State
  | 0, _, s => s
  | n + 1, bs, s =>
    let put (r : List Byte) (s : State) : State :=
      modLink p (fun l => { l with stream := if r.isEmpty then tdel l.stream vc else tput l.stream vc r }) s
    if bs.isEmpty then put [] s
    else if natOf (bs.take 8) = 0 then put [] s
    else
      let len := natOf (bs.take 2)
      if len = 0 || 520 < len then framingError p vc s
      else if bs.length < 8 * len then put bs s
      else
        let s := frameIn p vc (bs.take (8 * len)) (put [] s)
        if linkRuns (linkOf p s) then takeFrames p vc n (bs.drop (8 * len)) s else s
def dataIn (p : Nat) (f : FlitHdr) (payload : List Byte) (s : State) : State :=
  takeFrames p (f.vc % 8) 600 (tgetD (linkOf p s).stream (f.vc % 8) [] ++ payload) s

def execDataFlit (link : Nat) (f : FlitHdr) (payload : List Byte) (badLane : Option Nat) (s : State) : Res :=
  .next (settle (sequencedIn link { f with typ := ftData } payload badLane (dataIn link f payload) s))
/-- A CREDIT flit: eight u16 returns, the rest of its payload zero. -/
def creditPayload (returns : List Nat) : List Byte :=
  let b := (List.range 8).flatMap (fun i => bytesOf 2 ((returns[i]?).getD 0))
  b ++ List.replicate (flitBytes - b.length) 0
def execCreditFlit (link : Nat) (f : FlitHdr) (returns : List Nat) (badLane : Option Nat) (s : State) : Res :=
  .next (settle (sequencedIn link { f with typ := ftCredit } (creditPayload returns) badLane (creditsIn link returns) s))
/-- IDLE and NAK flits are not sequenced; they carry an ACK. -/
def bareIn (p : Nat) (f : FlitHdr) (badLane : Option Nat) (k : State → State) (s : State) : State :=
  let s := fecFixed p f s
  if !linkRuns (linkOf p s) then s
  else if !flitGood f (List.replicate flitBytes 0) badLane then flitBad p badLane s
  else k (ackIn p (f.ack % 4096) s)
def execIdleFlit (link : Nat) (f : FlitHdr) (badLane : Option Nat) (s : State) : Res :=
  .next (settle (bareIn link { f with typ := ftIdle } badLane (payCredits link) s))
def execNak (link : Nat) (f : FlitHdr) (s : State) : Res :=
  .next (settle (bareIn link { f with typ := ftNak } none (replay link) s))
/-- REPLAY_TIMEOUT passes without progress of ACK (R335). -/
def replayTimeout (p : Nat) (s : State) : State :=
  let l := linkOf p s
  if !linkRuns l || l.unacked.isEmpty then s
  else replay p (timeTo (l.ackAt + rget kReplayTimeout s) s)
def execReplayTimeout (link : Nat) (s : State) : Res := .next (settle (replayTimeout link s))

end Sys2Proof.Machine
end

