-- ==== Sys2Proof/Machine/Ring.lean ====
section
/-!
DEFINITION. The Kerwyn ring and the timebase (16_kerwyn_dictionary.md): frames, wraps and heals, PTP; PPS_IN
(19_package_clocks_power.md).
-/
namespace Sys2Proof.Machine

/-! ### Ports and frames (R480, R481, R487) -/

def rport (onB : Bool) (s : State) : RPort := if onB then s.ring.portB else s.ring.portA
def setRport (onB : Bool) (x : RPort) (s : State) : State :=
  if onB then { s with ring := { s.ring with portB := x } } else { s with ring := { s.ring with portA := x } }
def modRport (onB : Bool) (f : RPort → RPort) (s : State) : State := setRport onB (f (rport onB s)) s
/-- A port that the node has declared failed (Table 16.1). -/
def ringFailed (onB : Bool) (s : State) : Bool :=
  match s.ring.st with
  | .wrappedA => !onB
  | .wrappedB => onB
  | .isolated => true
  | _ => false
/-- The loft accepts frames: firmware runs, and the node is neither isolated nor FORWARD_ONLY. -/
def nodeAccepts (s : State) : Bool :=
  decide (1 ≤ rget kStartState s) && !s.rst.halted && !s.pow.refLost && !s.pow.tripped && s.ring.st != .isolated && s.ring.st != .forwardOnly
/-- Ring counters and what the frame is (R487). -/
def frameOk (f : RingFrame) : Bool := f.crcOk && decide (f.length ≤ 1088) && decide (1 ≤ f.typ) && decide (f.typ ≤ 3)
/-- A frame arrives at a port. -/
def ringCount (f : RingFrame) (s : State) : State :=
  modRport f.onB (fun p =>
    { p with up := p.up || !ringFailed f.onB s, recv := cnt64 p.recv, crc := if frameOk f then p.crc else cnt32 p.crc }) s
/-- The port a forwarded frame leaves by: opposite the one it arrived on; a wrapped node turns it back (R480, R483). -/
def wayOut (onB : Bool) (s : State) : Bool :=
  match s.ring.st with
  | .wrappedA => true
  | .wrappedB => false
  | _ => !onB
/-- Does this node strip a frame (R481)? -/
def strips (f : RingFrame) (s : State) : Bool :=
  s.ring.st != .forwardOnly && ((!f.bcast && f.dst == s.ring.node) || (f.src == s.ring.node && f.onB))
/-- Does this node accept a frame (R481)? -/
def takes (f : RingFrame) (s : State) : Bool :=
  nodeAccepts s && frameOk f && !ringFailed f.onB s && (if f.bcast then f.onB && f.src != s.ring.node else f.dst == s.ring.node)
/-- Forward a frame that is not stripped, with its content. -/
def forward (f : RingFrame) (o : Bool → RingFrame → Out) (s : State) : State :=
  if !frameOk f || ringFailed f.onB s || s.ring.st == .isolated || strips f s then s
  else if f.hops = 0 then bump kHopsExpired s
  else
    let way := wayOut f.onB s
    send (o way { f with hops := f.hops - 1 }) (modRport way (fun p => { p with sent := cnt64 p.sent }) s)
def ringForward (f : RingFrame) (s : State) : State := forward f Out.ring (ringCount f s)
def execRingFrameForward (f : RingFrame) (s : State) : Res := .next (ringForward f s)

/-! ### DISCOVER (R479) -/

/-- DEVICE_TAG in effect (R529). -/
def deviceTag (s : State) : Nat := s.sec.flash.idTag
def discoverIn (f : RingFrame) (map tag : Nat) (s : State) : State :=
  let s := ringCount f s
  let alike := s.ring.node == 0 || (bit map s.ring.node && tag != deviceTag s)
  let s := if takes f s && alike then { s with ring := { s.ring with st := .forwardOnly } } else s
  let mine := takes f s
  let map' := if mine then mapOf ((bitsOf map 32) ++ [s.ring.node]) else map
  let s := onlyIf mine (rset kRingNodes map') s
  forward f (fun b f => Out.discover b f map') s
def execDiscover (f : RingFrame) (map tag : Nat) (s : State) : Res := .next (discoverIn f map tag s)

/-! ### Failure, restoration, heal (R482 to R486, Table 16.1) -/

def ringTo (st : RingSt) (s : State) : State := { s with ring := { s.ring with st := st } }
def ringPortFailed (onB : Bool) (cause : Nat) (s : State) : State :=
  if ringFailed onB s then s
  else
    let s := modRport onB (fun p => { p with up := false, failed := cnt32 p.failed, restoredAt := none, los := cause == 0,
                                             fec := if cause = 2 then cnt32 p.fec else p.fec }) s
    let wrap (st : RingSt) : State := raise 0x1040 0x01 1 (b2n onB) (bump kRingWraps (ringTo st s))
    match s.ring.st with
    | .normal => wrap (if onB then .wrappedB else .wrappedA)
    | .wrappedA | .wrappedB => ringTo .isolated s
    | _ => s
def execRingPortFailed (p : PortFail) (s : State) : Res := .next (ringPortFailed p.onB p.cause s)
/-- A failed port has held clean lock for HEAL_MS: it is in service again, and a HEAL goes out over it. -/
def ringPortRestored (onB : Bool) (s : State) : State :=
  let s := modRport onB (fun p => { p with up := true, los := false, restoredAt := some s.now }) s
  onlyIf (ringFailed onB s) (send (.heal onB)) s
def execRingPortRestored (onB : Bool) (s : State) : Res := .next (ringPortRestored onB s)
/-- A HEAL arrives: the node unwraps. -/
def healIn (onB : Bool) (s : State) : State :=
  let healed (st : RingSt) : State := raise 0x1040 0x02 1 (b2n onB) (ringTo st (modRport onB (fun p => { p with up := true, los := false }) s))
  match s.ring.st, onB with
  | .wrappedA, false => healed .normal
  | .wrappedB, true => healed .normal
  | .isolated, false => healed .wrappedB
  | .isolated, true => healed .wrappedA
  | _, _ => s
def execHeal (onB : Bool) (s : State) : Res := .next (healIn onB s)

/-! ### PTP (R514 to R518, Table 16.11) -/

def ptpOk (p : Ptp) (s : State) : Bool :=
  p.frame.src == 0 && p.domain == rget kPtpDomain s && decide (-7 ≤ p.logInterval) && decide (p.logInterval ≤ 0)
/-- The Sync interval, ns. -/
def syncNs (log : Int) : Nat := nsS / 2 ^ (-log).toNat
def setTime (f : Time → Time) (s : State) : State := { s with time := f s.time }
def timeStCode : TSt → Nat
  | .freerun => 0 | .locking => 1 | .locked => 2 | .holdover => 3
/-- A Sync: accepted with its arrival time less the link's delay, forwarded. -/
def syncIn (p : Ptp) (s : State) : State :=
  let s := ringCount p.frame s
  let t := timebase s - (rport p.frame.onB s).delay
  let s := if !takes p.frame s then s
    else if !ptpOk p s then bump kSyncRejected s
    else setTime (fun x => { x with syncAt := some (t, p.seqId), interval := syncNs p.logInterval, lastSync := s.now })
      (bump kSyncAccepted s)
  forward p.frame (fun b f => Out.ptp b { p with frame := f }) s
def execSync (p : Ptp) (s : State) : Res := .next (syncIn p s)
/-- Move the timebase by an amount: pending gate times follow (R477, R516). -/
def stepTime (d : Int) (s : State) : State :=
  let old := timebase s
  let s := { s with tbOff := s.tbOff + d }
  raise 0x1080 0x03 8 (ofS 64 d) (bump kTimeSteps (gatesStep old (timebase s) s))
/-- A correction of at most 100 ppm. -/
def ppmLimit (x : Int) : Int := max (-100000) (min 100000 x)
/-- The servo takes an offset as it stands now: what the phase correction does not explain of its change is the frequency's,
unless the offset is above STEP_NS, and the whole of it is slewed away, unless the timebase steps (R516, R517; log 105). A
first offset is only measured (Table 16.11). -/
def servo (off : Int) (big : Bool) (s : State) : State :=
  let x := s.time
  let dt : Int := (s.now : Int) - x.corrAt
  let moved := (slewed x dt - dt * (1000000000 + x.freq)) / 1000000000
  let first := x.st == .freerun || x.st == .holdover
  let step := x.st == .locking && big
  let f := match x.prev with
    | some p => if first || big || dt ≤ 0 then x.freq else ppmLimit (x.freq - (off - p - moved) * 1000000000 / dt)
    | none => x.freq
  let corr := if first || step then 0 else -off
  let s := { s with tbOff := (timebase s : Int) - s.now }
  rset kFreqAdj (ofS 32 f) (setTime (fun x => { x with
    freq := f, corr := corr, corrAt := s.now, prev := some (if step then 0 else off) }) s)
/-- An offset has been measured (timebase less the rack's time), and stands now at a value. -/
def offsetIn (off cur : Int) (s : State) : State :=
  let big := decide (((rget kStepNs s : Nat) : Int) < off.natAbs)
  let s := servo cur big (rset kTimeOffset (ofS 64 off) s)
  match s.time.st with
  | .freerun | .holdover => setTime (fun x => { x with st := .locking, good := 0, bad := 0 }) s
  | .locking =>
    if big then stepTime (-cur) (setTime (fun x => { x with good := 0 }) s)
    else
      let n := if off.natAbs ≤ 100 then s.time.good + 1 else 0
      if n < 16 then setTime (fun x => { x with good := n }) s
      else raise 0x1080 0x01 0 0 (setTime (fun x => { x with st := .locked, good := 0, bad := 0 }) s)
  | .locked =>
    let n := if big then s.time.bad + 1 else 0
    if n < 4 then setTime (fun x => { x with bad := n }) s
    else setTime (fun x => { x with st := .locking, good := 0, bad := 0 }) s
/-- The nearest whole number of seconds. -/
def wholeSeconds (x : Int) : Int := (x + 500000000) / 1000000000 * 1000000000
/-- A Follow_Up of the Sync accepted last completes a measurement; with TIME_SOURCE 1 the ring gives whole seconds only
(R518), and none while PPS_IN shows a constant level. -/
def followUpIn (p : Ptp) (s : State) : State :=
  let s := ringCount p.frame s
  let delay := (rport p.frame.onB s).delay
  let t := takes p.frame s
  let s := match s.time.syncAt with
    | some (a, q) =>
      if t && ptpOk p s && q == p.seqId then
        let off := (a : Int) - p.origin
        let pps := rget kTimeSource s == 1
        let s := setTime (fun x => { x with syncAt := none }) s
        -- since the Sync's arrival the timebase has gained on the clock what the servo gave it
        let gain := ((timebase s : Int) - s.now) - ((a + delay : Nat) - s.time.lastSync)
        let cut (x : Int) : Int := if pps then wholeSeconds x else x
        -- with PPS_IN a whole second that is right says nothing of the phase
        let idle := cut off == 0 && (s.time.st == .locking || s.time.st == .locked)
        if pps && (s.time.ppsLost || idle) then s else offsetIn (cut off) (cut (off + gain)) s
      else onlyIf (t && !ptpOk p s) (bump kSyncRejected) s
    | none => onlyIf (t && !ptpOk p s) (bump kSyncRejected) s
  -- residence time, within 300 ns, and the arrival link's delay
  let (r, s) := draw s
  forward p.frame (fun b f => Out.ptp b { p with frame := f, origin := p.origin + ((delay + r % 301 : Nat) : Int) }) s
def execFollowUp (p : Ptp) (s : State) : Res := .next (followUpIn p s)
def announceIn (p : Ptp) (s : State) : State :=
  let s := ringCount p.frame s
  let s := onlyIf (takes p.frame s && !ptpOk p s) (bump kSyncRejected) s
  forward p.frame (fun b f => Out.ptp b { p with frame := f }) s
def execAnnounce (p : Ptp) (s : State) : Res := .next (announceIn p s)
def toHoldover (s : State) : State :=
  if s.time.st == .locking || s.time.st == .locked then raise 0x1080 0x02 0 0 (setTime (fun x => { x with st := .holdover }) s) else s
/-- No Sync for SYNC_LOSS intervals. -/
def syncLoss (s : State) : State :=
  if s.time.st == .locking || s.time.st == .locked then
    toHoldover (timeTo (s.time.lastSync + rget kSyncLoss s * s.time.interval) s)
  else s
def execSyncLoss (s : State) : Res := .next (syncLoss s)
def pdelayReq (onB : Bool) (seqId : Nat) (s : State) : State :=
  if nodeAccepts s && !ringFailed onB s then send (.pdelay onB true seqId) s else s
def execPdelayReq (onB : Bool) (seqId : Nat) (s : State) : Res := .next (pdelayReq onB seqId s)
/-- The response to the last Pdelay_Req gives the link's delay. -/
def pdelayResp (onB : Bool) (seqId delay : Nat) (s : State) : State :=
  let p := rport onB s
  if p.pseq = seqId && !ringFailed onB s then setRport onB { p with delay := delay } s else s
def execPdelayResp (onB : Bool) (seqId delay : Nat) (s : State) : Res := .next (pdelayResp onB seqId delay s)
def pdelayTimer (onB : Bool) (s : State) : State :=
  let p := rport onB s
  let s := timeTo (p.pdelayAt + nsS) s
  if !nodeAccepts s || ringFailed onB s then s
  else send (.pdelay onB false (p.pseq + 1)) (setRport onB { p with pseq := p.pseq + 1, pdelayAt := s.now } s)
def execPdelayTimer (onB : Bool) (s : State) : Res := .next (pdelayTimer onB s)

/-! ### PPS (R518, R519, R602) -/

/-- A pulse of PPS_IN at a time. -/
def ppsIn (t : Nat) (s : State) : State :=
  let s := timeTo t s
  let accept (iv : Nat) (s : State) : State :=
    let s := setTime (fun x => { x with ppsAt := some s.now, ppsAcc := timebase s, ppsInterval := iv, ppsLost := false }) s
    if rget kTimeSource s = 1 then (let off := (timebase s : Int) - wholeSeconds (timebase s)
      offsetIn off off s) else s
  match s.time.ppsAt with
  | none => accept 0 s
  | some a =>
    let dt := s.now - a
    if dt < nsS / 2 then bump kPpsRejected s
    else if 3 * nsS / 2 < dt then bump kPpsRejected (setTime (fun x => { x with ppsAt := some s.now, ppsLost := false }) s)
    else accept dt s
def execPpsIn (t : Nat) (s : State) : Res := .next (ppsIn t s)
/-- No pulse within 1.5 s of the last: PPS_LOST once; a constant level is holdover with TIME_SOURCE 1. -/
def ppsLost (s : State) : State :=
  match s.time.ppsAt with
  | none => s
  | some a =>
    if s.time.ppsLost then s
    else
      let s := timeTo (a + 3 * nsS / 2) s
      let s := raise 0xC000 0x04 0 0 (setTime (fun x => { x with ppsLost := true }) s)
      onlyIf (rget kTimeSource s == 1) toHoldover s
def execPpsLost (s : State) : Res := .next (ppsLost s)
/-- A whole second of the timebase. -/
def ppsOut (s : State) : State :=
  let s := timebaseTo ((timebase s / nsS + 1) * nsS) s
  onlyIf (rget kPpsOutEnable s == 1) (send .pps) s
def execPpsOut (s : State) : Res := .next (ppsOut s)

end Sys2Proof.Machine
end

