-- ==== Sys2Proof/Machine/Security.lean ====
section
/-!
DEFINITION. Trust and isolation (17_security.md): sessions' ends, the handshake, key loads, roles, firmware images,
debug tokens, isolation mode. The SPDM answers are in Spdm.lean.
-/
namespace Sys2Proof.Machine

def setSec (f : Security → Security) (s : State) : State := { s with sec := f s.sec }
def setSessions (l : List Session) (s : State) : State := { s with dict := { s.dict with sessions := l } }
def sessionOf (id : Nat) (s : State) : Option Session := s.dict.sessions.find? (fun x => x.id == id)
def modSession (id : Nat) (f : Session → Session) (s : State) : State :=
  setSessions (s.dict.sessions.map (fun x => if x.id = id then f x else x)) s

/-! ### Sessions (R494 to R496) -/

abbrev roleManager : Nat := 1
abbrev roleMonitor : Nat := 2
abbrev roleVendor : Nat := 3

/-- A session ends: everything it holds is discarded (R496). -/
def endSession (id : Nat) (s : State) : State :=
  if (sessionOf id s).isSome then
    bump kSessionsEnded (setSessions (s.dict.sessions.filter (fun x => x.id != id)) s)
  else s
/-- A session as it starts; its handshake's FINISH carried a FRAME_SEQ (R488). -/
def newSession (id role node frameSeq : Nat) (s : State) : Session :=
  { id := id, role := role, node := node, last := none, heldReqs := [], cache := [], staged := [], subs := [], events := [],
    nextEvent := 0, dropped := 0, selects := [], block := none, activeAt := s.now, rxSeq := some frameSeq, txSeq := 0,
    resendAt := s.now }
/-- Room for one more session of a role (R494); a MANAGER always has room (R495). -/
def roleRoom (role : Nat) (s : State) : Bool :=
  let n := (s.dict.sessions.filter (fun x => x.role == role)).length
  role == roleManager || (role == roleMonitor && decide (n < 6)) || (role == roleVendor && decide (n < 1))
/-- A session opens; a MANAGER ends the MANAGER before it (R495). -/
def openSession (id role node frameSeq : Nat) (s : State) : State :=
  let old := if role = roleManager then (s.dict.sessions.filter (fun x => x.role == roleManager)).map (·.id) else []
  let s := each old endSession s
  bump kSpdmSessionsOpened (setSessions (s.dict.sessions ++ [newSession id role node frameSeq s]) s)

/-! ### The handshake (R531 to R535) -/

abbrev handshakeNs : Nat := nsS
def roleRecord (i : Nat) (s : State) : Nat := tgetD s.sec.flash.roles i 0
def recRole (v : Nat) : Nat := fld v 4223 4220
def recExponent (v : Nat) : Nat := fld v 4127 4096
def recModulus (v : Nat) : Nat := v % 2 ^ 4096
def hasManager (t : Tbl Nat) : Bool := (List.range 8).any (fun i => recRole (tgetD t i 0) == roleManager)
/-- The role a FINISH earns: the first filled entry that verifies (R531), else MANAGER under the presented key while the
table holds no MANAGER entry (R532). -/
def finishRole (msg : List Byte) (sig modulus exponent : Nat) (s : State) : Option Nat :=
  let fits (i : Nat) : Bool :=
    recRole (roleRecord i s) != 0 && Config.rsaVerify (recModulus (roleRecord i s)) (recExponent (roleRecord i s)) msg sig
  match (List.range 8).find? fits with
  | some i => some (recRole (roleRecord i s))
  | none =>
    if !hasManager s.sec.flash.roles && Config.rsaVerify modulus exponent msg sig then some roleManager else none

/-- A handshake is abandoned 1 s after its KEY_EXCHANGE (R535). -/
def dropHandshake (id : Nat) (s : State) : State :=
  setSec (fun z => { z with handshakes := z.handshakes.filter (fun h => h.1 != id) }) s
def handshakeTimeout (id : Nat) (s : State) : State :=
  match s.sec.handshakes.find? (fun h => h.1 == id) with
  | some h => dropHandshake id (timeTo (h.2.2 + handshakeNs) s)
  | none => s
def execHandshakeTimeout (session : Nat) (s : State) : Res := .next (handshakeTimeout session s)

/-! ### Key loads (Table 17.5, R537, R538) -/

def keyOfRecord (v : Nat) : Key :=
  { host := bit v 755, owner := if bit v 755 then fld v 747 736 else fld v 751 736, key1 := fld v 511 256, key2 := fld v 255 0 }
def keyLoadStatus (v : Nat) (s : State) : Status :=
  let slot := fld v 767 756
  let k := keyOfRecord v
  if rget kDebugState s != 0 then .denied
  else if slot = 0 || (keyOf slot s).isSome || k.key1 = k.key2 || (!k.host && !isActive k.owner s) then .refusedFormat
  else .done
/-- KEY_LOAD: the key stands in every engine before the result is posted. A refused load's KCV field is a free value. -/
def commitKeyLoad (v : Nat) (s : State) : Status × State :=
  let slot := fld v 767 756
  let k := keyOfRecord v
  match keyLoadStatus v s with
  | .done =>
    let s := { s with pool := { s.pool with keys := tput s.pool.keys slot k } }
    (.done, rset kKeyLoadResult (pack [(statusCode .done, 248), (slot, 128), (keyCheck k, 0)]) s)
  | st =>
    let (x, s) := draw s
    (.done, rset kKeyLoadResult (pack [(statusCode st, 248), (slot, 128), (x % 2 ^ 128, 0)]) s)

/-! ### Roles (R532) -/

/-- ROLE_ENTRY of entry i: the role table in the boot flash. -/
def commitRoleEntry (i v : Nat) (s : State) : Status × State :=
  let t := tput s.sec.flash.roles i v
  if 3 < recRole v || !hasManager t then (.refusedFormat, post16 kRoleResult .refusedFormat s)
  else (.done, post16 kRoleResult .done (setSec (fun z => { z with flash := { z.flash with roles := t } }) s))

/-! ### Firmware images (Table 17.2, R522, R526) -/

/-- A written image as R522 judges it: 128 B header, 512 B signature, body. -/
def imageOf (d : List Byte) : Image :=
  let h := d.take 128
  let v := natOf h
  let body := (d.drop 640).take (fld v 927 896)
  let len := fld v 927 896
  { headerOk := decide (640 ≤ d.length) && fld v 1023 992 == 0x594C4657 && fld v 991 976 == 1 &&
                Config.signedBy 0 h (natOf ((d.drop 128).take 512)),
    bodyOk := decide (1 ≤ len) && decide (len ≤ 4194304) && body.length == len &&
              Config.sha512 body % 2 ^ 512 == fld v 863 352,
    fw := fld v 959 928, sec := fld v 975 960, digest := Config.sha512 (h ++ body) }
def imageValid (x : Image) : Bool := x.headerOk && x.bodyOk
/-- FW_IMAGE at BLOCK_CLOSE: programs the slot that is not running. The other fields of a refusal's result are free. -/
def writeImage (d : List Byte) (s : State) : State :=
  let x := imageOf d
  if imageValid x then
    let s := setSec (fun z => { z with flash :=
      if z.slotB then { z.flash with imageA := x } else { z.flash with imageB := x } }) s
    rset kFwResult (pack [(statusCode .done, 56), (b2n (!s.sec.slotB), 48), (x.sec, 32), (x.fw, 0)]) s
  else
    let (r, s) := draw s
    rset kFwResult (pack [(statusCode .refusedFormat, 56), (r % 2 ^ 56, 0)]) s

/-! ### Debug (Table 17.6, R540, R541) -/

abbrev debugNone : Nat := 0
abbrev debugInForce : Nat := 1
abbrev debugUsed : Nat := 2
/-- DEBUG_NONCE is drawn anew. -/
def drawNonce (s : State) : State :=
  let (x, s) := draw s
  rset kDebugNonce (x % 2 ^ 256) s
def tokenStatus (v : Nat) (s : State) : Status :=
  let b := v % 2 ^ 1024
  let dur := fld b 671 640
  if fld b 1023 992 != 0x59444247 || fld b 991 928 != deviceTag s || fld b 927 672 != rget kDebugNonce s ||
     dur < 1 || 86400 < dur || !Config.signedBy 1 (bytesOf 128 b) (v / 2 ^ 1024) then .refusedFormat
  else if s.pool.jobs.any (fun j => !j.2.closing) || !s.pool.keys.isEmpty then .retry
  else .done
def commitDebugToken (v : Nat) (s : State) : Status × State :=
  let b := v % 2 ^ 1024
  match tokenStatus v s with
  | .done =>
    let s := setSec (fun z => { z with debugUntil := s.now + fld b 671 640 * nsS, debugScope := fld b 639 632,
                                       debugDigest := Config.sha512 (bytesOf 640 v) }) s
    (.done, post16 kDebugResult .done (raise 0xA000 0x02 0 0 (rset kDebugState debugInForce s)))
  | st => (.done, post16 kDebugResult st s)
/-- The token in force ends: USED, and a new nonce. -/
def endToken (s : State) : State :=
  if rget kDebugState s = debugInForce then drawNonce (raise 0xA000 0x03 0 0 (rset kDebugState debugUsed s)) else s
def commitDebugEnd (s : State) : Status × State := (.done, endToken s)
def debugExpiry (s : State) : State :=
  if rget kDebugState s = debugInForce then endToken (timeTo s.sec.debugUntil s) else s
def execDebugTokenExpiry (s : State) : Res := .next (debugExpiry s)
/-- A VENDOR session may write 0xF000 objects (Table 16.6). -/
def vendorWrites (s : State) : Bool := rget kDebugState s == debugInForce && bit s.sec.debugScope 0

/-! ### Isolation mode (Table 17.8, R543 to R546) -/

/-- The record names its job; ISO_SELECT serves reads. -/
def isoRecordOk (v : Nat) (slot : Nat) (j : Job) (s : State) : Bool :=
  let trays := fld v 63 48
  let lat := fld v 95 64
  decide (1000 ≤ lat) && decide (lat ≤ 1000000) && trays != 0 &&
  s.pool.jobs.all (fun e => e.1 == slot || !e.2.iso.enable || e.2.iso.trays &&& trays == 0) && isoHolds slot j s
def commitIsoJob (v : Nat) (s : State) : Status × State :=
  match activeJob (fld v 127 112) s with
  | none => (.refusedFormat, post16 kIsoResult .refusedFormat s)
  | some (slot, j) =>
    if !bit v 111 then
      (.done, post16 kIsoResult .done (setJob slot { j with iso :=
        { j.iso with enable := false, latency := fld v 95 64, trays := fld v 63 48, state := 0 } } s))
    else if isoRecordOk v slot j s then
      (.done, post16 kIsoResult .done (setJob slot { j with iso :=
        { j.iso with enable := true, latency := fld v 95 64, trays := fld v 63 48, state := 1 } } s))
    else (.refusedFormat, post16 kIsoResult .refusedFormat s)

/-- A paced response leaves when its LATENCY_NS is over (R546). -/
def isoRelease (port tag : Nat) (s : State) : State :=
  match s.txn.paced.find? (fun p => p.port == port && p.tag == tag) with
  | some p =>
    send (.response p.port p.tag p.seq p.job p.status p.op p.flags p.tc p.data)
      (timeTo p.due { s with txn := { s.txn with paced := s.txn.paced.erase p } })
  | none => s
def execIsoResponseRelease (port tag : Nat) (s : State) : Res := .next (isoRelease port tag s)

end Sys2Proof.Machine
end

