-- ==== Sys2Proof/Machine/Resets.lean ====
section
/-!
DEFINITION. Resets (18_resets_and_faults.md): the five scopes and their triggers (Table 18.2), what each keeps and clears
(Table 18.3), the quiesce of a warm reset, FATAL errors (Table 18.4), the ledger's rows, hens and larders out of service.
Start-up is in Start.lean.
-/
namespace Sys2Proof.Machine

def setRst (f : Resets → Resets) (s : State) : State := { s with rst := f s.rst }

/-! ### Bookkeeping (R552, R554) -/

def scopeRank : Scope → Nat
  | .port => 0 | .job => 1 | .larder => 2 | .warm => 3 | .cold => 4
/-- A reset of a scope and target meets one in progress: the same one, or a warm or cold one at least as large (R554). -/
def absorbed (sc : Scope) (target : Nat) (s : State) : Bool :=
  s.rst.inProgress.any (fun r => (r.scope == sc && (r.target == target || sc == .warm || sc == .cold)) ||
    ((r.scope == .warm || r.scope == .cold) && decide (scopeRank sc ≤ scopeRank r.scope)))
/-- RESET_COUNTS: one more in the field that begins at a bit. -/
def countReset (lo : Nat) (s : State) : State :=
  let n := rget kResetCounts s
  rset kResetCounts (setFld n (lo + 63) lo (min (2 ^ 64 - 1) (fld n (lo + 63) lo + 1))) s
/-- A reset is in progress. -/
def startReset (sc : Scope) (target cause ended : Nat) (s : State) : State :=
  let r : ResetRec := { scope := sc, target := target, cause := cause, at_ := s.now, ended := ended, unrec := s.rst.unrecorded }
  setRst (fun x => { x with inProgress := x.inProgress ++ [r] }) s
/-- A reset is over: its record (R570). -/
def finishReset (r : ResetRec) (s : State) : State :=
  resetRecord r r.ended (s.rst.unrecorded - r.unrec) (setRst (fun x => { x with inProgress := x.inProgress.erase r }) s)
/-- Ledger class of the epochs that a warm or cold reset ends (Table 18.6). -/
def epochClass (cause : Nat) : Nat := if cause ≤ 1 then clsInfo else clsUnit
abbrev causeCommand : Nat := 0
abbrev causePin : Nat := 1
abbrev causeWatchdog : Nat := 2
abbrev causeFatal : Nat := 3
abbrev causePwrOk : Nat := 4
abbrev causeFault : Nat := 5

/-! ### Items and hens of a reset -/

/-- An admitted item leaves with a CANCELLED record whose CAUSE is CANCELLED (R555, R557). -/
def cancelNow (i : Nat) (s : State) : State :=
  match itemOf i s with
  | none => s
  | some x =>
    pushRec { itemRec x .cancelled with cause := statusCode .cancelled, stopOnFault := false }
      { s with work := { s.work with items := tdel s.work.items i } }
/-- End the slivers that some hens hold, assigned or running, at once; their next sliver starts from zeroed stores. -/
def endSlivers (p : Nat → Hen → Bool) (st : Status) (s : State) : State :=
  each (s.hens.hens.filter (fun e => (e.2.st == .running || e.2.st == .assigned) && p e.1 e.2)) (fun e s =>
    modHen e.1 (fun y => { y with lastJob := none, lastItem := none }) (endSliver e.1 st s)) s
/-- Loading stops on some queues; each that is not going away is STOPPED. -/
def stopQueues (p : Queue → Bool) (s : State) : State :=
  each (s.work.queues.filter (fun q => p q.2)) (fun q s =>
    if q.2.st == .draining then s
    else queueTo q.1 .stopped (setQueue q.1 { q.2 with loadTo := none, paused := false } s)) s
/-- Queues stop, slivers end, items complete CANCELLED; answers the items ended. -/
def stopWork (p : Nat → Bool) (s : State) : Nat × State :=
  let ids := (s.work.items.filter (fun e => p e.2.job)).map (·.1)
  let s := stopQueues (fun q => p q.job) s
  let s := each ids (fun i => modItem i (fun x => { x with stop := some .cancelled })) s
  let s := endSlivers (fun _ h => p h.job) .cancelled s
  let s := { s with eng := { s.eng with delivers := s.eng.delivers.filter (fun d => !ids.contains d.item) } }
  (ids.length, settle (each ids cancelNow s))
/-- The records and CANCELs of some queues are all applied. -/
def workDone (p : Nat → Bool) (s : State) : Bool :=
  let mine (q : Nat) : Bool := match queueOf q s with | some x => p x.job | none => false
  !s.work.items.any (fun e => p e.2.job) && !s.work.records.any (fun r => mine r.queue) &&
  !s.work.cancels.any (fun c => mine c.queue)

/-! ### Job reset (R555) -/

def jobResetPost (st : Status) (job : Nat) (s : State) : State := rset kJobResetResult (pack [(statusCode st, 24), (job % 65536, 0)]) s
def beginJobReset (job : Nat) (s : State) : State :=
  let (n, t) := stopWork (fun j => j == job) (countReset 64 s)
  { startReset .job job causeCommand n t with work := { t.work with jobResets := t.work.jobResets ++ [job] } }
/-- JOB_RESET: begins 100 µs after the commit (R552). -/
def commitJobReset (v : Nat) (s : State) : Status × State :=
  if isActive v s then (.done, queueReset .job v s) else (.done, jobResetPost .refusedFormat v s)
/-- Every completion record has been applied. -/
def jobResetOver (job : Nat) (s : State) : State :=
  match s.rst.inProgress.find? (fun r => r.scope == .job && r.target == job) with
  | some r =>
    if workDone (fun j => j == job) s then
      let s := { s with work := { s.work with jobResets := s.work.jobResets.erase job } }
      jobResetPost .done job (raise 0xB040 0x01 2 job (finishReset r s))
    else s
  | none => s
def execJobResetDone (job : Nat) (s : State) : Res := .next (jobResetOver job s)

/-! ### Larders and hens (R556, R572 to R576) -/

/-- A LARDER record and its event. OP: 0 out, 1 in, 2 reset, 3 training failed. -/
def larderRecord (l op cls : Nat) (s : State) : State :=
  raise 0xB000 0x05 2 (pack [(op, 8), (l, 0)])
    (ledger 0xB000 ldLarder cls (pack [(l, 252), (op, 248), (hensInService s, 232)]) s)
/-- What a hen keeps through a reset of its larder or of the part: its counters, and the count its requests are numbered
by. -/
def henFresh (x : Hen) : Hen :=
  { henDflt with busy := x.busy, retired := x.retired, corrected := x.corrected, sent := x.sent, ran := x.ran,
                 nextCmd := x.nextCmd }
/-- A hen after its larder's reset and self-test: those out for good or by command stay out. -/
def henAfterLarder (x : Hen) : Hen :=
  { henFresh x with st := if x.permanentOut then .out else if x.st == .outCmd || x.outPending then .outCmd else .idle,
                    faults := x.faults, byFault := x.permanentOut, permanentOut := x.permanentOut }
def inLarder (l h : Nat) : Bool := henLarder h == l && decide (h % 512 < 384)
/-- The gang being formed gives back the hens of a larder; its item forms another. -/
def breakGang (l : Nat) (s : State) : State :=
  match s.hens.gang with
  | some (_, hs, _) =>
    if hs.any (inLarder l) then
      each hs (fun h s => modHen h (fun y => { y with st := .idle }) s) { s with hens := { s.hens with gang := none } }
    else s
  | none => s
/-- A larder reset begins: its slivers end INTERNAL, its hens are reset, requests to its stacks wait. -/
def beginLarderReset (l cause : Nat) (s : State) : State :=
  if absorbed .larder l s then bump kResetsAbsorbed s
  else
    let s := breakGang l (endSlivers (fun h _ => inLarder l h) .internal (countReset 128 s))
    let s := modLarder l (fun x => { x with resetting := true }) (startReset .larder l cause 0 s)
    let s := { s with hens := { s.hens with hens := s.hens.hens.map (fun e => (e.1, if inLarder l e.1 then henAfterLarder e.2 else e.2)) } }
    settle (henShort (larderRecord l 2 (if cause = causeCommand then clsInfo else clsBlock) s))
/-- Stacks retrained, hens self-tested: the larder rejoins, its gateway by readmission (Table 14.6). -/
def larderResetOver (l : Nat) (s : State) : State :=
  match s.rst.inProgress.find? (fun r => r.scope == .larder && r.target == l) with
  | some r => settle (finishReset r (rejoin (attGw l) (modLarder l (fun x => { x with resetting := false }) s)))
  | none => s
def execLarderResetDone (larder : Nat) (s : State) : Res := .next (larderResetOver larder s)
/-- A parity or protocol fault of a stack controller, mesh or gateway (Table 18.4, class BLOCK). -/
def execLarderFault (larder : Nat) (s : State) : Res :=
  .next (if larder < 12 then beginLarderReset larder causeFault s else s)

/-- A hen's self-test begins. -/
def selfTest (h : Nat) (s : State) : State := modHen h (fun x => { x with st := .selfTest, testAt := s.now }) s
/-- HEN_CMD OUT: after its sliver's boundary, a hen out by a fault after its self-test (R575). -/
def henOut (h : Nat) (s : State) : State :=
  let x := henOf h s
  match x.st with
  | .idle => setHen h { x with st := .outCmd } s
  | .held => modHen h (fun y => { y with st := .outCmd }) (breakGang (henLarder h) s)
  | .outCmd => s
  | .out => s
  | _ => setHen h { x with outPending := true } s
/-- HEN_CMD IN: a hen that was taken out self-tests; one that was only asked to leave stays (R575). -/
def henBack (h : Nat) (s : State) : State :=
  let x := henOf h s
  match x.st with
  | .outCmd => selfTest h s
  | _ => setHen h { x with outPending := false } s
def larderHens (l : Nat) : List Nat := (List.range 384).map (fun i => henId l i)

/-- LARDER_CMD: larder [15:8], OP [7:0]. -/
def commitLarderCmd (v : Nat) (s : State) : Status × State :=
  let l := fld v 15 8
  let post (st : Status) (s : State) : Status × State := (.done, post16 kLarderResult st s)
  if 12 ≤ l then post .refusedFormat s
  else match fld v 7 0 with
    | 1 => post .done (queueReset .larder l s)
    | 2 =>
      let busy := (s.hens.hens.filter (fun e => inLarder l e.1 && (e.2.st == .running || e.2.st == .assigned))).map (·.1)
      let s := each busy henOut (breakGang l (modLarder l (fun x => { x with out := true }) s))
      post .done (settle (henShort (larderRecord l 0 clsInfo s)))
    | 3 =>
      let back (h : Nat) (s : State) : State :=
        let x := henOf h s
        if mappedOut h s || x.permanentOut || x.st == .selfTest then s
        else if x.st == .running || x.st == .assigned then henBack h s
        else selfTest h (modHen h (fun y => { y with outPending := false }) s)
      let s := each (larderHens l) back (modLarder l (fun x => { x with out := false }) s)
      post .done (larderRecord l 1 clsInfo s)
    | _ => post .refusedFormat s

/-- HEN_CMD: hen [31:19], OP [7:0]. -/
def commitHenCmd (v : Nat) (s : State) : Status × State :=
  let h := fld v 31 19
  let post (st : Status) (s : State) : Status × State := (.done, post16 kHenResult st s)
  if 12 ≤ henLarder h || 384 ≤ h % 512 then post .refusedFormat s
  else match fld v 7 0 with
    | 1 => post .done (henShort (henOut h s))
    | 2 => if mappedOut h s then post .refusedFormat s else post .done (henBack h s)
    | _ => post .refusedFormat s

/-- A self-test of 6 ms ends: back to service, or out until the next warm or cold reset (R572, R574). -/
def henTested (h : Nat) (passed : Bool) (s : State) : State :=
  let x := henOf h s
  if x.st != .selfTest then s
  else
    let s := timeTo (x.testAt + 6 * nsMs) s
    if passed then
      settle (setHen h { x with st := if x.outPending then .outCmd else .idle, outPending := false, byFault := false } s)
    else
      let s := setHen h { x with st := .out, outPending := false, byFault := true, permanentOut := true } s
      let s := ledger 0xB000 ldHenFault clsUnit (pack [(h, 243), (statusCode .internal, 136), (5, 128)]) s
      henShort (raise 0xB000 0x04 2 h s)

/-! ### What a warm reset resets (R559, Table 18.3) -/

/-- A link's counters and last results outlive a warm reset. -/
def linkFresh (now : Nat) (l : Link) : Link :=
  { linkDflt with identRec := l.identRec, fecCorrected := l.fecCorrected, fecUncorrected := l.fecUncorrected,
                  crcErrors := l.crcErrors, naksSent := l.naksSent, replays := l.replays, retrainCount := l.retrainCount,
                  holds := l.holds, linkupFail := l.linkupFail, framingErr := l.framingErr,
                  creditOverrun := l.creditOverrun, peerProtoErr := l.peerProtoErr, preActiveDrops := l.preActiveDrops,
                  trayIdent := l.trayIdent, downAt := now }
/-- SCRATCH crates are UNMAPPED (R76), but for those being scrubbed. -/
def dropScratch (s : State) : State :=
  let gone := (s.tiers.crates.filter (fun c => crateExt c.1 fScratch s && extActive (ckExt c.1) s)).map (·.1)
  each gone (fun ck s =>
    let s := dropAttic ck (dropCopy ck (zeroCrate ck s))
    { s with tiers := { s.tiers with crates := tdel s.tiers.crates ck } }) s
/-- A tray command that a warm reset leaves open: a crate is still to be zeroed, a map change to be journalled, a block to be
erased. -/
def outlasts (w : TrayWhy) : Bool := match w with | .zero _ _ => true | .journal _ _ _ => true | .erase _ => true | _ => false
/-- Owned objects in transit start their timers again with the full TIMEOUT_US. -/
def restartTransits (s : State) : State :=
  { s with vers := {s.vers with
      gives := [],
      owned := tmap s.vers.owned (fun _ o => if o.transit then { o with expiry := s.now + o.timeout * nsUs } else o) } }
/-- Windows being taken out have no copies left: their changes take effect. -/
def endRemovals (s : State) : State :=
  each s.coh.removing (fun r s =>
    onlyIf r.2.2 (post16 kCohWindowResult .done) (putWindow r.1 r.2.1 s)) { s with coh := { s.coh with removing := [] } }
/-- Every unit but the timebase, the ring, the key store and the ledger is reset. -/
def unitsReset (s : State) : State :=
  let s := endRemovals { s with coh := { s.coh with ents := [], snoops := [], evicts := [], scans := [], running := [],
                                                      lseq := [], pred := [], plru := [] } }
  let s := each (s.dict.sessions.map (·.id)) endSession s
  let s := restartTransits (dropScratch s)
  { s with
    pool := { s.pool with xlate := [] },
    tiers :=
      { s.tiers with
        moves := [], sources := [], deferred := [], fetches := [], making := [], flushes := [],
        cmds := (s.tiers.cmds.filter (fun c => outlasts c.why)).map (fun c => { c with got := [] }),
        crates := tmap s.tiers.crates (fun _ c => { c with moving := false, redirty := false }) },
    hens :=
      { s.hens with
        hens := tmap s.hens.hens (fun _ x => henFresh x), gang := none,
        larders := (List.range 12).map (fun l =>
          (l, { larderDflt with stackBytes := (larderOf l s).stackBytes, gwBytes := (larderOf l s).gwBytes })) },
    work :=
      { s.work with
        items := [], records := [], cancels := [], drains := [], jobResets := [],
        queues := s.work.queues.map (fun q => (q.1, { q.2 with loadTo := none, paused := false, late := false })) },
    eng :=
      { s.eng with
        colls := s.eng.colls.map (fun c => (c.1, { c.2 with openR := none, pending := [], waitFrom := none })),
        delivers := [], heldNorms := [] },
    search := { held := [] },
    links := s.links.map (fun l => (l.1, linkFresh s.now l.2)),
    txn :=
      { s.txn with
        ports := s.txn.ports.map (fun p => (p.1, { portTxDflt with epoch := p.2.epoch })),
        txs := [], held := [], hots := [], frags := [], stalled := [], jammed := [], paced := [] },
    sw :=
      { s.sw with
        slices := [], frames := [], moving := [], planned := [], busy := [],
        attach := s.sw.attach.map (fun a => (a.1, { attachDflt with early := a.2.early })),
        freeCells := [], freshCells := [], suspects := [], midTray := [], ported := s.out.length },
    traf := { s.traf with meters := [], ctrl := [], shapers := [], drr := [] },
    dict := { s.dict with saving := none },
    sec := { s.sec with handshakes := [] },
    rst := { s.rst with quiesce := none, pendingR := [], inProgress := s.rst.inProgress.filter (fun r => r.scope == .warm || r.scope == .cold) } }

/-! ### Cold reset -/

/-- Every live port's epoch ends. -/
def endEpochs (cls : Nat) (s : State) : State :=
  each ((List.range fabricPorts).filter (fun p => portLive p s)) (fun p => endEpoch p cls) s
/-- What a tray's NAND keeps: its wear and where its log stands, no valid page. -/
def blockFresh (b : Block) : Block := { b with valid := [], reclaim := false }
/-- The state of Table 18.3's last column: the boot flash, the trays' own wear and, while VAUX is up, the ledger stay;
what was sent before stays sent. -/
def coldState (keepLedger : Bool) (s : State) : State :=
  let r := State.reset
  { r with
    tiers :=
      { r.tiers with
        blocks := s.tiers.blocks.map blockFresh, logs := s.tiers.logs },
    dict := { r.dict with storeA := s.dict.storeA, storeB := s.dict.storeB },
    ring := { r.ring with node := s.ring.node },
    sw := { r.sw with ported := s.out.length },
    sec := { r.sec with flash := s.sec.flash, bootSel := s.sec.bootSel },
    rst :=
      { r.rst with
        coldHeld := s.rst.coldHeld, warmHeld := s.rst.warmHeld, vaux := s.rst.vaux, faultN := s.rst.faultN && keepLedger,
        ledger := if keepLedger then s.rst.ledger else [],
        entrySeq := if keepLedger then s.rst.entrySeq else 0,
        life := if keepLedger then (s.rst.life + 1) % 2 ^ 32 else 0,
        acked := if keepLedger then s.rst.acked else 0 },
    pow := { r.pow with throttleLow := s.pow.throttleLow,
                        throttleLowSince := if s.pow.throttleLow then some 0 else none },
    out := s.out, freeCtr := s.freeCtr, pending := s.pending }
def beginCold (cause : Nat) (s : State) : State :=
  if absorbed .cold 0 s then bump kResetsAbsorbed s
  else
    let s := coldState true (endEpochs (epochClass cause) s)
    startReset .cold 0 cause 0 s
def execColdRstAssert (s : State) : Res := .next (beginCold causePin (setRst (fun x => { x with coldHeld := true }) s))
def execPwrOkLow (s : State) : Res := .next (beginCold causePwrOk (setRst (fun x => { x with coldHeld := true }) s))
/-- The straps are sampled at the release (R580); a NODE_ID of 0 forwards only (R479). -/
def coldRelease (nodeId bootSel : Nat) (s : State) : State :=
  if rget kStartState s != 0 || s.rst.halted || s.rst.inProgress.any (fun r => r.scope == .warm) then s
  else
    let n := nodeId % 32
    let s := { s with ring := { s.ring with node := n, st := if n = 0 then .forwardOnly else s.ring.st } }
    setRst (fun x => { x with coldHeld := false, startAt := s.now }) (setSec (fun z => { z with bootSel := bootSel % 4 }) s)
def execColdRstRelease (nodeId bootSel : Nat) (s : State) : Res := .next (coldRelease nodeId bootSel s)

/-- Loss of VAUX clears the ledger and every loft state; nothing runs until VAUX and a release of COLD_RST_N (R586). -/
def execVauxRemoved (s : State) : Res :=
  .next (setRst (fun x => { x with vaux := false, coldHeld := true }) (coldState false s))
def execVauxApplied (s : State) : Res :=
  .next (if s.rst.vaux then s else setRst (fun x => { x with vaux := true, coldHeld := true }) s)

/-! ### Warm reset (R557 to R559) -/

/-- The units reset; with WARM_RST_N held low they stay so until its release. -/
def warmUnits (r : ResetRec) (s : State) : State :=
  let s := writeBatchesOf (fun _ => true) s
  let s := each (s.txn.txs.filter (fun t => t.ans.isSome)) (fun t s =>
    match t.ans with | some (st, d) => completeTx t st d s | none => s) s
  let s := each s.txn.paced (fun p => send (.response p.port p.tag p.seq p.job p.status p.op p.flags p.tc p.data)) s
  let s := endEpochs (epochClass r.cause) s
  let s := resetRecord r r.ended (s.rst.unrecorded - r.unrec) s
  let s := rset kStartState 0 (setRst (fun x => { x with startAt := s.now }) (unitsReset s))
  -- R596: after the warm reset of a hot die every thermal fraction starts at 1/16
  if s.pow.hot then
    { s with pow := { s.pow with hot := false, thermal := (List.range 12).map (fun l => (l, 1)), coolSince := [] } }
  else s
def warmRec (s : State) : Option ResetRec := s.rst.inProgress.find? (fun r => r.scope == .warm)
/-- Steps 1 to 4 have ended: nothing M or open, every record applied. -/
def quiesced (s : State) : Bool :=
  s.rst.quiesce.isSome && !scanPending .quiesce s && !s.coh.ents.any (fun e => e.owner.isSome) && s.coh.snoops.isEmpty &&
  workDone (fun _ => true) s
def quiesceDone (s : State) : State :=
  match warmRec s with
  | some r => if quiesced s then warmUnits r s else s
  | none => s
def execQuiesceDone (s : State) : Res := .next (quiesceDone s)
/-- The quiesce ends early: ITEM records for records not applied, their queues to ERROR, M lines lost (R558). -/
def cutQuiesce (r : ResetRec) (s : State) : State :=
  let lost := s.work.records
  let jobOfQ (q : Nat) : Nat := match queueOf q s with | some x => x.job | none => 0
  let s := each lost (fun c s => queueTo c.queue .error (itemLedger c (jobOfQ c.queue) s)) s
  let s := setRst (fun x => { x with unrecorded := x.unrecorded + lost.length }) s
  let s := each (s.coh.ents.filter (fun e => e.owner.isSome)) (fun e s =>
    match e.owner with | some p => loseHolder e.line p s | none => s) s
  warmUnits r s
def quiesceTimeout (s : State) : State :=
  match warmRec s, s.rst.quiesce with
  | some r, some t => cutQuiesce r (timeTo (t + rget kQuiesceUs s * nsUs) s)
  | _, _ => s
def execQuiesceTimeout (s : State) : Res := .next (quiesceTimeout s)
/-- A warm reset begins with its quiesce; a second trigger during it ends it at once (R554, R558). -/
def beginWarm (cause : Nat) (s : State) : State :=
  if absorbed .warm 0 s then
    let s := bump kResetsAbsorbed s
    match warmRec s with
    | some r => if s.rst.quiesce.isSome then cutQuiesce r s else s
    | none => s
  else
    let s := countReset 192 s
    let s := setRst (fun x => { x with inProgress := [] }) s
    let at_ := s.now
    let base := s.rst.unrecorded
    let s := setRst (fun x => { x with quiesce := some at_ }) s
    let (n, s) := stopWork (fun _ => true) s
    let s := cohSettle (queueScan .quiesce s)
    let r : ResetRec := { scope := .warm, target := 0, cause := cause, at_ := at_, ended := n, unrec := base }
    setRst (fun x => { x with inProgress := [r] }) s
def execWarmRstAssert (s : State) : Res := .next (beginWarm causePin (setRst (fun x => { x with warmHeld := true }) s))
def execWarmRstRelease (s : State) : Res := .next (setRst (fun x => { x with warmHeld := false }) s)

/-! ### RESET_CMD and the resets that wait 100 µs (R552) -/

def commitResetCmd (v : Nat) (s : State) : Status × State :=
  if v = 1 then (.done, queueReset .warm 0 s)
  else if v = 2 then (.done, queueReset .cold 0 s)
  else (.refusedFormat, s)
/-- The oldest waiting reset begins. -/
def beginReset (r : ResetRec) (s : State) : State :=
  match r.scope with
  | .port =>
    let st := (linkOf r.target s).st
    if st == .ident || st == .active || st == .recovery then settle (portReset r.target causeCommand s) else s
  | .job => if absorbed .job r.target s then bump kResetsAbsorbed s else beginJobReset r.target s
  | .larder => beginLarderReset r.target causeCommand s
  | .warm => beginWarm causeCommand s
  | .cold => beginCold causeCommand s
def resetBegin (s : State) : State :=
  match s.rst.pendingR with
  | [] => s
  | r :: rest => beginReset r (timeTo r.at_ (setRst (fun x => { x with pendingR := rest }) s))
def execResetBegin (s : State) : Res := .next (resetBegin s)

/-! ### FATAL errors (Table 18.4, R560 to R563) -/

/-- A FATAL record, FAULT_N, and a warm reset when AUTO_WARM is 1. -/
def fatal (unitN detail cause : Nat) (s : State) : State :=
  let s := setRst (fun x => { x with faultN := true }) (fatalRecord unitN detail s)
  if rget kAutoWarm s = 1 then beginWarm cause s else s
/-- The watchdog's DETAIL is diagnostic: a free value. -/
def watchdog (s : State) : State :=
  let (d, s) := draw s
  fatal 0x01 (d % 2 ^ 240) causeWatchdog s
def execWatchdogExpiry (s : State) : Res := .next (watchdog s)
/-- Units 0x02 to 0x05 of Table 18.10; the others have rows of their own. -/
def execFatalError (unit detail : Nat) (s : State) : Res :=
  .next (if 2 ≤ unit ∧ unit ≤ 5 then
      fatal unit detail causeFatal (onlyIf (unit == 2) (setRst (fun x => { x with sramStruck := true })) s)
    else s)

/-! ### The ledger's commands (R563, R569), pins -/

def commitLedgerAck (v : Nat) (s : State) : Status × State := (.done, setRst (fun x => { x with acked := (v + 1) % 2 ^ 32 }) s)
def commitLedgerClear (s : State) : Status × State := (.done, setRst (fun x => { x with ledger := [] }) s)
/-- Entries of CLASS 2 to 5 above the last LEDGER_ACK. -/
def ledgerUnread (s : State) : Nat :=
  (s.rst.ledger.filter (fun e => !(decide (2 ^ 31 ≤ (e.1 + 2 ^ 32 - s.rst.acked) % 2 ^ 32)) && decide (2 ≤ fld e.2 391 388))).length
/-- ALERT_N is low while LEDGER_UNREAD is not zero (R563). -/
def alertLow (s : State) : Bool := ledgerUnread s != 0
/-- A pulse under its filter (Table 19.6): 0 COLD_RST_N, 1 WARM_RST_N, 2 PWR_OK, 3 THROTTLE_N. -/
def execPinGlitch (pin : Nat) (s : State) : Res := .next (if pin < 4 then bump kPinGlitches s else s)

end Sys2Proof.Machine
end

