-- ==== Sys2Proof/Machine/Power.lean ====
section
/-!
DEFINITION. Rails, clocks, power and thermal limits, THROTTLE_N (19_package_clocks_power.md).
-/
namespace Sys2Proof.Machine

def setPow (f : Power → Power) (s : State) : State := { s with pow := f s.pow }

/-! ### Rails (R581, R582) -/

abbrev rails : Nat := 9
abbrev railVcore : Nat := 0
/-- The rail has a regulator in VR_MAP. -/
def mapped (r : Nat) (s : State) : Bool := decide (r < rails) && rgeti kVrMap r s != 0
/-- VCORE's VOUT_COMMAND is written. -/
def setVcore (mv : Nat) (s : State) : State :=
  send (.vout railVcore mv) (setPow (fun p => { p with vcore := mv, vcoreAt := s.now }) s)
def vcoreLegal (mv : Nat) : Bool := mv % 5 == 0 && decide (700 ≤ mv) && decide (mv ≤ 850)
/-- The 1 ms update: 5 mV steps, at most 25 mV, no sooner than 1 ms after the last; without a regulator VCORE stays. -/
def vcoreAdjust (mv : Nat) (s : State) : State :=
  let v := s.pow.vcore
  if mapped railVcore s && vcoreLegal mv && decide (mv ≤ v + 25) && decide (v ≤ mv + 25) then
    setVcore mv (timeTo (s.pow.vcoreAt + nsMs) s)
  else s
def execVcoreAdjust (mv : Nat) (s : State) : Res := .next (vcoreAdjust mv s)
/-- A path monitor's margin is low: the setpoint rises at once. -/
def marginLow (mv : Nat) (s : State) : State :=
  if mapped railVcore s && vcoreLegal mv && decide (s.pow.vcore < mv) && decide (mv ≤ s.pow.vcore + 25) then setVcore mv s else s
def execMarginLow (mv : Nat) (s : State) : Res := .next (marginLow mv s)

/-- A regulator fault: FATAL 0x21 with the rail in DETAIL, and REG_FAULT. -/
def regFault (r : Nat) (s : State) : State := fatal 0x21 (r * 2 ^ 232) causeFatal (raise 0xC000 0x05 1 r s)
/-- The 1 ms telemetry read of a regulator; 10 ms without an answer is a fault. -/
def regulatorPoll (r mv amps watts : Nat) (answered : Bool) (s : State) : State :=
  if !mapped r s then s
  else
    let (m, a, w, st, at_) := tgetD s.pow.rails r (0, 0, 0, 0, s.now)
    let put (x : Nat × Nat × Nat × Nat × Nat) (s : State) : State := setPow (fun p => { p with rails := tput p.rails r x }) s
    if answered then put (mv % 65536, amps % 65536, watts % 65536, st, s.now) s
    else if at_ + 10 * nsMs ≤ s.now then regFault r (put (m, a, w, st, s.now) s)
    else put (m, a, w, st, at_) s
def execRegulatorPoll (rail : Nat) (mv amps watts : Nat) (answered : Bool) (s : State) : Res :=
  .next (regulatorPoll rail mv amps watts answered s)
/-- VRB_ALERT_N falls: STATUS_WORD is read. -/
def vrbAlert (r word : Nat) (fault : Bool) (s : State) : State :=
  if !mapped r s then s
  else
    let (m, a, w, _, at_) := tgetD s.pow.rails r (0, 0, 0, 0, s.now)
    let s := setPow (fun p => { p with rails := tput p.rails r (m, a, w, word % 65536, at_) }) s
    onlyIf fault (regFault r) s
def execVrbAlert (rail statusWord : Nat) (outputFault : Bool) (s : State) : Res := .next (vrbAlert rail statusWord outputFault s)

/-! ### Units held until a cold reset (R589, R597) -/

/-- Every unit is reset without a quiesce; the epochs of live ports end. -/
def haltUnits (s : State) : State := setRst (fun x => { x with inProgress := [] }) (unitsReset (endEpochs clsUnit s))
/-- REF_CLK lost. -/
def refClkLost (s : State) : State :=
  if s.pow.refLost then s
  else
    let s := setRst (fun x => { x with faultN := true }) (fatalRecord 0x22 0 s)
    setPow (fun p => { p with refLost := true }) (haltUnits s)
def execRefClkLost (s : State) : Res := .next (refClkLost s)

/-! ### The issue fraction (R590 to R593) -/

/-- POWER_LIMIT each time the power fraction leaves 16/16. -/
def setFrac (n : Nat) (s : State) : State :=
  onlyIf (s.pow.frac == 16 && n != 16) (raise 0xC000 0x03 0 0) (setPow (fun p => { p with frac := n }) s)
def powerSample (w : Nat) (s : State) : State :=
  let s := setPow (fun p => { p with avg10 := w }) s
  if s.pow.cap < w then setFrac (max 1 (s.pow.frac / 2)) s else s
def execPowerSample (watts : Nat) (s : State) : Res := .next (powerSample watts s)
/-- A 100 µs boundary: the written cap and guard take effect; the fraction steps toward the target. -/
def powerBoundary (w : Nat) (s : State) : State :=
  let s := setPow (fun p => { p with cap := rget kPowerCap s, guard := rget kPowerGuard s, avg100 := w }) s
  let target := s.pow.cap - s.pow.guard
  if target < w then setFrac (max 1 (s.pow.frac - 1)) s
  else if w + 100 < target then setFrac (min 16 (s.pow.frac + 1)) s
  else s
def execPowerBoundary (watts : Nat) (s : State) : Res := .next (powerBoundary watts s)
/-- The pin fraction (R600, R601). -/
def pinFraction (s : State) : Nat :=
  if s.pow.latched then s.pow.pin else if s.pow.throttleLow then rget kThrottleFraction s else 16
def thermalFraction (l : Nat) (s : State) : Nat := tgetD s.pow.thermal l 16
/-- The fraction that applies to a larder's hens (R590). -/
def issueFraction (l : Nat) (s : State) : Nat :=
  min (min s.pow.frac (thermalFraction l s)) (min (pinFraction s) (rget kThrottleLimit s))

/-! ### Thermal limits (R595 to R598) -/

/-- THERM_SELECT: two die sensors per larder, then slices and tiles, to 47; 48 to 71 stacks; 72 and 73 optics. -/
abbrev dieSensors : Nat := 48
def larderDie (l : Nat) : List Nat := [2 * l, 2 * l + 1]
def larderStacks (l : Nat) : List Nat := [48 + 2 * l, 49 + 2 * l]
def sensorLarder (k : Nat) : Option Nat :=
  if k < 24 then some (k / 2) else if 48 ≤ k ∧ k < 72 then some ((k - 48) / 2) else none
/-- A reading lies above a limit given in °C; a sensor not read yet does not. -/
def above (k : Nat) (limit : Int) (s : State) : Bool :=
  match tget s.pow.temps k with | some t => decide (limit < t) | none => false
def larderHot (l : Nat) (s : State) : Bool :=
  (larderDie l).any (fun k => above k (rget kThermWarn s * 1000 : Nat) s) ||
  (larderStacks l).any (fun k => above k (rget kStackHot s * 1000 : Nat) s)
def larderCool (l : Nat) (s : State) : Bool :=
  !(larderDie l).any (fun k => above k ((rget kThermWarn s * 1000 : Nat) - 3000) s) &&
  !(larderStacks l).any (fun k => above k ((rget kStackHot s * 1000 : Nat) - 3000) s)
def setThermal (l n : Nat) (s : State) : State :=
  onlyIf (thermalFraction l s == 16 && n != 16) (raise 0xC000 0x02 1 l)
    (setPow (fun p => { p with thermal := tput p.thermal l n, thermalAt := tput p.thermalAt l s.now }) s)
/-- A larder after a reading: down every 1 ms while hot, up every 10 ms once cool for 10 ms. -/
def larderThermal (l : Nat) (s : State) : State :=
  let f := thermalFraction l s
  let waited (d : Nat) : Bool := match tget s.pow.thermalAt l with | some t => decide (t + d ≤ s.now) | none => true
  if larderHot l s then
    let s := setPow (fun p => { p with coolSince := tdel p.coolSince l }) s
    if 1 < f && waited nsMs then setThermal l (f - 1) s else s
  else if larderCool l s then
    match tget s.pow.coolSince l with
    | none => setPow (fun p => { p with coolSince := tput p.coolSince l s.now }) s
    | some t => if f < 16 && decide (t + 10 * nsMs ≤ s.now) && waited (10 * nsMs) then setThermal l (f + 1) s else s
  else setPow (fun p => { p with coolSince := tdel p.coolSince l }) s
/-- TEMP_MAX: the highest die reading. -/
def noteMax (milli : Int) (s : State) : State :=
  if toS 32 (rget kTempMax s) < milli then rset kTempMax (ofS 32 milli) s else s
def thermalRead (k : Nat) (milli : Int) (s : State) : State :=
  if 74 ≤ k then s
  else
    let was110 := decide (k < dieSensors) && !above k 109999 s
    let was70 := decide (72 ≤ k) && !above k 70000 s
    let s := setPow (fun p => { p with temps := tput p.temps k milli }) s
    let s := onlyIf (decide (k < dieSensors)) (noteMax milli) s
    let s := match sensorLarder k with | some l => larderThermal l s | none => s
    if was110 && above k 109999 s then fatal 0x20 0 causeFatal (setPow (fun p => { p with hot := true }) s)
    else if was70 && above k 70000 s then raise 0xC000 0x06 1 (k - 72) s
    else s
def execThermalRead (sensor : Nat) (milli : Int) (s : State) : Res := .next (thermalRead sensor milli s)
/-- 120 °C: FAULT_N, every regulator of VR_MAP off, a FATAL record, and nothing more until a cold reset. -/
def thermalTrip (k : Nat) (s : State) : State :=
  if dieSensors ≤ k || s.pow.tripped then s
  else
    let s := setRst (fun x => { x with faultN := true }) s
    let s := each ((List.range rails).filter (fun r => mapped r s)) (fun r => send (.railOff r)) s
    setPow (fun p => { p with tripped := true }) (haltUnits (fatalRecord 0x20 1 s))
def execThermalTrip120c (sensor : Nat) (s : State) : Res := .next (thermalTrip sensor s)

/-! ### THROTTLE_N (R599 to R601) -/

abbrev dwellNs : Nat := 100 * nsUs
def takeEdge (low : Bool) (s : State) : State :=
  setPow (fun p => { p with throttleLow := low, throttleAt := some s.now,
                            throttleLowSince := if low then some s.now else none }) s
def inDwell (s : State) : Bool :=
  match s.pow.throttleAt with | some t => decide (s.now < t + dwellNs) | none => false
/-- A level stable for 100 ns. -/
def throttleEdge (low : Bool) (s : State) : State :=
  if inDwell s then bump kThrottleIgnored s
  else if low != s.pow.throttleLow then takeEdge low s
  else s
def execThrottleNEdge (low : Bool) (s : State) : Res := .next (throttleEdge low s)
def dwellEnd (low : Bool) (s : State) : State :=
  match s.pow.throttleAt with
  | some t =>
    if s.now ≤ t + dwellNs then
      let s := timeTo (t + dwellNs) s
      if low != s.pow.throttleLow then takeEdge low s else s
    else s
  | none => s
def execThrottleDwellEnd (low : Bool) (s : State) : Res := .next (dwellEnd low s)
/-- Taken as low for 60 s: the pin fraction latches. -/
def throttleStuck (s : State) : State :=
  match s.pow.throttleLowSince with
  | some t =>
    if s.pow.latched then s
    else raise 0xC000 0x01 0 0 (setPow (fun p => { p with latched := true, pin := rget kThrottleFraction s }) (timeTo (t + 60 * nsS) s))
  | none => s
def execThrottleStuck (s : State) : Res := .next (throttleStuck s)
def commitThrottleClear (s : State) : Status × State :=
  if s.pow.throttleLow then (.retry, s) else (.done, setPow (fun p => { p with latched := false }) s)

end Sys2Proof.Machine
end

