-- ==== Sys2Proof/Machine/ReadObj.lean ====
section
/-!
DEFINITION. The value of every dictionary object that is read by a NOTIFY, a block read or a measurement: objects that
report a unit's state are computed from it, every other is its register (Tables 2.14 to 19.9). An object's instance is
the value of its select object; POLICER, SHAPER and their readings take port * 8 + class.
-/
namespace Sys2Proof.Machine

def optN {α : Type} (x : Option α) (f : α → Nat) : Nat := match x with | some a => f a | none => 0
/-- A computed object whose Default is 0: it holds that until the stored configuration has been applied (R6). -/
def onceApplied (s : State) (v : Nat) : Nat := if s.rst.configApplied then v else 0

/-! ### Pool and tiers (Tables 2.14, 3.11) -/

/-- Table 2.14 and Table 3.11. An EXTENT_ENTRY of a FREE extent keeps GEN (Table 2.6). DESIGN CHOICE (log 89): COMMITTED
holds LATENCY lowest; CRATE_ENTRY shows form 0 of a crate of a VERSIONED extent. -/
def readPool (key i : Nat) (s : State) : Option Nat :=
  if key = kJobsActive then some (s.pool.jobs.filter (fun j => !j.2.closing)).length
  else if key = kJobRecord then some (optN (jobOf i s) (fun j =>
    let c := committedOf (fun e => e.job == j.2.id) s
    pack [(j.2.id, 240), (j.2.slots, 224), (c.1, 160), (c.2.1, 128), (c.2.2, 96)]))
  else if key = kPortJobs then some (mapOf (portJobs i s))
  else if key = kExtentEntry then some (match extOf i s with
    | some e => extEntry e (inflight i s) (usedCrates i s)
    | none => pack [(tgetD s.pool.gens i 0 % 2 ^ 16, 96)])
  else if key = kExtentsUsed then some s.pool.extents.length
  else if key = kCommitted then some (let c := committed s; pack [(c.1, 0), (c.2.1, 64), (c.2.2, 128)])
  else if key = kAclEntry then some (let a := aclOf i s; pack [(a.1, 0), (a.2, 256)])
  else if key = kKeyInfo then some (match keyOf i s with
    | some k => pack [(1, 63), (b2n k.host, 62), (k.owner, 44), (min 65535 (keyUsers i s), 0)]
    | none => if i = 0 then onceApplied s (pack [(1, 63), (min 65535 (keyUsers 0 s), 0)]) else 0)
  else if key = kAtticUsed then some (atticUnits s)
  else if key = kCrateEntry then
    let ck := crateKey (fld i 63 48) 0 (fld i 35 0)
    let c := crateOf ck s
    some (pack [(c.tier, 125), (b2n c.dirty, 124), (b2n c.vcopy, 123), (b2n c.moving, 122), (b2n c.redirty, 121),
      (b2n ((poisonCrates s).contains ck), 120), (b2n c.incomp, 119), (c.heat, 104), (c.idle, 96), (c.loc % 2 ^ 48, 48),
      (c.vtray % 16, 44), (c.vloc % 2 ^ 44, 0)])
  else if key = kTrayStatus then
    let t := trayOf i s
    let seen := decide (t.blocksAll ≠ 0)
    some (pack [(b2n (trayUp i s), 127), (b2n t.lost, 126), (b2n t.worn, 125), (t.dramGib % 65536, 80), (t.nandGb % 2 ^ 32, 48),
      (if seen then sparePermille t else 0, 32), (if seen then eraseSpread i s % 65536 else 0, 16)])
  else if key = kRetiredEntry then some (optN (s.tiers.retired[i]?) (fun r => pack [(r.1, 61), (r.2 % 2 ^ 48, 0)]))
  else none

/-! ### Versions, owned objects, mirror (Table 4.13) -/

def readVers (key i : Nat) (s : State) : Option Nat :=
  if key = kRegionsUsed then some s.vers.regions.length
  else if key = kRegionInfo then some (optN (tget s.vers.regions i) (fun r =>
    pack [(r.ext, 112), (r.cur % 2 ^ 32, 64), (r.live.length, 59),
      ((s.vers.bindings.filter (fun b => b.region == i && b.draft)).length, 40), (poolCrates i r s, 0)]))
  else if key = kBindingsUsed then some s.vers.bindings.length
  else if key = kOwnedEntry then some (optN (ownOf (ownKeyOf i s) s) (fun o => ownEntry i o s))
  else if key = kMirrorState then some (match s.vers.mirror.rel with | .none => 0 | .sync => 1 | .lost => 2 | .degraded => 3)
  else none

/-! ### Hens, queues, coding, engines (Tables 5.10, 6.15, 7.9, 8.12, 9.11) -/

def hensMappedOut (s : State) : Nat := optN s.hens.unitMap (fun m => m.length)
/-- HEN_STATE: 2 only for a hen that an accepted unit map lists. -/
def henState (h : Nat) (s : State) : Nat :=
  let x := henOf h s
  let on := x.st == .running
  let code := if s.hens.unitMap.isSome && mappedOut h s then 2 else match x.st with
    | .running => 1 | .out => 3 | .outCmd => 3 | .selfTest => 4 | _ => 0
  pack [(code, 60), (if on then x.job else 0, 32), (if on then x.sliver % 2 ^ 32 else 0, 0)]
def readHens (key i : Nat) (s : State) : Option Nat :=
  if key = kHensInService then some (hensInService s)
  else if key = kHensMappedOut then some (hensMappedOut s)
  else if key = kHenState then some (henState i s)
  else if key = kHenCounters then
    let x := henOf i s
    -- counters count from the last cold reset and saturate
    some (pack [(min x.busy (2 ^ 64 - 1), 192), (min x.retired (2 ^ 64 - 1), 128), (min x.corrected (2 ^ 32 - 1), 96),
      (min x.sent (2 ^ 32 - 1), 64), (min x.ran (2 ^ 32 - 1), 32)])
  else if key = kLarderStatus then
    let l := larderOf i s
    some (pack [(hensIn (2 ^ i) s, 112), (min (l.stackBytes / 2 ^ 20) (2 ^ 48 - 1), 48), (min (l.gwBytes / 2 ^ 20) (2 ^ 48 - 1), 0)])
  else if key = kLsCorrected then some (min (lsum (s.hens.hens.map (fun h => h.2.corrected))) (2 ^ 64 - 1))
  else if key = kHensOutFault then some (s.hens.hens.filter (fun h => h.2.byFault)).length
  else if key = kQueueInfo then some (optN (queueOf i s) (fun q =>
    pack [(q.job, 240), (q.member, 232), (qStCode q.st, 228), (q.prio, 226), (q.log2, 221), (qcbGet q offConsumer s, 96),
      (qcbGet q offCompleted s, 64), (admittedIn (fun q => q == i) s, 32)]))
  else if key = kQueuesUsed then some s.work.queues.length
  else if key = kJobHensEntry then some (optN (jobOf i s) (fun j =>
    let h := j.2.hens
    pack [(j.2.id, 112), (h.min, 96), (h.max, 80), (h.larders, 68), (b2n h.exclusive, 67), (h.workMax % 65536, 48),
      (jobHensUsed j.2.id s, 32)]))
  else if key = kItemsInFlight then some (admittedIn (fun _ => true) s)
  else if key = kCodebooksUsed then some s.coding.books.length
  else if key = kCbInfo then some (optN (bookOf i s) (fun b =>
    let newest := optN (cbNewest b) (·.gen)
    pack [(b.owner, 112), (b.fmt, 108), (b.tuple, 104), (b.cw, 102), (b2n b.dropping, 101), (newest, 92),
      (mapOf (b.gens.map (fun g => g.gen)), 76), (genRefs i newest s % 2 ^ 32, 32),
      (optN (b.gens[1]?) (fun g => genRefs i g.gen s % 2 ^ 32), 0)]))
  else if key = kCollInfo then some (optN (collOf i s) (fun k =>
    let st := if k.openR.isSome then 2 else if !k.pending.isEmpty then 3 else 1
    pack [(k.job, 496), (k.peers, 480), (k.next, 464), (optN k.openR (·.round), 448), (st, 444), (k.excluded % 2 ^ 256, 0)]))
  else if key = kCollsUsed then some s.eng.colls.length
  else if key = kRstoreFree then some (slotsFree s)
  else if key = kWalksLive then some (s.work.items.filter (fun x => match x.2.extra with | .attend _ _ _ => true | _ => false)).length
  else if key = kReclaimPending then some s.kv.tagged.length
  else none

/-! ### Links and transactions (Tables 11.11, 12.11, 13.10) -/

/-- PORT_STATUS: DOWN before a phase of link-up, 2 training from EQUALISE to PARAM. -/
def linkStatus (p : Nat) (s : State) : Nat :=
  let l := linkOf p s
  let st := match l.st with
    | .disabled => 0 | .down => if l.phase == .detect then 1 else 2 | .ident => 3 | .active => 4 | .recovery => 5 | .held => 6
  let left := if l.st == .held then (l.holdUntil - s.now) / nsMs else 0
  pack [(st, 124), (l.width % 16, 120), (l.lanes.length, 112), (optN l.bound (· % 4096), 100), (l.holdN % 256, 88),
    (left % 2 ^ 32, 32), ((l.retrains.filter (fun t => decide (s.now < t + nsS))).length, 24)]
def u16s (l : List Nat) : Nat := pack ((List.range 8).map (fun i => ((l[i]?).getD 0 % 65536, 16 * i)))
def readLinks (key i : Nat) (s : State) : Option Nat :=
  let l := linkOf i s
  if key = kPortStatus then some (linkStatus i s)
  else if key = kPortIdent then some (if l.evidence.isSome then setFld l.identRec 499 492 (statusCode .retry) else l.identRec)
  else if key = kPortCredits then some (pack [(u16s l.credits, 0), (u16s l.advert, 128)])
  else if key = kFecCorrected then some l.fecCorrected
  else if key = kFecUncorrected then some (pack ((List.range 8).map (fun k => (tgetD l.fecUncorrected k 0 % 2 ^ 64, 64 * k))))
  else if key = kCrcErrors then some l.crcErrors
  else if key = kNaksSent then some l.naksSent
  else if key = kReplays then some l.replays
  else if key = kRetrains then some l.retrainCount
  else if key = kHolds then some l.holds
  else if key = kLinkupFail then some l.linkupFail
  else if key = kFramingErr then some l.framingErr
  else if key = kCreditOverrun then some l.creditOverrun
  else if key = kPeerProtoErr then some l.peerProtoErr
  else if key = kPreActiveDrops then some l.preActiveDrops
  else if key = kTlinkStatus then some (setFld (linkStatus (trayLink i) s) 111 100 0)
  else if key = kTlinkIdent then some (linkOf (trayLink i) s).trayIdent
  else if key = kTlinkCounters then
    let l := linkOf (trayLink i) s
    some (pack [(l.fecCorrected % 2 ^ 64, 448), (lsum (l.fecUncorrected.map (·.2)) % 2 ^ 64, 384), (l.crcErrors % 2 ^ 64, 320),
      (l.replays % 2 ^ 64, 256), (l.retrainCount % 2 ^ 32, 224), (l.holds % 2 ^ 32, 192)])
  else if key = kTrackOpen then some (openOf i s)
  else if key = kPortEpoch then some (portTx i s).epoch
  else if key = kPortSeqState then
    let x := portTx i s
    some (pack [(x.lastRel.getD 0, 96), (x.highest, 64), (b2n x.lastRel.isSome, 63)])
  else if key = kTrackTotalOpen then some (s.txn.txs.length + s.txn.paced.length)
  else if key = kCohWindow then some (tgetD s.coh.windows i 0)
  else if key = kCohPortCounters then
    let c := tgetD s.coh.counters i (0, 0, 0)
    some (pack [(c.1 % 2 ^ 64, 192), (c.2.1 % 2 ^ 64, 128), (c.2.2 % 2 ^ 64, 64),
      ((s.coh.ents.filter (fun e => (entPorts e s).contains i)).length, 32)])
  else if key = kFilterInUse then some s.coh.ents.length
  else if key = kFilterCoarse then some (s.coh.ents.filter (fun e => e.coarse.isSome)).length
  else none

/-! ### Switch and classes (Tables 14.9, 15.6) -/

/-- G of an attachment (R436). -/
def attachG (a : Nat) (s : State) : Nat :=
  if a < 208 then guaranteeOf a s else if a < 220 then rget kGwGuarantee s else if a < 236 then rget kEngineGuarantee s
  else if a = attLoft then 64 else rget kHaGuarantee s
def readSwitch (key i : Nat) (s : State) : Option Nat :=
  if key = kSliceStatus then
    let x := sliceOf i s
    let mode := match x.mode with | .sheepdog => if anyCyclic s then 2 else 0 | .twoStage => 1 | .joining => 2
    some (pack [(onceApplied s mode, 124), ((bankCells - bankFree i s) % 65536, 104), (x.reseq.length, 88), (x.matchedLast % 2 ^ 32, 32)])
  else if key = kSharedFree then some (onceApplied s (sharedFree s))
  else if key = kGuaranteedTotal then some (onceApplied s (guaranteedTotal s))
  else if key = kAttachBuffer then
    let a := attachOf i s
    some (pack [(onceApplied s (attachG i s % 65536), 112), (a.g % 65536, 96), (a.s % 2 ^ 32, 64), (a.early % 2 ^ 64, 0)])
  else if key = kCaptureCounters then
    let c := captureOf i s
    some (pack [(c.written % 2 ^ 64, 64), (c.dropped % 2 ^ 64, 0)])
  else if key = kBucketSlice then some (bucketSlice i s)
  else if key = kPolicerCounters then
    let m := meterNow (i / 8) (i % 8) s
    some (pack [(m.green % 2 ^ 64, 192), (m.yellow % 2 ^ 64, 128), (m.red % 2 ^ 64, 64), (m.heldNs % 2 ^ 64, 0)])
  else if key = kShaperState then
    let x := shaperNow (i / 8) (i % 8) s
    some (pack [(ofS 64 x.tokens, 64), (x.waited % 2 ^ 64, 0)])
  else if key = kGateOper then some (gateOf i s).oper
  else if key = kGateStatus then
    let g := gateOf i s
    some (pack [(gStCode g.st, 124), (g.entry % 256, 96), (g.t % 2 ^ 64, 32)])
  else none

/-! ### Ring, sessions, time (Table 16.12) -/

def sessionEntry (x : Session) : Nat :=
  pack [(x.id % 2 ^ 32, 32), (x.role, 28), (x.node % 32, 16), (x.subs.length, 9), (min 511 x.staged.length, 0)]
def ringStCode : RingSt → Nat
  | .normal => 0 | .wrappedA => 1 | .wrappedB => 2 | .isolated => 3 | .forwardOnly => 4
def readRing (key i : Nat) (s : State) : Option Nat :=
  let p := rport (i == 1) s
  if key = kDeviceTag then some (deviceTag s)
  else if key = kVendor then some 0x59574730
  else if key = kPart then some 2448
  else if key = kStepping then some (Config.stepping % 256)
  else if key = kSerial then some (Config.serial % 2 ^ 128)
  else if key = kNode then some s.ring.node
  else if key = kRingState then some (ringStCode s.ring.st)
  else if key = kRingPortStatus then
    some (pack [(b2n (p.up && !ringFailed (i == 1) s), 127), (b2n p.los, 126), (p.delay % 2 ^ 32, 64),
      (if rget kStartState s = 0 then 0 else Config.rxPower (i == 1) s.now % 65536, 48)])
  else if key = kRingPortCounters then
    some (pack [(p.recv % 2 ^ 64, 192), (p.sent % 2 ^ 64, 128), (p.crc % 2 ^ 32, 96), (p.fec % 2 ^ 32, 64), (p.failed % 2 ^ 32, 32)])
  else if key = kTimeNow then some (timebase s)
  else if key = kTimeState then some (timeStCode s.time.st)
  else if key = kSessionTable then
    some (pack ((List.range 8).map (fun k => (optN (s.dict.sessions[k]?) sessionEntry, 64 * k))))
  else if key = kPpsStatus then some (pack [(s.time.ppsAcc % 2 ^ 64, 64), (s.time.ppsInterval % 2 ^ 64, 0)])
  else none

/-! ### Security, resets, power (Tables 17.10, 18.9, 19.9) -/

def isoOf (i : Nat) (s : State) : Option Iso := (jobOf i s).map (fun j => j.2.iso)
/-- BOOT_SLOT: 0 A, 1 B, and the fallback flag. -/
def bootSlot (s : State) : Nat := b2n s.sec.slotB + 128 * b2n s.sec.fallback
def runningImage (s : State) : Image := if s.sec.slotB then s.sec.flash.imageB else s.sec.flash.imageA
/-- Slot 0 is loaded at start-up, and counted from then on. -/
def keysLoaded (s : State) : Nat := s.pool.keys.length + onceApplied s 1
def readSec (key i : Nat) (s : State) : Option Nat :=
  if key = kKeyCheck then some (optN (keyOf i s) keyCheck)
  else if key = kKeysLoaded then some (keysLoaded s)
  else if key = kRoleEntry then some (roleRecord i s)
  else if key = kIsoJob then some (optN (isoOf i s) (fun x =>
    pack [(i, 112), (b2n x.enable, 111), (x.latency % 2 ^ 32, 64), (x.trays % 65536, 48)]))
  else if key = kIsoState then some (optN (isoOf i s) (·.state))
  else if key = kIsoLate then some (optN (isoOf i s) (·.late))
  else if key = kLedgerHead then some s.rst.entrySeq
  else if key = kLedgerEntry then some (optN (s.rst.ledger.find? (fun e => e.1 == i)) (·.2))
  else if key = kLedgerUnread then some (ledgerUnread s)
  else if key = kPoisonEntries then some (poisonCrates s).length
  else if key = kPowerNow then
    some (pack [(s.pow.avg100 % 2 ^ 32, 96), (s.pow.avg10 % 2 ^ 32, 64), (onceApplied s (s.pow.vcore % 65536), 48)])
  else if key = kIssueFraction then
    some (onceApplied s <| pack ([(s.pow.frac, 251), (pinFraction s, 246), (rget kThrottleLimit s % 32, 241)] ++
      (List.range 12).map (fun l => (thermalFraction l s, 5 * l))))
  else if key = kThrottleState then some (if s.pow.latched then 2 else b2n s.pow.throttleLow)
  else if key = kVrStatus then
    let (m, a, w, st, _) := tgetD s.pow.rails i (0, 0, 0, 0, 0)
    some (pack [(m, 112), (a, 96), (w, 80), (st, 64)])
  else if key = kThermReading then some (ofS 32 ((tget s.pow.temps i).getD 0))
  else if key = kClockStatus then some (if rget kStartState s = 0 then 0 else pack [(b2n (!s.pow.refLost), 63), (Config.measuredKhz i s.now % 2 ^ 32, 0)])
  else none

/-- The value of an object's instance (R499: all fields at one instant). MEASUREMENT is read in Spdm.lean. -/
def readObj (key i : Nat) (s : State) : Nat :=
  match readPool key i s with
  | some v => v
  | none => match readVers key i s with
  | some v => v
  | none => match readHens key i s with
  | some v => v
  | none => match readLinks key i s with
  | some v => v
  | none => match readSwitch key i s with
  | some v => v
  | none => match readRing key i s with
  | some v => v
  | none => (readSec key i s).getD (rgeti key i s)

/-! ### Windows (R500) -/

def selOf (key : Nat) : Nat := optN (obj? key) (·.sel)
/-- Objects that TC_PORT_SELECT and TC_CLASS_SELECT name together. -/
def byClass (key : Nat) : Bool := key == kPolicer || key == kPolicerCounters || key == kShaper || key == kShaperState
def selectVal (x : Session) (key : Nat) : Nat := tgetD x.selects key (regDflt key)
/-- The instance that a session's selects name. -/
def instFor (x : Session) (key : Nat) : Nat :=
  if byClass key then selectVal x kTcPortSelect * 8 + selectVal x kTcClassSelect
  else if selOf key = 0 then 0 else selectVal x (selOf key)
/-- How many instances an object has. -/
def instances (key : Nat) : Nat :=
  if byClass key then 1536 else if selOf key = 0 then 1 else optN (obj? (selOf key)) (fun o => o.hi + 1)

end Sys2Proof.Machine
end

