-- ==== Sys2Proof/Machine/Commit.lean ====
section
/-!
DEFINITION. What a committed write does, by object (R501, R604, R605), PORT_CONFIG writes judged together (R325, R504), and
the configuration store (R505, R506).
-/
namespace Sys2Proof.Machine

/-! ### HOME_INDEX and the store's commands -/

/-- HOME_INDEX takes effect at the next warm or cold reset (R512). -/
def commitHomeIndex (v : Nat) (s : State) : Status × State :=
  if v ≤ 15 || v = 0xFF then (.done, rset kHomeIndex v s) else (.refusedFormat, s)

/-- A stored value: object, instance, value. -/
abbrev Stored := DKey × Nat × Nat
/-- Put a value in ascending order of object and instance. -/
def insertStored (x : Stored) : List Stored → List Stored
  | [] => [x]
  | y :: r =>
    if x.1 < y.1 ∨ x.1 = y.1 ∧ x.2.1 ≤ y.2.1 then x :: y :: r else y :: insertStored x r
def isPersist (key : Nat) : Bool := match obj? key with | some o => o.persist | none => false
/-- The working values of the persistent objects, where they differ from the Default. -/
def persistValues (s : State) : List Stored :=
  (s.dict.regs.filter (fun r => isPersist (r.1 / 65536))).foldl (fun l r => insertStored (r.1 / 65536, r.1 % 65536, r.2) l) []
/-- CONFIG_SAVE and CONFIG_CLEAR: one store write runs at a time, and ends within 2 s (R505). -/
def commitStore (values : List Stored) (s : State) : Status × State :=
  if s.dict.saving.isSome then (.retry, s)
  else (.done, { s with dict := { s.dict with saving := some (values, s.now + 2 * nsS) } })
/-- The newest valid copy. -/
def newestCopy (s : State) : Option (Nat × List Stored) :=
  match s.dict.storeA, s.dict.storeB with
  | some a, some b => if a.1 < b.1 then some b else some a
  | some a, none => some a
  | none, b => b
/-- The write goes to the copy that is not the newest, with the next generation. -/
def configWriteDone (s : State) : State :=
  match s.dict.saving with
  | none => s
  | some (values, _) =>
    let gen := ((newestCopy s).map (fun c => c.1 + 1)).getD 1 % 2 ^ 32
    let toB := match s.dict.storeA, s.dict.storeB with
      | some a, some b => decide (b.1 ≤ a.1)
      | some _, none => true
      | none, _ => false
    let d := { s.dict with saving := none }
    let d := if toB then { d with storeB := some (gen, values) } else { d with storeA := some (gen, values) }
    rset kConfigResult (pack [(statusCode .done, 56), (gen, 0)]) { s with dict := d }
def execConfigWriteDone (s : State) : Res := .next (configWriteDone s)

/-! ### Every object's own commit -/

/-- An object without behaviour of its own: its range, then its register (R605). -/
def commitPlain (key i v : Nat) (s : State) : Status × State :=
  match obj? key with
  | some o => if v < o.lo || o.hi < v then (.refusedFormat, s) else (.done, rseti key i v s)
  | none => (.refusedFormat, s)
/-- CACHING is bit 0; it takes effect at the port's next link-up (R395). -/
def commitCaching (i v : Nat) (s : State) : Status × State := (.done, rseti kCohPortCaching i (v % 2) s)
def commitSlice (i v : Nat) (s : State) : Status × State :=
  if v = 1 then commitTwoStage i s else if v = 2 then commitSheepdog i s else (.refusedFormat, s)

/-- TIME_SOURCE: with 1, a PPS_IN that shows a constant level is holdover (R518). -/
def commitTimeSource (v : Nat) (s : State) : Status × State :=
  if 1 < v then (.refusedFormat, s)
  else (.done, onlyIf (v == 1 && s.time.ppsLost) toHoldover (rset kTimeSource v s))

def commitPool (key i v : Nat) : Option (State → Status × State) :=
  if key = kJobOpen then some (commitJobOpen v)
  else if key = kJobClose then some (commitJobClose v)
  else if key = kJobSlots then some (commitJobSlots v)
  else if key = kMemberAdd then some (commitMemberAdd v)
  else if key = kMemberRemove then some (commitMemberRemove v)
  else if key = kExtentCmd then some (commitExtent v)
  else if key = kAclEntry then some (commitAcl i v)
  else if key = kKeyDestroy then some (commitKeyDestroy v)
  else if key = kAtticSize then some (commitAtticSize v)
  else if key = kFlushCmd then some (commitFlush v)
  else if key = kOwnedCmd then some (commitOwned v)
  else if key = kMirrorPeer then some (commitMirrorPeer v)
  else if key = kMirrorRelease then some commitMirrorRelease
  else if key = kMirrorResync then some commitMirrorResync
  else if key = kMirrorTakeover then some (commitTakeover v)
  else if key = kQueueCmd then some (commitQueue v)
  else if key = kJobHens then some (commitJobHens v)
  else if key = kCollCmd then some (commitColl v)
  else none
def commitFabric (key i v : Nat) : Option (State → Status × State) :=
  if key = kPortConfig then some (commitPortConfig i v)
  else if key = kPortCmd then some (commitPortCmd i v)
  else if key = kTlinkCmd then some (commitPortCmd (trayLink i) v)
  else if key = kPortExpect then some (commitPortExpect i v)
  else if key = kTrackMin then some (commitTrackMin i v)
  else if key = kCohWindow then some (commitCohWindow i v)
  else if key = kCohPortCaching then some (commitCaching i v)
  else if key = kSliceCmd then some (commitSlice i v)
  else if key = kBucketSlice then some (commitBucketSlice i v)
  else if key = kCaptureSession then some (commitCapture i v)
  else if key = kRoundTripNs then some (commitGuarantee 1 v)
  else if key = kGwGuarantee then some (commitGuarantee 2 v)
  else if key = kEngineGuarantee then some (commitGuarantee 3 v)
  else if key = kHaGuarantee then some (commitGuarantee 4 v)
  else if key = kTcMap then some (commitTcMap v)
  else if key = kPolicer then some (commitPolicer i v)
  else if key = kShaper then some (commitShaper i v)
  else if key = kQuantum then some (commitQuantum v)
  else if key = kGateCommit then some (commitGate v)
  else if key = kPortGateList then some (commitPortGate i v)
  else if isTc key then some (fun s => tcPost (commitPlain key i v s))
  else none
def commitLoft (key i v : Nat) (s : State) : Option (State → Status × State) :=
  if key = kHomeIndex then some (commitHomeIndex v)
  else if key = kTimeSource then some (commitTimeSource v)
  else if key = kConfigSave then some (commitStore (persistValues s))
  else if key = kConfigClear then some (commitStore [])
  else if key = kKeyLoad then some (commitKeyLoad v)
  else if key = kRoleEntry then some (commitRoleEntry i v)
  else if key = kDebugToken then some (commitDebugToken v)
  else if key = kDebugEnd then some commitDebugEnd
  else if key = kIsoJob then some (commitIsoJob v)
  else if key = kResetCmd then some (commitResetCmd v)
  else if key = kJobReset then some (commitJobReset v)
  else if key = kLarderCmd then some (commitLarderCmd v)
  else if key = kHenCmd then some (commitHenCmd v)
  else if key = kLedgerAck then some (commitLedgerAck v)
  else if key = kLedgerClear then some commitLedgerClear
  else if key = kThrottleClear then some commitThrottleClear
  else none
/-- What a committed write of an object's instance does: the object's own rule, or its range and its register. -/
def commitOf (key i v : Nat) (s : State) : Status × State :=
  match commitPool key i v with
  | some f => f s
  | none => match commitFabric key i v with
  | some f => f s
  | none => ((commitLoft key i v s).getD (commitPlain key i v)) s
/-- Commit a write: the STATUS of R492, and what follows within the step. Reserved bits are ignored (R5). -/
def commitObj (key i w : Nat) (s : State) : Status × State :=
  let r := commitOf key i (unreserved key w) s
  (r.1, settle r.2)

/-! ### Start-up (R506) -/

/-- Apply one stored value; one that its object's rules refuse is skipped and counted. -/
def applyStored (x : Stored) (s : State) : State :=
  let t := (commitObj x.1 x.2.1 x.2.2 s).2
  if isPersist x.1 && rgeti x.1 x.2.1 t == x.2.2 then
    if x.1 = kHomeIndex then { t with dict := { t.dict with homeIndex := x.2.2 } } else t
  else bump kConfigSkipped s
/-- The stored PORT_CONFIG values of one octet, judged together. -/
def applyOctet (ws : List (Nat × Nat)) (s : State) : State :=
  let (sts, t) := commitPortConfigs ws s
  bumpN kConfigSkipped (sts.filter (fun x => x != .done)).length t
/-- The stored values of the newest copy, in ascending index order. -/
def applyConfig (s : State) : State :=
  match newestCopy s with
  | none => { s with rst := { s.rst with configApplied := true } }
  | some (gen, vals) =>
    let s := each (vals.filter (fun x => x.1 < kPortConfig)) applyStored s
    let pcs := (vals.filter (fun x => x.1 == kPortConfig)).map (fun x => (x.2.1, x.2.2))
    let octets := (pcs.map (fun w => w.1 / 4)).eraseDups
    let s := each octets (fun o => applyOctet (pcs.filter (fun w => w.1 / 4 == o))) s
    let s := each (vals.filter (fun x => kPortConfig < x.1)) applyStored s
    rset kConfigGeneration gen { s with rst := { s.rst with configApplied := true } }

end Sys2Proof.Machine
end

