-- ==== Sys2Proof/Machine/Requests.lean ====
section
/-!
DEFINITION. The commands by which a request of a partner or of a hen reaches memory (12_transactions_and_ordering.md,
04_versions_and_handover.md, 05_hens_and_arithmetic.md), with what both copies of a table lost bring with them (R561).
-/
namespace Sys2Proof.Machine

/-- Requests begun since a state that wait for a table of which no copy can be read: a FATAL error each (Table 18.4); its
DETAIL is diagnostic, a free value. -/
def tablesLost (before s : State) : State :=
  each (s.txn.txs.filter (fun t => t.wait == .table && decide (before.txn.nextTx ≤ t.id))) (fun _ s =>
    let (d, s) := draw s
    fatal 0x05 (d % 2 ^ 240) causeFatal s) s
def requestRow (h : Hdr) (k : TxKind) (s : State) : Res := .next (tablesLost s (settle (request h k s)))

def execRead (h : Hdr) (s : State) : Res := requestRow h .read s
def execWrite (h : Hdr) (data : List Byte) (s : State) : Res := requestRow h (.write false (data.map some)) s
/-- The bytes whose mask bit is set. -/
def maskBytes (mask : Nat) (data : List Byte) : List (Option Byte) :=
  (List.range data.length).map (fun i => if mask.testBit i then data[i]? else none)
def execWriteMasked (h : Hdr) (mask : Nat) (data : List Byte) (s : State) : Res :=
  requestRow h (.write true (maskBytes mask data)) s
def execFence (h : Hdr) (s : State) : Res := requestRow h .fence s
def execAtomicAdd (h : Hdr) (width a : Nat) (s : State) : Res := requestRow h (.atomic .add width a 0) s
def execAtomicAnd (h : Hdr) (width a : Nat) (s : State) : Res := requestRow h (.atomic .and width a 0) s
def execAtomicOr (h : Hdr) (width a : Nat) (s : State) : Res := requestRow h (.atomic .or width a 0) s
def execAtomicXor (h : Hdr) (width a : Nat) (s : State) : Res := requestRow h (.atomic .xor width a 0) s
def execAtomicSmin (h : Hdr) (width a : Nat) (s : State) : Res := requestRow h (.atomic .smin width a 0) s
def execAtomicSmax (h : Hdr) (width a : Nat) (s : State) : Res := requestRow h (.atomic .smax width a 0) s
def execAtomicUmin (h : Hdr) (width a : Nat) (s : State) : Res := requestRow h (.atomic .umin width a 0) s
def execAtomicUmax (h : Hdr) (width a : Nat) (s : State) : Res := requestRow h (.atomic .umax width a 0) s
def execAtomicSwap (h : Hdr) (width a : Nat) (s : State) : Res := requestRow h (.atomic .swap width a 0) s
def execAtomicCas (h : Hdr) (width c n : Nat) (s : State) : Res := requestRow h (.atomic .cas width c n) s
/-- A contribution; one whose frame is coded carries its format plus 16 (R238). -/
def execContrib (h : Hdr) (coll round chunk fmt : Nat) (data : List Byte) (s : State) : Res :=
  requestRow h (.contrib coll round chunk (fmt + (if h.coded then 16 else 0)) data) s

/-! ### Regions and owned objects -/

def execRegionOpen (h : Hdr) (current : Bool) (version fva : Nat) (s : State) : Res :=
  requestRow h (.region opOpen current version fva) s
def execRegionClose (h : Hdr) (fva : Nat) (s : State) : Res := requestRow h (.region opClose false 0 fva) s
def execRegionDraft (h : Hdr) (current : Bool) (version fva : Nat) (s : State) : Res :=
  requestRow h (.region opDraft current version fva) s
def execRegionPublish (h : Hdr) (version fva : Nat) (s : State) : Res :=
  requestRow h (.region opPublish false version fva) s
def execRegionRebase (h : Hdr) (version fva : Nat) (s : State) : Res :=
  requestRow h (.region opRebase false version fva) s
def execRegionDiscard (h : Hdr) (fva : Nat) (s : State) : Res := requestRow h (.region opDiscard false 0 fva) s
def execGive (h : Hdr) (permit obj epoch : Nat) (s : State) : Res := requestRow h (.own 1 permit obj epoch) s
def execTake (h : Hdr) (obj epoch : Nat) (s : State) : Res := requestRow h (.own 2 0 obj epoch) s
def execQuery (h : Hdr) (obj : Nat) (s : State) : Res := requestRow h (.own 3 0 obj 0) s
/-- A tracker entry is free again: the port's request that waited for one enters. -/
def execTrackEntryFreed (port tag : Nat) (s : State) : Res := .next (tablesLost s (settle (trackFreed port tag s)))

/-! ### Hens -/

def execHenMemoryRequest (hen : Nat) (x : ReqMem) (s : State) : Res :=
  .next (tablesLost s (settle (issueReq hen x.req x.mem s)))

end Sys2Proof.Machine
end

