-- ==== Sys2Proof/Machine/Start.lean ====
section
/-!
DEFINITION. Start-up (Table 18.1, R548 to R551): the image, the unit map, the stored configuration, the measurements taken once
per cold reset, and the units' self-tests.
-/
namespace Sys2Proof.Machine

/-! ### READY (R548) -/

/-- Every larder has been trained or has failed training. -/
def stacksJudged (s : State) : Bool := (List.range 12).all (fun l => (larderOf l s).trained || (larderOf l s).failed)
/-- Every condition of R548; a tray link is ACTIVE only after its discovery has ended. -/
def readyNow (s : State) : Bool :=
  rget kStartState s == 1 && s.rst.configApplied && (List.range 4).all (fun i => (sliceOf i s).mode != .twoStage) &&
  stacksJudged s && s.sec.identityDone
/-- READY; at the first of a cold start the START ledger record and START_READY (Table 18.1). -/
def tryReady (s : State) : State :=
  if !readyNow s then s
  else if s.rst.seenReady then rset kStartState startReady s
  else
    let body := pack [(bootSlot s, 248), (rget kFwVersion s % 2 ^ 32, 216), (rget kConfigGeneration s % 2 ^ 32, 184),
      (hensInService s, 168), ((s.now - s.rst.startAt) / nsMs % 2 ^ 32, 136)]
    let s := setRst (fun x => { x with seenReady := true }) (rset kStartState startReady s)
    raise 0xB000 0x01 0 0 (ledger 0xB000 ldStart clsInfo body s)

/-! ### The unit map (R174, R175, R529) -/

/-- UNITMAP_STATUS: 0 accepted. -/
def unitMapStatus (s : State) : Nat :=
  let f := s.sec.flash
  if !f.mapPresent then 1
  else if !f.mapSigOk || rget kIdentityStatus s = 3 then 2
  else if !f.mapMagicOk then 5
  else if f.mapTag != deviceTag s then 3
  else if f.mapCount + f.mapOut.length != 4608 || f.mapCount < 4352 then 4
  else 0
def takeUnitMap (s : State) : State :=
  let f := s.sec.flash
  let st := unitMapStatus s
  let s := rset kUnitmapStatus st s
  if st = 0 then
    rset kUnitmapVersion f.mapVersion { s with hens := { s.hens with unitMap := some f.mapOut } }
  else
    raise 0x6000 0x01 1 st (ledger 0x6000 ldUnitmap clsUnit (st * 2 ^ 248) { s with hens := { s.hens with unitMap := none } })

/-! ### The image (R521 to R524) -/

/-- FW_VERSION as the order of R523 counts it. -/
def orderVersion (x : Image) : Nat := if x.headerOk then x.fw else 0
/-- Candidates in order: false is slot A, true slot B. -/
def imageCandidates (s : State) : List Bool :=
  let f := s.sec.flash
  match s.sec.bootSel with
  | 0 => if orderVersion f.imageA < orderVersion f.imageB then [true, false] else [false, true]
  | 1 => [false, true]
  | 2 => [false]
  | _ => [true]
def slotImage (b : Bool) (s : State) : Image := if b then s.sec.flash.imageB else s.sec.flash.imageA
/-- The root certificate is the one whose hash the mask ROM holds (R11, R521). -/
def rootTrusted (f : Flash) : Bool := Config.sha512 f.rootKey % 2 ^ 512 == Config.rootHash
/-- The image to start; its place among the imageCandidates. -/
def chooseImage (s : State) : Option (Bool × Bool) :=
  if !(rootTrusted s.sec.flash && s.sec.flash.anchorOk) then none
  else
    let l := imageCandidates s
    match l.find? (fun b => imageValid (slotImage b s)) with
    | some b => some (b, l.head? != some b)
    | none => none
/-- No valid image: FAULT_N, and the loft halts (R524). -/
def haltLoft (s : State) : State := setRst (fun x => { x with halted := true, faultN := true }) s
def startImage (slotB fallback : Bool) (s : State) : State :=
  let x := slotImage slotB s
  let s := setSec (fun z => { z with slotB := slotB, fallback := fallback }) s
  let s := rset kSecurityVersion x.sec (rset kFwVersion x.fw (rset kBootSlot (bootSlot s) s))
  onlyIf fallback (raise 0xA000 0x01 1 (b2n slotB)) s

/-! ### Measurements taken once per cold reset (Table 17.4, R536) -/

/-- A role table as its eight entries of 528 B. -/
def roleBytes (s : State) : List Byte := (List.range 8).flatMap (fun i => bytesOf 528 (roleRecord i s))
/-- Values as (object, instance) of 4 B each and the value as its type. -/
def storedBytes (l : List Stored) : List Byte :=
  l.flatMap (fun x => bytesOf 4 x.1 ++ bytesOf 4 x.2.1 ++ bytesOf (optN (obj? x.1) (·.size)) x.2.2)
def copyBytes (s : State) : List Byte :=
  match newestCopy s with | some (g, l) => bytesOf 4 g ++ storedBytes l | none => []
def digest512 (l : List Byte) : Nat := Config.sha512 l % 2 ^ 512
/-- The digests of measurements 2 to 6. -/
def takeMeasures (s : State) : State :=
  let f := s.sec.flash
  let m : Tbl Nat :=
    [(2, (runningImage s).digest % 2 ^ 512),
     (3, if s.hens.unitMap.isSome then f.mapDigest % 2 ^ 512 else digest512 []),
     (4, digest512 (f.retired.flatMap (fun r => bytesOf 8 r.1 ++ bytesOf 8 r.2))),
     (5, digest512 (copyBytes s)),
     (6, digest512 (roleBytes s))]
  setSec (fun z => { z with measured := m }) s

/-! ### Firmware starts (R506, R523, Table 18.1; R559, Table 18.8) -/

/-- Link-up starts on every port with ENABLE and on every tray link. -/
def startLinks (s : State) : State :=
  let s := each ((List.range fabricPorts).filter (fun p => isPort p s && portEnabled p s)) startLinkup s
  each ((List.range 16).map trayLink) startLinkup s
def homeInEffect (s : State) : State := { s with dict := { s.dict with homeIndex := rget kHomeIndex s } }
/-- The part is held in reset, off or halted. -/
def heldDown (s : State) : Bool :=
  s.rst.coldHeld || s.rst.warmHeld || s.rst.halted || !s.rst.vaux || s.rst.quiesce.isSome || s.pow.refLost || s.pow.tripped
/-- Resets that the start of the firmware completes; FAULT_N rises (R563). -/
def endResets (s : State) : State :=
  let cold := s.rst.inProgress.find? (fun r => r.scope == .cold)
  let s := setRst (fun x => { x with inProgress := x.inProgress.filter (fun r => r.scope != .warm), faultN := false }) s
  match cold with | some r => finishReset r s | none => s
def coldStart (s : State) : State :=
  match chooseImage s with
  | none => haltLoft s
  | some (b, fb) =>
    let s := rset kStartState 1 (startImage b fb s)
    let s := onlyIf (!(rootTrusted s.sec.flash && s.sec.flash.idCertOk)) (rset kIdentityStatus 3) s
    let s := takeUnitMap { s with tiers := { s.tiers with retired := s.sec.flash.retired } }
    let s := homeInEffect (applyConfig (drawNonce s))
    let s := { s with tiers := { s.tiers with atticGib := rget kAtticSize s } }
    startLinks (endResets (takeMeasures s))
/-- The image in SRAM is verified again (R559). It is the one that verified at the cold start; after an uncorrectable error
in loft SRAM the outcome is a free value. -/
def sramVerifies (s : State) : Bool × State :=
  if s.rst.sramStruck then
    let (x, s) := draw s
    (x % 2 == 0, setRst (fun r => { r with sramStruck := false }) s)
  else (true, s)
/-- The image that a warm start runs: the one in SRAM, or one read from the boot flash as at a cold start. -/
def warmImage (s : State) : Option State :=
  let (ok, s) := sramVerifies s
  if ok then some s else (chooseImage s).map (fun i => startImage i.1 i.2 s)
/-- A warm start: what the cold start has read stays. -/
def warmStart (s : State) : State :=
  match warmImage s with
  | some t => startLinks (startRetires (endResets (homeInEffect (rset kStartState 1 t))))
  | none => haltLoft s
def firmwareStart (s : State) : State :=
  if rget kStartState s != 0 || heldDown s then s
  else tryReady (settle (if s.rst.configApplied then warmStart s else coldStart s))
def execFirmwareStart (s : State) : Res := .next (firmwareStart s)

/-! ### Self-tests and training -/

/-- A slice's scheduler passes its self-test: the slice joins the sheepdog (R449). -/
def sheepdogTested (i : Nat) (s : State) : State :=
  if 4 ≤ i || rget kStartState s = 0 then s
  else tryReady (sliceJoins i (modSlice i (fun x => { x with tested := true }) s))
def execSheepdogSelfTestDone (slice : Nat) (s : State) : Res := .next (sheepdogTested slice s)

/-- SHELF_USABLE and CELLAR_USABLE are published once every larder is judged. -/
def publishStacks (s : State) : State :=
  if stacksJudged s then publish kCellarUsable (cellarGranules s) (publish kShelfUsable (shelfGranules s) s) else s
/-- A larder's training ends: in service with its hens, or out with both stacks and all its hens (R551). -/
def stacksTrained (l : Nat) (passed : Bool) (s : State) : State :=
  if 12 ≤ l || rget kStartState s = 0 || (larderOf l s).trained || (larderOf l s).failed then s
  else
    let s := modLarder l (fun x => { x with trained := passed, failed := !passed }) s
    let s := onlyIf (!passed) (larderRecord l 3 clsBlock) s
    tryReady (settle (publishStacks s))
def execStackTrainingDone (larder : Nat) (passed : Bool) (s : State) : Res := .next (stacksTrained larder passed s)
def execHenSelfTestDone (hen : Nat) (passed : Bool) (s : State) : Res := .next (tryReady (henTested hen passed s))
/-- The vault journals have been scanned: VAULT_USABLE (R54). -/
def vaultScanned (s : State) : State :=
  if rget kStartState s = 0 then s
  else publish kVaultUsable (vaultGranules s) (setRst (fun x => { x with trayScanDone := true }) s)
def execVaultJournalScanDone (s : State) : Res := .next (vaultScanned s)
/-- Identity derivation ends (R528, R550); ports waiting in IDENT are judged. -/
def identityDerived (s : State) : State :=
  if rget kStartState s = 0 || s.sec.identityDone then s
  else
    let f := s.sec.flash
    let s := setSec (fun z => { z with identityAt := some s.now, identityDone := true }) s
    let s := match helperData f with
      | none => rset kIdentityStatus 1 s
      | some d => onlyIf (Config.identityModulus (identitySeed d) != f.idModulus) (rset kIdentityStatus 2) s
    tryReady (settle (each (List.range fabricPorts) tryBind s))
def execIdentityDerived (s : State) : Res := .next (identityDerived s)

end Sys2Proof.Machine
end

