-- ==== Sys2Proof/Machine/Spdm.lean ====
section
/-!
DEFINITION. The SPDM responder (Table 17.3, R528, R533 to R536, R549) and the measurements (Table 17.4). A response is its
SPDM header, codes as SPDM 1.3 numbers them (PRESUMED, log 50), and its fields in the order given here.
-/
namespace Sys2Proof.Machine

/-! ### Measurements (Table 17.4) -/

/-- Objects in ascending index order. -/
def insertObj (x : Obj) : List Obj → List Obj
  | [] => [x]
  | y :: r => if x.key ≤ y.key then x :: y :: r else y :: insertObj x r
/-- The working value of every persistent object, each instance encoded as its type (measurement 7). -/
def workingBytes (s : State) : List Byte :=
  ((objects.filter (fun o => o.persist)).foldl (fun l o => insertObj o l) []).flatMap (fun o =>
    (List.range (instances o.key)).flatMap (fun i => bytesOf o.size (readObj o.key i s)))
def isoActiveCount (s : State) : Nat := (s.pool.jobs.filter (fun j => j.2.iso.state == 2)).length
/-- The bytes of a measurement block; 7 and 9 as they stand now (R536), 8 the token in force or last used. -/
def measureBytes (i : Nat) (s : State) : List Byte :=
  let d := bytesOf 64 (tgetD s.sec.measured i 0)
  let x := runningImage s
  match i with
  | 1 => bytesOf 2 Config.romRevision ++ bytesOf 64 Config.rootHash
  | 2 => d ++ bytesOf 4 x.fw ++ bytesOf 2 x.sec ++ bytesOf 1 (bootSlot s)
  | 5 => d ++ bytesOf 4 (rget kConfigGeneration s)
  | 7 => bytesOf 64 (digest512 (workingBytes s))
  | 8 => bytesOf 64 s.sec.debugDigest
  | 9 => bytesOf 1 (rget kIdentityStatus s) ++ bytesOf 1 (rget kDebugState s) ++ bytesOf 2 (keysLoaded s) ++
      bytesOf 2 (isoActiveCount s)
  | _ => d
/-- TYPE of a block: DMTF value types, bit 7 for a raw value (PRESUMED, log 50). -/
def measureType (i : Nat) : Nat :=
  match i with
  | 1 => 0x80 | 2 => 0x01 | 3 => 0x02 | 4 => 0x02 | 9 => Config.rawStatusType % 256 | _ => 0x03
/-- MEASUREMENT (0xA000.06): the block's first 64 B. -/
def measureRecord (i : Nat) (s : State) : Nat :=
  pack [(i, 632), (measureType i, 624), (natOf ((measureBytes i s).take 64), 0)]
/-- The value of any object's instance. -/
def readAny (key i : Nat) (s : State) : Nat := if key = kMeasurement then measureRecord i s else readObj key i s

/-! ### Responses -/

/-- An SPDM message: version 1.3, code, two parameters, body. -/
def spdmMsg (code p1 p2 : Nat) (body : List Byte) : List Byte := bytesOf 4 (pack [(0x13, 0), (code, 8), (p1, 16), (p2, 24)]) ++ body
abbrev errInvalidRequest : Nat := 0x01
abbrev errBusy : Nat := 0x03
abbrev errUnspecified : Nat := 0x05
abbrev errSessionLimit : Nat := 0x0A
/-- An ERROR response, counted. -/
def spdmError (code : Nat) (s : State) : List Byte × State := (spdmMsg 0x7F code 0 [], bump kSpdmErrors s)
/-- The slot 0 certificate chain: root, device CA, device identity. -/
def certChain (s : State) : List Byte := s.sec.flash.caCerts ++ s.sec.flash.idCert
/-- A signature by the identity key. -/
def idSign (m : List Byte) (s : State) : List Byte := bytesOf 512 (Config.rsaSign (identityKey s) m)
/-- Requests that the identity key answers (R549). -/
def needsKey (q : Spdm) : Bool :=
  match q with | .challenge _ _ => true | .getMeasurements _ _ => true | .keyExchange _ _ => true | _ => false
/-- Identity derivation has failed (R528). -/
def identityFailed (s : State) : Bool := rget kIdentityStatus s == 1 || rget kIdentityStatus s == 2

/-- CHALLENGE_AUTH: chain hash, a nonce, the signature. -/
def challengeAuth (nonce : Nat) (s : State) : List Byte × State :=
  let (n, s) := draw s
  let body := bytesOf 64 (digest512 (certChain s)) ++ bytesOf 32 n
  (spdmMsg 0x03 0 1 (body ++ idSign (bytesOf 32 nonce ++ body) s), s)
/-- MEASUREMENTS: the blocks, a nonce, the signature. op 0 asks for the number of blocks, 0xFF for all. -/
def measurements (op nonce : Nat) (s : State) : List Byte × State :=
  if op != 0 && op != 0xFF && 9 < op then spdmError errInvalidRequest s
  else
    let ids := if op = 0 then [] else if op = 0xFF then (List.range 9).map (· + 1) else [op]
    let block (i : Nat) : List Byte :=
      let b := measureBytes i s
      [BitVec.ofNat 8 i, BitVec.ofNat 8 (measureType i)] ++ bytesOf 2 b.length ++ b
    let (n, s) := draw s
    let body := bytesOf 1 (if op = 0 then 9 else ids.length) ++ ids.flatMap block ++ bytesOf 32 n
    (spdmMsg 0x60 0 0 (body ++ idSign (bytesOf 32 nonce ++ body) s), s)
/-- KEY_EXCHANGE (R533, R535): MutAuthRequested 0x1; the exchange data and random bytes are free. -/
def keyExchange (id pub : Nat) (s : State) : List Byte × State :=
  if 2 ≤ s.sec.handshakes.length then spdmError errBusy s
  else if id = 0 || (sessionOf id s).isSome || s.sec.handshakes.any (fun h => h.1 == id) then spdmError errInvalidRequest s
  else
    let (n, s) := draw s
    let (e, s) := draw s
    let s := setSec (fun z => { z with handshakes := z.handshakes ++ [(id, pub, s.now)] }) s
    let body := bytesOf 4 id ++ bytesOf 1 1 ++ bytesOf 32 n ++ bytesOf 512 e
    (spdmMsg 0x64 0 0 (body ++ idSign (bytesOf 512 pub ++ body) s), s)
/-- One SPDM request and its response. -/
def spdmRun (q : Spdm) (s : State) : List Byte × State :=
  if identityFailed s then spdmError errUnspecified s
  else if needsKey q && !s.sec.identityDone then spdmError errBusy s
  else match q with
    | .getVersion => (spdmMsg 0x04 0 0 [0x00, 0x01, 0x00, 0x13], s)
    -- CERT, CHAL, MEAS with signature, MEAS_FRESH, ENCRYPT, MAC, MUT_AUTH, KEY_EX
    | .getCapabilities => (spdmMsg 0x61 0 0 (bytesOf 4 0x3F6), s)
    | .negotiate ok => (spdmMsg 0x63 0 0 [if ok then 1 else 0], s)
    | .getDigests => (spdmMsg 0x01 0 1 (bytesOf 64 (digest512 (certChain s))), s)
    | .getCertificate slot off len =>
      if slot != 0 then spdmError errInvalidRequest s
      else
        let c := certChain s
        let part := (c.drop off).take (min len 1000)
        (spdmMsg 0x02 0 0 (bytesOf 2 part.length ++ bytesOf 2 (c.length - off - part.length) ++ part), s)
    | .challenge slot nonce => if slot != 0 then spdmError errInvalidRequest s else challengeAuth nonce s
    | .getMeasurements op nonce => measurements op nonce s
    | .keyExchange id pub => keyExchange id pub s

end Sys2Proof.Machine
end

