-- ==== Sys2Proof/Machine/Services.lean ====
section
/-!
DEFINITION. Services of the object dictionary (16_kerwyn_dictionary.md): the envelope of a request, its order and its stored
response (R488 to R493), writes, staging, block transfers, subscriptions, events, sessions.
-/
namespace Sys2Proof.Machine

/-! ### Responses -/

def rspOk (st : Status) (arg : Nat) (data : List Byte) : Rsp := { abort := 0, status := statusCode st, arg := arg, data := data }
def rspAbort (code : Nat) : Rsp := { abort := code, status := 0, arg := 0, data := [] }
/-- Table 16.5. -/
abbrev abNoObject : Nat := 0x01
abbrev abNoSub : Nat := 0x02
abbrev abWriteOnly : Nat := 0x03
abbrev abReadOnly : Nat := 0x04
abbrev abLength : Nat := 0x05
abbrev abRole : Nat := 0x06
abbrev abNoSession : Nat := 0x07
abbrev abSeqOld : Nat := 0x08
abbrev abSeqWindow : Nat := 0x09
abbrev abStageFull : Nat := 0x0A
abbrev abStageInvalid : Nat := 0x0B
abbrev abBlockState : Nat := 0x0C
abbrev abBlockCheck : Nat := 0x0D
abbrev abBlockOffset : Nat := 0x0E
abbrev abDomainOnly : Nat := 0x0F
abbrev abSubsFull : Nat := 0x10
abbrev abBusyNow : Nat := 0x11
abbrev abMalformed : Nat := 0x12
/-- A frame of a session leaves: FRAME_SEQ rises, and its last value ends the session (R534). -/
def frameOut (id : Nat) (s : State) : State :=
  match sessionOf id s with
  | none => s
  | some x =>
    let n := x.txSeq + 1
    if 0xFFFFFFFF ≤ n then endSession id s else modSession id (fun y => { y with txSeq := n }) s
/-- Send a response; an abort is counted. -/
def reply (id seq : Nat) (r : Rsp) (s : State) : State :=
  onlyIf (r.abort != 0) (bump kAborts) (frameOut id (send (.service id seq r) s))

/-! ### Permissions (Table 16.6) and objects (R498, R511) -/

def vendorIndex (key : Nat) : Bool := decide (0xF00000 ≤ key)
/-- An object, or the abort of one that is not there. -/
def findObj (key : Nat) : Except Nat Obj :=
  match obj? key with
  | some o => .ok o
  | none => .error (if objects.any (fun o => o.key / 256 == key / 256) then abNoSub else abNoObject)
def mayRead (role key : Nat) : Bool := role == roleVendor || !vendorIndex key
def mayWrite (role key : Nat) (s : State) : Bool :=
  match obj? key with
  | some o => if o.isSel then true else if vendorIndex key then role == roleVendor && vendorWrites s else role == roleManager
  | none => if vendorIndex key then role == roleVendor && vendorWrites s else true
/-- The aborts of a WRITE, checked when it is staged too (R503). -/
def writeAbort (x : Session) (key len : Nat) (stage : Bool) (s : State) : Option Nat :=
  if (stage && x.role != roleManager) || !mayWrite x.role key s then some abRole
  else match findObj key with
    | .error a => some a
    | .ok o =>
      if o.acc = .ro then some abReadOnly
      else if o.size = 0 then some abDomainOnly
      else if len != o.size then some abLength
      else if stage && o.isSel then some abStageInvalid
      else if stage && (256 ≤ x.staged.length || 16384 < lsum (x.staged.map (·.len)) + len) then some abStageFull
      else none

/-! ### Writes, staging, commit (R500 to R504, R605) -/

def sizeOf (key : Nat) : Nat := optN (obj? key) (·.size)
/-- A select object takes a write at once; outside its range it is refused. -/
def writeSelect (id key v : Nat) (s : State) : Status × State :=
  match obj? key with
  | some o =>
    let post (st : Status) (s : State) : Status × State := if isTc key then tcPost (st, s) else (st, s)
    if v < o.lo || o.hi < v then post .refusedFormat s
    else post .done (modSession id (fun x => { x with selects := tput x.selects key (unreserved key v) }) s)
  | none => (.refusedFormat, s)
def isSelect (key : Nat) : Bool := match obj? key with | some o => o.isSel | none => false
/-- A WRITE: staged, a select, or committed now. -/
def doWrite (x : Session) (key v len : Nat) (stage : Bool) (s : State) : Rsp × State :=
  match writeAbort x key len stage s with
  | some a => (rspAbort a, s)
  | none =>
    let v := v % 256 ^ sizeOf key
    if stage then
      let w : Staged := { key := key, inst := instFor x key, v := v, len := len }
      (rspOk .done 0 [], modSession x.id (fun y => { y with staged := y.staged ++ [w] }) s)
    else
      let (st, s) := if isSelect key then writeSelect x.id key v s else commitObj key (instFor x key) v s
      (rspOk st 0 [], bump kCommits s)
/-- Commit staged writes in order; the PORT_CONFIG writes, judged together, at the place of the first. -/
def commitStaged : List Staged → Option (List Status) → State → List Status × State
  | [], _, s => ([], s)
  | w :: r, ps, s =>
    if w.key = kPortConfig then
      match ps with
      | some (st :: l) =>
        let (a, t) := commitStaged r (some l) s
        (st :: a, t)
      | _ =>
        let (sts, t) := commitPortConfigs ((w :: r).filterMap (fun y => if y.key = kPortConfig then some (y.inst, y.v) else none)) s
        let (a, t) := commitStaged r (some (sts.drop 1)) (settle t)
        (sts.headD .refusedFormat :: a, t)
    else
      let (st, t) := commitObj w.key w.inst w.v s
      let (a, t) := commitStaged r ps t
      (st :: a, t)
def doCommit (x : Session) (s : State) : Rsp × State :=
  if x.role != roleManager then (rspAbort abRole, s)
  else
    let (sts, t) := commitStaged x.staged none s
    let t := bumpN kCommits sts.length (modSession x.id (fun y => { y with staged := [] }) t)
    (rspOk .done 0 (sts.map (fun st => BitVec.ofNat 8 (statusCode st))), t)
def doDiscard (x : Session) (s : State) : Rsp × State :=
  if x.role != roleManager then (rspAbort abRole, s)
  else (rspOk .done 0 [], modSession x.id (fun y => { y with staged := [] }) s)

/-! ### Block transfers (R502) -/

abbrev domMax : Nat := 16 * 2 ^ 20
/-- The bytes of an object as a block read transfers them. -/
def objBytes (key i : Nat) (s : State) : List Byte :=
  if key = kDeviceCert then s.sec.flash.idCert
  else if key = kLedger then s.rst.ledger.flatMap (fun e => bytesOf 64 e.2)
  else bytesOf (sizeOf key) (readAny key i s)
def blockAbort (x : Session) (key : Nat) (write : Bool) (total : Nat) (s : State) : Option Nat :=
  if x.block.isSome then some abBlockState
  else if write && (if vendorIndex key then !(x.role == roleVendor && vendorWrites s) else x.role != roleManager) then some abRole
  else if !write && !mayRead x.role key then some abRole
  else match findObj key with
    | .error a => some a
    | .ok o =>
      if write && o.acc = .ro then some abReadOnly
      else if !write && o.acc = .wo then some abWriteOnly
      else if write && (if o.size = 0 then decide (domMax < total) else total != o.size) then some abLength
      else none
def doBlockOpen (x : Session) (key : Nat) (write : Bool) (total : Nat) (s : State) : Rsp × State :=
  match blockAbort x key write total s with
  | some a => (rspAbort a, s)
  | none =>
    let data := if write then [] else objBytes key (instFor x key) s
    let n := if write then total else data.length
    let b : Block2 := { key := key, write := write, total := n, data := data, at_ := s.now }
    (rspOk .done 0 (bytesOf 8 n), modSession x.id (fun y => { y with block := some b }) s)
def setBlock2 (id : Nat) (b : Option Block2) (s : State) : State := modSession id (fun y => { y with block := b }) s
def doBlockData (x : Session) (off : Nat) (data : List Byte) (s : State) : Rsp × State :=
  match x.block with
  | none => (rspAbort abBlockState, s)
  | some b =>
    let s := setBlock2 x.id (some { b with at_ := s.now }) s
    if b.write then
      if off * 1024 != b.data.length || b.total < b.data.length + data.length then (rspAbort abBlockOffset, s)
      else (rspOk .done 0 [], setBlock2 x.id (some { b with at_ := s.now, data := b.data ++ data }) s)
    else if b.total ≤ off * 1024 then (rspAbort abBlockOffset, s)
    else (rspOk .done 0 ((b.data.drop (off * 1024)).take 1024), s)
/-- The written object takes effect: an image (R526), or as a WRITE of it. -/
def applyBlock (x : Session) (b : Block2) (s : State) : Status × State :=
  if b.key = kFwImage then (.done, writeImage b.data s)
  else if isSelect b.key then writeSelect x.id b.key (natOf b.data) s
  else commitObj b.key (instFor x b.key) (natOf b.data) s
def doBlockClose (x : Session) (crc : Nat) (s : State) : Rsp × State :=
  match x.block with
  | none => (rspAbort abBlockState, s)
  | some b =>
    let s := setBlock2 x.id none s
    if !b.write then (rspOk .done 0 (bytesOf 4 (crc32c b.data)), s)
    else if b.data.length != b.total || crc32c b.data != crc then (rspAbort abBlockCheck, s)
    else
      let (st, s) := applyBlock x b s
      (rspOk st 0 [], bump kCommits s)
/-- A transfer left 1 s without a block service is abandoned. -/
def blockTimeout (id : Nat) (s : State) : State :=
  match (sessionOf id s).bind (·.block) with
  | some b => setBlock2 id none (timeTo (b.at_ + nsS) s)
  | none => s
def execBlockTransferTimeout (session : Nat) (s : State) : Res := .next (blockTimeout session s)

/-! ### Subscriptions (R507, R609) -/

/-- The lowest free handle. -/
def freeHandle (x : Session) : Option Nat := (List.range 64).find? (fun h => !x.subs.any (fun u => u.handle == h))
def subRefused (key mode period last : Nat) : Bool :=
  mode == 3 || (mode == 1 && (decide (period < 1) || decide (60000 < period))) || (mode == 2 && decide (last < key / 256))
def subAbort (x : Session) (key mode last : Nat) : Option Nat :=
  if mode = 2 then (if x.role != roleVendor && 0xF000 ≤ last then some abRole else none)
  else if !mayRead x.role key then some abRole
  else match findObj key with
    | .error a => some a
    | .ok o => if o.acc = .wo then some abWriteOnly else if o.size = 0 then some abDomainOnly else none
def doSubscribe (x : Session) (key mode period last : Nat) (s : State) : Rsp × State :=
  if subRefused key mode period last then (rspOk .refusedFormat 0 [], s)
  else match subAbort x key mode last, freeHandle x with
    | some a, _ => (rspAbort a, s)
    | none, none => (rspAbort abSubsFull, s)
    | none, some h =>
      let i := instFor x key
      let u : Sub := { handle := h, mode := mode, key := key, inst := i, last := last, period := period, sentAt := s.now,
                       seen := if mode = 2 then 0 else readAny key i s }
      (rspOk .done h [], modSession x.id (fun y => { y with subs := y.subs ++ [u] }) s)
def doUnsubscribe (x : Session) (handle : Nat) (s : State) : Rsp × State :=
  if x.subs.any (fun u => u.handle == handle) then
    (rspOk .done 0 [], modSession x.id (fun y => { y with subs := y.subs.filter (fun u => u.handle != handle) }) s)
  else (rspOk .refusedFormat 0 [], s)
def subOf (id handle : Nat) (s : State) : Option Sub := (sessionOf id s).bind (fun x => x.subs.find? (fun u => u.handle == handle))
/-- A NOTIFY with the object's value now. -/
def notify (id : Nat) (u : Sub) (s : State) : State :=
  let v := readAny u.key u.inst s
  let y := { u with seen := v, sentAt := s.now }
  frameOut id (send (.notify id u.handle v) (modSession id (fun x =>
    { x with subs := x.subs.map (fun w => if w.handle = u.handle then y else w) }) s))
def notifyChange (id handle : Nat) (s : State) : State :=
  match subOf id handle s with
  | some u =>
    if u.mode = 0 && readAny u.key u.inst s != u.seen then notify id u (timeTo (u.sentAt + nsMs) s) else s
  | none => s
def execNotifyOnChange (session handle : Nat) (s : State) : Res := .next (notifyChange session handle s)
def notifyPeriod (id handle : Nat) (s : State) : State :=
  match subOf id handle s with
  | some u => if u.mode = 1 then notify id u (timeTo (u.sentAt + u.period * nsMs) s) else s
  | none => s
def execNotifyPeriodic (session handle : Nat) (s : State) : Res := .next (notifyPeriod session handle s)

/-! ### Events (R509) -/

/-- EVENTS_LOST with the count, as soon as there is room. -/
def lostEvents (id : Nat) (s : State) : State :=
  match sessionOf id s with
  | none => s
  | some x =>
    if x.dropped = 0 || eventMax ≤ x.events.length then s
    else
      let e : Event := { time := timebase s, src := 0x1100, num := 0x01, plen := 4, payload := min (2 ^ 32 - 1) x.dropped }
      frameOut id (send (.event id x.nextEvent e) (modSession id (fun y =>
        { y with dropped := 0, events := y.events ++ [(y.nextEvent, e)], nextEvent := y.nextEvent + 1 }) s))
/-- Every queued event up to a sequence is acknowledged. -/
def ackEvents (id seq : Nat) (s : State) : State :=
  lostEvents id (modSession id (fun x => { x with events := x.events.filter (fun e => decide (seq < e.1)) }) s)
/-- Unacknowledged events go out again, oldest first. -/
def resendEvents (id : Nat) (s : State) : State :=
  match sessionOf id s with
  | none => s
  | some x =>
    if x.events.isEmpty then s
    else
      let s := timeTo (x.resendAt + rget kEventResendUs s * nsUs) s
      each x.events (fun e s => frameOut id (send (.event id e.1 e.2) s))
        (modSession id (fun y => { y with resendAt := s.now }) s)
def execEventResend (session : Nat) (s : State) : Res := .next (resendEvents session s)

/-! ### One request of a session -/

def runService (x : Session) (q : Service) (s : State) : Rsp × State :=
  match q with
  | .spdm r =>
    if x.role != roleManager then (rspAbort abRole, s)
    else
      let (d, s) := spdmRun r s
      (rspOk .done 0 d, s)
  | .write key v len stage => doWrite x key v len stage s
  | .commit => doCommit x s
  | .discard => doDiscard x s
  | .blockOpen key write total => doBlockOpen x key write total s
  | .blockData off data => doBlockData x off data s
  | .blockClose crc => doBlockClose x crc s
  | .subscribe key mode period last => doSubscribe x key mode period last s
  | .unsubscribe handle => doUnsubscribe x handle s
  | .sessionEnd => (rspOk .done 0 [], s)
/-- Execute a request: its response is stored, then sent; SESSION_END ends the session (R490, R496). -/
def executeReq (id n : Nat) (q : Service) (s : State) : State :=
  match sessionOf id s with
  | none => s
  | some x =>
    let (r, s) := runService x q s
    let s := modSession id (fun y => { y with last := some n, cache := (y.cache ++ [(n, r)]).drop (y.cache.length + 1 - 64) }) s
    let s := reply id n r s
    if q = .sessionEnd then endSession id s else s
/-- The next REQ_SEQ to execute. -/
def expected (x : Session) : Nat := match x.last with | some e => (e + 1) % 2 ^ 32 | none => 0
/-- Held requests whose gap has filled. -/
def drainHeld (id : Nat) : Nat → State → State
  | 0, s => s
  | n + 1, s =>
    match sessionOf id s with
    | none => s
    | some x =>
      match x.heldReqs.find? (fun h => h.1 == expected x) with
      | none => s
      | some h =>
        drainHeld id n (executeReq id h.1 h.2.1 (modSession id (fun y => { y with heldReqs := y.heldReqs.erase h }) s))
def waitingReqs (s : State) : Nat := lsum (s.dict.sessions.map (fun x => x.heldReqs.length))
/-- Order by REQ_SEQ (R490, R491). -/
def orderReq (x : Session) (n : Nat) (q : Service) (s : State) : State :=
  let d := (n + 2 ^ 32 - expected x) % 2 ^ 32
  if d = 0 then drainHeld x.id 16 (executeReq x.id n q s)
  else if d ≤ 15 then
    if x.heldReqs.any (fun h => h.1 == n) then s
    else if 256 ≤ waitingReqs s then reply x.id n (rspAbort abBusyNow) s
    else modSession x.id (fun y => { y with heldReqs := y.heldReqs ++ [(n, q, s.now)] }) s
  else match x.cache.find? (fun c => c.1 == n) with
    | some c => reply x.id n c.2 (bump kReplayResponses s)
    | none => reply x.id n (rspAbort (if d < 2 ^ 31 then abSeqWindow else abSeqOld)) s
/-- A request of session 0 runs as it arrives; only SPDM is allowed (Table 16.6). -/
def sessionZero (rq : Req) (q : Service) (s : State) : State :=
  if !rq.formOk then reply 0 rq.seq (rspAbort abMalformed) s
  else match q with
    | .spdm r =>
      let (d, s) := spdmRun r s
      reply 0 rq.seq (rspOk .done 0 d) s
    | _ => reply 0 rq.seq (rspAbort abRole) s
/-- A frame of a session is genuine and new (R488); it counts as activity, and the last FRAME_SEQ ends the session. -/
def sealed (rq : Req) (k : Session → State → State) (s : State) : State :=
  match sessionOf rq.session s with
  | none => reply rq.session rq.seq (rspAbort abNoSession) s
  | some x =>
    let new := match x.rxSeq with | some f => decide (f < rq.frameSeq) | none => true
    if !rq.tagOk || !new then bump kSealFails s
    else
      let s := modSession x.id (fun y => { y with rxSeq := some rq.frameSeq, activeAt := s.now }) s
      let s := match sessionOf x.id s with | some y => k y s | none => s
      if rq.frameSeq = 0xFFFFFFFF then endSession x.id s else s
/-- A service message arrives. -/
def receive (rq : Req) (q : Service) (s : State) : State :=
  if !nodeAccepts s then s
  else if rq.session = 0 then sessionZero rq q s
  else sealed rq (fun x s => if rq.formOk then orderReq x rq.seq q s else reply x.id rq.seq (rspAbort abMalformed) s) s
/-- EVENT_ACK carries an event sequence and takes no part in the order. -/
def receiveAck (rq : Req) (s : State) : State :=
  if !nodeAccepts s then s
  else if rq.session = 0 then reply 0 rq.seq (rspAbort abRole) s
  else sealed rq (fun x s => if rq.formOk then ackEvents x.id rq.seq s else reply x.id rq.seq (rspAbort abMalformed) s) s
/-- FINISH: the role it earns, or ERROR InvalidRequest (R531, R532); its session is the handshake's (R533). -/
def receiveFinish (rq : Req) (msg : List Byte) (sig modulus exponent : Nat) (s : State) : State :=
  if !nodeAccepts s then s
  else match s.sec.handshakes.find? (fun h => h.1 == rq.session) with
    | none => reply rq.session rq.seq (rspAbort abNoSession) s
    | some _ =>
      let answer (d : List Byte) (s : State) : State := reply rq.session rq.seq (rspOk .done 0 d) s
      let refuse (code : Nat) (s : State) : State :=
        let (d, s) := spdmError code s
        answer d s
      if !rq.tagOk then bump kSealFails s
      else if !rq.formOk then reply rq.session rq.seq (rspAbort abMalformed) s
      else if identityFailed s then refuse errUnspecified s
      else match finishRole msg sig modulus exponent s with
        | none => refuse errInvalidRequest (bump kFinishRejected s)
        | some role =>
          if !roleRoom role s then refuse errSessionLimit (dropHandshake rq.session s)
          else answer (spdmMsg 0x65 0 0 []) (openSession rq.session role rq.node rq.frameSeq (dropHandshake rq.session s))

/-! ### Timers of sessions -/

/-- Held requests older than 10 ms are discarded unanswered. -/
def gapTimeout (id : Nat) (s : State) : State :=
  match (sessionOf id s).bind (fun x => x.heldReqs.head?) with
  | some h =>
    let s := timeTo (h.2.2 + 10 * nsMs) s
    modSession id (fun x => { x with heldReqs := x.heldReqs.filter (fun h => decide (s.now < h.2.2 + 10 * nsMs)) }) s
  | none => s
def execRequestGapTimeout (session : Nat) (s : State) : Res := .next (gapTimeout session s)
def idleTimeout (id : Nat) (s : State) : State :=
  match sessionOf id s with
  | some x => endSession id (timeTo (x.activeAt + rget kSessionIdleMs s * nsMs) s)
  | none => s
def execSessionIdleTimeout (session : Nat) (s : State) : Res := .next (idleTimeout session s)

end Sys2Proof.Machine
end

