-- ==== Sys2Proof/Machine/ServiceRows.lean ====
section
/-!
DEFINITION. The rows that are services of the Kerwyn ring: SPDM, COMMIT and the others of Table 16.4, and one row per
dictionary object whose WRITE has behaviour of its own. A row for one operation of a command object writes that object
with the operation's code.
-/
namespace Sys2Proof.Machine

/-- A WRITE of an object. -/
def writeRow (rq : Req) (key v : Nat) (s : State) : Res := .next (receive rq (.write key v rq.len rq.stage) s)

/-! ### Services of their own -/

def execGetVersion (rq : Req) (s : State) : Res := .next (receive rq (.spdm .getVersion) s)
def execGetCapabilities (rq : Req) (s : State) : Res := .next (receive rq (.spdm .getCapabilities) s)
def execNegotiateAlgorithms (rq : Req) (supported : Bool) (s : State) : Res := .next (receive rq (.spdm (.negotiate supported)) s)
def execGetDigests (rq : Req) (s : State) : Res := .next (receive rq (.spdm .getDigests) s)
def execGetCertificate (rq : Req) (slot off len : Nat) (s : State) : Res := .next (receive rq (.spdm (.getCertificate slot off len)) s)
def execChallenge (rq : Req) (slot nonce : Nat) (s : State) : Res := .next (receive rq (.spdm (.challenge slot nonce)) s)
def execGetMeasurements (rq : Req) (op nonce : Nat) (s : State) : Res := .next (receive rq (.spdm (.getMeasurements op nonce)) s)
def execKeyExchange (rq : Req) (newSession pub : Nat) (s : State) : Res := .next (receive rq (.spdm (.keyExchange newSession pub)) s)
def execFinish (rq : Req) (msg : List Byte) (sig modulus exponent : Nat) (s : State) : Res :=
  .next (receiveFinish rq msg sig modulus exponent s)
def execCommit (rq : Req) (s : State) : Res := .next (receive rq .commit s)
def execServiceDiscard (rq : Req) (s : State) : Res := .next (receive rq .discard s)
def execBlockOpen (rq : Req) (index sub : Nat) (write : Bool) (total : Nat) (s : State) : Res :=
  .next (receive rq (.blockOpen (index * 256 + sub) write total) s)
def execBlockData (rq : Req) (off : Nat) (data : List Byte) (s : State) : Res := .next (receive rq (.blockData off data) s)
def execBlockClose (rq : Req) (crc : Nat) (s : State) : Res := .next (receive rq (.blockClose crc) s)
def execSubscribe (rq : Req) (index sub mode period last : Nat) (s : State) : Res :=
  .next (receive rq (.subscribe (index * 256 + sub) mode period last) s)
def execUnsubscribe (rq : Req) (handle : Nat) (s : State) : Res := .next (receive rq (.unsubscribe handle) s)
def execEventAck (rq : Req) (s : State) : Res := .next (receiveAck rq s)
def execSessionEnd (rq : Req) (s : State) : Res := .next (receive rq .sessionEnd s)
def execDictWrite (rq : Req) (index sub v : Nat) (s : State) : Res := writeRow rq (index * 256 + sub) v s

/-! ### 02 to 04: pool, tiers, versions -/

def execJobOpen (rq : Req) (v : Nat) (s : State) : Res := writeRow rq kJobOpen v s
def execJobClose (rq : Req) (v : Nat) (s : State) : Res := writeRow rq kJobClose v s
def execJobSlots (rq : Req) (v : Nat) (s : State) : Res := writeRow rq kJobSlots v s
def execMemberAdd (rq : Req) (v : Nat) (s : State) : Res := writeRow rq kMemberAdd v s
def execMemberRemove (rq : Req) (v : Nat) (s : State) : Res := writeRow rq kMemberRemove v s
def execAllocate (rq : Req) (v : Nat) (s : State) : Res := writeRow rq kExtentCmd (setFld v 255 248 1) s
def execRevoke (rq : Req) (v : Nat) (s : State) : Res := writeRow rq kExtentCmd (setFld v 255 248 2) s
def execSetAcl (rq : Req) (v : Nat) (s : State) : Res := writeRow rq kExtentCmd (setFld v 255 248 3) s
def execAclEntry (rq : Req) (v : Nat) (s : State) : Res := writeRow rq kAclEntry v s
def execKeyDestroy (rq : Req) (v : Nat) (s : State) : Res := writeRow rq kKeyDestroy v s
def execAtticSize (rq : Req) (v : Nat) (s : State) : Res := writeRow rq kAtticSize v s
def execFlush (rq : Req) (v : Nat) (s : State) : Res := writeRow rq kFlushCmd v s
def execOwnedCreate (rq : Req) (v : Nat) (s : State) : Res := writeRow rq kOwnedCmd (setFld v 511 504 1) s
def execOwnedDestroy (rq : Req) (v : Nat) (s : State) : Res := writeRow rq kOwnedCmd (setFld v 511 504 2) s
def execMirrorPeer (rq : Req) (v : Nat) (s : State) : Res := writeRow rq kMirrorPeer v s
def execMirrorRelease (rq : Req) (v : Nat) (s : State) : Res := writeRow rq kMirrorRelease v s
def execMirrorResync (rq : Req) (v : Nat) (s : State) : Res := writeRow rq kMirrorResync v s
def execMirrorTakeover (rq : Req) (v : Nat) (s : State) : Res := writeRow rq kMirrorTakeover v s

/-! ### 06, 08: queues, hens of a job, collectives -/

def execQueueCreate (rq : Req) (v : Nat) (s : State) : Res := writeRow rq kQueueCmd (setFld v 255 248 1) s
def execQueueDestroy (rq : Req) (v : Nat) (s : State) : Res := writeRow rq kQueueCmd (setFld v 255 248 2) s
def execQueueRestart (rq : Req) (v : Nat) (s : State) : Res := writeRow rq kQueueCmd (setFld v 255 248 3) s
def execCancelAll (rq : Req) (v : Nat) (s : State) : Res := writeRow rq kQueueCmd (setFld v 255 248 4) s
def execSetPriority (rq : Req) (v : Nat) (s : State) : Res := writeRow rq kQueueCmd (setFld v 255 248 5) s
def execJobHens (rq : Req) (v : Nat) (s : State) : Res := writeRow rq kJobHens v s
def execCollCreate (rq : Req) (v : Nat) (s : State) : Res := writeRow rq kCollCmd (setFld v 511 504 1) s
def execCollDestroy (rq : Req) (v : Nat) (s : State) : Res := writeRow rq kCollCmd (setFld v 511 504 2) s

/-! ### 11 to 15: links, tracker, coherence, switch, classes -/

def execPortConfig (rq : Req) (v : Nat) (s : State) : Res := writeRow rq kPortConfig v s
def execPortEnable (rq : Req) (s : State) : Res := writeRow rq kPortCmd 1 s
def execPortDisable (rq : Req) (s : State) : Res := writeRow rq kPortCmd 2 s
def execPortReset (rq : Req) (s : State) : Res := writeRow rq kPortCmd 3 s
def execPortRelease (rq : Req) (s : State) : Res := writeRow rq kPortCmd 4 s
def execTlinkEnable (rq : Req) (s : State) : Res := writeRow rq kTlinkCmd 1 s
def execTlinkDisable (rq : Req) (s : State) : Res := writeRow rq kTlinkCmd 2 s
def execTlinkReset (rq : Req) (s : State) : Res := writeRow rq kTlinkCmd 3 s
def execTlinkRelease (rq : Req) (s : State) : Res := writeRow rq kTlinkCmd 4 s
def execPortExpect (rq : Req) (v : Nat) (s : State) : Res := writeRow rq kPortExpect v s
def execTrackMin (rq : Req) (v : Nat) (s : State) : Res := writeRow rq kTrackMin v s
def execCohWindow (rq : Req) (v : Nat) (s : State) : Res := writeRow rq kCohWindow v s
def execCohPortCaching (rq : Req) (v : Nat) (s : State) : Res := writeRow rq kCohPortCaching v s
def execTwoStage (rq : Req) (s : State) : Res := writeRow rq kSliceCmd 1 s
def execSheepdog (rq : Req) (s : State) : Res := writeRow rq kSliceCmd 2 s
def execBucketSlice (rq : Req) (v : Nat) (s : State) : Res := writeRow rq kBucketSlice v s
def execCaptureSession (rq : Req) (v : Nat) (s : State) : Res := writeRow rq kCaptureSession v s
def execBufferGuaranteeWrite (rq : Req) (sub v : Nat) (s : State) : Res := writeRow rq (0x301000 + sub) v s
def execTcMap (rq : Req) (v : Nat) (s : State) : Res := writeRow rq kTcMap v s
def execPolicer (rq : Req) (v : Nat) (s : State) : Res := writeRow rq kPolicer v s
def execShaper (rq : Req) (v : Nat) (s : State) : Res := writeRow rq kShaper v s
def execQuantum (rq : Req) (v : Nat) (s : State) : Res := writeRow rq kQuantum v s
def execGateCommit (rq : Req) (v : Nat) (s : State) : Res := writeRow rq kGateCommit v s
def execPortGateList (rq : Req) (v : Nat) (s : State) : Res := writeRow rq kPortGateList v s

/-! ### 16 to 19: configuration, security, resets, power -/

def execConfigSave (rq : Req) (v : Nat) (s : State) : Res := writeRow rq kConfigSave v s
def execConfigClear (rq : Req) (v : Nat) (s : State) : Res := writeRow rq kConfigClear v s
def execHomeIndex (rq : Req) (v : Nat) (s : State) : Res := writeRow rq kHomeIndex v s
def execKeyLoad (rq : Req) (v : Nat) (s : State) : Res := writeRow rq kKeyLoad v s
def execRoleEntry (rq : Req) (v : Nat) (s : State) : Res := writeRow rq kRoleEntry v s
def execDebugToken (rq : Req) (v : Nat) (s : State) : Res := writeRow rq kDebugToken v s
def execDebugEnd (rq : Req) (v : Nat) (s : State) : Res := writeRow rq kDebugEnd v s
def execIsoJob (rq : Req) (v : Nat) (s : State) : Res := writeRow rq kIsoJob v s
def execResetCmdWarm (rq : Req) (s : State) : Res := writeRow rq kResetCmd 1 s
def execResetCmdCold (rq : Req) (s : State) : Res := writeRow rq kResetCmd 2 s
def execJobReset (rq : Req) (v : Nat) (s : State) : Res := writeRow rq kJobReset v s
def execLarderReset (rq : Req) (larder : Nat) (s : State) : Res := writeRow rq kLarderCmd (larder % 256 * 256 + 1) s
def execLarderOut (rq : Req) (larder : Nat) (s : State) : Res := writeRow rq kLarderCmd (larder % 256 * 256 + 2) s
def execLarderIn (rq : Req) (larder : Nat) (s : State) : Res := writeRow rq kLarderCmd (larder % 256 * 256 + 3) s
def execHenOutCmd (rq : Req) (hen : Nat) (s : State) : Res := writeRow rq kHenCmd (hen % 8192 * 2 ^ 19 + 1) s
def execHenIn (rq : Req) (hen : Nat) (s : State) : Res := writeRow rq kHenCmd (hen % 8192 * 2 ^ 19 + 2) s
def execLedgerAck (rq : Req) (v : Nat) (s : State) : Res := writeRow rq kLedgerAck v s
def execLedgerClear (rq : Req) (v : Nat) (s : State) : Res := writeRow rq kLedgerClear v s
def execThrottleClear (rq : Req) (v : Nat) (s : State) : Res := writeRow rq kThrottleClear v s

end Sys2Proof.Machine
end

