-- ==== Sys2Proof/Machine/Dispatch.lean ====
section
/-!
DEFINITION. One arm per command: a direct call of its meaning, or its rejection by name.
-/
namespace Sys2Proof.Machine

/-- The effect of a command on everything but the queue of waiting commands. -/
def exec (i : Instr) (s : State) : Host.Outcome State Fault Refusal :=
  match i with
  | .jobOpen rq v => Sys2Proof.Machine.execJobOpen rq v s
  | .jobClose rq v => Sys2Proof.Machine.execJobClose rq v s
  | .jobSlots rq v => Sys2Proof.Machine.execJobSlots rq v s
  | .memberAdd rq v => Sys2Proof.Machine.execMemberAdd rq v s
  | .memberRemove rq v => Sys2Proof.Machine.execMemberRemove rq v s
  | .allocate rq v => Sys2Proof.Machine.execAllocate rq v s
  | .revoke rq v => Sys2Proof.Machine.execRevoke rq v s
  | .setAcl rq v => Sys2Proof.Machine.execSetAcl rq v s
  | .aclEntry rq v => Sys2Proof.Machine.execAclEntry rq v s
  | .keyDestroy rq v => Sys2Proof.Machine.execKeyDestroy rq v s
  | .drained ext => Sys2Proof.Machine.execDrained ext s
  | .drainBoundExpiry ext => Sys2Proof.Machine.execDrainBoundExpiry ext s
  | .extentFreed ext => Sys2Proof.Machine.execExtentFreed ext s
  | .atticSize rq v => Sys2Proof.Machine.execAtticSize rq v s
  | .placementEpoch budget => Sys2Proof.Machine.execPlacementEpoch budget s
  | .unmappedWritePlaced crate => Sys2Proof.Machine.execUnmappedWritePlaced crate s
  | .moveCopyDone crate => Sys2Proof.Machine.execMoveCopyDone crate s
  | .moveSourceFreed crate => Sys2Proof.Machine.execMoveSourceFreed crate s
  | .fetchDone crate => Sys2Proof.Machine.execFetchDone crate s
  | .vaultReadUncorrectable crate => Sys2Proof.Machine.execVaultReadUncorrectable crate s
  | .tierTimeout tx => Sys2Proof.Machine.execTierTimeout tx s
  | .flush rq v => Sys2Proof.Machine.execFlush rq v s
  | .flushDone trayFault => Sys2Proof.Machine.execFlushDone trayFault s
  | .trayResponse r => Sys2Proof.Machine.execTrayResponse r s
  | .vaultReclaim tray => Sys2Proof.Machine.execVaultReclaim tray s
  | .vaultStaticMove tray => Sys2Proof.Machine.execVaultStaticMove tray s
  | .vaultReadRelocate tray block => Sys2Proof.Machine.execVaultReadRelocate tray block s
  | .vaultScan tray lun block => Sys2Proof.Machine.execVaultScan tray lun block s
  | .trayLost tray => Sys2Proof.Machine.execTrayLost tray s
  | .crateMapRebuilt tray => Sys2Proof.Machine.execCrateMapRebuilt tray s
  | .crateSlotRetire tier loc uncorrected => Sys2Proof.Machine.execCrateSlotRetire tier loc uncorrected s
  | .regionOpen h current version fva => Sys2Proof.Machine.execRegionOpen h current version fva s
  | .regionClose h fva => Sys2Proof.Machine.execRegionClose h fva s
  | .regionDraft h current version fva => Sys2Proof.Machine.execRegionDraft h current version fva s
  | .regionPublish h version fva => Sys2Proof.Machine.execRegionPublish h version fva s
  | .regionRebase h version fva => Sys2Proof.Machine.execRegionRebase h version fva s
  | .regionDiscard h fva => Sys2Proof.Machine.execRegionDiscard h fva s
  | .ownedCreate rq v => Sys2Proof.Machine.execOwnedCreate rq v s
  | .ownedDestroy rq v => Sys2Proof.Machine.execOwnedDestroy rq v s
  | .give h permit obj epoch => Sys2Proof.Machine.execGive h permit obj epoch s
  | .giveRecallDone obj => Sys2Proof.Machine.execGiveRecallDone obj s
  | .take h obj epoch => Sys2Proof.Machine.execTake h obj epoch s
  | .query h obj => Sys2Proof.Machine.execQuery h obj s
  | .ownReverted obj => Sys2Proof.Machine.execOwnReverted obj s
  | .mirrorPeer rq v => Sys2Proof.Machine.execMirrorPeer rq v s
  | .mirrorRelease rq v => Sys2Proof.Machine.execMirrorRelease rq v s
  | .mirrorResync rq v => Sys2Proof.Machine.execMirrorResync rq v s
  | .mirrorTakeover rq v => Sys2Proof.Machine.execMirrorTakeover rq v s
  | .mirrorLost => Sys2Proof.Machine.execMirrorLost s
  | .mirrorCopyDone refused => Sys2Proof.Machine.execMirrorCopyDone refused s
  | .journal ph recs => Sys2Proof.Machine.execJournal ph recs s
  | .journalAck ph seq => Sys2Proof.Machine.execJournalAck ph seq s
  | .mirrorCtl ph m => Sys2Proof.Machine.execMirrorCtl ph m s
  | .scalarInstruction hen => Sys2Proof.Machine.execScalarInstruction hen s
  | .tzero hen td => Sys2Proof.Machine.execTzero hen td s
  | .tload hen td rs1 => Sys2Proof.Machine.execTload hen td rs1 s
  | .tstore hen ts rs1 => Sys2Proof.Machine.execTstore hen ts rs1 s
  | .tmma hen tc ta rs1 coded => Sys2Proof.Machine.execTmma hen tc ta rs1 coded s
  | .codebookFetchDone hen cb gen => Sys2Proof.Machine.execCodebookFetchDone hen cb gen s
  | .vopAdd hen vd v1 v2 => Sys2Proof.Machine.execVopAdd hen vd v1 v2 s
  | .vopSub hen vd v1 v2 => Sys2Proof.Machine.execVopSub hen vd v1 v2 s
  | .vopMul hen vd v1 v2 => Sys2Proof.Machine.execVopMul hen vd v1 v2 s
  | .vopFma hen vd v1 v2 => Sys2Proof.Machine.execVopFma hen vd v1 v2 s
  | .vopMin hen vd v1 v2 => Sys2Proof.Machine.execVopMin hen vd v1 v2 s
  | .vopMax hen vd v1 v2 => Sys2Proof.Machine.execVopMax hen vd v1 v2 s
  | .vopInteger hen op vd v1 v2 => Sys2Proof.Machine.execVopInteger hen op vd v1 v2 s
  | .vsfExp2 hen vd v1 => Sys2Proof.Machine.execVsfExp2 hen vd v1 s
  | .vsfLog2 hen vd v1 => Sys2Proof.Machine.execVsfLog2 hen vd v1 s
  | .vsfRcp hen vd v1 => Sys2Proof.Machine.execVsfRcp hen vd v1 s
  | .vsfRsqrt hen vd v1 => Sys2Proof.Machine.execVsfRsqrt hen vd v1 s
  | .vload hen vd rs1 => Sys2Proof.Machine.execVload hen vd rs1 s
  | .vstore hen vs rs1 => Sys2Proof.Machine.execVstore hen vs rs1 s
  | .vrowsum hen vd ts => Sys2Proof.Machine.execVrowsum hen vd ts s
  | .vrowmax hen vd ts => Sys2Proof.Machine.execVrowmax hen vd ts s
  | .vscalerows hen tc vs => Sys2Proof.Machine.execVscalerows hen tc vs s
  | .vmove hen m => Sys2Proof.Machine.execVmove hen m s
  | .vcmp hen op vd v1 v2 => Sys2Proof.Machine.execVcmp hen op vd v1 v2 s
  | .vsel hen vd vm v1 v2 => Sys2Proof.Machine.execVsel hen vd vm v1 v2 s
  | .dmard hen p => Sys2Proof.Machine.execDmard hen p s
  | .dmawr hen p => Sys2Proof.Machine.execDmawr hen p s
  | .dmawait hen n => Sys2Proof.Machine.execDmawait hen n s
  | .dmaRequestDone hen req => Sys2Proof.Machine.execDmaRequestDone hen req s
  | .henMemoryRequest hen req => Sys2Proof.Machine.execHenMemoryRequest hen req s
  | .msgsend hen rank loc => Sys2Proof.Machine.execMsgsend hen rank loc s
  | .msgrecv hen loc => Sys2Proof.Machine.execMsgrecv hen loc s
  | .msgpoll hen rd => Sys2Proof.Machine.execMsgpoll hen rd s
  | .messageDelivered src dst => Sys2Proof.Machine.execMessageDelivered src dst s
  | .tkinit hen k largest => Sys2Proof.Machine.execTkinit hen k largest s
  | .tkins hen vk vlo vhi => Sys2Proof.Machine.execTkins hen vk vlo vhi s
  | .tkread hen rs1 => Sys2Proof.Machine.execTkread hen rs1 s
  | .slvend hen rs1 => Sys2Proof.Machine.execSlvend hen rs1 s
  | .queueCreate rq v => Sys2Proof.Machine.execQueueCreate rq v s
  | .queueDestroy rq v => Sys2Proof.Machine.execQueueDestroy rq v s
  | .queueRestart rq v => Sys2Proof.Machine.execQueueRestart rq v s
  | .cancelAll rq v => Sys2Proof.Machine.execCancelAll rq v s
  | .setPriority rq v => Sys2Proof.Machine.execSetPriority rq v s
  | .loadingResumed q => Sys2Proof.Machine.execLoadingResumed q s
  | .descriptorReadFail q => Sys2Proof.Machine.execDescriptorReadFail q s
  | .nop q => Sys2Proof.Machine.execNop q s
  | .run q => Sys2Proof.Machine.execRun q s
  | .cancel q => Sys2Proof.Machine.execCancel q s
  | .sliverAssign larder => Sys2Proof.Machine.execSliverAssign larder s
  | .sliverStart hen => Sys2Proof.Machine.execSliverStart hen s
  | .gangStart item => Sys2Proof.Machine.execGangStart item s
  | .timeLimit item => Sys2Proof.Machine.execTimeLimit item s
  | .sliverLimit hen => Sys2Proof.Machine.execSliverLimit hen s
  | .jobHens rq v => Sys2Proof.Machine.execJobHens rq v s
  | .jobHensDrained job => Sys2Proof.Machine.execJobHensDrained job s
  | .install q => Sys2Proof.Machine.execInstall q s
  | .drop q => Sys2Proof.Machine.execDrop q s
  | .encode q => Sys2Proof.Machine.execEncode q s
  | .importTensor q => Sys2Proof.Machine.execImportTensor q s
  | .recode q => Sys2Proof.Machine.execRecode q s
  | .release q => Sys2Proof.Machine.execRelease q s
  | .decode q => Sys2Proof.Machine.execDecode q s
  | .backgroundRecode hen => Sys2Proof.Machine.execBackgroundRecode hen s
  | .collCreate rq v => Sys2Proof.Machine.execCollCreate rq v s
  | .collDestroy rq v => Sys2Proof.Machine.execCollDestroy rq v s
  | .reduce q => Sys2Proof.Machine.execReduce q s
  | .allreduce q => Sys2Proof.Machine.execAllreduce q s
  | .reduceUpdate q => Sys2Proof.Machine.execReduceUpdate q s
  | .normSq q => Sys2Proof.Machine.execNormSq q s
  | .roundOpen coll => Sys2Proof.Machine.execRoundOpen coll s
  | .contrib h coll round chunk fmt data => Sys2Proof.Machine.execContrib h coll round chunk fmt data s
  | .memberTimerExpiry coll => Sys2Proof.Machine.execMemberTimerExpiry coll s
  | .response port tag status => Sys2Proof.Machine.execResponse port tag status s
  | .deliverTimeout port tag => Sys2Proof.Machine.execDeliverTimeout port tag s
  | .normPartial ph coll round acc flags => Sys2Proof.Machine.execNormPartial ph coll round acc flags s
  | .normTimeout coll => Sys2Proof.Machine.execNormTimeout coll s
  | .engineSliverDone item sliver => Sys2Proof.Machine.execEngineSliverDone item sliver s
  | .gather q => Sys2Proof.Machine.execGather q s
  | .gatherBags q => Sys2Proof.Machine.execGatherBags q s
  | .filter q => Sys2Proof.Machine.execFilter q s
  | .arenaInit q => Sys2Proof.Machine.execArenaInit q s
  | .seqOpen q => Sys2Proof.Machine.execSeqOpen q s
  | .seqClose q => Sys2Proof.Machine.execSeqClose q s
  | .replace q => Sys2Proof.Machine.execReplace q s
  | .truncate q => Sys2Proof.Machine.execTruncate q s
  | .fork q => Sys2Proof.Machine.execFork q s
  | .pageFree q => Sys2Proof.Machine.execPageFree q s
  | .attend q => Sys2Proof.Machine.execAttend q s
  | .project q => Sys2Proof.Machine.execProject q s
  | .indexBuild q => Sys2Proof.Machine.execIndexBuild q s
  | .indexAppend q => Sys2Proof.Machine.execIndexAppend q s
  | .indexDelete q => Sys2Proof.Machine.execIndexDelete q s
  | .indexMerge q => Sys2Proof.Machine.execIndexMerge q s
  | .searchIvf q => Sys2Proof.Machine.execSearchIvf q s
  | .searchGraph q => Sys2Proof.Machine.execSearchGraph q s
  | .searchPartial ph shardTag results => Sys2Proof.Machine.execSearchPartial ph shardTag results s
  | .searchAck ph shardTag => Sys2Proof.Machine.execSearchAck ph shardTag s
  | .searchPartialTimeout item => Sys2Proof.Machine.execSearchPartialTimeout item s
  | .searchAckTimeout item => Sys2Proof.Machine.execSearchAckTimeout item s
  | .partialHoldExpiry job shardTag src => Sys2Proof.Machine.execPartialHoldExpiry job shardTag src s
  | .portConfig rq v => Sys2Proof.Machine.execPortConfig rq v s
  | .portEnable rq => Sys2Proof.Machine.execPortEnable rq s
  | .portDisable rq => Sys2Proof.Machine.execPortDisable rq s
  | .portReset rq => Sys2Proof.Machine.execPortReset rq s
  | .portRelease rq => Sys2Proof.Machine.execPortRelease rq s
  | .tlinkEnable rq => Sys2Proof.Machine.execTlinkEnable rq s
  | .tlinkDisable rq => Sys2Proof.Machine.execTlinkDisable rq s
  | .tlinkReset rq => Sys2Proof.Machine.execTlinkReset rq s
  | .tlinkRelease rq => Sys2Proof.Machine.execTlinkRelease rq s
  | .portExpect rq v => Sys2Proof.Machine.execPortExpect rq v s
  | .detectDone link => Sys2Proof.Machine.execDetectDone link s
  | .equaliseDone link => Sys2Proof.Machine.execEqualiseDone link s
  | .fecLockDone link => Sys2Proof.Machine.execFecLockDone link s
  | .orderDone link lanes => Sys2Proof.Machine.execOrderDone link lanes s
  | .linkupPhaseTimeout link => Sys2Proof.Machine.execLinkupPhaseTimeout link s
  | .param link version role width depth credits => Sys2Proof.Machine.execParam link version role width depth credits s
  | .identNonce port nonce tag => Sys2Proof.Machine.execIdentNonce port nonce tag s
  | .ident port claim exponent modulus sig nonce => Sys2Proof.Machine.execIdent port claim exponent modulus sig nonce s
  | .identResult port status => Sys2Proof.Machine.execIdentResult port status s
  | .identTimeout port => Sys2Proof.Machine.execIdentTimeout port s
  | .dataFlit link f payload badLane => Sys2Proof.Machine.execDataFlit link f payload badLane s
  | .creditFlit link f returns badLane => Sys2Proof.Machine.execCreditFlit link f returns badLane s
  | .idleFlit link f badLane => Sys2Proof.Machine.execIdleFlit link f badLane s
  | .nak link f => Sys2Proof.Machine.execNak link f s
  | .replayTimeout link => Sys2Proof.Machine.execReplayTimeout link s
  | .lossOfLock link lane => Sys2Proof.Machine.execLossOfLock link lane s
  | .ts1Received link => Sys2Proof.Machine.execTs1Received link s
  | .recoveryDone link lanes => Sys2Proof.Machine.execRecoveryDone link lanes s
  | .recoveryTimeout link => Sys2Proof.Machine.execRecoveryTimeout link s
  | .holdTimerExpiry link => Sys2Proof.Machine.execHoldTimerExpiry link s
  | .holdCountReset link => Sys2Proof.Machine.execHoldCountReset link s
  | .read h => Sys2Proof.Machine.execRead h s
  | .write h data => Sys2Proof.Machine.execWrite h data s
  | .writeMasked h mask data => Sys2Proof.Machine.execWriteMasked h mask data s
  | .fence h => Sys2Proof.Machine.execFence h s
  | .fenceDone port tag => Sys2Proof.Machine.execFenceDone port tag s
  | .releaseStoreExecute port tag => Sys2Proof.Machine.execReleaseStoreExecute port tag s
  | .atomicAdd h width a => Sys2Proof.Machine.execAtomicAdd h width a s
  | .atomicAnd h width a => Sys2Proof.Machine.execAtomicAnd h width a s
  | .atomicOr h width a => Sys2Proof.Machine.execAtomicOr h width a s
  | .atomicXor h width a => Sys2Proof.Machine.execAtomicXor h width a s
  | .atomicSmin h width a => Sys2Proof.Machine.execAtomicSmin h width a s
  | .atomicSmax h width a => Sys2Proof.Machine.execAtomicSmax h width a s
  | .atomicUmin h width a => Sys2Proof.Machine.execAtomicUmin h width a s
  | .atomicUmax h width a => Sys2Proof.Machine.execAtomicUmax h width a s
  | .atomicSwap h width a => Sys2Proof.Machine.execAtomicSwap h width a s
  | .atomicCas h width c n => Sys2Proof.Machine.execAtomicCas h width c n s
  | .batchWriteout line => Sys2Proof.Machine.execBatchWriteout line s
  | .trackEntryFreed port tag => Sys2Proof.Machine.execTrackEntryFreed port tag s
  | .epochDrained port => Sys2Proof.Machine.execEpochDrained port s
  | .trackMin rq v => Sys2Proof.Machine.execTrackMin rq v s
  | .peerAck port seq => Sys2Proof.Machine.execPeerAck port seq s
  | .cohWindow rq v => Sys2Proof.Machine.execCohWindow rq v s
  | .cohPortCaching rq v => Sys2Proof.Machine.execCohPortCaching rq v s
  | .snpRsp port ctag result data => Sys2Proof.Machine.execSnpRsp port ctag result data s
  | .evict port job addr lseq result data => Sys2Proof.Machine.execEvict port job addr lseq result data s
  | .migAck port job addr => Sys2Proof.Machine.execMigAck port job addr s
  | .coherenceProtocolError port => Sys2Proof.Machine.execCoherenceProtocolError port s
  | .snoopTimeout ctag => Sys2Proof.Machine.execSnoopTimeout ctag s
  | .filterScanDone => Sys2Proof.Machine.execFilterScanDone s
  | .filterWayFreed quarter => Sys2Proof.Machine.execFilterWayFreed quarter s
  | .twoStage rq => Sys2Proof.Machine.execTwoStage rq s
  | .sheepdog rq => Sys2Proof.Machine.execSheepdog rq s
  | .sheepdogFault slice => Sys2Proof.Machine.execSheepdogFault slice s
  | .sheepdogReturn slice => Sys2Proof.Machine.execSheepdogReturn slice s
  | .rebalanceCheck => Sys2Proof.Machine.execRebalanceCheck s
  | .bucketSlice rq v => Sys2Proof.Machine.execBucketSlice rq v s
  | .bucketDrained bucket => Sys2Proof.Machine.execBucketDrained bucket s
  | .readmit attach => Sys2Proof.Machine.execReadmit attach s
  | .warmReached attach => Sys2Proof.Machine.execWarmReached attach s
  | .joiningDone attach => Sys2Proof.Machine.execJoiningDone attach s
  | .gooseSweep bank => Sys2Proof.Machine.execGooseSweep bank s
  | .captureSession rq v => Sys2Proof.Machine.execCaptureSession rq v s
  | .bufferGuaranteeWrite rq sub v => Sys2Proof.Machine.execBufferGuaranteeWrite rq sub v s
  | .tcMap rq v => Sys2Proof.Machine.execTcMap rq v s
  | .policer rq v => Sys2Proof.Machine.execPolicer rq v s
  | .redRemeter port cls => Sys2Proof.Machine.execRedRemeter port cls s
  | .shaper rq v => Sys2Proof.Machine.execShaper rq v s
  | .quantum rq v => Sys2Proof.Machine.execQuantum rq v s
  | .gateCommit rq v => Sys2Proof.Machine.execGateCommit rq v s
  | .portGateList rq v => Sys2Proof.Machine.execPortGateList rq v s
  | .gateSwitch list => Sys2Proof.Machine.execGateSwitch list s
  | .gateEntryEnd list => Sys2Proof.Machine.execGateEntryEnd list s
  | .discover f map tag => Sys2Proof.Machine.execDiscover f map tag s
  | .ringFrameForward f => Sys2Proof.Machine.execRingFrameForward f s
  | .ringPortFailed port => Sys2Proof.Machine.execRingPortFailed port s
  | .ringPortRestored onB => Sys2Proof.Machine.execRingPortRestored onB s
  | .heal onB => Sys2Proof.Machine.execHeal onB s
  | .commit rq => Sys2Proof.Machine.execCommit rq s
  | .serviceDiscard rq => Sys2Proof.Machine.execServiceDiscard rq s
  | .blockOpen rq index sub write total => Sys2Proof.Machine.execBlockOpen rq index sub write total s
  | .blockData rq off data => Sys2Proof.Machine.execBlockData rq off data s
  | .blockClose rq crc => Sys2Proof.Machine.execBlockClose rq crc s
  | .blockTransferTimeout session => Sys2Proof.Machine.execBlockTransferTimeout session s
  | .subscribe rq index sub mode period last => Sys2Proof.Machine.execSubscribe rq index sub mode period last s
  | .unsubscribe rq handle => Sys2Proof.Machine.execUnsubscribe rq handle s
  | .eventAck rq => Sys2Proof.Machine.execEventAck rq s
  | .sessionEnd rq => Sys2Proof.Machine.execSessionEnd rq s
  | .requestGapTimeout session => Sys2Proof.Machine.execRequestGapTimeout session s
  | .sessionIdleTimeout session => Sys2Proof.Machine.execSessionIdleTimeout session s
  | .notifyOnChange session handle => Sys2Proof.Machine.execNotifyOnChange session handle s
  | .notifyPeriodic session handle => Sys2Proof.Machine.execNotifyPeriodic session handle s
  | .eventResend session => Sys2Proof.Machine.execEventResend session s
  | .configSave rq v => Sys2Proof.Machine.execConfigSave rq v s
  | .configClear rq v => Sys2Proof.Machine.execConfigClear rq v s
  | .configWriteDone => Sys2Proof.Machine.execConfigWriteDone s
  | .homeIndex rq v => Sys2Proof.Machine.execHomeIndex rq v s
  | .sync p => Sys2Proof.Machine.execSync p s
  | .followUp p => Sys2Proof.Machine.execFollowUp p s
  | .announce p => Sys2Proof.Machine.execAnnounce p s
  | .pdelayReq onB seqId => Sys2Proof.Machine.execPdelayReq onB seqId s
  | .pdelayResp onB seqId delay => Sys2Proof.Machine.execPdelayResp onB seqId delay s
  | .pdelayTimer onB => Sys2Proof.Machine.execPdelayTimer onB s
  | .syncLoss => Sys2Proof.Machine.execSyncLoss s
  | .ppsIn t => Sys2Proof.Machine.execPpsIn t s
  | .ppsLost => Sys2Proof.Machine.execPpsLost s
  | .ppsOut => Sys2Proof.Machine.execPpsOut s
  | .getVersion rq => Sys2Proof.Machine.execGetVersion rq s
  | .getCapabilities rq => Sys2Proof.Machine.execGetCapabilities rq s
  | .negotiateAlgorithms rq supported => Sys2Proof.Machine.execNegotiateAlgorithms rq supported s
  | .getDigests rq => Sys2Proof.Machine.execGetDigests rq s
  | .getCertificate rq slot off len => Sys2Proof.Machine.execGetCertificate rq slot off len s
  | .challenge rq slot nonce => Sys2Proof.Machine.execChallenge rq slot nonce s
  | .getMeasurements rq op nonce => Sys2Proof.Machine.execGetMeasurements rq op nonce s
  | .keyExchange rq newSession pub => Sys2Proof.Machine.execKeyExchange rq newSession pub s
  | .finish rq msg sig modulus exponent => Sys2Proof.Machine.execFinish rq msg sig modulus exponent s
  | .handshakeTimeout session => Sys2Proof.Machine.execHandshakeTimeout session s
  | .keyLoad rq v => Sys2Proof.Machine.execKeyLoad rq v s
  | .roleEntry rq v => Sys2Proof.Machine.execRoleEntry rq v s
  | .debugToken rq v => Sys2Proof.Machine.execDebugToken rq v s
  | .debugEnd rq v => Sys2Proof.Machine.execDebugEnd rq v s
  | .debugTokenExpiry => Sys2Proof.Machine.execDebugTokenExpiry s
  | .isoJob rq v => Sys2Proof.Machine.execIsoJob rq v s
  | .isoResponseRelease port tag => Sys2Proof.Machine.execIsoResponseRelease port tag s
  | .coldRstAssert => Sys2Proof.Machine.execColdRstAssert s
  | .coldRstRelease nodeId bootSel => Sys2Proof.Machine.execColdRstRelease nodeId bootSel s
  | .pwrOkLow => Sys2Proof.Machine.execPwrOkLow s
  | .warmRstAssert => Sys2Proof.Machine.execWarmRstAssert s
  | .warmRstRelease => Sys2Proof.Machine.execWarmRstRelease s
  | .resetCmdWarm rq => Sys2Proof.Machine.execResetCmdWarm rq s
  | .resetCmdCold rq => Sys2Proof.Machine.execResetCmdCold rq s
  | .resetBegin => Sys2Proof.Machine.execResetBegin s
  | .quiesceDone => Sys2Proof.Machine.execQuiesceDone s
  | .quiesceTimeout => Sys2Proof.Machine.execQuiesceTimeout s
  | .firmwareStart => Sys2Proof.Machine.execFirmwareStart s
  | .sheepdogSelfTestDone slice => Sys2Proof.Machine.execSheepdogSelfTestDone slice s
  | .stackTrainingDone larder passed => Sys2Proof.Machine.execStackTrainingDone larder passed s
  | .henSelfTestDone hen passed => Sys2Proof.Machine.execHenSelfTestDone hen passed s
  | .vaultJournalScanDone => Sys2Proof.Machine.execVaultJournalScanDone s
  | .identityDerived => Sys2Proof.Machine.execIdentityDerived s
  | .jobReset rq v => Sys2Proof.Machine.execJobReset rq v s
  | .jobResetDone job => Sys2Proof.Machine.execJobResetDone job s
  | .larderReset rq larder => Sys2Proof.Machine.execLarderReset rq larder s
  | .larderResetDone larder => Sys2Proof.Machine.execLarderResetDone larder s
  | .larderOut rq larder => Sys2Proof.Machine.execLarderOut rq larder s
  | .larderIn rq larder => Sys2Proof.Machine.execLarderIn rq larder s
  | .henOutCmd rq hen => Sys2Proof.Machine.execHenOutCmd rq hen s
  | .henIn rq hen => Sys2Proof.Machine.execHenIn rq hen s
  | .watchdogExpiry => Sys2Proof.Machine.execWatchdogExpiry s
  | .fatalError unit detail => Sys2Proof.Machine.execFatalError unit detail s
  | .ledgerAck rq v => Sys2Proof.Machine.execLedgerAck rq v s
  | .ledgerClear rq v => Sys2Proof.Machine.execLedgerClear rq v s
  | .vcoreAdjust mv => Sys2Proof.Machine.execVcoreAdjust mv s
  | .marginLow mv => Sys2Proof.Machine.execMarginLow mv s
  | .regulatorPoll rail mv amps watts answered => Sys2Proof.Machine.execRegulatorPoll rail mv amps watts answered s
  | .vrbAlert rail statusWord outputFault => Sys2Proof.Machine.execVrbAlert rail statusWord outputFault s
  | .powerSample watts => Sys2Proof.Machine.execPowerSample watts s
  | .powerBoundary watts => Sys2Proof.Machine.execPowerBoundary watts s
  | .thermalRead sensor milli => Sys2Proof.Machine.execThermalRead sensor milli s
  | .thermalTrip120c sensor => Sys2Proof.Machine.execThermalTrip120c sensor s
  | .refClkLost => Sys2Proof.Machine.execRefClkLost s
  | .throttleNEdge low => Sys2Proof.Machine.execThrottleNEdge low s
  | .throttleDwellEnd low => Sys2Proof.Machine.execThrottleDwellEnd low s
  | .throttleStuck => Sys2Proof.Machine.execThrottleStuck s
  | .throttleClear rq v => Sys2Proof.Machine.execThrottleClear rq v s
  | .dictWrite rq index sub v => Sys2Proof.Machine.execDictWrite rq index sub v s
  | .cellTime slice => Sys2Proof.Machine.execCellTime slice s
  | .completionRecordApplied q => Sys2Proof.Machine.execCompletionRecordApplied q s
  | .larderFault larder => Sys2Proof.Machine.execLarderFault larder s
  | .vauxRemoved => Sys2Proof.Machine.execVauxRemoved s
  | .vauxApplied => Sys2Proof.Machine.execVauxApplied s
  | .pinGlitch pin => Sys2Proof.Machine.execPinGlitch pin s

end Sys2Proof.Machine
end

