-- ==== Sys2Proof/WellFormed.lean ====
section
/-!
DEFINITION. What a command as it arrives may hold: each operand within the width that its frame, record or the unit it
names gives it. A command outside these bounds cannot be put on a wire of the block (log 87). Numbers of the model's own
(an open item, a crate's key, a line's key) are not bounded here: a number that names nothing leaves the state as it is.
-/
namespace Sys2Proof

/-- A service request's fields fit Tables 16.2 and 16.3. -/
def Req.wf (r : Req) : Bool :=
  decide (r.session < 2 ^ 32) && decide (r.node < 32) && decide (r.frameSeq < 2 ^ 32) && decide (r.seq < 2 ^ 32) &&
    decide (r.len ≤ 1024)

/-- A request touches at most 33 lines, and there are two copies of the metadata. -/
def MemErr.wf (m : MemErr) : Bool := decide (m.fixed < 2 ^ 33) && decide (m.bad < 2 ^ 33) && decide (m.copies < 4)

/-- Words of the local store, which has 32,768 of 64 bits. -/
def LsErr.wf (e : LsErr) : Bool := (e.fixed ++ e.bad).all (fun w => decide (w < 32768))

/-- A request frame's fields fit Table 12.1. -/
def Hdr.wf (h : Hdr) : Bool :=
  decide (h.port < 192) && decide (h.seq < 2 ^ 32) && decide (h.tag < 2 ^ 16) && decide (h.job < 2 ^ 16) &&
    decide (h.addr < 2 ^ 56) && decide (h.length < 2 ^ 13) && decide (h.tc < 8) && decide (h.vc < 8) && h.mem.wf

/-- A peer frame's fields fit Table 12.8. -/
def PeerHdr.wf (p : PeerHdr) : Bool :=
  decide (p.port < 192) && decide (p.msgSeq < 2 ^ 64) && decide (p.msgId < 2 ^ 32) && decide (p.frag < 2 ^ 16) &&
    decide (p.frags < 2 ^ 16) && decide (p.job < 2 ^ 16) && decide (p.src < 16) && decide (p.dst < 16)

/-- A flit's header fits Table 11.2. -/
def FlitHdr.wf (f : FlitHdr) : Bool :=
  decide (f.typ < 4) && decide (f.vc < 8) && decide (f.resv < 2) && decide (f.seq < 4096) && decide (f.ack < 4096) &&
    decide (f.cvc < 8) && decide (f.ccnt < 128) && decide (f.crc < 2 ^ 24)

/-- A ring frame's fields fit Table 16.2. -/
def RingFrame.wf (f : RingFrame) : Bool :=
  decide (f.dst < 32) && decide (f.src < 32) && decide (f.hops < 64) && decide (f.typ < 64) && decide (f.length < 4096) &&
    decide (f.session < 2 ^ 32) && decide (f.frameSeq < 2 ^ 32)

/-- A PTP message's frame and its one-byte domain and 16-bit sequence (IEEE 1588). -/
def Ptp.wf (p : Ptp) : Bool := p.frame.wf && decide (p.domain < 256) && decide (p.seqId < 65536)

/-- A tray response's fields fit Table 3.9. -/
def TrayRsp.wf (r : TrayRsp) : Bool :=
  decide (192 ≤ r.link) && decide (r.link < 208) && decide (r.op < 256) && decide (r.tag < 2 ^ 16) &&
    decide (r.status < 256) && decide (r.corrected < 256)

/-- A hen's number: larder [12:9] below 12, index [8:0] below 384. -/
def henNo (hen : Nat) : Bool := decide (hen / 512 < 12) && decide (hen % 512 < 384)

/-- Numbers of x or V registers. -/
def regNo (regs : List Nat) : Bool := regs.all (fun r => decide (r < 32))

/-- Numbers of tiles. -/
def tileNo (tiles : List Nat) : Bool := tiles.all (fun t => decide (t < 8))

/-- The registers of a VMOVE. -/
def MoveOp.wf : MoveOp → Bool
  | .rowToV ts row vd => tileNo [ts] && decide (row < 16) && regNo [vd]
  | .vToRow vs td row => regNo [vs] && tileNo [td] && decide (row < 16)
  | .laneToX vs lane rd => regNo [vs] && decide (lane < 32) && regNo [rd]
  | .xToLanes rs vd => regNo [rs, vd]

/-- A two-dimensional pattern's fields are 64-bit register values. -/
def DmaPat.wf (p : DmaPat) : Bool :=
  [p.pool, p.loc, p.rows, p.rowBytes, p.poolStride, p.locStride].all (fun x => decide (x < 2 ^ 64))

/-- The well-formedness of a command: what its family's frame or unit bounds. -/
def Instr.wf : Instr → Bool
  | .jobOpen rq v => rq.wf && decide (v < 256 ^ rq.len)
  | .jobClose rq v => rq.wf && decide (v < 256 ^ rq.len)
  | .jobSlots rq v => rq.wf && decide (v < 256 ^ rq.len)
  | .memberAdd rq v => rq.wf && decide (v < 256 ^ rq.len)
  | .memberRemove rq v => rq.wf && decide (v < 256 ^ rq.len)
  | .allocate rq v => rq.wf && decide (v < 256 ^ rq.len)
  | .revoke rq v => rq.wf && decide (v < 256 ^ rq.len)
  | .setAcl rq v => rq.wf && decide (v < 256 ^ rq.len)
  | .aclEntry rq v => rq.wf && decide (v < 256 ^ rq.len)
  | .keyDestroy rq v => rq.wf && decide (v < 256 ^ rq.len)
  | .drained ext => decide (ext < 65536)
  | .drainBoundExpiry ext => decide (ext < 65536)
  | .extentFreed ext => decide (ext < 65536)
  | .atticSize rq v => rq.wf && decide (v < 256 ^ rq.len)
  | .placementEpoch _ => true
  | .unmappedWritePlaced _ => true
  | .moveCopyDone _ => true
  | .moveSourceFreed _ => true
  | .fetchDone _ => true
  | .vaultReadUncorrectable _ => true
  | .tierTimeout _ => true
  | .flush rq v => rq.wf && decide (v < 256 ^ rq.len)
  | .flushDone _ => true
  | .trayResponse r => r.wf
  | .vaultReclaim tray => decide (tray < 16)
  | .vaultStaticMove tray => decide (tray < 16)
  | .vaultReadRelocate tray _ => decide (tray < 16)
  | .vaultScan tray _ _ => decide (tray < 16)
  | .trayLost tray => decide (tray < 16)
  | .crateMapRebuilt tray => decide (tray < 16)
  | .crateSlotRetire tier _ _ => decide (tier < 8)
  | .regionOpen h _ version fva => h.wf && decide (version < 2 ^ 32) && decide (fva < 2 ^ 56)
  | .regionClose h fva => h.wf && decide (fva < 2 ^ 56)
  | .regionDraft h _ version fva => h.wf && decide (version < 2 ^ 32) && decide (fva < 2 ^ 56)
  | .regionPublish h version fva => h.wf && decide (version < 2 ^ 32) && decide (fva < 2 ^ 56)
  | .regionRebase h version fva => h.wf && decide (version < 2 ^ 32) && decide (fva < 2 ^ 56)
  | .regionDiscard h fva => h.wf && decide (fva < 2 ^ 56)
  | .ownedCreate rq v => rq.wf && decide (v < 256 ^ rq.len)
  | .ownedDestroy rq v => rq.wf && decide (v < 256 ^ rq.len)
  | .give h permit obj epoch => h.wf && decide (permit < 4) && decide (obj < 16384) && decide (epoch < 2 ^ 32)
  | .giveRecallDone obj => decide (obj < 16384)
  | .take h obj epoch => h.wf && decide (obj < 16384) && decide (epoch < 2 ^ 32)
  | .query h obj => h.wf && decide (obj < 16384)
  | .ownReverted obj => decide (obj < 16384)
  | .mirrorPeer rq v => rq.wf && decide (v < 256 ^ rq.len)
  | .mirrorRelease rq v => rq.wf && decide (v < 256 ^ rq.len)
  | .mirrorResync rq v => rq.wf && decide (v < 256 ^ rq.len)
  | .mirrorTakeover rq v => rq.wf && decide (v < 256 ^ rq.len)
  | .mirrorLost => true
  | .mirrorCopyDone _ => true
  | .journal ph _ => ph.wf
  | .journalAck ph seq => ph.wf && decide (seq < 2 ^ 64)
  | .mirrorCtl ph _ => ph.wf
  | .scalarInstruction h => henNo h.hen && h.ls.wf
  | .tzero hen td => henNo hen && tileNo [td]
  | .tload h td rs1 => henNo h.hen && h.ls.wf && regNo [rs1] && tileNo [td]
  | .tstore hen ts rs1 => henNo hen && regNo [rs1] && tileNo [ts]
  | .tmma h tc ta rs1 _ => henNo h.hen && h.ls.wf && regNo [rs1] && tileNo [tc, ta]
  | .codebookFetchDone hen cb gen => henNo hen && decide (cb < 16384) && decide (gen < 65536)
  | .vopAdd hen vd v1 v2 => henNo hen && regNo [vd, v1, v2]
  | .vopSub hen vd v1 v2 => henNo hen && regNo [vd, v1, v2]
  | .vopMul hen vd v1 v2 => henNo hen && regNo [vd, v1, v2]
  | .vopFma hen vd v1 v2 => henNo hen && regNo [vd, v1, v2]
  | .vopMin hen vd v1 v2 => henNo hen && regNo [vd, v1, v2]
  | .vopMax hen vd v1 v2 => henNo hen && regNo [vd, v1, v2]
  | .vopInteger hen _ vd v1 v2 => henNo hen && regNo [vd, v1, v2]
  | .vsfExp2 hen vd v1 => henNo hen && regNo [vd, v1]
  | .vsfLog2 hen vd v1 => henNo hen && regNo [vd, v1]
  | .vsfRcp hen vd v1 => henNo hen && regNo [vd, v1]
  | .vsfRsqrt hen vd v1 => henNo hen && regNo [vd, v1]
  | .vload h vd rs1 => henNo h.hen && h.ls.wf && regNo [vd, rs1]
  | .vstore hen vs rs1 => henNo hen && regNo [vs, rs1]
  | .vrowsum hen vd ts => henNo hen && regNo [vd] && tileNo [ts]
  | .vrowmax hen vd ts => henNo hen && regNo [vd] && tileNo [ts]
  | .vscalerows hen tc vs => henNo hen && regNo [vs] && tileNo [tc]
  | .vmove hen m => henNo hen && m.wf
  | .vcmp hen _ vd v1 v2 => henNo hen && regNo [vd, v1, v2]
  | .vsel hen vd vm v1 v2 => henNo hen && regNo [vd, vm, v1, v2]
  | .dmard hen p => henNo hen && p.wf
  | .dmawr h p => henNo h.hen && h.ls.wf && p.wf
  | .dmawait hen _ => henNo hen
  | .dmaRequestDone hen _ => henNo hen
  | .henMemoryRequest hen x => henNo hen && x.mem.wf
  | .msgsend hen _ _ => henNo hen
  | .msgrecv hen _ => henNo hen
  | .msgpoll hen rd => henNo hen && regNo [rd]
  | .messageDelivered src dst => henNo src && henNo dst
  | .tkinit hen _ _ => henNo hen
  | .tkins hen vk vlo vhi => henNo hen && regNo [vk, vlo, vhi]
  | .tkread hen rs1 => henNo hen && regNo [rs1]
  | .slvend hen rs1 => henNo hen && regNo [rs1]
  | .queueCreate rq v => rq.wf && decide (v < 256 ^ rq.len)
  | .queueDestroy rq v => rq.wf && decide (v < 256 ^ rq.len)
  | .queueRestart rq v => rq.wf && decide (v < 256 ^ rq.len)
  | .cancelAll rq v => rq.wf && decide (v < 256 ^ rq.len)
  | .setPriority rq v => rq.wf && decide (v < 256 ^ rq.len)
  | .loadingResumed q => decide (q < 16384)
  | .descriptorReadFail q => decide (q < 16384)
  | .nop q => decide (q < 16384)
  | .run q => decide (q < 16384)
  | .cancel q => decide (q < 16384)
  | .sliverAssign larder => decide (larder < 12)
  | .sliverStart hen => henNo hen
  | .gangStart _ => true
  | .timeLimit _ => true
  | .sliverLimit hen => henNo hen
  | .jobHens rq v => rq.wf && decide (v < 256 ^ rq.len)
  | .jobHensDrained job => decide (job < 65536)
  | .install q => decide (q < 16384)
  | .drop q => decide (q < 16384)
  | .encode q => decide (q < 16384)
  | .importTensor q => decide (q < 16384)
  | .recode q => decide (q < 16384)
  | .release q => decide (q < 16384)
  | .decode q => decide (q < 16384)
  | .backgroundRecode hen => henNo hen
  | .collCreate rq v => rq.wf && decide (v < 256 ^ rq.len)
  | .collDestroy rq v => rq.wf && decide (v < 256 ^ rq.len)
  | .reduce q => decide (q < 16384)
  | .allreduce q => decide (q < 16384)
  | .reduceUpdate q => decide (q < 16384)
  | .normSq q => decide (q < 16384)
  | .roundOpen coll => decide (coll < 4096)
  | .contrib h coll round chunk fmt data => h.wf && decide (coll < 4096) && decide (round < 65536) &&
      decide (chunk < 2 ^ 30) && decide (fmt < 16) && decide (data.length ≤ 4096)
  | .memberTimerExpiry coll => decide (coll < 4096)
  | .response port tag status => decide (port < 192) && decide (tag < 65536) && decide (status < 256)
  | .deliverTimeout port tag => decide (port < 192) && decide (tag < 65536)
  | .normPartial ph coll round _ _ => ph.wf && decide (coll < 4096) && decide (round < 65536)
  | .normTimeout coll => decide (coll < 4096)
  | .engineSliverDone _ _ => true
  | .gather q => decide (q < 16384)
  | .gatherBags q => decide (q < 16384)
  | .filter q => decide (q < 16384)
  | .arenaInit q => decide (q < 16384)
  | .seqOpen q => decide (q < 16384)
  | .seqClose q => decide (q < 16384)
  | .replace q => decide (q < 16384)
  | .truncate q => decide (q < 16384)
  | .fork q => decide (q < 16384)
  | .pageFree q => decide (q < 16384)
  | .attend q => decide (q < 16384)
  | .project q => decide (q < 16384)
  | .indexBuild q => decide (q < 16384)
  | .indexAppend q => decide (q < 16384)
  | .indexDelete q => decide (q < 16384)
  | .indexMerge q => decide (q < 16384)
  | .searchIvf q => decide (q < 16384)
  | .searchGraph q => decide (q < 16384)
  | .searchPartial ph shardTag _ => ph.wf && decide (shardTag < 2 ^ 32)
  | .searchAck ph shardTag => ph.wf && decide (shardTag < 2 ^ 32)
  | .searchPartialTimeout _ => true
  | .searchAckTimeout _ => true
  | .partialHoldExpiry job shardTag src => decide (job < 65536) && decide (shardTag < 2 ^ 32) && decide (src < 16)
  | .portConfig rq v => rq.wf && decide (v < 256 ^ rq.len)
  | .portEnable rq => rq.wf
  | .portDisable rq => rq.wf
  | .portReset rq => rq.wf
  | .portRelease rq => rq.wf
  | .tlinkEnable rq => rq.wf
  | .tlinkDisable rq => rq.wf
  | .tlinkReset rq => rq.wf
  | .tlinkRelease rq => rq.wf
  | .portExpect rq v => rq.wf && decide (v < 256 ^ rq.len)
  | .detectDone link => decide (link < 208)
  | .equaliseDone link => decide (link < 208)
  | .fecLockDone link => decide (link < 208)
  | .orderDone link lanes => decide (link < 208) && lanes.all (fun l => decide (l < 8))
  | .linkupPhaseTimeout link => decide (link < 208)
  | .param link version role width depth credits => decide (link < 208) && decide (version < 2 ^ 32) &&
      decide (role < 256) && decide (width ≤ 8) && decide (depth < 65536) && decide (credits.length ≤ 8)
  | .identNonce port nonce tag => decide (port < 192) && decide (nonce < 2 ^ 256) && decide (tag < 65536)
  | .ident port claim _ _ _ nonce => decide (port < 192) && decide (claim < 65536) && decide (nonce < 2 ^ 256)
  | .identResult port status => decide (port < 192) && decide (status < 256)
  | .identTimeout port => decide (port < 192)
  | .dataFlit link f payload badLane => decide (link < 208) && f.wf && decide (payload.length ≤ 248) &&
      badLane.all (fun l => decide (l < 8))
  | .creditFlit link f returns badLane => decide (link < 208) && f.wf && decide (returns.length ≤ 8) &&
      badLane.all (fun l => decide (l < 8))
  | .idleFlit link f badLane => decide (link < 208) && f.wf && badLane.all (fun l => decide (l < 8))
  | .nak link f => decide (link < 208) && f.wf
  | .replayTimeout link => decide (link < 208)
  | .lossOfLock link lane => decide (link < 208) && decide (lane < 8)
  | .ts1Received link => decide (link < 208)
  | .recoveryDone link lanes => decide (link < 208) && lanes.all (fun l => decide (l < 8))
  | .recoveryTimeout link => decide (link < 208)
  | .holdTimerExpiry link => decide (link < 208)
  | .holdCountReset link => decide (link < 208)
  | .read h => h.wf
  | .write h data => h.wf && decide (data.length ≤ 4096)
  | .writeMasked h mask data => h.wf && decide (mask < 2 ^ 128) && decide (data.length ≤ 4096)
  | .fence h => h.wf
  | .fenceDone port tag => decide (port < 192) && decide (tag < 65536)
  | .releaseStoreExecute port tag => decide (port < 192) && decide (tag < 65536)
  | .atomicAdd h width a => h.wf && decide (width ≤ 16) && decide (a < 256 ^ 16)
  | .atomicAnd h width a => h.wf && decide (width ≤ 16) && decide (a < 256 ^ 16)
  | .atomicOr h width a => h.wf && decide (width ≤ 16) && decide (a < 256 ^ 16)
  | .atomicXor h width a => h.wf && decide (width ≤ 16) && decide (a < 256 ^ 16)
  | .atomicSmin h width a => h.wf && decide (width ≤ 16) && decide (a < 256 ^ 16)
  | .atomicSmax h width a => h.wf && decide (width ≤ 16) && decide (a < 256 ^ 16)
  | .atomicUmin h width a => h.wf && decide (width ≤ 16) && decide (a < 256 ^ 16)
  | .atomicUmax h width a => h.wf && decide (width ≤ 16) && decide (a < 256 ^ 16)
  | .atomicSwap h width a => h.wf && decide (width ≤ 16) && decide (a < 256 ^ 16)
  | .atomicCas h width c n => h.wf && decide (width ≤ 16) && decide (c < 256 ^ 16) && decide (n < 256 ^ 16)
  | .batchWriteout _ => true
  | .trackEntryFreed port tag => decide (port < 192) && decide (tag < 65536)
  | .epochDrained port => decide (port < 192)
  | .trackMin rq v => rq.wf && decide (v < 256 ^ rq.len)
  | .peerAck port seq => decide (port < 192) && decide (seq < 2 ^ 64)
  | .cohWindow rq v => rq.wf && decide (v < 256 ^ rq.len)
  | .cohPortCaching rq v => rq.wf && decide (v < 256 ^ rq.len)
  | .snpRsp port ctag result data => decide (port < 192) && decide (ctag < 2 ^ 16) && decide (result < 256) &&
      decide (data.length ≤ 4096)
  | .evict port job addr lseq result data => decide (port < 192) && decide (job < 65536) &&
      decide (addr < 2 ^ 56) && decide (lseq < 2 ^ 24) && decide (result < 256) && decide (data.length ≤ 4096)
  | .migAck port job addr => decide (port < 192) && decide (job < 65536) && decide (addr < 2 ^ 56)
  | .coherenceProtocolError port => decide (port < 192)
  | .snoopTimeout ctag => decide (ctag < 2 ^ 16)
  | .filterScanDone => true
  | .filterWayFreed quarter => decide (quarter < 4)
  | .twoStage rq => rq.wf
  | .sheepdog rq => rq.wf
  | .sheepdogFault slice => decide (slice < 4)
  | .sheepdogReturn slice => decide (slice < 4)
  | .rebalanceCheck => true
  | .bucketSlice rq v => rq.wf && decide (v < 256 ^ rq.len)
  | .bucketDrained bucket => decide (bucket < 256)
  | .readmit attach => decide (attach < 241)
  | .warmReached attach => decide (attach < 241)
  | .joiningDone attach => decide (attach < 241)
  | .gooseSweep bank => decide (bank < 4)
  | .captureSession rq v => rq.wf && decide (v < 256 ^ rq.len)
  | .bufferGuaranteeWrite rq sub v => rq.wf && decide (sub < 256) && decide (v < 256 ^ rq.len)
  | .tcMap rq v => rq.wf && decide (v < 256 ^ rq.len)
  | .policer rq v => rq.wf && decide (v < 256 ^ rq.len)
  | .redRemeter port cls => decide (port < 192) && decide (cls < 8)
  | .shaper rq v => rq.wf && decide (v < 256 ^ rq.len)
  | .quantum rq v => rq.wf && decide (v < 256 ^ rq.len)
  | .gateCommit rq v => rq.wf && decide (v < 256 ^ rq.len)
  | .portGateList rq v => rq.wf && decide (v < 256 ^ rq.len)
  | .gateSwitch list => decide (list < 16)
  | .gateEntryEnd list => decide (list < 16)
  | .discover f _ tag => f.wf && decide (tag < 65536)
  | .ringFrameForward f => f.wf
  | .ringPortFailed p => decide (p.cause ≤ 2)
  | .ringPortRestored _ => true
  | .heal _ => true
  | .commit rq => rq.wf
  | .serviceDiscard rq => rq.wf
  | .blockOpen rq index sub _ total => rq.wf && decide (index < 65536) && decide (sub < 256) &&
      decide (total < 2 ^ 32)
  | .blockData rq off data => rq.wf && decide (off < 2 ^ 32) && decide (data.length ≤ 4096)
  | .blockClose rq crc => rq.wf && decide (crc < 2 ^ 32)
  | .blockTransferTimeout session => decide (session < 2 ^ 32)
  | .subscribe rq index sub mode period last => rq.wf && decide (index < 65536) && decide (sub < 256) &&
      decide (mode < 256) && decide (period < 2 ^ 32) && decide (last < 65536)
  | .unsubscribe rq handle => rq.wf && decide (handle < 65536)
  | .eventAck rq => rq.wf
  | .sessionEnd rq => rq.wf
  | .requestGapTimeout session => decide (session < 2 ^ 32)
  | .sessionIdleTimeout session => decide (session < 2 ^ 32)
  | .notifyOnChange session handle => decide (session < 2 ^ 32) && decide (handle < 65536)
  | .notifyPeriodic session handle => decide (session < 2 ^ 32) && decide (handle < 65536)
  | .eventResend session => decide (session < 2 ^ 32)
  | .configSave rq v => rq.wf && decide (v < 256 ^ rq.len)
  | .configClear rq v => rq.wf && decide (v < 256 ^ rq.len)
  | .configWriteDone => true
  | .homeIndex rq v => rq.wf && decide (v < 256 ^ rq.len)
  | .sync p => p.wf
  | .followUp p => p.wf
  | .announce p => p.wf
  | .pdelayReq _ seqId => decide (seqId < 65536)
  | .pdelayResp _ seqId delay => decide (seqId < 65536) && decide (delay < 2 ^ 32)
  | .pdelayTimer _ => true
  | .syncLoss => true
  | .ppsIn _ => true
  | .ppsLost => true
  | .ppsOut => true
  | .getVersion rq => rq.wf
  | .getCapabilities rq => rq.wf
  | .negotiateAlgorithms rq _ => rq.wf
  | .getDigests rq => rq.wf
  | .getCertificate rq slot off len => rq.wf && decide (slot < 8) && decide (off < 2 ^ 32) && decide (len < 65536)
  | .challenge rq slot nonce => rq.wf && decide (slot < 8) && decide (nonce < 2 ^ 256)
  | .getMeasurements rq op nonce => rq.wf && decide (op < 256) && decide (nonce < 2 ^ 256)
  | .keyExchange rq _ _ => rq.wf
  | .finish rq msg _ _ _ => rq.wf && decide (msg.length ≤ 4096)
  | .handshakeTimeout session => decide (session < 2 ^ 32)
  | .keyLoad rq v => rq.wf && decide (v < 256 ^ rq.len)
  | .roleEntry rq v => rq.wf && decide (v < 256 ^ rq.len)
  | .debugToken rq v => rq.wf && decide (v < 256 ^ rq.len)
  | .debugEnd rq v => rq.wf && decide (v < 256 ^ rq.len)
  | .debugTokenExpiry => true
  | .isoJob rq v => rq.wf && decide (v < 256 ^ rq.len)
  | .isoResponseRelease port tag => decide (port < 192) && decide (tag < 65536)
  | .coldRstAssert => true
  | .coldRstRelease nodeId bootSel => decide (nodeId < 32) && decide (bootSel < 4)
  | .pwrOkLow => true
  | .warmRstAssert => true
  | .warmRstRelease => true
  | .resetCmdWarm rq => rq.wf
  | .resetCmdCold rq => rq.wf
  | .resetBegin => true
  | .quiesceDone => true
  | .quiesceTimeout => true
  | .firmwareStart => true
  | .sheepdogSelfTestDone slice => decide (slice < 4)
  | .stackTrainingDone larder _ => decide (larder < 12)
  | .henSelfTestDone hen _ => henNo hen
  | .vaultJournalScanDone => true
  | .identityDerived => true
  | .jobReset rq v => rq.wf && decide (v < 256 ^ rq.len)
  | .jobResetDone job => decide (job < 65536)
  | .larderReset rq larder => rq.wf && decide (larder < 12)
  | .larderResetDone larder => decide (larder < 12)
  | .larderOut rq larder => rq.wf && decide (larder < 12)
  | .larderIn rq larder => rq.wf && decide (larder < 12)
  | .henOutCmd rq hen => henNo hen && rq.wf
  | .henIn rq hen => henNo hen && rq.wf
  | .watchdogExpiry => true
  | .fatalError unit detail => decide (unit < 256) && decide (detail < 2 ^ 240)
  | .ledgerAck rq v => rq.wf && decide (v < 256 ^ rq.len)
  | .ledgerClear rq v => rq.wf && decide (v < 256 ^ rq.len)
  | .vcoreAdjust mv => decide (mv < 65536)
  | .marginLow mv => decide (mv < 65536)
  | .regulatorPoll rail mv amps watts _ => decide (rail < 9) && decide (mv < 65536) && decide (amps < 65536) &&
      decide (watts < 65536)
  | .vrbAlert rail statusWord _ => decide (rail < 9) && decide (statusWord < 65536)
  | .powerSample watts => decide (watts < 65536)
  | .powerBoundary watts => decide (watts < 65536)
  | .thermalRead sensor _ => decide (sensor < 74)
  | .thermalTrip120c sensor => decide (sensor < 74)
  | .refClkLost => true
  | .throttleNEdge _ => true
  | .throttleDwellEnd _ => true
  | .throttleStuck => true
  | .throttleClear rq v => rq.wf && decide (v < 256 ^ rq.len)
  | .dictWrite rq index sub v => rq.wf && decide (index < 65536) && decide (sub < 256) && decide (v < 256 ^ rq.len)
  | .cellTime x => decide (x.slice < 4) && (match x.badCell with | some c => decide (c < 196608) | none => true)
  | .completionRecordApplied q => decide (q < 16384)
  | .larderFault larder => decide (larder < 12)
  | .vauxRemoved => true
  | .vauxApplied => true
  | .pinGlitch pin => decide (pin < 256)

end Sys2Proof
end

