-- ==== Sys2Proof/Safety.lean ====
section
/-!
DEFINITION. What counts as a safe run, and the terms that statements use: the memory invariant, the ledger's bound, a state
with nothing under way, and how a command of each kind completes.
-/
namespace Sys2Proof.Machine

/-- The memory invariant: addresses rise strictly and no zero byte is listed. -/
def MemInv (s : State) : Prop := Memory.wf s.mem = true

/-- The fault ledger holds at most its 16,384 entries (The fault ledger, R569). -/
def LedgerInv (s : State) : Prop := s.rst.ledger.length ≤ ledgerMax

/-- An outcome that is a next state. -/
def Goes (o : Host.Outcome State Fault Refusal) : Prop := ∃ t, o = .next t

/-- A hen's instruction completes: the next state is s with that hen alone changed, and Q holds of the hen before and
after. -/
def HenGoes (c : Instr) (hen : Nat) (s : State) (Q : Hen → Hen → Prop) : Prop :=
  ∃ y, exec c s = .next (setHen hen y s) ∧ Q (henOf hen s) y

/-- A tile, vector or top-k instruction has moved the pc past its four bytes and been counted; beside that, y differs from
x in what z says (R171). -/
def Retired (y z : Hen) : Prop := y = { z with pc := z.pc + 4, instret := z.instret + 1, retired := z.retired + 1 }

/-- The lanes of every V register are x's, but those of vd, which are given. -/
def LanesAre (x y : Hen) (vd : Nat) (lane : Nat → W32) : Prop :=
  ∀ r i, i < 32 → vLane y r i = if r = vd then lane i else vLane x r i

/-! ### Service requests -/

/-- A service frame of a session arrives that the session hears: genuine, new and well formed (R488). -/
structure HeardIn (rq : Req) (x : Session) (s : State) : Prop where
  accepts : nodeAccepts s = true
  ofSession : rq.session ≠ 0
  session : sessionOf rq.session s = some x
  genuine : rq.tagOk = true
  fresh : ∀ f, x.rxSeq = some f → f < rq.frameSeq
  notLast : rq.frameSeq ≠ 0xFFFFFFFF
  form : rq.formOk = true

/-- A service request of a MANAGER's session arrives in its turn: its REQ_SEQ is the session's next (R490, R491). -/
structure InTurn (rq : Req) (x : Session) (s : State) : Prop extends HeardIn rq x s where
  turn : rq.seq = expected x
  inRange : rq.seq < 2 ^ 32
  manager : x.role = roleManager

/-- A WRITE of an object in its turn, committed at once, of the object's length, with its Reserved bits 0; a set Reserved bit
is ignored (R5, Obligations.ReservedBitsAreIgnored). -/
structure WritesNow (rq : Req) (x : Session) (key v : Nat) (s : State) : Prop extends InTurn rq x s where
  now : rq.stage = false
  length : rq.len = sizeOf key
  fits : v < 256 ^ sizeOf key
  clear : unreserved key v = v

/-- The state in which a request in its turn runs: its session has heard it. -/
def heard (rq : Req) (x : Session) (s : State) : State :=
  modSession x.id (fun y => { y with rxSeq := some rq.frameSeq, activeAt := s.now }) s

/-- What follows a request that has run: its response is stored and sent, and held requests whose turn it is run (R490). -/
def answered (rq : Req) (x : Session) (r : Rsp) (s : State) : State :=
  drainHeld x.id 16 (reply x.id rq.seq r (modSession x.id (fun y =>
    { y with last := some rq.seq, cache := (y.cache ++ [(rq.seq, r)]).drop (y.cache.length + 1 - 64) }) s))

/-- A command that is a WRITE takes effect: u is the state its object's rule gives, what follows within the step settles,
the commit is counted, and the response carries the status. -/
def Takes (c : Instr) (rq : Req) (x : Session) (s : State) (st : Status) (u : State) : Prop :=
  exec c s = .next (answered rq x (rspOk st 0 []) (bump kCommits (settle u)))

/-! ### Descriptors and peer messages -/

/-- A descriptor's item joins the admitted items under the next number, CONSUMER passes the descriptor, and the item is
counted (R193, R194). -/
def admitted (d : Desc) (x : Item) (s : State) : State :=
  let t := consumed d s
  let w := { t.work with items := t.work.items ++ [(s.work.nextItem, x)], nextItem := s.work.nextItem + 1 }
  notePause d.q (bump kItemsAdmitted { t with work := w })

/-- A peer frame arrives on a live port to a peer, and it is the last fragment of its message (R388). -/
structure PeerSends (ph : PeerHdr) (s : State) : Prop where
  live : portLive ph.port s = true
  peer : portRolePeer ph.port s = true
  last : ∀ had, (s.txn.frags.find? (fun f => f.1 == ph.port && f.2.1 == ph.msgId)).map (fun f => f.2.2) = had →
    ph.frags ≤ (ladd (had.getD []) ph.frag).length

/-- The state in which a peer's whole message is delivered: its last frame is acknowledged, and no fragment of it is kept. -/
def peerHeard (ph : PeerHdr) (s : State) : State :=
  let t := send (.peerAck ph.port (ph.msgSeq % 2 ^ 32))
    (modPortTx ph.port (fun x => { x with msgRx := max x.msgRx ph.msgSeq }) s)
  { t with txn := { t.txn with frags := t.txn.frags.filter (fun f => !(f.1 == ph.port && f.2.1 == ph.msgId)) } }

/-! ### Requests of partners -/

/-- A request of a partner arrives on a live port under a fresh TAG and is well formed, has a tracker entry and room at its
home, with no earlier request of the port waiting for either; no other request is open, and its job is not isolated (R358,
R360, R386). -/
structure Arrives (h : Hdr) (k : TxKind) (s : State) : Prop where
  live : portLive h.port s = true
  partner : portRolePeer h.port s = false
  fresh : tagOpen h.port h.tag s = false
  room : trackerRoom h.port s = true
  unqueued : ∀ x ∈ s.txn.stalled ++ s.txn.jammed, x.1.port ≠ h.port
  home : homeFull (homeOf h.job h.addr s) s = false
  form : formatOk h k s = true
  alone : s.txn.txs = []
  unpaced : ∀ j, activeJob h.job s = some j → j.2.iso.enable = false

/-- It names memory that its member may so use (R25). -/
structure Enters (h : Hdr) (k : TxKind) (s : State) (g : Grant) : Prop extends Arrives h k s where
  grant : checkPort h.port h.job h.addr (isChange k) s = .ok g

/-- A load, store or atomic that passes every check and meets nothing that holds it: its extent is neither versioned nor
mirrored, its crate can be accessed, a copy of every table on its way can be read, and no line of the home is coherent
(R361, R362, R561). -/
structure Unheld (h : Hdr) (k : TxKind) (s : State) (g : Grant) : Prop extends Enters h k s g where
  first : h.retry = false
  bytes : check6 g k false s = none
  plain : regionOfExt g.ext s = none
  unmirrored : journalled g.ext s = false
  ready : tierWait (crateKey g.ext 0 (g.off / crateBytes)) (isChange k) s = .none
  tables : h.mem.copies = 0 ∧ s.tiers.metaBad = []
  incoherent : s.coh.windows = [] ∧ s.coh.ents = [] ∧ s.coh.evicts = []

/-- The state in which a REGION or OWN request is taken up: it is the last open request. -/
def tracked (h : Hdr) (k : TxKind) (g : Grant) (s : State) : State :=
  let t := translate g.jslot h.addr (modPortTx h.port (fun x => { x with highest := h.seq }) s)
  addTx (newTx h k g [] t) t

/-- The same for a FENCE or CONTRIB, which names no memory. -/
def trackedFor (h : Hdr) (k : TxKind) (m : Nat) (s : State) : State :=
  let t := modPortTx h.port (fun x => { x with highest := h.seq }) s
  addTx (newTx h k { noGrant with member := m } [] t) t

/-- The last message sent is the request's response, with a status and data (R361). -/
def Responds (h : Hdr) (op : Nat) (st : Status) (data : List Byte) (u : State) : Prop :=
  u.out.getLast? = some (.response h.port h.tag h.seq h.job (statusCode st) op 0 h.tc data)

/-- A line of an extent can be read as a request's i-th line is served: it is not poisoned, and the line code corrects what
it shows (R42). -/
def Intact (m : MemErr) (i ext line : Nat) (s : State) : Prop :=
  poisoned (lineKey ext 0 line) s = false ∧ lineKey ext 0 line ∉ s.tiers.failing ∧ m.bad.testBit i = false

/-- Byte i of an extent's base content. -/
def extByte (ext i : Nat) (s : State) : Byte := lineByte (lineKey ext 0 (i / 128)) (i % 128) s

end Sys2Proof.Machine
end

