-- ==== Sys2Proof/Certificates/Slice0/Obligations.lean ====
section
/-!
DEFINITION. The statements for the provers. A statement says of a command that it completes: exec answers the next state
given, in which the command's own effect stands; `settle` is what follows from it within the same step.
-/
open Sys2Proof Sys2Proof.Machine

/-- A step takes the command at the front of the queue and runs it with the queue's rest. -/
def Obligations.StepTakesFront : Prop :=
  ∀ (c : Instr) (r : List Instr) (s : State), s.pending = c :: r → step s = exec c { s with pending := r }

/-- Log 1, log 11: no step faults and none is refused: every command answers a next state from every state, and with no
command waiting one nanosecond passes and nothing else changes. The model's choices. -/
def Obligations.EveryStepGoesOn : Prop :=
  (∀ (c : Instr) (s : State), Goes (exec c s)) ∧
  (∀ s : State, s.pending = [] → step s = .next { s with now := s.now + 1 })

/-- The pool's memory keeps its canonical form: every step from a state in which addresses rise strictly and no zero
byte is listed leads to such a state. -/
def Obligations.MemoryFormKept : Prop :=
  ∀ (s t : State), MemInv s → step s = .next t → MemInv t

/-- R569: no step takes the fault ledger beyond its 16,384 entries. -/
def Obligations.LedgerBoundKept : Prop :=
  ∀ (s t : State), LedgerInv s → step s = .next t → LedgerInv t

/-- The commands that wait are first in, first out, and a command sends none: a step removes the front and nothing else
of the queue; what has been sent stays sent, and a free value once drawn is never drawn again (the model's own fields,
log 3 and log 4). -/
def Obligations.QueueRecordAndFreeValuesKept : Prop :=
  ∀ (s t : State), step s = .next t →
    t.pending = s.pending.tail ∧ s.out <+: t.out ∧ s.freeCtr ≤ t.freeCtr

/-- With nothing open, nothing follows from a command within its step: a state without open requests, items,
collectives, searches, drains, snoops and scans is as it was. -/
def Obligations.QuietStateStands : Prop :=
  ∀ (s : State), s.pool.overflow = [] → s.txn.txs = [] → s.vers.mirror.jpend = [] → s.coh.evicts = [] → s.coh.removing = [] →
    s.work.items = [] → s.work.cancels = [] → s.work.queues = [] → s.work.drains = [] → s.eng.colls = [] →
    s.eng.delivers = [] → (∀ e ∈ s.hens.hens, e.2.st ≠ .assigned) → s.hens.gang = none → s.pool.jobs = [] →
    s.coding.books = [] → s.kv.tagged = [] → s.vers.regions = [] → s.txn.jammed = [] → settle s = s

/-- R6, R32: the state after reset: no job, extent, item, session or ledger entry, memory reads zero in its canonical
form, no command waits, and every register and every object reads its Default, but for the five whose Default is the
part's, the strap's or the bucket's own (DEVICE_TAG, STEPPING, NODE, SERIAL, BUCKET_SLICE). -/
def Obligations.ResetState : Prop :=
  MemInv State.reset ∧ (∀ a, memGet State.reset.mem a = 0) ∧ State.reset.pending = [] ∧ State.reset.pool.extents = [] ∧
  State.reset.pool.jobs = [] ∧ State.reset.work.items = [] ∧ State.reset.dict.sessions = [] ∧ LedgerInv State.reset ∧
  (∀ key o, obj? key = some o → rget key State.reset = o.dflt) ∧
  (∀ o ∈ objects, o.key ∈ [kDeviceTag, kStepping, kNode, kSerial, kBucketSlice] ∨ readObj o.key 0 State.reset = o.dflt)

/-- R18 to R20, R22, R604: a MANAGER's write of JOB_OPEN in READY opens the job in the lowest free job slot when its
conditions hold; JOB_SLOTS replaces the mask; MEMBER_ADD appends the member and tells the mirror; MEMBER_REMOVE and
JOB_CLOSE of an active job run what chapter 02 lists; nothing else changes but the result. -/
def Obligations.JobAndMemberWritesTakeEffect : Prop :=
  ∀ (rq : Req) (x : Session) (s : State) (v slot : Nat) (j : Job),
    let t := heard rq x s
    (WritesNow rq x kJobOpen v s → rget kStartState s = 2 → rget kDebugState s = 0 → homeIndex s ≤ 15 →
      jobOf (fld v 255 240) s = none → freeKey s.pool.jobs 4096 = some slot →
      Takes (.jobOpen rq v) rq x s .done (post16 kJobResult .done (setJob slot (jobOfRecord v) t))) ∧
    (WritesNow rq x kJobClose v s → isActive v s = true →
      Takes (.jobClose rq v) rq x s .done (post16 kJobResult .done (closeJob v t))) ∧
    (WritesNow rq x kJobSlots v s → jobSlotsOk (fld v 31 16) (fld v 15 0) s = true →
      Takes (.jobSlots rq v) rq x s .done
        (post16 kJobResult .done (modJob (fld v 31 16) (fun j => { j with slots := fld v 15 0 }) t))) ∧
    (WritesNow rq x kMemberAdd v s → memberAddOk (fld v 63 48) (fld v 47 40) (fld v 35 24) s = true →
      Takes (.memberAdd rq v) rq x s .done
        (journalAny jMember 0 0 0 (fld v 63 48 * 2 ^ 16 + fld v 47 40) (fld v 35 24) []
          (modJob (fld v 63 48) (fun j => { j with members := j.members ++ [(fld v 47 40, fld v 35 24)] }) t))) ∧
    (WritesNow rq x kMemberRemove v s → activeJob (fld v 31 16) s = some (slot, j) →
      (partnerOf j (fld v 15 8)).isSome = true →
      Takes (.memberRemove rq v) rq x s .done (removeMember (fld v 31 16) (fld v 15 8) t))

/-- R28, Tables 2.6 to 2.8: with no command waiting for the mirror, an ALLOCATE without MIRROR that meets every
condition makes the lowest FREE extent, and its result carries DONE, SEQ, the ID and the raised generation; REVOKE of an
ACTIVE extent makes it drain; SET_ACL of an ACTIVE extent changes its list. R28: an ALLOCATE never touches an extent
that exists, and the extent it makes is ACTIVE with the command's fields. -/
def Obligations.ExtentWritesTakeEffect : Prop :=
  (∀ (rq : Req) (x : Session) (s : State) (v ext : Nat) (e : Extent),
    let t := heard rq x s
    let a := setFld v 255 248 1
    let r := setFld v 255 248 2
    let c := setFld v 255 248 3
    s.vers.mirror.waiting = [] →
    (WritesNow rq x kExtentCmd a s → fMirror (newExtent a 0) = false → allocStatus (newExtent a 0) s = .done →
      freeKey s.pool.extents 65536 = some ext →
      Takes (.allocate rq v) rq x s .done
        (extentResult .done (ecSeq a) ext ((tgetD s.pool.gens ext 0 + 1) % 65536)
          (journalExt ext (makeExtent ext (newExtent a 0) t)))) ∧
    (WritesNow rq x kExtentCmd r s → extOf (ecExt r) s = some e → e.st = .active →
      Takes (.revoke rq v) rq x s .done
        (extentResult .done (ecSeq r) (ecExt r) (tgetD s.pool.gens (ecExt r) 0) (revokeExt (ecExt r) t))) ∧
    (WritesNow rq x kExtentCmd c s → extOf (ecExt c) s = some e → e.st = .active → aclSuits e (ecAcl c) s = true →
      Takes (.setAcl rq v) rq x s .done
        (extentResult .done (ecSeq c) (ecExt c) (tgetD s.pool.gens (ecExt c) 0)
          (journalExt (ecExt c) (setExt (ecExt c) { e with acl := ecAcl c } t))))) ∧
  (∀ (v ext : Nat) (s : State), allocStatus (newExtent v 0) s = .done → freeKey s.pool.extents 65536 = some ext →
    extOf ext s = none ∧
    extOf ext (allocate v s) = some (newExtent v ((tgetD s.pool.gens ext 0 + 1) % 65536)) ∧
    (∀ y, y ≠ ext → extOf y (allocate v s) = extOf y s) ∧
    (∀ y, y < ext → extOf y s ≠ none))

/-- R35, R37, R532, R537 to R539: ACL_ENTRY sets both maps of its list; KEY_LOAD of a slot not loaded holds the key for
its owner and its result carries the key check value; KEY_DESTROY of a slot no extent uses removes the key; ROLE_ENTRY
puts an entry into the role table while a MANAGER remains. -/
def Obligations.ListKeyAndRoleWritesTakeEffect : Prop :=
  ∀ (rq : Req) (x : Session) (s : State) (v : Nat),
    let t := heard rq x s
    let i := instFor x kAclEntry
    let k := keyOfRecord v
    (WritesNow rq x kAclEntry v s → aclWriteOk i v s = true →
      Takes (.aclEntry rq v) rq x s .done (writeAcl i v t) ∧ aclOf i (writeAcl i v t) = (v % 2 ^ 256, v / 2 ^ 256)) ∧
    (WritesNow rq x kKeyLoad v s → rget kDebugState s = 0 → fld v 767 756 ≠ 0 → keyOf (fld v 767 756) s = none →
      k.key1 ≠ k.key2 → (k.host = true ∨ isActive k.owner s = true) →
      Takes (.keyLoad rq v) rq x s .done
        (rset kKeyLoadResult (pack [(statusCode .done, 248), (fld v 767 756, 128), (keyCheck k, 0)])
          { t with pool := { t.pool with keys := tput t.pool.keys (fld v 767 756) k } })) ∧
    (WritesNow rq x kKeyDestroy v s → v ≠ 0 → v < 4096 → keyUsers v s = 0 →
      Takes (.keyDestroy rq v) rq x s .done (destroyKey v t)) ∧
    (WritesNow rq x kRoleEntry v s → recRole v ≤ 3 →
      hasManager (tput s.sec.flash.roles (instFor x kRoleEntry) v) = true →
      Takes (.roleEntry rq v) rq x s .done
        (post16 kRoleResult .done (setSec (fun z =>
          { z with flash := { z.flash with roles := tput s.sec.flash.roles (instFor x kRoleEntry) v } }) t)))

/-- R55, R72, R74, R117: ATTIC_SIZE takes a multiple of 32 GiB up to 512; a FLUSH of an ACTIVE DURABLE extent writes the
extent's open batches out and queues behind the flushes before it; OWNED_CMD creates an object over free ranges and
destroys one that is not in transit. R129, R131, R132: MIRROR_PEER 0xFF ends the relation with the old mirror;
MIRROR_RELEASE in LOST goes on unmirrored and marks the crates of unacknowledged records; MIRROR_RESYNC in DEGRADED with
a live peer port returns to SYNC and copies; MIRROR_TAKEOVER of a primary this home mirrors takes its extents over. -/
def Obligations.OwnershipAndMirrorWritesTakeEffect : Prop :=
  (∀ (rq : Req) (x : Session) (s : State) (v : Nat) (e : Extent) (o : OwnObj),
    let t := heard rq x s
    let ext := fld v 31 16
    let u := writeBatchesOf (fun lk => lkExt lk == ext) t
    let c := setFld v 511 504 1
    let d := setFld v 511 504 2
    (WritesNow rq x kAtticSize v s → v ≤ 512 → v % 32 = 0 →
      Takes (.atticSize rq v) rq x s .done (rset kAtticSize v t)) ∧
    (WritesNow rq x kFlushCmd v s → extOf ext s = some e → e.st = .active → fDurable e = true →
      let f : FlushJob :=
        { ext := ext, seq := fld v 15 8, stage := 0, left := [], version := (regionOfExt ext u).map (fun r => r.2.cur) }
      Takes (.flush rq v) rq x s .done
        (startFlushes { u with tiers := { u.tiers with flushes := u.tiers.flushes ++ [f] } })) ∧
    (WritesNow rq x kOwnedCmd c s → ownedCreateOk (fld c 493 480) (ownedOfCmd c) s = true →
      let m := journalOwn (fld c 493 480) (setOwn (fld c 493 480) (ownedOfCmd c) t)
      Takes (.ownedCreate rq v) rq x s .done (ownedPost m.1 (ownedWord .done c) m.2)) ∧
    (WritesNow rq x kOwnedCmd d s → ownOf (ownKeyOf (fld d 493 480) s) s = some o → o.transit = false →
      let k := ownKeyOf (fld d 493 480) s
      let m := journalGone k t
      Takes (.ownedDestroy rq v) rq x s .done (ownedPost m.1 (ownedWord .done d) (delOwn k m.2)))) ∧
  (∀ (rq : Req) (x : Session) (s : State) (v old : Nat) (h : Shadow),
    let t := heard rq x s
    (WritesNow rq x kMirrorPeer 0xFF s → mirrorPeer s = old → old ≠ 0xFF →
      let u := rset kMirrorPeer 0xFF (forgetRecords (endWaiting .portDown (sendCtl old mcRelease 0 t)))
      Takes (.mirrorPeer rq 0xFF) rq x s .done
        { u with vers := { u.vers with mirror := { u.vers.mirror with rel := .none, copying := false } } }) ∧
    (WritesNow rq x kMirrorRelease v s → s.vers.mirror.rel = .lost →
      Takes (.mirrorRelease rq v) rq x s .done (forgetRecords (modMirror (fun m =>
        { m with
          rel := .degraded, copying := false,
          missed := m.missed ++ (s.vers.mirror.unacked.map (·.1)).filter (fun r =>
            r.typ == jExtent || r.typ == jMember || r.typ == jAcl || r.typ == jOwn),
          marked := (s.vers.mirror.unacked.flatMap (fun r => recCrates r.1)).foldl ladd m.marked }) t))) ∧
    (WritesNow rq x kMirrorResync v s → s.vers.mirror.rel = .degraded → (peerPort (mirrorPeer s) s).isSome = true →
      Takes (.mirrorResync rq v) rq x s .done
        (copyMarked (journalAll (modMirror (fun m => { m with rel := .sync, copying := true }) t)))) ∧
    (WritesNow rq x kMirrorTakeover v s → shadowFor v s = some h → h.takenOver = false →
      Takes (.mirrorTakeover rq v) rq x s .done (takeOver h t)))

/-- R179 to R181, R188, R198, R199, R242, Tables 6.1, 6.3, 6.10 and 8.2: the operations of QUEUE_CMD, JOB_HENS and
COLL_CMD that meet their conditions take effect, and the result object carries DONE and what the command names. -/
def Obligations.QueueAndCollectiveWritesTakeEffect : Prop :=
  ∀ (rq : Req) (x : Session) (s : State) (v : Nat) (q : Queue) (k : Coll),
    let t := heard rq x s
    let w (op : Nat) := setFld v 255 248 op
    let res (op : Nat) (u : State) := rset kQueueResult (pack [(statusCode .done, 56), (qcSeq (w op), 48), (qcQueue (w op), 0)]) u
    let c (op : Nat) := setFld v 511 504 op
    (WritesNow rq x kQueueCmd (w 1) s → queueCreateOk (w 1) s = true →
      Takes (.queueCreate rq v) rq x s .done (res 1 (queueCreate (w 1) t))) ∧
    (WritesNow rq x kQueueCmd (w 2) s → queueOf (qcQueue (w 2)) s = some q → q.st ≠ .draining →
      Takes (.queueDestroy rq v) rq x s .done (res 2 (queueDestroy (qcQueue (w 2)) t))) ∧
    (WritesNow rq x kQueueCmd (w 3) s → queueOf (qcQueue (w 3)) s = some q → q.st ≠ .draining → q.st ≠ .active →
      Takes (.queueRestart rq v) rq x s .done (res 3 (queueTo (qcQueue (w 3)) .active t))) ∧
    (WritesNow rq x kQueueCmd (w 4) s → queueOf (qcQueue (w 4)) s = some q → q.st ≠ .draining →
      Takes (.cancelAll rq v) rq x s .done (res 4 (cancelQueue (qcQueue (w 4)) true 0 t))) ∧
    (WritesNow rq x kQueueCmd (w 5) s → queueOf (qcQueue (w 5)) s = some q → q.st ≠ .draining →
      Takes (.setPriority rq v) rq x s .done (res 5 (setQueue (qcQueue (w 5)) { q with prio := qcPrio (w 5) } t))) ∧
    (WritesNow rq x kJobHens v s → jobHensStatus v s = .done →
      let u := modJob (fld v 127 112) (fun j => { j with hens := henRecord v }) t
      let ds := u.work.drains.filter (fun d => d.1 != fld v 127 112) ++
        [(fld v 127 112, henDrain (fld v 127 112) (henRecord v) u)]
      Takes (.jobHens rq v) rq x s .done (post16 kJobHensResult .done { u with work := { u.work with drains := ds } })) ∧
    (WritesNow rq x kCollCmd (c 1) s → collCreateOk (c 1) s = true →
      let n : Coll :=
        { job := fld (c 1) 479 464, peers := fld (c 1) 463 448, members := c 1 % 2 ^ 256, next := 0, openR := none,
          pending := [], excluded := 0, removed := 0, waitFrom := none }
      Takes (.collCreate rq v) rq x s .done (collResult .done (c 1) (setColl (fld (c 1) 495 484) n t))) ∧
    (WritesNow rq x kCollCmd (c 2) s → collOf (fld (c 2) 495 484) s = some k → k.openR = none → k.pending = [] →
      Takes (.collDestroy rq v) rq x s .done (collResult .done (c 2)
        { t with eng := { t.eng with colls := tdel t.eng.colls (fld (c 2) 495 484) } }))

/-- R325 to R327, R346, R352, R353, R355, Table 11.9: PORT_CONFIG that leaves its octet a shape and the guarantees
within the buffer takes its value and, when the shape changes, takes the octet's ports down; PORT_CMD and TLINK_CMD
enable a DISABLED link, disable one, reset a live one after 100 µs, and release a held one; PORT_EXPECT is taken and the
binding tried. -/
def Obligations.LinkWritesTakeEffect : Prop :=
  ∀ (rq : Req) (x : Session) (s : State) (v : Nat),
    let t := heard rq x s
    let p := instFor x kPortCmd
    let l := trayLink (instFor x kTlinkCmd)
    let i := instFor x kPortConfig
    let u := rseti kPortConfig i v t
    let ws (f : Nat → Nat) := octetCfg (i / 4) f
    (WritesNow rq x kPortConfig v s → roleOk v = true →
      octetValid (ws (fun q => if i == q then v else rgeti kPortConfig q s)) = true → guaranteedTotal u ≤ guaranteeMax →
      Takes (.portConfig rq v) rq x s .done (settle
        (if (ws (fun q => rgeti kPortConfig q s)).map cfgW = (ws (fun q => rgeti kPortConfig q u)).map cfgW then u
         else reshape (i / 4) u))) ∧
    (WritesNow rq x kPortCmd 1 s → (linkOf p s).st = .disabled → isPort p s = true →
      Takes (.portEnable rq) rq x s .done (startLinkup p t)) ∧
    (WritesNow rq x kPortCmd 2 s → (linkOf p s).st ≠ .disabled →
      Takes (.portDisable rq) rq x s .done (settle (endPortReset p (portLeaves p .disabled clsInfo t)))) ∧
    (WritesNow rq x kPortCmd 3 s → (linkOf p s).st = .active →
      Takes (.portReset rq) rq x s .done (queueReset .port p t)) ∧
    (WritesNow rq x kPortCmd 4 s → (linkOf p s).st = .held →
      Takes (.portRelease rq) rq x s .done (startLinkup p t)) ∧
    (WritesNow rq x kTlinkCmd 1 s → (linkOf l s).st = .disabled → isPort l s = true →
      Takes (.tlinkEnable rq) rq x s .done (startLinkup l t)) ∧
    (WritesNow rq x kTlinkCmd 2 s → (linkOf l s).st ≠ .disabled →
      Takes (.tlinkDisable rq) rq x s .done (settle (endPortReset l (portLeaves l .disabled clsInfo t)))) ∧
    (WritesNow rq x kTlinkCmd 3 s → (linkOf l s).st = .active →
      Takes (.tlinkReset rq) rq x s .done (queueReset .port l t)) ∧
    (WritesNow rq x kTlinkCmd 4 s → (linkOf l s).st = .held →
      Takes (.tlinkRelease rq) rq x s .done (startLinkup l t)) ∧
    (WritesNow rq x kPortExpect v s →
      Takes (.portExpect rq v) rq x s .done
        (tryBind (instFor x kPortExpect) (rseti kPortExpect (instFor x kPortExpect) v t)))

/-- R387, R392, R393, R395, R435, R436, R449, R452, Tables 14.8 and 14.10: TRACK_MIN within the tracker, a coherent
window that is well formed and keeps the old one's lines, CACHING, the slice commands, BUCKET_SLICE of a bucket not
being moved, a capture session and each buffer guarantee take effect as their rules say. -/
def Obligations.FabricWritesTakeEffect : Prop :=
  ∀ (rq : Req) (x : Session) (s : State) (v : Nat),
    let t := heard rq x s
    let i (k : Nat) := instFor x k
    let cap := capFlush (i kCaptureSession) t
    (WritesNow rq x kTrackMin v s → v ≤ 2048 → trackMinSum s - trackMinOf (i kTrackMin) s + v ≤ trackerSize →
      Takes (.trackMin rq v) rq x s .done (rseti kTrackMin (i kTrackMin) v t)) ∧
    (WritesNow rq x kCohWindow v s → s.coh.removing = [] → windowOk (i kCohWindow) v s = true →
      windowKeeps (tgetD s.coh.windows (i kCohWindow) 0) v = true →
      Takes (.cohWindow rq v) rq x s .done (post16 kCohWindowResult .done (putWindow (i kCohWindow) v t))) ∧
    (WritesNow rq x kCohPortCaching v s →
      Takes (.cohPortCaching rq v) rq x s .done (rseti kCohPortCaching (i kCohPortCaching) (v % 2) t)) ∧
    (WritesNow rq x kSliceCmd 1 s →
      Takes (.twoStage rq) rq x s .done (modSlice (i kSliceCmd) (fun y => { y with mode := .twoStage }) t)) ∧
    (WritesNow rq x kSliceCmd 2 s → Takes (.sheepdog rq) rq x s .done (sliceJoins (i kSliceCmd) t)) ∧
    (WritesNow rq x kBucketSlice v s → v ≤ 3 → (∀ m ∈ s.sw.moving, m.1 ≠ i kBucketSlice) →
      Takes (.bucketSlice rq v) rq x s .done (startRepin (i kBucketSlice) v t)) ∧
    (WritesNow rq x kCaptureSession v s → captureOk v s = true →
      Takes (.captureSession rq v) rq x s .done (post16 kCaptureResult .done (setCapture (i kCaptureSession)
        { captureOf (i kCaptureSession) cap with pendingDrop := 0, seen := 0 }
        (rseti kCaptureSession (i kCaptureSession) v cap)))) ∧
    (∀ sub k, guaranteeKey sub = some k → WritesNow rq x k v s → guaranteeRange sub v = true →
      guaranteedTotal (rset k v s) ≤ guaranteeMax →
      Takes (.bufferGuaranteeWrite rq sub v) rq x s .done (rset k v t))

/-- R458, R463, R468, R470, R472, R475, Table 15.4: TC_MAP that names no fourth channel and QUANTUM within its range are
taken; a policer starts with full buckets and its red frames are metered again; a shaper starts empty; a gate list to be
committed that is well formed becomes pending or swapping with the start its rule gives; a port takes the number of a
gate list or 0xFF; each posts DONE. -/
def Obligations.TrafficWritesTakeEffect : Prop :=
  ∀ (rq : Req) (x : Session) (s : State) (v : Nat),
    let t := heard rq x s
    let ip := instFor x kPolicer
    let ish := instFor x kShaper
    let ok (u : State) := post16 kTcResult .done u
    let sh := rseti kShaper ish v (setShaper (ish / 8) (ish % 8)
      { shaperNow (ish / 8) (ish % 8) s with tokens := 0, waitFrom := none } t)
    (WritesNow rq x kTcMap v s → (∀ c, c < 8 → fld v (2 * c + 1) (2 * c) ≠ 3) →
      Takes (.tcMap rq v) rq x s .done (ok (rset kTcMap v t))) ∧
    (WritesNow rq x kQuantum v s → (∀ c, c < 8 → 17 ≤ fld v (16 * c + 15) (16 * c) ∧ fld v (16 * c + 15) (16 * c) ≤ 4096) →
      Takes (.quantum rq v) rq x s .done (ok (rset kQuantum v t))) ∧
    (WritesNow rq x kPolicer v s → policerBad v = false →
      Takes (.policer rq v) rq x s .done (ok (remeterAll (ip / 8) (ip % 8) (setMeter (ip / 8) (ip % 8)
        { meterNow (ip / 8) (ip % 8) s with tc := polCbs v * 1000, tp := polPbs v * 1000 } (rseti kPolicer ip v t))))) ∧
    (WritesNow rq x kShaper v s → shaperBad v = false → isoAll sh = true →
      Takes (.shaper rq v) rq x s .done (ok sh)) ∧
    (WritesNow rq x kGateCommit v s → v ≤ 15 → (gateCommitStatus v s).1 = .done →
      Takes (.gateCommit rq v) rq x s .done (post16 kGateResult .done (gateCommitStatus v t).2)) ∧
    (WritesNow rq x kPortGateList 0xFF s →
      Takes (.portGateList rq 0xFF) rq x s .done (ok (rseti kPortGateList (instFor x kPortGateList) 0xFF
        { t with traf := { t.traf with portGate := tput t.traf.portGate (instFor x kPortGateList) 0xFF } })))

/-- R505, R512, R540, R541, R543: CONFIG_SAVE starts a store write of the persistent values that differ from their
Default, to end within 2 s, and CONFIG_CLEAR of none; HOME_INDEX is taken when 0 to 15 or 0xFF; DEBUG_END of a token in
force ends it; a debug token that verifies with no job and no key is in force for its duration; ISO_JOB turns isolation
on when its conditions hold. -/
def Obligations.ConfigurationAndDebugWritesTakeEffect : Prop :=
  ∀ (rq : Req) (x : Session) (s : State) (v slot : Nat) (j : Job),
    let t := heard rq x s
    let b := v % 2 ^ 1024
    (WritesNow rq x kConfigSave v s → s.dict.saving = none →
      Takes (.configSave rq v) rq x s .done
        { t with dict := { t.dict with saving := some (persistValues s, s.now + 2000000000) } }) ∧
    (WritesNow rq x kConfigClear v s → s.dict.saving = none →
      Takes (.configClear rq v) rq x s .done
        { t with dict := { t.dict with saving := some ([], s.now + 2000000000) } }) ∧
    (WritesNow rq x kHomeIndex v s → (v ≤ 15 ∨ v = 0xFF) →
      Takes (.homeIndex rq v) rq x s .done (rset kHomeIndex v t)) ∧
    (WritesNow rq x kDebugEnd v s → rget kDebugState s = debugInForce →
      Takes (.debugEnd rq v) rq x s .done (drawNonce (raise 0xA000 0x03 0 0 (rset kDebugState debugUsed t)))) ∧
    (WritesNow rq x kDebugToken v s → tokenStatus v s = .done →
      Takes (.debugToken rq v) rq x s .done (post16 kDebugResult .done (raise 0xA000 0x02 0 0 (rset kDebugState debugInForce
        (setSec (fun z =>
          { z with
            debugUntil := s.now + fld b 671 640 * 1000000000, debugScope := fld b 639 632,
            debugDigest := Config.sha512 (bytesOf 640 v) }) t))))) ∧
    (WritesNow rq x kIsoJob v s → activeJob (fld v 127 112) s = some (slot, j) → bit v 111 = true →
      isoRecordOk v slot j s = true →
      let i := { j.iso with enable := true, latency := fld v 95 64, trays := fld v 63 48, state := 1 }
      Takes (.isoJob rq v) rq x s .done (post16 kIsoResult .done (setJob slot { j with iso := i } t)))

/-- R552, R575, R576, R601, Table 18.9: the reset commands queue their reset for 100 µs later; LARDER_CMD and HEN_CMD
take a larder or a hen out or bring it back; LEDGER_ACK notes the sequence above the one acknowledged and LEDGER_CLEAR
empties the ledger; THROTTLE_CLEAR with THROTTLE_N high ends the latched limit. -/
def Obligations.ResetAndServiceWritesTakeEffect : Prop :=
  ∀ (rq : Req) (x : Session) (s : State) (v larder hen : Nat),
    let t := heard rq x s
    let lv (op : Nat) := larder * 256 + op
    let hv (op : Nat) := hen * 2 ^ 19 + op
    (WritesNow rq x kResetCmd 1 s → Takes (.resetCmdWarm rq) rq x s .done (queueReset .warm 0 t)) ∧
    (WritesNow rq x kResetCmd 2 s → Takes (.resetCmdCold rq) rq x s .done (queueReset .cold 0 t)) ∧
    (WritesNow rq x kJobReset v s → isActive v s = true →
      Takes (.jobReset rq v) rq x s .done (queueReset .job v t)) ∧
    (larder < 12 → WritesNow rq x kLarderCmd (lv 1) s →
      Takes (.larderReset rq larder) rq x s .done (post16 kLarderResult .done (queueReset .larder larder t))) ∧
    (larder < 12 → WritesNow rq x kLarderCmd (lv 2) s →
      ∃ u, Takes (.larderOut rq larder) rq x s .done (post16 kLarderResult .done (settle u)) ∧
        (larderOf larder u).out = true ∧ ∀ y, y ≠ larder → larderOf y u = larderOf y s) ∧
    (larder < 12 → WritesNow rq x kLarderCmd (lv 3) s →
      ∃ u, Takes (.larderIn rq larder) rq x s .done (post16 kLarderResult .done u) ∧
        (larderOf larder u).out = false ∧ ∀ y, y ≠ larder → larderOf y u = larderOf y s) ∧
    (hen / 512 < 12 → hen % 512 < 384 → WritesNow rq x kHenCmd (hv 1) s →
      Takes (.henOutCmd rq hen) rq x s .done (post16 kHenResult .done (henShort (henOut hen t)))) ∧
    (hen / 512 < 12 → hen % 512 < 384 → mappedOut hen s = false → WritesNow rq x kHenCmd (hv 2) s →
      Takes (.henIn rq hen) rq x s .done (post16 kHenResult .done (henBack hen t))) ∧
    (WritesNow rq x kLedgerAck v s →
      Takes (.ledgerAck rq v) rq x s .done (setRst (fun y => { y with acked := (v + 1) % 2 ^ 32 }) t)) ∧
    (WritesNow rq x kLedgerClear v s →
      Takes (.ledgerClear rq v) rq x s .done (setRst (fun y => { y with ledger := [] }) t)) ∧
    (WritesNow rq x kThrottleClear v s → s.pow.throttleLow = false →
      Takes (.throttleClear rq v) rq x s .done (setPow (fun p => { p with latched := false }) t))

/-- R501, R605: a write of an object without behaviour of its own, within its range, sets that instance of the register
and nothing else. R5: what stands in Reserved fields of a written record is ignored: an object's write takes the effect
of the same write with those bits 0. -/
def Obligations.PlainObjectWriteSetsItsRegister : Prop :=
  (∀ (rq : Req) (x : Session) (s : State) (v : Nat),
    ∀ key ∈ [kEpochMs, kTierTimeout, kStealNs, kSliverLimitUs, kReplayTimeout, kHotThreshold, kSnoopTimeoutUs, kMigrateStreak,
             kStepNs, kSessionIdleMs, kAutoWarm, kHenFaultLimit, kPowerCap, kThermWarn],
      ∀ o, obj? key = some o → WritesNow rq x key v s → o.lo ≤ v → v ≤ o.hi →
        Takes (.dictWrite rq (key / 256) (key % 256) v) rq x s .done (rseti key (instFor x key) v (heard rq x s))) ∧
  (∀ (key i v : Nat) (s : State),
    unreserved key (unreserved key v) = unreserved key v ∧ commitObj key i v s = commitObj key i (unreserved key v) s)

/-- R152 to R154, R162's lanes and R157: a vector instruction of a running hen completes, gives every lane of its
destination the operation on the same lane of its sources, and leaves everything else of the machine but the pc and the
counters of instructions as it was. The fused multiply-add's addend is the destination's old lane (the model's choice,
log 30); the masks of a compare and of a select are the model's constants (log 31). -/
def Obligations.VectorOperationsActLaneByLane : Prop :=
  ∀ (s : State) (hen vd v1 v2 vm : Nat) (iop : IntOp) (cop : CmpOp), running hen s = true →
    let x := henOf hen s
    let a := vLane x v1
    let b := vLane x v2
    let d := vLane x vd
    let ops : List (Instr × (Nat → W32)) :=
      [(.vopAdd hen vd v1 v2, fun i => fadd32 (a i) (b i)), (.vopSub hen vd v1 v2, fun i => fsub32 (a i) (b i)),
       (.vopMul hen vd v1 v2, fun i => fmul32 (a i) (b i)), (.vopFma hen vd v1 v2, fun i => ffma32 (a i) (b i) (d i)),
       (.vopMin hen vd v1 v2, fun i => fmin32 (a i) (b i)), (.vopMax hen vd v1 v2, fun i => fmax32 (a i) (b i)),
       (.vopInteger hen iop vd v1 v2, fun i => intLane iop (a i) (b i) (d i)),
       (.vcmp hen cop vd v1 v2, fun i => cmpLane cop (a i) (b i)),
       (.vsel hen vd vm v1 v2, fun i => selLane (vLane x vm i) (a i) (b i)),
       (.vsfExp2 hen vd v1, fun i => vsfExp2Lane (a i)), (.vsfLog2 hen vd v1, fun i => vsfLog2Lane (a i)),
       (.vsfRcp hen vd v1, fun i => vsfRcpLane (a i)), (.vsfRsqrt hen vd v1, fun i => vsfRsqrtLane (a i))]
    ∀ p ∈ ops, HenGoes p.1 hen s (fun x y => LanesAre x y vd p.2 ∧ Retired y { x with v := y.v })

/-- R155, R156, Table 5.7: on a running hen, with tile and row numbers in range, VROWSUM and VROWMAX put each row's sum
or maximum, folded by lanes j and j + 16, then 8, 4, 2 and 1, into lane i for row i and leave the lanes above 15 as they
were; a row moves to the lanes of a V register, a lane to the low half of an x register, an x register to all lanes; and
only the V registers or that x register changes. R145, R146, R156, Table 5.7: a tile instruction of a running hen whose
tile is T0 to T7 and whose local-store range meets no outstanding DMA, no bad word and no end of the store completes:
TZERO clears the tile, TLOAD takes 2,176 bytes from the local store, TSTORE writes the accumulator converted to FMT_OUT,
VSCALEROWS multiplies row i by lane i, VMOVE writes a row; each changes only the tile or the local store, and the errors
that the words a TLOAD reads show are noted. -/
def Obligations.RowAndTileInstructionsComplete : Prop :=
  (∀ (s : State) (hen vd ts row vs lane rd rs : Nat), running hen s = true → ts < 8 → row < 16 → lane < 32 →
    let x := henOf hen s
    let rowF (f : W32 → W32 → W32) (i : Nat) : W32 :=
      if i < 16 then foldTree f 5 ((List.range 32).map (fun j => accGet x ts i j)) else vLane x vd i
    HenGoes (.vrowsum hen vd ts) hen s (fun x y => LanesAre x y vd (rowF fadd32) ∧ Retired y { x with v := y.v }) ∧
    HenGoes (.vrowmax hen vd ts) hen s (fun x y => LanesAre x y vd (rowF fmax32) ∧ Retired y { x with v := y.v }) ∧
    HenGoes (.vmove hen (.rowToV ts row vd)) hen s
      (fun x y => LanesAre x y vd (fun j => accGet x ts row j) ∧ Retired y { x with v := y.v }) ∧
    HenGoes (.vmove hen (.xToLanes rs vd)) hen s
      (fun x y => LanesAre x y vd (fun _ => BitVec.ofNat 32 (xGet x rs)) ∧ Retired y { x with v := y.v }) ∧
    HenGoes (.vmove hen (.laneToX vs lane rd)) hen s
      (fun x y => Retired y { x with x := y.x } ∧ xGet y 0 = 0 ∧
        (rd ≠ 0 → xGet y rd % 2 ^ 32 = (vLane x vs lane).toNat) ∧ (∀ r, r ≠ rd → xGet y r = xGet x r))) ∧
  (∀ (s : State) (hen t rs1 vs row : Nat) (ls : LsErr), running hen s = true → t < 8 → row < 16 →
    let x := henOf hen s
    let a := xGet x rs1
    HenGoes (.tzero hen t) hen s (fun x y =>
      Retired y { x with tiles := memClear x.tiles (t * 4096) (t * 4096 + 4096) }) ∧
    (lsCheck (lsMet ls x) a 2176 true = none →
      HenGoes (.tload ⟨hen, ls⟩ t rs1) hen s (fun x y =>
        Retired y { lsMet ls x with tiles := memWrite x.tiles (t * 4096) (memRead x.ls a 2176) })) ∧
    (fmtValid (fmtOut x) = true → lsCheck x a (tileOut x t).length false = none →
      HenGoes (.tstore hen t rs1) hen s (fun x y => Retired y (lsWrite x a (tileOut x t)))) ∧
    HenGoes (.vscalerows hen t vs) hen s (fun x y => Retired y (accSet x t
      ((List.range 16).flatMap (fun i => (List.range 32).map (fun j => fmul32 (accGet x t i j) (vLane x vs i)))))) ∧
    HenGoes (.vmove hen (.vToRow vs t row)) hen s (fun x y =>
      let bs := (vLanes x vs).flatMap (fun w => bytesOf 4 w.toNat)
      Retired y { x with tiles := memWrite x.tiles (t * 4096 + row * 128) bs }))

/-- R145, R146, R150, R159, R160: a vector load takes a block of FMT_A from the local store, exactly widened, a vector
store writes a block narrowed to FMT_OUT, and TMMA adds to the accumulator tile what its chunks give, with a raw operand
or with one to eight coded blocks whose generations stand in the expander's slots; each under the conditions on format,
class and range under which it is neither illegal nor a fault nor a wait. A TMMA of a coded operand counts the cycles it
takes beyond 128. -/
def Obligations.VectorMemoryAndMatrix : Prop :=
  ∀ (s : State) (hen vd rs1 tc ta : Nat) (ls : LsErr), running hen s = true →
    let x := lsMet ls (henOf hen s)
    let w := henOf hen s
    let a := xGet x rs1
    (fmtValid (fmtA x) = true → lsCheck x a (blockBytes (fmtA x)) true = none →
      HenGoes (.vload ⟨hen, ls⟩ vd rs1) hen s (fun _ y =>
        LanesAre x y vd (fun i => ((widenBlock (fmtA x) (memRead x.ls a (blockBytes (fmtA x))))[i]?).getD 0) ∧
        Retired y { x with v := y.v })) ∧
    (fmtValid (fmtOut w) = true → lsCheck w a (blockBytes (fmtOut w)) false = none →
      HenGoes (.vstore hen vd rs1) hen s (fun w y =>
        Retired y (lsWrite w a (narrowBlock (fmtOut w) (satOut w) (vLanes w vd))))) ∧
    (tc < 8 → ta < 8 → sameClass (fmtA x) (fmtB x) = true → lsCheck x a (bBytes (fmtB x)) true = none →
      HenGoes (.tmma ⟨hen, ls⟩ tc ta rs1 false) hen s (fun _ y => ∃ cols, Retired y (tmmaApply tc ta cols x) ∧
        cols = bCols (fmtB x) (secItems (elemBits (fmtB x)) (32 * classK (fmtB x))
          (natOf ((memRead x.ls a (bBytes (fmtB x))).take (bData (fmtB x)))))
          ((memRead x.ls a (bBytes (fmtB x))).drop (bData (fmtB x))))) ∧
    (let f := fmtB x
     let bs := inlineBlocks x (32 * classK f) 8 a
     let dec := bs.map (fun b => decodeBlock b.1 (entriesFor x.job b.1 s) b.2)
     let parts := List.zip bs dec
     let cols := bCols f
       (parts.flatMap (fun p => match p.2 with | .ok (ts, _) => elemsOf f (bTuple p.1.1) ts | .error _ => []))
       (parts.flatMap (fun p => match p.2 with | .ok (_, c) => c | .error _ => []))
     tc < 8 → ta < 8 → sameClass (fmtA x) f = true →
     lsCheck x a (lsum (bs.map (fun b => 16 + cdiv b.2.length 16 * 16))) true = none →
     (∀ b ∈ bs, bFmt b.1 = f) → (blocksGens bs).length ≤ 2 →
     lsum (bs.map (fun b => bTuples b.1 * bTuple b.1)) = 32 * classK f → (∀ g ∈ blocksGens bs, g ∈ x.slots) →
     (∀ d ∈ dec, ∃ r, d = .ok r) →
     ∃ y, exec (.tmma ⟨hen, ls⟩ tc ta rs1 true) s =
         .next (setHen hen y (bumpN kStallExpand (expandCycles bs - 128) (bumpN kCheckFails 0 s))) ∧
       Retired y (tmmaApply tc ta cols { x with cbWait := none }))

/-- R163, R165: on a running hen TKINIT with k from 1 to 1,024 empties the top-k unit and sets k and the direction,
TKINS offers the 32 lanes' keys with their 64-bit IDs in lane order, and TKREAD writes 16 bytes for each candidate held:
key, zero, ID. -/
def Obligations.TopKInstructionsComplete : Prop :=
  ∀ (s : State) (hen k vk vlo vhi rs1 : Nat) (largest : Bool), running hen s = true →
    (1 ≤ k → k ≤ 1024 → HenGoes (.tkinit hen k largest) hen s (fun x y =>
      Retired y { x with topk := { k := k, largest := largest, cands := [] } })) ∧
    HenGoes (.tkins hen vk vlo vhi) hen s (fun x y =>
      let cs := (List.range 32).map (fun i => (vLane x vk i,
        BitVec.ofNat 64 ((vLane x vhi i).toNat * 2 ^ 32 + (vLane x vlo i).toNat)))
      Retired y { x with topk := cs.foldl tkOffer x.topk }) ∧
    (lsCheck (henOf hen s) (xGet (henOf hen s) rs1) (16 * (henOf hen s).topk.cands.length) false = none →
      HenGoes (.tkread hen rs1) hen s (fun x y => Retired y (lsWrite x (xGet x rs1)
        (x.topk.cands.flatMap (fun c => bytesOf 4 c.1.toNat ++ bytesOf 4 0 ++ bytesOf 8 c.2.toNat)))))

/-- R164: the set and the order that the top-k unit holds depend only on the multiset of candidates offered since
TKINIT, not on the order of the offers. R165: the top-k unit merges no candidates: it holds as many as were offered, up
to k. -/
def Obligations.TopKKeepsTheBest : Prop :=
  (∀ (k : Nat) (largest : Bool) (l m : List (W32 × W64)), l.Perm m →
    l.foldl tkOffer { k := k, largest := largest, cands := [] } =
      m.foldl tkOffer { k := k, largest := largest, cands := [] }) ∧
  (∀ (k : Nat) (largest : Bool) (l : List (W32 × W64)),
    (l.foldl tkOffer { k := k, largest := largest, cands := [] }).cands.length = min k l.length)

/-- R140, R145, R166 to R168, Table 5.10: DMA and messages of a running hen. A transfer within the store and the queue's
bounds is queued line by line, none issued, a DMAWR's bytes taken at once; DMAWAIT completes when at most n commands are
open; MSGRECV takes the oldest message; MSGPOLL gives the register a function of the messages held; MSGSEND to a rank of
its own item with room at the target queues the 64 bytes and counts the cycles it has waited; a delivery moves the
oldest message to a hen ready for it that has not been cleared for another job; the next answer of a mesh node, when
DONE, puts a read's bytes into the local store. -/
def Obligations.DmaAndMessagesComplete : Prop :=
  ∀ (s : State) (hen n loc rd rank dst req node : Nat) (p : DmaPat) (ls : LsErr) (m : List Byte) (src : Nat)
    (rest : List (Nat × List Byte)) (r : DmaReq), running hen s = true →
    let x := henOf hen s
    let queued (w : Bool) (x y : Hen) : Prop :=
      Retired y { x with dma := y.dma, nextCmd := y.nextCmd } ∧
      y.dma.take x.dma.length = x.dma ∧
      (y.dma.drop x.dma.length).map (fun d => (d.pool, d.loc, d.bytes)) = patLines p ∧
      ∀ d ∈ y.dma.drop x.dma.length, d.write = w ∧ d.issued = false ∧ d.res = none ∧ d.cmd = x.nextCmd ∧
        d.data = if w then memRead x.ls d.loc d.bytes else []
    (p.rows ≤ 4096 → p.rows * p.rowBytes ≤ 65536 → (∀ l ∈ patLines p, l.2.1 + l.2.2 ≤ lsBytes) → dmaCount x < dmaCmds →
      HenGoes (.dmard hen p) hen s (queued false) ∧
      ((lsMet ls x).badWords = [] → HenGoes (.dmawr ⟨hen, ls⟩ p) hen s (fun x => queued true (lsMet ls x)))) ∧
    (dmaCount x ≤ n → HenGoes (.dmawait hen n) hen s (fun x y => Retired y x)) ∧
    (x.msgs = (src, m) :: rest → lsCheck x loc 64 false = none →
      HenGoes (.msgrecv hen loc) hen s (fun x y => Retired y (lsWrite { x with msgs := rest } loc m))) ∧
    HenGoes (.msgpoll hen rd) hen s (fun x y => Retired y (xSet x rd (Config.pollWord x.msgs.length).toNat)) ∧
    (rank < x.nranks → lsCheck x loc 64 true = none → rankHen x.item rank s = some dst → msgLoad dst s < msgMax →
      ∃ y, exec (.msgsend hen rank loc) s = .next (setHen hen y
          (bumpN kMsgBackpressure (match x.msgWait with | some t => henCycles (s.now - t) | none => 0)
            (if henLarder hen = henLarder dst then s else send (.henMessage hen dst) s))) ∧
        Retired y { x with sending := x.sending ++ [(dst, memRead x.ls loc 64)], sent := x.sent + 1, msgWait := none }) ∧
    (x.sending.find? (fun e => e.1 == dst) = some (dst, m) → dst ≠ hen → henReady (henOf dst s) = true →
      (henOf dst s).job = x.job →
      exec (.messageDelivered hen dst) s = .next (setHen dst { henOf dst s with msgs := (henOf dst s).msgs ++ [(hen, m)] }
        (setHen hen { x with sending := x.sending.erase (dst, m) } s))) ∧
    (x.answers.find? (fun a => a.2 == req) = some (node, req) →
      (∀ a ∈ x.answers.takeWhile (fun b => b.2 != req), a.1 ≠ node) →
      henReq hen req s = some r → r.res = some .done →
      HenGoes (.dmaRequestDone hen req) hen s (fun x y =>
        y = { (if r.write then x else lsWrite x r.loc r.data) with
                dma := y.dma, answers := x.answers.filter (fun b => b.2 != req) } ∧
        ∀ d ∈ y.dma, d.id ≠ req → d ∈ x.dma))

/-- R142, R143, R146, R171: a scalar instruction of a running hen that is no tile instruction and that RV64IMC and Zicsr
execute changes that hen alone, counts one instruction, and leaves x0 reading zero; the errors that the words it reads
show are noted first. R142: ECALL, EBREAK, MRET and WFI are illegal instructions, whatever the hen holds. -/
def Obligations.ScalarInstructionsComplete : Prop :=
  (∀ (s : State) (hen n w : Nat) (ls : LsErr) (z : Hen), running hen s = true →
    let x := lsMet ls (henOf hen s)
    fetchInsn x = .ok (n, w) → (n = 4 && customOk w) = false → scalar32 hen s.now (timebase s) n w x = .ok z →
    HenGoes (.scalarInstruction ⟨hen, ls⟩) hen s (fun _ y =>
      y = { z with instret := z.instret + 1, retired := z.retired + 1 } ∧ xGet y 0 = 0)) ∧
  (∀ (h now tb : Nat) (x : Hen), ∀ w ∈ [0x00000073, 0x00100073, 0x30200073, 0x10500073],
    scalar32 h now tb 4 w x = .error .illegal)

/-- R143: a scalar load or store of any width whose range does not lie within 0x0000_0000 to 0x0003_FFFF is an access
fault, and one within it that is naturally aligned, meets no outstanding DMA and, when it loads, no bad word, executes:
a load changes only its x register, and a store writes its bytes little-endian. R145, R143, R146: a local-store access
of n bytes at a is an access fault exactly when it does not lie in the 256 KiB; else it waits exactly when it overlaps
an outstanding DMA's range; else a read meets a bad word exactly when one overlaps it; else it goes on. -/
def Obligations.LocalStoreAccessesStayInside : Prop :=
  (∀ (x : Hen) (f3 rd a v : Nat), f3 ≤ 3 →
    (262144 < a + 2 ^ f3 → scalarLoad f3 rd a x = .error (.access a) ∧ scalarStore f3 a v x = .error (.access a)) ∧
    (a + 2 ^ f3 ≤ 262144 → a % 2 ^ f3 = 0 → x.dma = [] → x.badWords = [] →
      (∃ u, scalarLoad f3 rd a x = .ok (xSet x rd u) ∧ u % 256 ^ 2 ^ f3 = natOf (memRead x.ls a (2 ^ f3))) ∧
      scalarStore f3 a v x = .ok { x with ls := memWrite x.ls a (bytesOf (2 ^ f3) v) })) ∧
  (∀ (x : Hen) (a n : Nat) (read : Bool),
    (lsCheck x a n read = some (.access a) ↔ 262144 < a + n) ∧
    (lsCheck x a n read = some .wait ↔ a + n ≤ 262144 ∧ ∃ d ∈ x.dma, a < d.loc + d.bytes ∧ d.loc < a + n) ∧
    (lsCheck x a n read = none ↔ a + n ≤ 262144 ∧ (∀ d ∈ x.dma, d.loc + d.bytes ≤ a ∨ a + n ≤ d.loc) ∧
      (read = true → ∀ w ∈ x.badWords, w * 8 + 8 ≤ a ∨ a + n ≤ w * 8)))

/-- R144, R146, R572: what ends a sliver. An illegal instruction or a misaligned access ends it REFUSED_FORMAT, an
access fault DENIED, a bad word POISONED and then its hen leaves service; each is recorded, and counted where there is a
counter; an instruction that must wait changes nothing. R209, R226, R234 and Table 5.7: SLVEND of a RUN sliver with no
DMA open and no progress area ends the sliver DONE: the item counts it, and the hen has left it; the fetch that a TMMA
waits for fills an expander slot and ends its wait. -/
def Obligations.SliverEndsComplete : Prop :=
  (∀ (s : State) (hen : Nat) (f : Hen → Except Trap Hen), running hen s = true →
    (f (henOf hen s) = .error .wait → henInsn hen f s = s) ∧
    (f (henOf hen s) = .error .illegal → henInsn hen f s =
      endSliver hen .refusedFormat (henFaultRec hen 0 .refusedFormat 0 (bump kIllegalInsn s))) ∧
    (∀ a, f (henOf hen s) = .error (.access a) → henInsn hen f s =
      endSliver hen .denied (henFaultRec hen 1 .denied a (bump kAccessFaults s))) ∧
    (∀ a, f (henOf hen s) = .error (.misaligned a) → henInsn hen f s =
      endSliver hen .refusedFormat (henFaultRec hen 2 .refusedFormat a s)) ∧
    (∀ a, f (henOf hen s) = .error (.bad a) → henInsn hen f s =
      henLeave hen (endSliver hen .poisoned (henFaultRec hen 3 .poisoned a (bump kLsUncorrected s))))) ∧
  (∀ (s : State) (hen rs1 cb gen : Nat) (it : Item), running hen s = true →
    let x := henOf hen s
    (itemOf x.item s = some it → it.opcode = ocRun → roundFailed it = false → x.dma = [] → rProgress it.body = 0 →
      heldOf (.hen hen) s = none →
      ∃ u it', exec (.slvend hen rs1) s = .next (settle u) ∧ running hen u = false ∧ itemOf x.item u = some it' ∧
        it'.doneS = it.doneS ++ [x.sliver] ∧ it'.ended = it.ended ∧ it'.stop = it.stop) ∧
    (x.cbWait = some (cb, gen) →
      exec (.codebookFetchDone hen cb gen) s = .next (settle (bump kCbFetches (setHen hen
        { x with slots := (if x.slots.length < 2 then x.slots else x.slots.drop 1) ++ [(cb, gen)], cbWait := none } s)))))

/-- R186, R189, R193, R194, Table 6.7: a descriptor that the consumer meets and that passes every check of Table 6.7 is
admitted, whatever its opcode: CONSUMER passes it, the item stands under the next number with what its opcode's chapter
says of it, and the opcode's own part follows (an INSTALL claims its codebook, a collective joins its collective's
rounds, a search takes the partials held for it). No queue left ACTIVE with the descriptor's read under way (R608). -/
def Obligations.DescriptorsAreAdmitted : Prop :=
  ∀ (q : Nat) (d : Desc) (s : State), nextDesc q s = some d → d.qu.late = false →
    let row (c : Instr) (oc : Nat) (sub : Nat → Bool) (adm : Adm) (post : Nat → State → State) : Prop :=
      dOpcode d = oc → sub (dBody d) = true → admitStatus d adm s = none →
      exec c s = .next (settle (post s.work.nextItem (admitted d (newItem d adm s) s)))
    row (.nop q) ocNop anySub (nopAdm d s) noPost ∧ row (.run q) ocRun anySub (runAdm d s) noPost ∧
    row (.install q) ocCodebook (opIs 753 752 0 1) (bookAdm d s) bookPost ∧
    row (.drop q) ocCodebook (opIs 753 752 1 1) (bookAdm d s) noPost ∧
    row (.encode q) ocEncode (opIs 767 766 0 3) (encodeAdm d s) noPost ∧
    row (.importTensor q) ocEncode (opIs 767 766 1 3) (encodeAdm d s) noPost ∧
    row (.recode q) ocEncode (opIs 767 766 2 3) (encodeAdm d s) noPost ∧
    row (.release q) ocEncode (opIs 767 766 3 3) (encodeAdm d s) noPost ∧
    row (.decode q) ocDecode anySub (decodeAdm d s) noPost ∧
    row (.reduce q) ocReduce anySub (reduceAdm d s) pendRound ∧
    row (.allreduce q) ocAllreduce anySub (reduceAdm d s) pendRound ∧
    row (.reduceUpdate q) ocUpdate anySub (updateAdm d s) pendRound ∧
    row (.normSq q) ocNormSq anySub (normAdm d s) pendRound ∧
    row (.gather q) ocGather anySub (gatherAdm d) noPost ∧ row (.gatherBags q) ocGatherBags anySub (gatherAdm d) noPost ∧
    row (.filter q) ocFilter anySub (filterAdm d s) noPost ∧
    row (.arenaInit q) ocEditPages (opIs 711 708 0 5) (editAdm d s) noPost ∧
    row (.seqOpen q) ocEditPages (opIs 711 708 1 5) (editAdm d s) noPost ∧
    row (.seqClose q) ocEditPages (opIs 711 708 2 5) (editAdm d s) noPost ∧
    row (.replace q) ocEditPages (opIs 711 708 3 5) (editAdm d s) noPost ∧
    row (.truncate q) ocEditPages (opIs 711 708 4 5) (editAdm d s) noPost ∧
    row (.fork q) ocEditPages (opIs 711 708 5 5) (editAdm d s) noPost ∧
    row (.pageFree q) ocPageFree anySub (freeAdm d s) noPost ∧ row (.attend q) ocAttend anySub (attendAdm d s) noPost ∧
    row (.project q) ocProject anySub (projectAdm d s) noPost ∧ row (.indexBuild q) ocBuild anySub (buildAdm d s) noPost ∧
    row (.indexAppend q) ocAppend anySub (changeAdm d s) noPost ∧ row (.indexDelete q) ocDelete anySub (changeAdm d s) noPost ∧
    row (.indexMerge q) ocMerge anySub (changeAdm d s) noPost ∧
    row (.searchIvf q) ocSearchIvf anySub (searchAdm d s) takeHeld ∧
    row (.searchGraph q) ocSearchGraph anySub (searchAdm d s) takeHeld ∧
    (dOpcode d = ocCancel → admitStatus d (cancelAdm d) s = none →
      exec (.cancel q) s = .next (settle (runCancel d s)))

/-- R186, R193: admitting a descriptor puts its item under a number that no item has, changes no other item, no hen, no
extent and no byte of memory but CONSUMER's four, and counts one item; for a control block whose crate can be written at
once and is not mirrored. R204, R205: a CANCEL that is admitted stops the items of its queue that its TAG or its index
names, that nothing has stopped and whose slivers have not all ended, and waits for their records. -/
def Obligations.AdmissionAndCancelFrames : Prop :=
  (∀ (d : Desc) (x : Item) (s : State), itemOf s.work.nextItem s = none →
    (∀ k, qcbLine d.qu s = some k → (crateOf (lkCrate k) s).tier ≠ 0 ∧ tierWait (lkCrate k) true s = .none ∧
      journalled (lkExt k) s = false) →
    let t := admitted d x s
    itemOf s.work.nextItem t = some x ∧ t.work.nextItem = s.work.nextItem + 1 ∧
    (∀ i, i ≠ s.work.nextItem → itemOf i t = itemOf i s) ∧ t.hens = s.hens ∧ t.pool.extents = s.pool.extents ∧
    t.work.records = s.work.records ∧
    (∀ k b, b < 128 → ¬ (qcbLine d.qu s = some k ∧ offConsumer ≤ b ∧ b < offConsumer + 4) → lineByte k b t = lineByte k b s)) ∧
  (∀ (d : Desc) (s : State), d.qu.late = false → admitStatus d (cancelAdm d) s = none →
    let t := runCancel d s
    let hit (x : Item) : Prop := x.queue = d.q ∧
      (if fld (dBody d) 671 664 = 0 then x.tag = fld (dBody d) 767 704 else x.index = fld (dBody d) 703 672) ∧
      x.stop = none ∧ ¬ (0 < x.total ∧ allEnded x = true)
    ∀ i x, itemOf i s = some x → (∀ y, (i, y) ∈ s.work.items → y = x) →
      (hit x → itemOf i t = some { x with stop := some .cancelled }) ∧ (¬ hit x → itemOf i t = some x))

/-- R189, R193, Tables 6.3 and 6.7: a descriptor that a check of Table 6.7 refuses is passed by CONSUMER all the same,
gets no item, is counted, and its completion record carries the status of the first check that fails; the counter of
Table 2.5 that the check names counts it; with STOP_ON_FAULT the queue stops. -/
def Obligations.DescriptorsAreRefused : Prop :=
  ∀ (q : Nat) (d : Desc) (s : State) (st : Status) (key : Nat), nextDesc q s = some d → d.qu.late = false →
    let u := settle (notePause q (refuseDesc d st (countCheck key (consumed d s))))
    (dOpcode d = ocNop → admitStatus d (nopAdm d s) s = some (st, key) → exec (.nop q) s = .next u) ∧
    (dOpcode d = ocRun → admitStatus d (runAdm d s) s = some (st, key) → exec (.run q) s = .next u) ∧
    (dOpcode d = ocCancel → admitStatus d (cancelAdm d) s = some (st, key) → exec (.cancel q) s = .next u) ∧
    (dHeaderOk d = false → ∀ a, admitStatus d a s = some (.refusedFormat, 0)) ∧
    (∀ a, dHeaderOk d = true → a.bodyOk = false → admitStatus d a s = some (.refusedFormat, 0)) ∧
    d.q = q

/-- R187, R199, R201 to R203, R210, R237: with its condition met, loading resumes, an idle hen takes the sliver that the
procedure of R201 and R202 gives it, an assigned sliver of a built-in opcode starts on its hen, a gang with all its hens
held starts, the last hen of a JOB_HENS change gives the event, and an idle hen recodes the oldest slow block of a job
that has the hen's larder in its LARDERS. R206, R207: the limits. At AT plus LIMIT_US an item that nothing has stopped
stops with CANCELLED and LIMIT in its record; a sliver that runs SLIVER_LIMIT_US ends, is recorded and counted, and its
hen leaves service. -/
def Obligations.QueueEventsAndLimitsComplete : Prop :=
  (∀ (s : State) (q larder hen item job p h sl : Nat) (k : Cand1) (x : Item) (y : Queue) (b : Nat × Nat × Nat)
    (rest : List (Nat × Nat × Nat)) (e : Extent) (j : Job),
    (queueOf q s = some y → y.paused = true → loadPaused y s = false →
      exec (.loadingResumed q) s = .next (setQueue q { y with paused := false } s)) ∧
    (nextSliver larder s = some (p, k) → pickHen larder k.item k.job s = some h → itemOf k.item s = some x →
      isGang x = false →
      ∃ u, exec (.sliverAssign larder) s = .next u ∧ (henOf h u).st = .assigned ∧ (henOf h u).item = k.item ∧
        (henOf h u).sliver = k.sliver ∧ (henOf h u).job = x.job ∧
        itemOf k.item u = some { x with running := x.running ++ [k.sliver] } ∧ ∀ g, g ≠ h → henOf g u = henOf g s) ∧
    ((henOf hen s).st = .assigned → itemOf (henOf hen s).item s = some x → x.stop = none → x.opcode ≠ ocRun →
      ∃ u, exec (.sliverStart hen) s = .next (settle u) ∧ (henOf hen u).st = .running ∧ (henOf hen u).startAt = s.now ∧
        (henOf hen u).lastJob = some (henOf hen s).job ∧
        itemOf (henOf hen s).item u = some { x with started := true } ∧ ∀ g, g ≠ hen → henOf g u = henOf g s) ∧
    ((s.hens.gang.map (·.1)) = some item → itemOf item s = some x →
      (s.hens.gang.map (fun g => g.2.1.length)) = some (rRanks x.body) → x.stop = none →
      exec (.gangStart item) s = .next (settle (gangStart item s)) ∧ ∀ g hs t u, s.hens.gang = some (g, hs, t) →
        slRun (.home item) item (loadGang item x hs)
            (each hs (fun h s => modHen h (fun y => { zeroFor y.job y with lastJob := some y.job }) s) s) = (.ok (), u) →
        (gangStart item s).hens.gang = none ∧ ∀ n ∈ hs, (henOf n (gangStart item s)).st = .running) ∧
    (s.work.drains = [(job, [])] →
      exec (.jobHensDrained job) s = .next (raise 0x6140 0x01 2 job { s with work := { s.work with drains := [] } })) ∧
    (s.coding.recodeQ = b :: rest → extOf b.1 s = some e → jobOf e.job s = some (sl, j) →
      j.hens.larders.testBit (henLarder hen) = true → henServes hen s = true → (henOf hen s).st = .idle →
      nextSliver (henLarder hen) s = none →
      exec (.backgroundRecode hen) s = .next (settle (recodeBlock b s)))) ∧
  (∀ (s : State) (item hen : Nat) (x : Item),
    (itemOf item s = some x → x.limitUs ≠ 0 → x.stop = none → ¬ (0 < x.total ∧ allEnded x = true) →
      ∃ u, exec (.timeLimit item) s = .next (settle u) ∧ u.now = max s.now (x.at_ + x.limitUs * nsUs) ∧
        itemOf item u = some { x with stop := some .cancelled, limit := true }) ∧
    (running hen s = true →
      exec (.sliverLimit hen) s = .next (settle (sliverLimit hen
        (timeTo ((henOf hen s).startAt + rget kSliverLimitUs s * nsUs) s)))))

/-- R195, R608: a completion record whose slot its member may write is written there, 32 bytes with the phase of its
lap, and COMPLETED counts it; a record whose descriptor cannot be read carries the read's status and stops the queue; a
descriptor whose queue left ACTIVE while it was read completes CANCELLED with its own TAG and OPCODE. -/
def Obligations.CompletionRecordsAreWritten : Prop :=
  ∀ (s : State) (q slot p : Nat) (y : Queue) (r : CRec) (j : Job) (g : Grant) (st : Status) (key : Nat),
    queueOf q s = some y →
    (s.work.records.find? (fun r => r.queue == q) = some r → jobOf y.job s = some (slot, j) →
      partnerOf j y.member = some p →
      let n := qcbGet y offCompleted s
      let a := compAddr y n
      let lk := lineKey g.ext 0 (g.off / 128)
      checks25 y.job y.member p a true s = .ok g → poisoned lk (meetLine lk s) = false → entOf lk s = none →
      tierWait (lkCrate lk) true s = .none →
      let u := { s with work := { s.work with records := s.work.records.erase r } }
      exec (.completionRecordApplied q) s = .next (settle (qcbPut y offCompleted 4 ((n + 1) % 2 ^ 32)
        (ownPut lk (a % 128) ((bytesOf 32 (recBits r (decide (n / 2 ^ y.log2 % 2 = 0)))).map some) u)))) ∧
    (y.late = false → y.loadTo = some p → y.st = .active → qcbGet y offConsumer s ≠ p → y.paused = false → loadPaused y s = false →
      let c := qcbGet y offConsumer s
      queueRead y (descAddr y c) 128 s = .error (st, key) →
      let f : CRec := { queue := q, status := st, opcode := 0, cause := 0, limit := false, tag := 0, index := c,
                        pre := 0, doneN := 0, total := 0, detail := 0, stopOnFault := true }
      let v := countCheck key (consumed { q := q, qu := y, index := c, bits := 0 } s)
      exec (.descriptorReadFail q) s = .next (settle (stopOnFault f v.work.nextItem (pushRec f v)))) ∧
    (∀ d, nextDesc q s = some d → d.qu.late = true → dOpcode d = ocNop →
      exec (.nop q) s = .next (settle (lateDesc d s)))

/-- R244, R253 to R255, R260: a collective's round opens for the oldest item that waits; the member timer and the norm
timer end what they time; a DELIVER answered DONE is acknowledged, an unanswered one is lost; an engine's sliver with
nothing to do ends DONE. -/
def Obligations.CollectiveEventsComplete : Prop :=
  ∀ (s : State) (c i port tag : Nat) (k : Coll) (r : Round) (x : Item) (d : Deliver),
    (collOf c s = some k → headReady k s = some (i, x) → roundFits x s = true → k.removed = 0 →
      (∀ e ∈ s.eng.colls, e.1 = c) →
      ∃ u, exec (.roundOpen c) s = .next (settle u) ∧ ∃ k' r', collOf c u = some k' ∧ k'.openR = some r' ∧ r'.item = i ∧
        r'.round = cRound x.body ∧ r'.timer = s.now ∧ k'.pending = k.pending.drop 1 ∧
        itemOf i u = some { setPhase 1 x with started := true }) ∧
    (collOf c s = some k → k.openR = some r → itemOf r.item s = some x → collPhase x = 1 → x.opcode ≠ ocNormSq →
      r.low < cChunks x →
      let got := match r.chunks.find? (fun q => q.chunk == r.low) with | some q => q.got | none => 0
      exec (.memberTimerExpiry c) s = .next (settle (missing c ((roundMembers k r).filter (fun m => !got.testBit m))
        (timeTo (r.timer + cTimeout x.opcode x.body) s)))) ∧
    (collOf c s = some k → k.openR = some r → itemOf r.item s = some x → collPhase x = 2 → x.stop = none →
      ∃ u, exec (.normTimeout c) s = .next (settle u) ∧ u.now = max s.now (r.normAt + cTimeout x.opcode x.body) ∧
        ∃ x', itemOf r.item u = some x' ∧ x'.stop = some .memberTimeout) ∧
    (portLive port s = true →
      exec (.response port tag 0) s = .next (settle { s with eng := { s.eng with
        delivers := s.eng.delivers.filter (fun d => !(d.port == port && d.tag == tag)) } })) ∧
    (s.eng.delivers.find? (fun d => d.port == port && d.tag == tag) = some d → itemOf d.item s = some x →
      exec (.deliverTimeout port tag) s = .next (settle (loseDelivery d.item d.member
        (timeTo (d.sent + cTimeout x.opcode x.body) s)))) ∧
    (∀ u v sl, itemOf i s = some x → engineTurn i sl x s = true →
      let t := modItem i (fun x => { x with started := true }) s
      (x.opcode = ocReduce ∨ x.opcode = ocAllreduce → slRun (.engine i sl) i (slPure ()) t = (.ok u, v) →
        exec (.engineSliverDone i sl) s = .next (settle (itemSliverEnd i sl .done v))) ∧
      (x.opcode = ocGather → slRun (.engine i sl) i (gatherSliver i sl x) t = (.ok u, v) →
        exec (.engineSliverDone i sl) s = .next (settle (itemSliverEnd i sl .done v))) ∧
      (x.opcode = ocGatherBags → slRun (.engine i sl) i (bagsSliver i sl x) t = (.ok u, v) →
        exec (.engineSliverDone i sl) s = .next (settle (itemSliverEnd i sl .done v))) ∧
      (x.opcode = ocFilter → slRun (.engine i sl) i (filterSliver i sl x) t = (.ok u, v) →
        exec (.engineSliverDone i sl) s = .next (settle (itemSliverEnd i sl .done v))) ∧
      (x.opcode = ocNormSq → slRun (.engine i sl) i (normSliver i sl x) t = (.ok u, v) →
        exec (.engineSliverDone i sl) s = .next (settle (itemSliverEnd i sl .done v))))

/-- R259, R321 to R323, R388: a message of a peer whose last fragment this is is acknowledged and delivered: a norm
partial is held, a search partial with no item to take it is held, an ACK ends the search it names; a search that waits
too long ends MEMBER_TIMEOUT at a home that is not COORD, and at COORD goes on without the late shards; a held partial
is discarded at its time. -/
def Obligations.PeerMessagesOfEnginesComplete : Prop :=
  ∀ (s : State) (ph : PeerHdr) (c round acc fl tag i job src : Nat) (k : Coll) (rs : List PartialQ) (x : Item) (z : SearchX)
    (e : Nat × Nat × Nat × List PartialQ × Nat),
    (PeerSends ph s → collOf c s = some k → k.openR = none → k.pending = [] → k.peers.testBit ph.src = true →
      ph.src ≠ homeIndex s → liveRounds k s = [] → roundOlder round k.next = false →
      exec (.normPartial ph c round acc fl) s = .next (settle
        { peerHeard ph s with eng := {
            s.eng with heldNorms :=
              s.eng.heldNorms.filter (fun e => !(e.1 == ph.src && e.2.1 == c && e.2.2.1 == round)) ++
                [(ph.src, c, round, ssOf acc fl)] } })) ∧
    (PeerSends ph s → coordItem ph.job tag s = none → (∀ f ∈ s.search.held, f.1 ≠ ph.job ∨ f.2.1 ≠ tag ∨ f.2.2.1 ≠ ph.src) →
      exec (.searchPartial ph tag rs) s = .next (settle
        { peerHeard ph s with search := { s.search with held := s.search.held ++ [(ph.job, tag, ph.src, rs, s.now)] } })) ∧
    (PeerSends ph s → s.work.items = [(i, x)] → searchOf x = some z → x.job = ph.job → qTag x.body = tag → z.sent = true →
      z.closed = false → x.stop = none →
      exec (.searchAck ph tag) s = .next (settle (searchCount x z
        (modSearch i (fun z => { z with closed := true }) (peerHeard ph s))))) ∧
    (itemOf i s = some x → searchOf x = some z → z.closed = false → x.stop = none →
      (qPeers x.body ≠ 0 → isCoord x.body s = true → z.late = false →
        exec (.searchPartialTimeout i) s = .next (settle (modSearch i (fun z => { z with late := true })
          (timeTo (x.at_ + qTimeout x.body) s)))) ∧
      (isCoord x.body s = false →
        exec (.searchAckTimeout i) s = .next (settle (modItem i (fun x => { x with stop := some .memberTimeout })
          (timeTo (x.at_ + qTimeout x.body) s))))) ∧
    (s.search.held.find? (fun e => e.1 == job && e.2.1 == tag && e.2.2.1 == src) = some e →
      exec (.partialHoldExpiry job tag src) s = .next (bump kShardPartialsDiscarded
        { timeTo (e.2.2.2.2 + holdNs) s with search := { s.search with held := s.search.held.erase e } }))

/-- R42, R361, R362, R566: a READ that meets nothing that holds it returns DONE with the LENGTH bytes from its address,
and changes no byte of memory; one that meets a poisoned line, or one that the line code cannot correct and the poison
list has room for, returns POISONED without data. -/
def Obligations.LoadsReturnMemory : Prop :=
  ∀ (h : Hdr) (s : State) (g : Grant), Unheld h .read s g →
    let clean := ∀ i, i < h.length → Intact h.mem ((g.off + i) / 128 - g.off / 128) g.ext ((g.off + i) / 128) s
    ∃ u, exec (.read h) s = .next (tablesLost s (settle u)) ∧
      (clean → Responds h 0x01 .done ((List.range h.length).map (fun i => extByte g.ext (g.off + i) s)) u) ∧
      (¬ clean → (poisonCrates s).length < poisonEntriesMax → Responds h 0x01 .poisoned [] u) ∧
      (∀ k b, lineByte k b u = lineByte k b s) ∧ u.hens = s.hens ∧ u.pool.extents = s.pool.extents

/-- R361, R362, R365, R372: a WRITE that meets nothing that holds it, in lines that no queue's control block is in and
that can be read, returns DONE and stores its bytes from its address; a WRITE_MASKED stores those whose mask bit is set;
every other byte of memory reads as before. -/
def Obligations.StoresWriteTheirBytes : Prop :=
  ∀ (h : Hdr) (s : State) (g : Grant) (data : List Byte) (mask : Nat),
    (∀ i, qcbAt (lineKey g.ext 0 i) s = none) → (∀ i l, Intact h.mem i g.ext l s) →
    let stored (d : List (Option Byte)) (u : State) : Prop :=
      ∀ l b, b < 128 → lineByte (lineKey g.ext 0 l) b u =
        (if g.off ≤ l * 128 + b then (d[l * 128 + b - g.off]?).join else none).getD (lineByte (lineKey g.ext 0 l) b s)
    let others (u : State) : Prop :=
      ∀ k b, (∀ l, k ≠ lineKey g.ext 0 l) → lineByte k b u = lineByte k b s
    (Unheld h (.write false (data.map some)) s g →
      ∃ u, exec (.write h data) s = .next (tablesLost s (settle u)) ∧ Responds h 0x02 .done [] u ∧
        stored (data.map some) u ∧ others u ∧ u.hens = s.hens ∧ u.pool.extents = s.pool.extents) ∧
    (Unheld h (.write true (maskBytes mask data)) s g →
      ∃ u, exec (.writeMasked h mask data) s = .next (tablesLost s (settle u)) ∧ Responds h 0x03 .done [] u ∧
        stored (maskBytes mask data) u ∧ others u ∧ u.hens = s.hens ∧ u.pool.extents = s.pool.extents)

/-- R363, Table 12.4: an atomic operation that meets nothing that holds it, on a line that can be read, reads the old
value little-endian at its address, stores what Table 12.4 gives for its operation, and returns DONE with the old value;
every other byte of memory reads as before. Table 12.4: ADD wraps at the width, the bit operations and SWAP are what
they are called, CAS stores only where the old value is the compare value, and the minima and maxima are by two's
complement or as they stand. -/
def Obligations.AtomicsReplaceTheirOperand : Prop :=
  (∀ (h : Hdr) (s : State) (g : Grant) (w a b : Nat),
    (∀ i, qcbAt (lineKey g.ext 0 i) s = none) → (∀ i l, Intact h.mem i g.ext l s) →
    let lk := lineKey g.ext 0 (g.off / 128)
    let at_ := g.off % 128
    let old := natOf (lineRead lk at_ w s)
    let ops : List (Instr × AtomOp) :=
      [(.atomicAdd h w a, .add), (.atomicAnd h w a, .and), (.atomicOr h w a, .or), (.atomicXor h w a, .xor),
       (.atomicSmin h w a, .smin), (.atomicSmax h w a, .smax), (.atomicUmin h w a, .umin), (.atomicUmax h w a, .umax),
       (.atomicSwap h w a, .swap), (.atomicCas h w a b, .cas)]
    ∀ p ∈ ops, Unheld h (.atomic p.2 w a (if p.2 = .cas then b else 0)) s g →
      ∃ u, exec p.1 s = .next (tablesLost s (settle u)) ∧ Responds h 0x10 .done (bytesOf w old) u ∧
        lineRead lk at_ w u = bytesOf w (atomEval p.2 w old a (if p.2 = .cas then b else 0)) ∧
        (∀ k c, (k ≠ lk ∨ c < at_ ∨ at_ + w ≤ c) → lineByte k c u = lineByte k c s) ∧ u.hens = s.hens) ∧
  (∀ (w old a b : Nat), (w = 4 ∨ w = 8) → old < 256 ^ w → a < 256 ^ w →
    (BitVec.ofNat (8 * w) (atomEval .add w old a b) = BitVec.ofNat (8 * w) old + BitVec.ofNat (8 * w) a) ∧
    atomEval .add w old a b < 256 ^ w ∧
    (∀ i, (atomEval .and w old a b).testBit i = (old.testBit i && a.testBit i)) ∧
    (∀ i, (atomEval .or w old a b).testBit i = (old.testBit i || a.testBit i)) ∧
    (∀ i, (atomEval .xor w old a b).testBit i = (old.testBit i != a.testBit i)) ∧
    ((BitVec.ofNat (8 * w) (atomEval .smin w old a b)).toInt =
      min (BitVec.ofNat (8 * w) old).toInt (BitVec.ofNat (8 * w) a).toInt) ∧
    ((BitVec.ofNat (8 * w) (atomEval .smax w old a b)).toInt =
      max (BitVec.ofNat (8 * w) old).toInt (BitVec.ofNat (8 * w) a).toInt) ∧
    atomEval .umin w old a b = min old a ∧ atomEval .umax w old a b = max old a ∧ atomEval .swap w old a b = a ∧
    (old = a → atomEval .cas w old a b = b) ∧ (old ≠ a → atomEval .cas w old a b = old))

/-- R367, R104 to R112, R119 to R123, R245: a FENCE with nothing before it returns DONE at once; a REGION command
returns what its operation on the region answers, and that operation's effect on the regions stands; an OWN command
enters the tracker and its operation, run as the step settles, answers what Tables 4.5 and 4.6 give; a contribution
enters the tracker and is answered by what its collective's round makes of it. What a request brings with it beside that
needs a table of which neither copy can be read (R561). -/
def Obligations.FencesRegionsAndOwnershipComplete : Prop :=
  ∀ (h : Hdr) (s : State) (g : Grant) (m op version fva obj permit epoch coll round chunk fmt : Nat) (current : Bool)
    (data : List Byte),
    (Arrives h .fence s → portMember h.port h.job s = some m →
      ∃ u, exec (.fence h) s = .next (tablesLost s (settle u)) ∧ Responds h 0x04 .done [] u ∧ u.txn.txs = [] ∧
        u.mem = s.mem) ∧
    (∀ (c : Instr), (c, op, current, version) ∈
        [(.regionOpen h current version fva, opOpen, current, version), (.regionClose h fva, opClose, false, 0),
         (.regionDraft h current version fva, opDraft, current, version),
         (.regionPublish h version fva, opPublish, false, version),
         (.regionRebase h version fva, opRebase, false, version), (.regionDiscard h fva, opDiscard, false, 0)] →
      Enters h (.region op current version fva) s g → (∀ e, extOf g.ext s = some e → fMirror e = false) →
      let t := tracked h (.region op current version fva) g s
      let r := regionCmd true g.ext h.job g.member op current version t
      ∃ u, exec c s = .next (tablesLost s (settle u)) ∧ Responds h 0x20 r.1.st (regionData op r.1) u ∧
        u.vers = r.2.vers) ∧
    (Enters h (.own 1 permit obj epoch) s g → ownAddrOk h.job h.addr obj s = true →
      let t := tracked h (.own 1 permit obj epoch) g s
      exec (.give h permit obj epoch) s = .next (tablesLost s (settle t)) ∧
      (∀ o, ownOf (ownKey g.ext obj t) t = some o → (o.transit = true → s.now ≤ o.expiry) →
        giveCheck (ownKey g.ext obj t) g.member permit epoch (giveBusy o t) t = .done →
        ownWindows o t = false → ownMirrorHolds o t = false → ownJournalled o t = false → s.vers.gives = [] →
        let v := giveFinish (ownKey g.ext obj t) permit t
        Responds h 0x21 .done (ownData 1 (ownKey g.ext obj t) .done v) (runOwns t) ∧ (runOwns t).vers = v.vers)) ∧
    (Enters h (.own 2 0 obj epoch) s g → ownAddrOk h.job h.addr obj s = true →
      let t := tracked h (.own 2 0 obj epoch) g s
      exec (.take h obj epoch) s = .next (tablesLost s (settle t)) ∧
      (∀ o, ownOf (ownKey g.ext obj t) t = some o → (o.transit = true → s.now ≤ o.expiry) →
        ownMirrorHolds o t = false → ownJournalled o t = false →
        let r := takeCmd (ownKey g.ext obj t) g.member epoch t
        Responds h 0x21 r.1 (ownData 2 (ownKey g.ext obj t) r.1 r.2) (runOwns t) ∧ (runOwns t).vers = r.2.vers)) ∧
    (Enters h (.own 3 0 obj 0) s g → ownAddrOk h.job h.addr obj s = true →
      let t := tracked h (.own 3 0 obj 0) g s
      exec (.query h obj) s = .next (tablesLost s (settle t)) ∧
      (∀ o, ownOf (ownKey g.ext obj t) t = some o → (o.transit = true → s.now ≤ o.expiry) →
        let st := queryCmd (ownKey g.ext obj t) g.member t
        Responds h 0x21 st (ownData 3 (ownKey g.ext obj t) st t) (runOwns t) ∧ (runOwns t).vers = t.vers)) ∧
    (∀ k : TxKind, k = .contrib coll round chunk (fmt + (if h.coded then 16 else 0)) data → Arrives h k s →
      portMember h.port h.job s = some m → fmt < 16 →
      let t := trackedFor h k m s
      exec (.contrib h coll round chunk fmt data) s = .next (tablesLost s (settle t)) ∧
      let n := if h.coded then codedBlocks 4 data else 0
      let r := contribRun coll round chunk fmt m h.job h.coded data (bumpN kPortBlocksDecoded n t)
      Responds h 0x28 r.1 [] (runContribs t)) ∧
    (∀ t, (∀ x ∈ t.txn.txs, x.wait ≠ .table) → tablesLost s t = t)

/-- R358, R366, R367, R372, R119, R122, R384, R386, R388: a TAG in use resets its port; what an open request waits for
ends: a FENCE or release store whose earlier stores have executed, a batch's 64 ns, a tracker entry, the old epoch's
requests; a peer's acknowledgement is cumulative; a transit that expires gives the object back; a recall's end answers
the GIVE. -/
def Obligations.RequestEventsComplete : Prop :=
  ∀ (s : State) (port tag line seq obj : Nat) (t : Tx) (b : Batch) (o : OwnObj) (x : Hdr × TxKind) (w : GiveWait) (h : Hdr)
    (data : List Byte),
    (portLive h.port s = true → portRolePeer h.port s = false → tagOpen h.port h.tag s = true →
      exec (.write h data) s = .next (tablesLost s (settle (portReset h.port 5 (bump kTagDuplicate s))))) ∧
    (portTag port tag s = some t → t.kind = .fence → t.ans = none → earlierStores t s = false →
      exec (.fenceDone port tag) s = .next (settle (finishTx t .done [] s))) ∧
    (portTag port tag s = some t → t.wait = .release → t.kind ≠ .fence → earlierStores t s = false →
      exec (.releaseStoreExecute port tag) s = .next (settle (runTx t.id ([], setTx { t with wait := .none } s)).2)) ∧
    (batchOf line s = some b → (crateOf (lkCrate line) s).tier ≠ 0 →
      tierWait (lkCrate line) true (timeTo (b.at_ + 64) s) = .none →
      ∃ u, exec (.batchWriteout line) s = .next (settle u) ∧ u.now = max s.now (b.at_ + 64) ∧ batchOf line u = none ∧
        (MemInv s → (b.bytes.map (·.1)).Nodup → (∀ e ∈ b.bytes, e.1 < 128) →
          ∀ k i, i < 128 → lineByte k i u = lineByte k i s)) ∧
    (s.txn.stalled.find? (fun x => x.1.port == port) = some x → x.1.tag = tag → trackerRoom port s = true →
      exec (.trackEntryFreed port tag) s = .next (tablesLost s (settle
        (enterHome x.1 x.2 { s with txn := { s.txn with stalled := s.txn.stalled.erase x } })))) ∧
    ((∀ t ∈ s.txn.txs, t.src ≠ .port port) → (portTx port s).lossScan = false → (portTx port s).draining = true →
      exec (.epochDrained port) s =
        .next (settle (tryBind port (modPortTx port (fun x => { x with draining := false }) s)))) ∧
    (portLive port s = true → portRolePeer port s = true →
      exec (.peerAck port seq) s =
        .next (modPortTx port (fun x => { x with msgAck := max x.msgAck (min seq x.msgTx) }) s)) ∧
    (ownOf (ownKeyOf obj s) s = some o → o.transit = true →
      exec (.ownReverted obj) s = .next (settle (ownRevert (ownKeyOf obj s) (timeTo o.expiry s)))) ∧
    (s.vers.gives.find? (fun g => g.obj == ownKeyOf obj s) = some w →
      s.txn.txs.find? (fun t => t.src == .port w.port && t.tag == w.tag) = some t →
      exec (.giveRecallDone obj) s = .next (settle (runOwn true t.id s)))

/-- R7, R140, R166, R194, R369: the next memory request of a hen's DMA toward its node, which its item may make and
which meets nothing that holds it, is done at once: a read's bytes stand in the request, a write's bytes stand in
memory, and its answer is on its way from that node. -/
def Obligations.HenMemoryRequestsComplete : Prop :=
  ∀ (s : State) (hen req : Nat) (r old : DmaReq) (a : Asker) (m : MemErr) (g : Grant),
    nextSent hen req s = some (r, a) → henReq hen req s = some old →
    ((henOf hen s).dma.filter (fun q => q.issued)).length < dmaOpen → homeFull (homeOf a.job r.pool s) s = false →
    checkItem a.job a.member a.partner r.pool r.write s = .ok g → regionOfExt g.ext s = none → s.txn.txs = [] →
    tierWait (crateKey g.ext 0 (g.off / crateBytes)) r.write s = .none → s.coh.windows = [] → s.coh.ents = [] →
    s.coh.evicts = [] → journalled g.ext s = false → m.copies = 0 → s.tiers.metaBad = [] →
    (∀ i l, Intact m i g.ext l s) → (∀ i, qcbAt (lineKey g.ext 0 i) s = none) → 0 < r.bytes →
    g.off % crateBytes + r.bytes ≤ crateBytes →
    (r.write = false → check6 g .read false s = none →
      ∃ u, exec (.henMemoryRequest hen ⟨req, m⟩) s = .next (tablesLost s (settle u)) ∧
        (henOf hen u).answers = (henOf hen s).answers ++ [(r.node, req)] ∧
        henReq hen req u = some { r with issued := true, res := some .done,
                                         data := (List.range r.bytes).map (fun i => extByte g.ext (g.off + i) s) }) ∧
    (r.write = true → check6 g (.write false (r.data.map some)) false s = none → r.data.length = r.bytes →
      ∃ u, exec (.henMemoryRequest hen ⟨req, m⟩) s = .next (tablesLost s (settle u)) ∧
        (henOf hen u).answers = (henOf hen s).answers ++ [(r.node, req)] ∧
        henReq hen req u = some { r with issued := true, res := some .done } ∧
        ∀ i, i < r.bytes → some (extByte g.ext (g.off + i) u) = r.data[i]?)

/-- R48 to R50, R52: a DRAINING extent with nothing in flight enters SCRUBBING with EXTENT_DRAINED; at its bound what is
in flight is ended; a SCRUBBING extent whose zeroes are all answered is free: nothing is mapped under its ID, every byte
of it reads zero, and every other extent is as before. -/
def Obligations.ExtentEventsComplete : Prop :=
  ∀ (s : State) (ext : Nat) (e : Extent), extOf ext s = some e →
    (e.st = .draining → inflight ext s = 0 →
      exec (.drained ext) s = .next (settle (drainedExt ext false 0 s))) ∧
    (e.st = .draining → inflight ext s ≠ 0 →
      exec (.drainBoundExpiry ext) s =
        .next (settle (forceDrain ext (timeTo (e.drainAt + rget kTierTimeout s * nsMs) s)))) ∧
    (scrubbed ext s = true → MemInv s → ∃ u, exec (.extentFreed ext) s = .next (settle u) ∧ extOf ext u = none ∧
      (∀ y, y ≠ ext → extOf y u = extOf y s) ∧ (∀ a, ext * 2 ^ 96 ≤ a → a < (ext + 1) * 2 ^ 96 → memGet u.mem a = 0) ∧
      (∀ a, (a < ext * 2 ^ 96 ∨ (ext + 1) * 2 ^ 96 ≤ a) → memGet u.mem a = memGet s.mem a))

/-- R60, R70: at a placement epoch's end the first BUDGET moves of the plan begin in its order and the rest are carried
over and counted; attic crates of an older generation are coded again in what is left of the budget; then heat halves
and the epoch is counted. -/
def Obligations.PlacementEpochEnds : Prop :=
  ∀ (s : State) (budget : Nat),
    let p := planEpoch (retrain (startFlushes (startRetires s)))
    let begun := each (p.moves.take budget) beginPlanned { p.s with tiers := { p.s.tiers with deferred := [] } }
    let carried := { begun with tiers := { begun.tiers with
      deferred := begun.tiers.deferred ++ (p.moves.drop budget).map (fun m => (m.crate, m.tier)) } }
    let coded := recodeAttic (budget - (p.moves.take budget).length) (bumpN kMovesDeferred (p.moves.drop budget).length carried)
    let u := settleBooks (settleIso (epochTick (s.tiers.epoch + 1) coded))
    exec (.placementEpoch budget) s = .next (settle u) ∧ u.tiers.epoch = s.tiers.epoch + 1 ∧
      u.tiers.crates = tmap coded.tiers.crates (fun _ c =>
        { c with heat := c.heat / 2, incomp := c.incomp && (s.tiers.epoch + 1) % 64 != 0,
                 idle := if (s.tiers.epoch + 1) % 16 = 0 && c.heat / 2 = 0 then min 255 (c.idle + 1) else c.idle })

/-- R62 to R66, R73: the copy of a move whose commands are answered and that no store disturbed takes the crate to its
new place and its old one is left; one that a store disturbed is given up; a move to the Vault leaves a copy there in
either case. A fetch's copy takes the crate to its new place, and the copy of a source that no request reads any more is
freed. -/
def Obligations.MovesAndFetchesComplete : Prop :=
  ∀ (s : State) (ck : Nat) (m : Move) (f : Fetch),
    let c := crateOf ck s
    let onward (u : State) : State := startFlushes (startRetires (retryFetches (regroup ck u)))
    let still := dropMove ck (modCrate ck (fun c => { c with moving := false, redirty := false }) s)
    let attic := if m.tier = tierAttic then putAttic ck (locClass m.loc) m.gen still else dropAttic ck still
    let unread (x : Source) : Bool := x.crate == ck && !s.txn.txs.any (fun t => x.txs.contains t.id) &&
      !s.txn.held.any (fun h => x.txs.contains h.id)
    (s.tiers.moves.find? (fun m => m.crate == ck) = some m → moveBusy ck s = false → m.tier ≠ tierVault →
      (c.redirty = false → exec (.moveCopyDone ck) s = .next (settle (onward (leaveLoc ck c.tier c.loc (bump kMovesDone
        (modCrate ck (fun c => { c with tier := m.tier, loc := m.loc, agen := m.gen }) attic)))))) ∧
      (c.redirty = true → exec (.moveCopyDone ck) s = .next (settle (onward (bump kMoveAbandoned still))))) ∧
    (s.tiers.moves.find? (fun m => m.crate == ck) = some m → moveBusy ck s = false → m.tier = tierVault →
      let copied := setCopy ck m.loc (!c.redirty) still
      (m.why = .flush → exec (.moveCopyDone ck) s = .next (settle (onward (flushed ck copied)))) ∧
      (m.why ≠ .flush → c.redirty = false →
        exec (.moveCopyDone ck) s = .next (settle (onward (leaveLoc ck c.tier c.loc (bump kMovesDone
          (modCrate ck (fun c => { c with tier := tierVault, loc := 0 }) copied)))))) ∧
      (m.why ≠ .flush → c.redirty = true →
        exec (.moveCopyDone ck) s = .next (settle (onward (bump kMoveAbandoned copied))))) ∧
    (s.tiers.fetches.find? (fun f => f.crate == ck) = some f → f.tier ≠ 0 → fetchBusy ck s = false →
      let u := regroup ck (modCrate ck (fun c => { c with tier := f.tier, loc := f.loc })
        { s with tiers := { s.tiers with fetches := s.tiers.fetches.filter (fun x => x.crate != ck) } })
      exec (.fetchDone ck) s = .next (settle (startFlushes (startRetires
        (if c.tier = tierAttic then dropAttic ck (leaveLoc ck tierAttic c.loc u) else u))))) ∧
    (s.tiers.sources.any unread = true →
      exec (.moveSourceFreed ck) s = .next (settle (startRetires (retryFetches
        { s with tiers := { s.tiers with sources := s.tiers.sources.filter (fun x => !unread x) } }))))

/-- R61, R73, R115: a store's new crate goes to the shelf slot the rules give it; a flush at the front that has written
all posts DONE; a tray fault ends it PART with what is left, and the next one starts. -/
def Obligations.PlacedWritesAndFlushesComplete : Prop :=
  ∀ (s : State) (ck l : Nat) (j : FlushJob) (rest : List FlushJob) (bad : Bool),
    (s.txn.txs.any (fun t => t.wait == .space && t.parts.any (fun p => lkCrate p.line == ck && p.res.isNone)) = true →
      (crateOf ck s).tier = 0 → pickShelf ck s = some l →
      exec (.unmappedWritePlaced ck) s = .next (settle (regroup ck (dropMaking ck (modCrate ck
        (fun c => { c with tier := tierShelf, loc := l, dirty := true, vcopy := false }) s))))) ∧
    (s.tiers.flushes = j :: rest → j.stage = 2 → regionOfExt j.ext s = none →
      let left := j.left.filter (fun ck => (crateOf ck s).dirty && (crateOf ck s).tier != 0)
      let ended := { s with tiers := { s.tiers with flushes := rest } }
      (left = [] → exec (.flushDone bad) s = .next (settle (startFlushes (flushResult .done j.seq j.ext 0 ended)))) ∧
      (left ≠ [] → exec (.flushDone true) s =
        .next (settle (startFlushes (flushResult .part j.seq j.ext left.length ended)))))

/-- R77, R79, R91, R92: a held request that waits TIER_TIMEOUT answers TIER_TIMEOUT, and so does one of an engine or of
a built-in sliver; a slot that fails leaves placement and, when it holds nothing, is retired, and no retired slot comes
back; a tray whose link has been down for a second is lost, and its map is rebuilt from the journals; a tray's answer
completes the command it echoes. -/
def Obligations.TrayEventsComplete : Prop :=
  ∀ (s : State) (tray tier loc tx : Nat) (bad : List Nat) (t : Tx) (w : Held) (r : TrayRsp) (c : TrayCmd),
    (txOf tx s = some t → tierHeld t s = true → t.wait ≠ .mirror →
      let v := bump kTierTimeouts (timeTo (t.since + rget kTierTimeout s * nsMs) s)
      let n := match t.src with | .port p => onlyIf t.ans.isNone (countExec p t.seq) v | _ => v
      exec (.tierTimeout tx) s = .next (settle (completeTx t .tierTimeout [] n))) ∧
    (txOf tx s = none → s.txn.held.find? (fun h => h.id == tx) = some w → tierWaits w.wait = true → w.res = none →
      (∀ i, w.who ≠ .home i) →
      exec (.tierTimeout tx) s = .next (settle (endHeld w .tierTimeout
        (bump kTierTimeouts (timeTo (w.since + rget kTierTimeout s * nsMs) s))))) ∧
    (trayServes tray s = true →
      exec (.trayLost tray) s = .next (settle (loseTray tray (if (linkOf (trayLink tray) s).st = .active then s
        else timeTo ((linkOf (trayLink tray) s).downAt + nsS) s)))) ∧
    ((trayOf tray s).rebuilding = true →
      ∃ u, exec (.crateMapRebuilt tray) s = .next (settle u) ∧ (trayOf tray u).rebuilding = false ∧ u.mem = s.mem ∧
        ∀ ck, (crateOf ck u).tier = (crateOf ck s).tier) ∧
    (s.tiers.retired.contains (tier, loc) = false → s.tiers.retiring.contains (tier, loc) = false →
      (tier = tierShelf ∨ tier = tierCellar) → (slotFails tier loc s = true ∨ ∃ i ∈ bad, i < 512) →
      ∃ u, exec (.crateSlotRetire tier loc bad) s = .next (settle u) ∧
        ((tier, loc) ∈ u.tiers.retired ∨ (tier, loc) ∈ u.tiers.retiring) ∧
        ((usedLocs tier s).contains loc = false → (tier, loc) ∈ u.tiers.retired) ∧
        ∀ x ∈ s.tiers.retired, x ∈ u.tiers.retired) ∧
    (s.tiers.cmds = [c] → c.tray = r.link - 192 → c.tag = r.tag → c.op = r.op → 192 ≤ r.link → r.more = false →
      (linkOf r.link s).st = .active →
      exec (.trayResponse r) s = .next (settle (trayDone c (statusOf r.status == .done) r.corrected (c.got ++ r.data)
        { s with tiers := { s.tiers with cmds := [] } })))

/-- R83 to R85, R87: the Vault's maintenance. Reclamation moves the valid pages of the closed block with the fewest;
static data and a block read 80,000 times move; the 7-day scan reads every valid page of a written block; a fetch that
meets an uncorrectable page makes the crate a poisoned one of the Cellar. -/
def Obligations.VaultEventsComplete : Prop :=
  ∀ (s : State) (ck tray id lun blk : Nat) (f : Fetch) (b : Block),
    (s.tiers.fetches.find? (fun f => f.crate == ck) = some f → f.tier = tierCellar → (crateOf ck s).tier = tierVault →
      exec (.vaultReadUncorrectable ck) s = .next (settle (vaultUncorrectable ck s)) ∧
      (vaultUncorrectable ck s).tiers.fetches = s.tiers.fetches.filter (fun x => x.crate != ck)) ∧
    (freeBlocks tray s * 100 < (trayOf tray s).blocksAll * 3 →
      minBy (fun b => b.valid.length) ((trayBlocks tray s).filter (fun b => b.written && !b.bad && !b.reclaim &&
        !s.tiers.logs.any (fun l => l.1 == tray * 256 + b.id / 2 ^ 36 && l.2.1 == b.id % 2 ^ 36))) = some b →
      exec (.vaultReclaim tray) s =
        .next (eraseEmpty (each b.valid (relocateCopy false) (setBlock { b with reclaim := true } s)))) ∧
    (512 < eraseSpread tray s →
      minBy (fun b => b.erases) ((trayBlocks tray s).filter (fun b => b.written && !b.bad && !b.valid.isEmpty)) = some b →
      exec (.vaultStaticMove tray) s = .next (each b.valid (relocateCopy true) s)) ∧
    (80000 ≤ (blockOfTray tray id s).reads →
      exec (.vaultReadRelocate tray id) s = .next (each (blockOfTray tray id s).valid (relocateCopy true) s)) ∧
    (blockOfTray tray (lun * 2 ^ 36 + blk) s = b → b.written = true → b.bad = false →
      let u := timeTo (b.scannedAt + 7 * day24) s
      exec (.vaultScan tray lun blk) s =
        .next (each b.valid (fun ck => scanRead ck tray (lun * 2 ^ 36 + blk) 0) (setBlock { b with scannedAt := u.now } u)))

/-- R51, R125, R126, R128 to R132, Table 4.9: a mirror without an answer in time is LOST and what waits for it ends; a
copy ends; records of a primary are applied to its shadow and acknowledged; an acknowledgement frees the records up to
its sequence and takes the journal on; a release, a shadow's answer, a revocation and a refused takeover do what Table
4.9 says. -/
def Obligations.MirrorEventsComplete : Prop :=
  ∀ (s : State) (ph : PeerHdr) (seq ext gen st : Nat) (recs : List JRec) (refused : List Nat) (h : Shadow),
    let m := s.vers.mirror
    let v := peerHeard ph s
    (m.rel = .sync → (peerPort (mirrorPeer s) s).isNone = true →
      exec .mirrorLost s = .next (settle (relationLost s))) ∧
    (m.rel = .sync → (peerPort (mirrorPeer s) s).isNone = false → m.unacked ≠ [] →
      exec .mirrorLost s = .next (settle (relationLost
        (timeTo ((m.unacked.map (·.2)).foldl min s.now + rget kMirrorTimeout s * nsUs) s)))) ∧
    (m.copying = true → m.rel = .sync → (∀ x ∈ refused, x ∉ mirrorExts s) →
      exec (.mirrorCopyDone refused) s = .next (settle (modMirror (fun m => { m with copying := false }) (copyMarked s)))) ∧
    (PeerSends ph s → shadowFor ph.src v = some h → h.takenOver = false →
      let u := applyRecords ph.src recs v
      let last := match shadowFor ph.src u with | some h => h.lastSeq | none => 0
      exec (.journal ph recs) s = .next (settle (sendPeer ph.src 0x02 0 0 [] [] last (rset kJournalSeq last u)))) ∧
    (PeerSends ph s → ph.src = mirrorPeer s → m.rel = .sync → seq < m.nextSeq →
      let u := modMirror (fun m => { m with unacked := m.unacked.filter (fun r => decide (seq < r.1.seq)) }) v
      exec (.journalAck ph seq) s =
        .next (settle (acknowledged seq (rset kJournalSeq (max seq (rget kJournalSeq u)) u)))) ∧
    (PeerSends ph s → exec (.mirrorCtl ph .release) s = .next (settle (shadowsReleased ph.src v))) ∧
    (PeerSends ph s → ph.src = mirrorPeer s →
      exec (.mirrorCtl ph (.shadowAnswer ext st)) s = .next (settle (shadowAnswered ext st v))) ∧
    (PeerSends ph s → shadowFor ph.src v = some h → h.takenOver = false → ∀ n, localExt h ext gen = some n →
      exec (.mirrorCtl ph (.revoke ext gen)) s = .next (settle (revokeExt n v))) ∧
    (PeerSends ph s → ph.src = mirrorPeer s → m.rel = .sync →
      exec (.mirrorCtl ph .takeoverRefused) s = .next (settle (relationLost v))) ∧
    (PeerSends ph s → (∀ h, shadowFor ph.src v = some h → h.takenOver = false) → ∀ entry kcv : Nat,
      let made := shadowMade ph.src entry kcv v
      exec (.mirrorCtl ph (.shadow entry kcv)) s = .next (settle (sendCtl ph.src mcAnswer
        (pack [(statusCode made.1, 16), (fld entry 271 256, 0)]) made.2)))

/-- R326, R343, R344, Tables 11.4 and 11.5: in its phase, each event of link-up takes the link to the next phase, its
timer starting now: DETECT (the configuration takes effect, unless this is the fifth retrain within 1 s), EQUALISE,
FEC_LOCK, ORDER, PARAM, IDENT; ORDER with enough lanes sends PARAM, with too few it fails; a PARAM that fits takes a
partner's link to IDENT with the lesser width; an overrun phase fails and starts again. R348 to R351, R353: an ACTIVE
link that loses lock on a lane in use, or receives TS1, enters RECOVERY; RECOVERY that ends with enough lanes returns to
ACTIVE with the lanes left and replays, with too few the link goes down, as after 10 ms; a held link starts again at its
time, and 64 s of ACTIVE forget the holds. -/
def Obligations.LinkUpAndRecoveryComplete : Prop :=
  (∀ (s : State) (p : Nat) (lanes : List Nat) (role width depth : Nat) (credits : List Nat),
    let l := linkOf p s
    let ls := (lanes.filter (fun l => decide (l < cfgWidth p s))).eraseDups
    let moved (u : State) (ph : Phase) : Prop := linkOf p u = { l with phase := ph, phaseAt := s.now } ∧
      ∀ q, q ≠ p → linkOf q u = linkOf q s
    l.st = .down →
    (l.phase = .detect → exec (.detectDone p) s = .next (settle (linkRetrain p (trainLink p) s))) ∧
    (l.phase = .equalise → ∃ u, exec (.equaliseDone p) s = .next u ∧ moved u .fecLock) ∧
    (l.phase = .fecLock → ∃ u, exec (.fecLockDone p) s = .next u ∧ moved u .order) ∧
    (l.phase = .order →
      (minWidth p s ≤ ls.length → exec (.orderDone p lanes) s = .next (startParam p ls s)) ∧
      (ls.length < minWidth p s → exec (.orderDone p lanes) s = .next (linkFail p s))) ∧
    (l.phase = .param → role = (if isTray p then 2 else b2n (portRolePeer p s)) → creditsOk p credits s = true →
      0 < min l.lanes.length width →
      let w := min l.lanes.length width
      let m := { l with width := w, lanes := l.lanes.take w, peerDepth := min 2048 depth, credits := credits }
      exec (.param p 1 role width depth credits) s = .next (settle (startIdent p (trafficLinkUp p (setLink p
        { m with caching := !isTray p && bit (rgeti kCohPortCaching p s) 0, tcMap := rgeti kTcMap p s } s))))) ∧
    (l.phase = .detect → exec (.linkupPhaseTimeout p) s =
      .next (settle (toPhase p .detect (timeTo (l.phaseAt + 100000000) s)))) ∧
    (l.phase ≠ .detect → exec (.linkupPhaseTimeout p) s =
      .next (settle (linkFail p (timeTo (l.phaseAt + phaseBound l.phase) s))))) ∧
  (∀ (s : State) (p lane : Nat) (lanes : List Nat),
    let l := linkOf p s
    let ls := l.lanes.filter (fun x => lanes.contains x)
    let re := linkRetrain p (modLink p (fun l => { l with st := .recovery, recoveryAt := s.now })) s
    (l.st = .active →
      (lane ∈ l.lanes → exec (.lossOfLock p lane) s = .next (settle re)) ∧
      exec (.ts1Received p) s = .next (settle re) ∧
      (l.holdN ≠ 0 → exec (.holdCountReset p) s =
        .next (modLink p (fun l => { l with holdN := 0 }) (timeTo (l.activeAt + 64 * nsS) s)))) ∧
    (l.st = .recovery →
      (minWidth p s ≤ ls.length → exec (.recoveryDone p lanes) s = .next (settle (replay p
        (onlyIf (decide (ls.length < l.width)) (linkEvent 0x03 p) (modLink p (fun l =>
          { l with st := .active, lanes := ls, width := ls.length, activeAt := s.now, fecTimes := [] }) s))))) ∧
      (ls.length < minWidth p s → exec (.recoveryDone p lanes) s = .next (settle (portLeaves p .down clsUnit s))) ∧
      exec (.recoveryTimeout p) s = .next (settle (portLeaves p .down clsUnit (timeTo (l.recoveryAt + 10 * nsMs) s)))) ∧
    (l.st = .held → exec (.holdTimerExpiry p) s = .next (startLinkup p (timeTo l.holdUntil s))))

/-- R345, R346, R384, R550: an IDENT whose nonce and signature hold and that PORT_EXPECT names binds the port, with
nothing of its old epoch left, and it is ACTIVE in a new epoch; one whose nonce or signature does not hold, or that
PORT_EXPECT does not name, is DENIED; with no expectation the evidence, whatever it is worth, is held and reported; a
peer's nonce is answered with this home's signed IDENT; a refusal and 60 s end the exchange. -/
def Obligations.IdentityBindingCompletes : Prop :=
  ∀ (s : State) (p claim e m sig nonce tag status : Nat),
    let l := linkOf p s
    let d := keyDigest m e
    let msg := identMsg nonce (s.sec.flash.idTag % 2 ^ 64) p claim
    let ok := nonce == l.nonce && Config.rsaVerify m e msg sig
    let held := modLink p (fun l => { l with evidence := some (claim, d, ok),
                                             identRec := identRecord claim (statusCode .retry) d }) s
    isTray p = false → l.st = .ident → identBarred p s = false →
    (l.evidence = none →
      (expectId p s = 0xFFF → exec (.ident p claim e m sig nonce) s = .next (settle (linkEvent 0x05 p held))) ∧
      (ok = true → expectId p s = claim → claim ≠ 0xFFF → expectDigest p s = d →
        isoAll (modLink p (fun l => { l with bound := some claim }) held) = true → mayEnter p s = true →
        exec (.ident p claim e m sig nonce) s = .next (settle (bindPort p claim d held))) ∧
      (expectId p s ≠ 0xFFF → (ok = false ∨ expectId p s ≠ claim ∨ expectDigest p s ≠ d) →
        exec (.ident p claim e m sig nonce) s = .next (settle (identDenied p claim d held)))) ∧
    ((linkOf p (bindPort p claim d held)).st = .active ∧ (linkOf p (bindPort p claim d held)).bound = some claim ∧
      (portTx p (bindPort p claim d held)).epoch = (portTx p s).epoch + 1) ∧
    (portRolePeer p s = true → s.sec.identityDone = true →
      exec (.identNonce p nonce tag) s = .next (sendMgmt p 0xF2 1064
        (pack [(homeIndex s % 16, 8500), (65537, 8448), (Config.identityModulus (identityKey s) % 2 ^ 4096, 4352),
          (Config.rsaSign (identityKey s) (identMsg (nonce % 2 ^ 256) (tag % 2 ^ 64) p (homeIndex s)) % 2 ^ 4096, 256),
          (nonce % 2 ^ 256, 0)]) s)) ∧
    (portRolePeer p s = true → statusOf status ≠ .done → exec (.identResult p status) s = .next (settle (linkFail p s))) ∧
    (statusOf status = .done → exec (.identResult p status) s = .next (settle (tryBind p s))) ∧
    (portRolePeer p s = false → l.evidence = none →
      exec (.identTimeout p) s = .next (settle (linkFail p (timeTo (l.phaseAt + 60 * nsS) s))))

/-- R328, R329, R333 to R337: on a running link the codewords corrected under a flit are counted, and a good data flit
in sequence is acknowledged, counted into the next sequence number and its bytes are taken; a credit flit adds its
returns; idle and NAK flits acknowledge, and a NAK and the replay timer resend; a flit that fails CRC is counted and
answered with NAK and changes nothing else. -/
def Obligations.FlitsComplete : Prop :=
  ∀ (s : State) (p : Nat) (f : FlitHdr) (payload : List Byte) (returns : List Nat),
    let z := fecFixed p f s
    let l := linkOf p z
    let d := { f with typ := ftData }
    let c := { f with typ := ftCredit }
    let taken (k : State → State) : State :=
      let a := ackIn p (f.ack % 4096) z
      let b := modLink p (fun x => { x with rxSeq := ((linkOf p a).rxSeq + 1) % 4096, nakPending := false }) a
      let g := k b
      if linkRuns (linkOf p g) then sendBare p ftIdle (payCredits p g) else g
    linkRuns (linkOf p s) = true →
    (flitGood d payload none = true → f.seq % 4096 = (linkOf p s).rxSeq → f.ccnt % 128 = 0 →
      exec (.dataFlit p f payload none) s = .next (settle (taken (dataIn p d payload)))) ∧
    (flitGood d payload none = false →
      exec (.dataFlit p f payload none) s =
        .next (settle (nakOut p (modLink p (fun l => { l with crcErrors := cnt64 l.crcErrors }) z)))) ∧
    (flitGood c (creditPayload returns) none = true → f.seq % 4096 = (linkOf p s).rxSeq → f.ccnt % 128 = 0 →
      exec (.creditFlit p f returns none) s = .next (settle (taken (creditsIn p returns)))) ∧
    (flitGood { f with typ := ftIdle } (List.replicate flitBytes 0) none = true →
      exec (.idleFlit p f none) s = .next (settle (payCredits p (ackIn p (f.ack % 4096) z)))) ∧
    (flitGood { f with typ := ftNak } (List.replicate flitBytes 0) none = true →
      exec (.nak p f) s = .next (settle (replay p (ackIn p (f.ack % 4096) z)))) ∧
    ((linkOf p s).unacked ≠ [] →
      exec (.replayTimeout p) s =
        .next (settle (replay p (timeTo ((linkOf p s).ackAt + rget kReplayTimeout s) s)))) ∧
    l = { linkOf p s with fecCorrected := min (2 ^ 64 - 1) ((linkOf p s).fecCorrected + f.fixed) }

/-- R400, R402, R403, R406, R418, R421, R423, R425, R427, Tables 13.4 to 13.6: an answer to an open snoop, an eviction
of a line with nothing open or queued, and a migration's acknowledgement from a caching partner do what Table 13.5
gives; an answer that matches no snoop is a protocol error, which resets the port and is counted; a snoop without an
answer in time is counted and recorded and its port reset; a scan's end applies what it was for; a freed way lets the
requests go on. -/
def Obligations.CoherenceEventsComplete : Prop :=
  ∀ (s : State) (p ctag result job addr lseq lk q : Nat) (data : List Byte) (x : Snoop) (e : FEnt),
    let frees := portLive p s = true ∧ portRolePeer p s = false ∧ portCaches p s = true
    (frees → s.coh.snoops.find? (fun x => x.ctag == ctag && x.port == p && x.kind != .migrate) = some x → x.port = p →
      entOf x.line s = some e → e.owner ≠ some p → x.kind ≠ .inv →
      exec (.snpRsp p ctag 0 []) s = .next (cohSettle (dropHolder x.line p (closeSnoop x (bump kSnoopMisses s))))) ∧
    (frees → s.coh.snoops.find? (fun x => x.ctag == ctag && x.port == p && x.kind != .migrate) = some x → x.port = p →
      entOf x.line s = some e → e.owner = some p → x.kind = .inv → data.length = 128 →
      exec (.snpRsp p ctag 3 data) s = .next (cohSettle (ownerData x false data (closeSnoop x s)))) ∧
    (frees → (∀ x ∈ s.coh.snoops, x.ctag ≠ ctag) →
      exec (.snpRsp p ctag result data) s = .next (cohSettle (portReset p 5 (bump kCohProtoErr s)))) ∧
    (frees → exec (.coherenceProtocolError p) s = .next (cohSettle (portReset p 5 (bump kCohProtoErr s)))) ∧
    (frees → addrLine job addr s = some lk → lineOpen lk s = false →
      (∀ t ∈ s.txn.txs, ∀ r ∈ t.parts, r.line ≠ lk) →
      exec (.evict p job addr lseq 0 []) s = .next (cohSettle (doEvict
        { port := p, line := lk, lseq := lseq, dirty := false, data := [], behind := [] }
        (cohCount p (fun c => (c.1, c.2.1 + 1, c.2.2)) (bump kEvicts s))))) ∧
    (frees → s.coh.snoops.find? (fun x => x.kind == .migrate && x.port == p && lineAddr x.line s == (job, addr)) = some x →
      exec (.migAck p job addr) s = .next (cohSettle (closeSnoop x s))) ∧
    (s.coh.snoops.find? (fun x => x.ctag == ctag) = some x →
      ∃ u, exec (.snoopTimeout ctag) s = .next (cohSettle u) ∧ u.now = max s.now (x.at_ + rget kSnoopTimeoutUs s * nsUs)) ∧
    (s.coh.running ≠ [] → exec .filterScanDone s = .next (cohSettle (scanDone s)) ∧
      ∀ p, .portLoss p ∈ s.coh.running → (portTx p (scanDone s)).lossScan = false) ∧
    (s.txn.txs.any (fun t => t.wait == .filterSet && t.parts.any (fun p => lineSlice p.line == q && p.res.isNone)) = true →
      exec (.filterWayFreed q) s = .next (settle s))

/-- R435, R442, R443, R445, R446, R449, R450, Tables 14.5 and 14.6: a cell time runs the slice in its mode; a fault of
the Sheepdog takes the slice to two-stage mode, counted and recorded, and it returns 100 µs later through joining; a
bucket that has drained is re-pinned; a rebalance plans the busiest buckets of a hot slice for the least loaded; an
attachment is readmitted through cyclic and joining back to normal; the goose sweep is counted. R466, R471, R475 to
R477, Table 15.4: a red frame whose policer has its credit again is metered again; a pending gate list starts, or
replaces the one running, at its time; the end of an entry takes the list to its next, the last entry of a closing list
ends the list. -/
def Obligations.SwitchAndTrafficEventsComplete : Prop :=
  (∀ (s : State) (slice bucket a to_ link bank t c : Nat),
    (slice < 4 →
      (let u := settleAttach (matchWindow slice (portOut s))
       let v := cyclicCycle slice 1 16 (sheepdogCycle slice 15 u)
       exec (.cellTime ⟨slice, none⟩) s = .next (egress slice (match (sliceOf slice u).mode with
         | .twoStage => cyclicCycle slice 16 16 (heldCells slice u)
         | .joining => if lanesEmpty slice v then modSlice slice (fun x => { x with mode := .sheepdog }) v else v
         | .sheepdog =>
           if anyCyclic u then cyclicCycle slice 1 1 (sheepdogCycle slice 15 u) else sheepdogCycle slice 16 u))) ∧
      exec (.cellTime ⟨slice, some c⟩) s = exec (.cellTime ⟨slice, none⟩) (settle (cellBad c s)) ∧
      (∃ u, exec (.sheepdogFault slice) s = .next u ∧ (sliceOf slice u).mode = .twoStage ∧
        (sliceOf slice u).faultAt = some s.now ∧ (sliceOf slice u).tested = false ∧
        ∀ q, q ≠ slice → sliceOf q u = sliceOf q s) ∧
      ((sliceOf slice s).faultAt = some t → (sliceOf slice s).mode = .twoStage →
        ∃ u, exec (.sheepdogReturn slice) s = .next u ∧ (sliceOf slice u).mode = .joining ∧
          (sliceOf slice u).faultAt = none ∧ u.now = max s.now (t + 100000))) ∧
    (s.sw.moving.find? (fun m => m.1 == bucket) = some (bucket, a, to_) → s.sw.frames.any (inBucket bucket a) = false →
      s.sw.planned = [] →
      exec (.bucketDrained bucket) s = .next (bump kRepins { s with sw := {
        s.sw with
        frames := s.sw.frames.map (fun f => if inBucket bucket to_ f then { f with barrier := false } else f)
        moving := s.sw.moving.filter (fun m => m.1 != bucket) } })) ∧
    (rget kRebalance s ≠ 0 →
      let load (i : Nat) : Nat :=
        let x := sliceOf i s
        if x.matchedAt + 100 * nsUs ≤ s.now then x.matched else x.matchedLast
      let hot := (List.range 4).find? (fun i => 5 * (load 0 + load 1 + load 2 + load 3) < 16 * load i)
      let cold := (List.range 4).foldl (fun b i => if load i < load b then i else b) 0
      let calm (u : State) : State := { u with sw := { u.sw with busy := [] } }
      (hot = none → exec .rebalanceCheck s = .next (calm s)) ∧
      (∀ h b r, hot = some h → busiest h 4 s = b :: r → s.sw.moving = [] → exec .rebalanceCheck s = .next (calm (startRepin b cold
        { s with sw := { s.sw with planned := s.sw.planned ++ r.map (fun x => (x, cold)) } })))) ∧
    (link < attachments → inService link s = true → isCyclic link s = false →
      ∃ u, exec (.readmit link) s = .next u ∧ (attachOf link u).re = .cyclic ∧ (attachOf link u).warm = 0 ∧
        (attachOf link u).warmAt = s.now) ∧
    ((attachOf link s).re = .cyclic →
      ∃ u, exec (.warmReached link) s = .next u ∧ attachOf link u = { attachOf link s with re := .joining } ∧
        u.now = (if rget kWarmCells s ≤ (attachOf link s).warm then s.now
          else max s.now ((attachOf link s).warmAt + rget kWarmUs s * nsUs))) ∧
    ((attachOf link s).re = .joining → (∀ f ∈ s.sw.frames, onPath f = false) →
      exec (.joiningDone link) s = .next (modAttach link (fun x => { x with re := .normal, warm := 0 }) s)) ∧
    (bank < 4 → s.sw.frames = [] → tgetD s.sw.freshCells bank 0 = 0 → tgetD s.sw.freeCells bank [] = [] →
      (∀ x, (attachOf x s).g = 0 ∧ (attachOf x s).s = 0) →
      ∃ u, exec (.gooseSweep bank) s = .next u ∧ rget kGooseSweeps u = min (2 ^ 64 - 1) (rget kGooseSweeps s + 1) ∧
        u.sw.frames = [] ∧ u.mem = s.mem)) ∧
  (∀ (s : State) (p c l : Nat) (f : Frame),
    let g := gateOf l s
    (s.sw.frames.find? (fun f => f.red && f.ingress == p && f.own == c) = some f →
      polOn (polRec p c s) = true → f.bytes * 1000 ≤ (meterNow p c s).tp →
      exec (.redRemeter p c) s = .next (remeterAll p c s)) ∧
    (s.sw.frames.find? (fun f => f.red && f.ingress == p && f.own == c) = some f →
      polOn (polRec p c s) = true → (meterNow p c s).tp < f.bytes * 1000 → polPir (polRec p c s) ≠ 0 →
      exec (.redRemeter p c) s = .next (remeterAll p c
        (timeTo (s.now + cdiv (f.bytes * 1000 - (meterNow p c s).tp) (polPir (polRec p c s))) s))) ∧
    (g.st = .pending → g.closing = false →
      exec (.gateSwitch l) s = .next (gateEnter l 0 g.t
        (gateTo l { g with st := .running, oper := g.pend, pend := 0, closing := false } (timebaseTo g.t s)))) ∧
    (g.st = .swapping → g.closing = false →
      let cut := (g.t - gtBase g.oper) % gtCycle g.oper != 0
      exec (.gateSwitch l) s = .next (gateEnter l 0 g.t
        (gateTo l { g with st := .running, oper := g.pend, pend := 0, closing := false }
          (onlyIf cut (bump kGateTruncated) (bump kGateChanges (timebaseTo g.t s)))))) ∧
    (g.st = .running → (gateOf l (timebaseTo g.entryEnd s)).stepped = false →
      let u := timebaseTo g.entryEnd s
      (g.entry + 1 < gtCount g.oper → exec (.gateEntryEnd l) s = .next (gateEnter l (g.entry + 1) g.entryEnd u)) ∧
      (gtCount g.oper ≤ g.entry + 1 → g.closing = true →
        exec (.gateEntryEnd l) s = .next (gateTo l { gateDflt with st := .none } u)) ∧
      (gtCount g.oper ≤ g.entry + 1 → g.closing = false →
        exec (.gateEntryEnd l) s = .next (gateEnter l 0 g.entryEnd u))))

/-- R552 to R559, R586, Table 18.3: COLD_RST_N and PWR_OK put the 2448 into the state of a cold reset: every extent,
job, item, session and byte of memory gone, the ledger kept; the reset's release starts the start-up anew with the
straps read; WARM_RST_N begins a warm reset that stops the work, which ends when quiet or at its bound; a queued reset
begins at its time; absorbed ones are counted. -/
def Obligations.ResetEventsComplete : Prop :=
  ∀ (s : State) (nodeId bootSel l job : Nat) (r : ResetRec) (rest : List ResetRec),
    (absorbed .cold 0 s = false →
      ∀ c ∈ [Instr.coldRstAssert, Instr.pwrOkLow], ∃ u, exec c s = .next u ∧ u.mem = [] ∧ u.pool.extents = [] ∧
        u.pool.jobs = [] ∧ u.work.items = [] ∧ u.dict.sessions = [] ∧ u.rst.coldHeld = true ∧ u.ring.node = s.ring.node ∧
        u.sec.flash = s.sec.flash ∧ u.pending = s.pending) ∧
    (absorbed .cold 0 s = true → ∀ c ∈ [Instr.coldRstAssert, Instr.pwrOkLow],
      exec c s = .next (bump kResetsAbsorbed (setRst (fun x => { x with coldHeld := true }) s))) ∧
    (absorbed .warm 0 s = true → s.rst.quiesce = none →
      exec .warmRstAssert s = .next (bump kResetsAbsorbed (setRst (fun x => { x with warmHeld := true }) s))) ∧
    (rget kStartState s = 0 → s.rst.halted = false → (∀ r ∈ s.rst.inProgress, r.scope ≠ .warm) →
      ∃ u, exec (.coldRstRelease nodeId bootSel) s = .next u ∧ u.rst.coldHeld = false ∧ u.rst.startAt = s.now ∧
        u.ring.node = nodeId % 32 ∧ u.sec.bootSel = bootSel % 4 ∧ (nodeId % 32 = 0 → u.ring.st = .forwardOnly)) ∧
    (absorbed .warm 0 s = false →
      ∃ u r, exec .warmRstAssert s = .next u ∧ u.rst.inProgress = [r] ∧ r.scope = .warm ∧ r.cause = causePin ∧
        r.at_ = s.now) ∧
    exec .warmRstRelease s = .next (setRst (fun x => { x with warmHeld := false }) s) ∧
    (s.rst.pendingR = r :: rest → exec .resetBegin s =
      .next (beginReset r (timeTo r.at_ (setRst (fun x => { x with pendingR := rest }) s)))) ∧
    (warmRec s = some r → quiesced s = true → exec .quiesceDone s = .next (warmUnits r s)) ∧
    (∀ t, warmRec s = some r → s.rst.quiesce = some t →
      exec .quiesceTimeout s = .next (cutQuiesce r (timeTo (t + rget kQuiesceUs s * nsUs) s))) ∧
    (s.rst.inProgress.find? (fun r => r.scope == .job && r.target == job) = some r → workDone (fun j => j == job) s = true →
      exec (.jobResetDone job) s = .next (jobResetPost .done job (raise 0xB040 0x01 2 job (finishReset r
        { s with work := { s.work with jobResets := s.work.jobResets.erase job } })))) ∧
    (s.rst.inProgress.find? (fun r => r.scope == .larder && r.target == l) = some r →
      exec (.larderResetDone l) s = .next (settle (finishReset r (rejoin (attGw l)
        (modLarder l (fun x => { x with resetting := false }) s))))) ∧
    (l < 12 → exec (.larderFault l) s = .next (beginLarderReset l causeFault s)) ∧
    (∃ u, exec .vauxRemoved s = .next u ∧ u.rst.vaux = false ∧ u.rst.ledger = [] ∧ u.mem = [] ∧ u.pool.extents = []) ∧
    (s.rst.vaux = false →
      exec .vauxApplied s = .next (setRst (fun x => { x with vaux := true, coldHeld := true }) s))

/-- R548, R550, R551, Table 18.1: firmware starts a 2448 that is held by nothing; each self-test and each training that
the start waits for is noted, and the last makes the 2448 READY, with STARTED once and a START record. R560, R562, R563,
Table 18.4: the watchdog and a fatal error of a unit of Table 18.5 drive FAULT_N and write a FATAL record; with
AUTO_WARM a warm reset follows; a pin glitch is counted. -/
def Obligations.StartAndFatalEventsComplete : Prop :=
  (∀ (s : State) (i l hen : Nat) (ok : Bool) (d : List Byte),
    (rget kStartState s = 0 → heldDown s = false →
      (s.rst.configApplied = false → exec .firmwareStart s = .next (tryReady (settle (coldStart s)))) ∧
      (s.rst.configApplied = true → exec .firmwareStart s = .next (tryReady (settle (warmStart s))))) ∧
    (rget kStartState s ≠ 0 →
      (i < 4 → exec (.sheepdogSelfTestDone i) s =
        .next (tryReady (sliceJoins i (modSlice i (fun x => { x with tested := true }) s)))) ∧
      (l < 12 → (larderOf l s).trained = false → (larderOf l s).failed = false →
        exec (.stackTrainingDone l ok) s = .next (tryReady (settle (publishStacks (onlyIf (!ok) (larderRecord l 3 clsBlock)
          (modLarder l (fun x => { x with trained := ok, failed := !ok }) s)))))) ∧
      exec .vaultJournalScanDone s =
        .next (publish kVaultUsable (vaultGranules s) (setRst (fun x => { x with trayScanDone := true }) s)) ∧
      (s.sec.identityDone = false →
        let u := setSec (fun z => { z with identityAt := some s.now, identityDone := true }) s
        (helperData s.sec.flash = some d → Config.identityModulus (identitySeed d) = s.sec.flash.idModulus →
          exec .identityDerived s = .next (tryReady (settle (each (List.range fabricPorts) tryBind u)))) ∧
        (helperData s.sec.flash = none → exec .identityDerived s =
          .next (tryReady (settle (each (List.range fabricPorts) tryBind (rset kIdentityStatus 1 u))))))) ∧
    ((henOf hen s).st = .selfTest →
      exec (.henSelfTestDone hen false) s = .next (tryReady (henTested hen false s)) ∧
      (let x := henOf hen s
       exec (.henSelfTestDone hen true) s = .next (tryReady (settle (setHen hen { x with
         st := if x.outPending then .outCmd else .idle, outPending := false, byFault := false }
         (timeTo (x.testAt + 6 * nsMs) s)))))) ∧
    (readyNow s = true → s.rst.seenReady = false →
      rget kStartState (tryReady s) = startReady ∧ (tryReady s).rst.seenReady = true ∧
      (tryReady s).rst.ledger.length = s.rst.ledger.length + (if s.rst.ledger.length < ledgerMax then 1 else 0)) ∧
    (readyNow s = false → tryReady s = s)) ∧
  (∀ (s : State) (unitN detail pin : Nat),
    let d := draw s
    let u := setRst (fun x => { x with faultN := true }) (fatalRecord 0x01 (d.1 % 2 ^ 240) d.2)
    let v := onlyIf (unitN == 2) (setRst (fun x => { x with sramStruck := true })) s
    let w := setRst (fun x => { x with faultN := true }) (fatalRecord unitN detail v)
    exec .watchdogExpiry s = .next (if rget kAutoWarm s = 1 then beginWarm causeWatchdog u else u) ∧
    (2 ≤ unitN → unitN ≤ 5 →
      exec (.fatalError unitN detail) s = .next (if rget kAutoWarm s = 1 then beginWarm causeFatal w else w)) ∧
    (u.rst.faultN = true ∧ w.rst.faultN = true ∧ rget kFatalCount u = min (2 ^ 64 - 1) (rget kFatalCount s + 1)) ∧
    (pin < 4 → exec (.pinGlitch pin) s = .next (bump kPinGlitches s)))

/-- R581, R582, R589, R592, R593, R596 to R601: a step of VCORE of at most 25 mV within its bounds is made; a poll that
is answered gives a rail's values; an alert gives its status; the power loop halves the fraction when the 10 µs average
passes the cap, and at each 100 µs boundary takes one sixteenth off or adds one; a reading of a sensor is kept, and a
trip powers the rails down; THROTTLE_N's edge counts outside the dwell, and 60 s of it latch the limit; a lost reference
clock halts the 2448. -/
def Obligations.PowerAndThermalEventsComplete : Prop :=
  ∀ (s : State) (mv r amps watts word k t : Nat) (milli : Int) (low : Bool),
    (mapped railVcore s = true → vcoreLegal mv = true →
      (mv ≤ s.pow.vcore + 25 → s.pow.vcore ≤ mv + 25 →
        exec (.vcoreAdjust mv) s = .next (setVcore mv (timeTo (s.pow.vcoreAt + nsMs) s))) ∧
      (s.pow.vcore < mv → mv ≤ s.pow.vcore + 25 → exec (.marginLow mv) s = .next (setVcore mv s))) ∧
    (mapped r s = true →
      let v := tgetD s.pow.rails r (0, 0, 0, 0, s.now)
      exec (.regulatorPoll r mv amps watts true) s = .next (setPow (fun p =>
        { p with rails := tput p.rails r (mv % 65536, amps % 65536, watts % 65536, v.2.2.2.1, s.now) }) s) ∧
      exec (.vrbAlert r word false) s = .next (setPow (fun p =>
        { p with rails := tput p.rails r (v.1, v.2.1, v.2.2.1, word % 65536, v.2.2.2.2) }) s)) ∧
    (let u := setPow (fun p => { p with avg10 := watts }) s
     (s.pow.cap < watts → exec (.powerSample watts) s = .next (setFrac (max 1 (s.pow.frac / 2)) u)) ∧
     (watts ≤ s.pow.cap → exec (.powerSample watts) s = .next u)) ∧
    (let u := setPow (fun p => { p with cap := rget kPowerCap s, guard := rget kPowerGuard s, avg100 := watts }) s
     let target := rget kPowerCap s - rget kPowerGuard s
     (target < watts → exec (.powerBoundary watts) s = .next (setFrac (max 1 (s.pow.frac - 1)) u)) ∧
     (watts + 100 < target → exec (.powerBoundary watts) s = .next (setFrac (min 16 (s.pow.frac + 1)) u)) ∧
     (watts ≤ target → target ≤ watts + 100 → exec (.powerBoundary watts) s = .next u)) ∧
    (let u := setPow (fun p => { p with temps := tput p.temps k milli }) s
     (k < dieSensors → sensorLarder k = none → milli ≤ 109999 →
       exec (.thermalRead k milli) s = .next (noteMax milli u)) ∧
     (72 ≤ k → k < 74 → milli ≤ 70000 → exec (.thermalRead k milli) s = .next u)) ∧
    (k < dieSensors → s.pow.tripped = false → exec (.thermalTrip120c k) s =
      .next (setPow (fun p => { p with tripped := true }) (haltUnits (fatalRecord 0x20 1
        (each ((List.range rails).filter (fun r => mapped r s)) (fun r => send (.railOff r))
          (setRst (fun x => { x with faultN := true }) s)))))) ∧
    (inDwell s = true → exec (.throttleNEdge low) s = .next (bump kThrottleIgnored s)) ∧
    (inDwell s = false → low ≠ s.pow.throttleLow → exec (.throttleNEdge low) s = .next (takeEdge low s)) ∧
    (s.pow.throttleAt = some t → s.now ≤ t + dwellNs → low = s.pow.throttleLow →
      exec (.throttleDwellEnd low) s = .next (timeTo (t + dwellNs) s)) ∧
    (s.pow.throttleLowSince = some t → s.pow.latched = false →
      exec .throttleStuck s = .next (raise 0xC000 0x01 0 0
        (setPow (fun p => { p with latched := true, pin := rget kThrottleFraction s }) (timeTo (t + 60 * nsS) s)))) ∧
    (s.pow.refLost = false → exec .refClkLost s = .next (setPow (fun p => { p with refLost := true })
      (haltUnits (setRst (fun x => { x with faultN := true }) (fatalRecord 0x22 0 s)))))

/-- R496, R500 to R504, R507, R509, Tables 16.3 to 16.7: in their turn, COMMIT makes the staged writes and answers a
status for each; DISCARD forgets them; a staged WRITE is kept; a block transfer opens, takes its bytes in order, and its
close makes the write when length and CRC agree; a subscription takes the lowest free handle and its removal frees it;
EVENT_ACK removes the events up to its sequence; SESSION_END ends the session after its answer. -/
def Obligations.ServicesTakeEffect : Prop :=
  ∀ (rq : Req) (x : Session) (s : State) (index sub v off crc period last hd : Nat) (data : List Byte) (o : Obj) (b : Block2),
    InTurn rq x s →
    let t := heard rq x s
    let key := index * 256 + sub
    let now (c : Instr) (r : Rsp) (u : State) : Prop := exec c s = .next (answered rq x r u)
    let ok := rspOk .done 0 []
    let put (y : Option Block2) (u : State) := modSession x.id (fun z => { z with block := y }) u
    (let r := commitStaged x.staged none t
     now (.commit rq) (rspOk .done 0 (r.1.map (fun st => BitVec.ofNat 8 (statusCode st))))
       (bumpN kCommits r.1.length (modSession x.id (fun y => { y with staged := [] }) r.2))) ∧
    now (.serviceDiscard rq) ok (modSession x.id (fun y => { y with staged := [] }) t) ∧
    (rq.stage = true → writeAbort x key rq.len true t = none →
      now (.dictWrite rq index sub v) ok (modSession x.id (fun y => { y with staged := y.staged ++
        [{ key := key, inst := instFor x key, v := v % 256 ^ Machine.sizeOf key, len := rq.len }] }) t)) ∧
    (x.block = none → obj? key = some o → o.acc ≠ .ro → o.size ≠ 0 → index < 0xF000 →  sub < 256 →
      now (.blockOpen rq index sub true o.size) (rspOk .done 0 (bytesOf 8 o.size))
        (put (some { key := key, write := true, total := o.size, data := [], at_ := s.now }) t)) ∧
    (x.block = some b →
      (b.write = true → off * 1024 = b.data.length → b.data.length + data.length ≤ b.total →
        now (.blockData rq off data) ok (put (some { b with at_ := s.now, data := b.data ++ data })
          (put (some { b with at_ := s.now }) t))) ∧
      (b.write = false → off * 1024 < b.total →
        now (.blockData rq off data) (rspOk .done 0 ((b.data.drop (off * 1024)).take 1024))
          (put (some { b with at_ := s.now }) t)) ∧
      (b.write = false → now (.blockClose rq crc) (rspOk .done 0 (bytesOf 4 (crc32c b.data))) (put none t)) ∧
      (b.write = true → b.data.length = b.total → crc = crc32c b.data → b.key = kFwImage →
        now (.blockClose rq crc) ok (bump kCommits (writeImage b.data (put none t)))) ∧
      (b.write = true → b.data.length = b.total → crc ≠ crc32c b.data →
        now (.blockClose rq crc) (rspAbort abBlockCheck) (put none t))) ∧
    (subAbort x key 0 last = none → freeHandle x = some hd →
      now (.subscribe rq index sub 0 period last) (rspOk .done hd []) (modSession x.id (fun y => { y with subs := y.subs ++
        [{ handle := hd, mode := 0, key := key, inst := instFor x key, last := last, period := period, sentAt := s.now,
           seen := readAny key (instFor x key) t }] }) t)) ∧
    (x.subs.any (fun u => u.handle == hd) = true →
      now (.unsubscribe rq hd) ok (modSession x.id (fun y => { y with subs := y.subs.filter (fun u => u.handle != hd) }) t)) ∧
    exec (.eventAck rq) s = .next (ackEvents x.id rq.seq t) ∧
    (x.txSeq + 1 < 0xFFFFFFFF → ∃ u, exec (.sessionEnd rq) s = .next u ∧ sessionOf x.id u = none ∧
      .service x.id rq.seq ok ∈ u.out)

/-- R490, R491: requests of a session run in the order of REQ_SEQ: one ahead of its turn by at most 15 is held, one
whose response is stored gets that response again and nothing runs twice, one too far ahead aborts. R488: a service
frame whose authentication fails, or that is not new, is counted and dropped: nothing else changes. -/
def Obligations.RequestsRunInOrderOnce : Prop :=
  (∀ (rq : Req) (x : Session) (s : State) (r : Rsp),
    let d := (rq.seq + 2 ^ 32 - expected x) % 2 ^ 32
    let t := heard rq x s
    HeardIn rq x s →
    (1 ≤ d → d ≤ 15 → (∀ h ∈ x.heldReqs, h.1 ≠ rq.seq) → waitingReqs s < 256 →
      exec (.serviceDiscard rq) s =
        .next (modSession x.id (fun y => { y with heldReqs := y.heldReqs ++ [(rq.seq, .discard, s.now)] }) t)) ∧
    (16 ≤ d → x.cache.find? (fun c => c.1 == rq.seq) = some (rq.seq, r) →
      exec (.serviceDiscard rq) s = .next (reply x.id rq.seq r (bump kReplayResponses t))) ∧
    (16 ≤ d → d < 2 ^ 31 → (∀ c ∈ x.cache, c.1 ≠ rq.seq) →
      exec (.serviceDiscard rq) s = .next (reply x.id rq.seq (rspAbort abSeqWindow) t)) ∧
    (2 ^ 31 ≤ d → (∀ c ∈ x.cache, c.1 ≠ rq.seq) →
      exec (.serviceDiscard rq) s = .next (reply x.id rq.seq (rspAbort abSeqOld) t))) ∧
  (∀ (rq : Req) (x : Session) (s : State) (f v : Nat), nodeAccepts s = true → rq.session ≠ 0 →
    sessionOf rq.session s = some x → (rq.tagOk = false ∨ (x.rxSeq = some f ∧ rq.frameSeq ≤ f)) →
    ∀ c ∈ [Instr.commit rq, Instr.serviceDiscard rq, Instr.sessionEnd rq, Instr.eventAck rq, Instr.jobOpen rq v,
           Instr.keyLoad rq v, Instr.resetCmdCold rq, Instr.debugToken rq v],
      exec c s = .next (bump kSealFails s))

/-- R490, R496, R502, R505, R507, R509, R535, R541, R546: the timers of services: an abandoned block transfer, held
requests whose gap does not fill, an idle session, a subscription's change or period, events sent again, a handshake, a
debug token, a paced response, and the end of a store write. -/
def Obligations.ServiceTimersComplete : Prop :=
  ∀ (s : State) (id hd port tag : Nat) (x : Session) (b : Block2) (h : Nat × Service × Nat) (u : Sub) (k : Nat × Nat × Nat)
    (p : Paced) (values : List (Nat × Nat × Nat)) (a : Nat × List (Nat × Nat × Nat)) (due : Nat),
    (sessionOf id s = some x →
      (x.block = some b → exec (.blockTransferTimeout id) s =
        .next (modSession id (fun y => { y with block := none }) (timeTo (b.at_ + nsS) s))) ∧
      (x.heldReqs.head? = some h →
        let t := timeTo (h.2.2 + 10 * nsMs) s
        exec (.requestGapTimeout id) s = .next (modSession id (fun x =>
          { x with heldReqs := x.heldReqs.filter (fun h => decide (t.now < h.2.2 + 10 * nsMs)) }) t)) ∧
      (∃ t, exec (.sessionIdleTimeout id) s = .next t ∧ sessionOf id t = none ∧
        t.now = max s.now (x.activeAt + rget kSessionIdleMs s * nsMs)) ∧
      (x.events ≠ [] → exec (.eventResend id) s =
        (let t := timeTo (x.resendAt + rget kEventResendUs s * nsUs) s
         .next (each x.events (fun e s => frameOut id (send (.event id e.1 e.2) s))
           (modSession id (fun y => { y with resendAt := t.now }) t)))) ∧
      (subOf id hd s = some u → u.mode = 0 → readAny u.key u.inst s ≠ u.seen →
        exec (.notifyOnChange id hd) s = .next (notify id u (timeTo (u.sentAt + nsMs) s))) ∧
      (subOf id hd s = some u → u.mode = 1 →
        exec (.notifyPeriodic id hd) s = .next (notify id u (timeTo (u.sentAt + u.period * nsMs) s)))) ∧
    (s.sec.handshakes.find? (fun h => h.1 == id) = some k →
      exec (.handshakeTimeout id) s = .next (dropHandshake id (timeTo (k.2.2 + handshakeNs) s))) ∧
    (rget kDebugState s = debugInForce →
      exec .debugTokenExpiry s = .next (drawNonce (raise 0xA000 0x03 0 0
        (rset kDebugState debugUsed (timeTo s.sec.debugUntil s))))) ∧
    (s.txn.paced.find? (fun p => p.port == port && p.tag == tag) = some p →
      exec (.isoResponseRelease port tag) s = .next (send (.response p.port p.tag p.seq p.job p.status p.op p.flags p.tc p.data)
        (timeTo p.due { s with txn := { s.txn with paced := s.txn.paced.erase p } }))) ∧
    (s.dict.saving = some (values, due) →
      let g := ((newestCopy s).map (fun c => c.1 + 1)).getD 1 % 2 ^ 32
      let done (d : Dict) : State := rset kConfigResult (pack [(statusCode .done, 56), (g, 0)]) { s with dict := d }
      (s.dict.storeA = none →
        exec .configWriteDone s = .next (done { s.dict with saving := none, storeA := some (g, values) })) ∧
      (s.dict.storeA = some a → (∀ b, s.dict.storeB = some b → b.1 ≤ a.1) →
        exec .configWriteDone s = .next (done { s.dict with saving := none, storeB := some (g, values) })))

/-- R531 to R535, R549, Table 17.2: each SPDM request of session 0 of a 2448 whose identity is derived gets the response
its message of DSP0274 is given; a KEY_EXCHANGE of a new session number opens a handshake; a FINISH whose signature
earns a role with room opens the session in that role and ends the handshake. -/
def Obligations.SpdmRequestsComplete : Prop :=
  ∀ (rq : Req) (s : State) (off len nonce op id pub : Nat) (ok : Bool) (msg : List Byte) (sig m e role : Nat)
    (k : Nat × Nat × Nat),
    nodeAccepts s = true → identityFailed s = false → s.sec.identityDone = true → rq.formOk = true →
    let answer (d : List Byte) (u : State) : State := reply rq.session rq.seq (rspOk .done 0 d) u
    (rq.session = 0 →
      exec (.getVersion rq) s = .next (answer (spdmMsg 0x04 0 0 [0x00, 0x01, 0x00, 0x13]) s) ∧
      exec (.getCapabilities rq) s = .next (answer (spdmMsg 0x61 0 0 (bytesOf 4 0x3F6)) s) ∧
      exec (.negotiateAlgorithms rq ok) s = .next (answer (spdmMsg 0x63 0 0 [if ok then 1 else 0]) s) ∧
      exec (.getDigests rq) s = .next (answer (spdmMsg 0x01 0 1 (bytesOf 64 (digest512 (certChain s)))) s) ∧
      (let part := ((certChain s).drop off).take (min len 1000)
       exec (.getCertificate rq 0 off len) s = .next (answer (spdmMsg 0x02 0 0
         (bytesOf 2 part.length ++ bytesOf 2 ((certChain s).length - off - part.length) ++ part)) s)) ∧
      (let r := challengeAuth nonce s
       exec (.challenge rq 0 nonce) s = .next (answer r.1 r.2) ∧ r.2 = { s with freeCtr := s.freeCtr + 1 }) ∧
      (let r := measurements op nonce s
       op ≤ 9 → exec (.getMeasurements rq op nonce) s = .next (answer r.1 r.2) ∧
         r.2 = { s with freeCtr := s.freeCtr + 1 }) ∧
      (let r := keyExchange id pub s
       s.sec.handshakes = [] → id ≠ 0 → sessionOf id s = none →
         exec (.keyExchange rq id pub) s = .next (answer r.1 r.2) ∧
         r.2.sec.handshakes = [(id, pub, s.now)] ∧ r.2.dict.sessions = s.dict.sessions)) ∧
    (s.sec.handshakes.find? (fun h => h.1 == rq.session) = some k → rq.tagOk = true →
      finishRole msg sig m e s = some role → roleRoom role s = true →
      let u := openSession rq.session role rq.node rq.frameSeq (dropHandshake rq.session s)
      exec (.finish rq msg sig m e) s = .next (answer (spdmMsg 0x65 0 0 []) u) ∧
      (∀ y ∈ u.dict.sessions, y.role = roleManager → role = roleManager → y.id = rq.session) ∧
      (∀ h ∈ u.sec.handshakes, h.1 ≠ rq.session))

/-- R479 to R484, R486, Table 16.1: a ring frame is counted and goes on with one hop less; DISCOVER adds the node it
reaches; a failed port wraps the ring, a second isolates it, and HEAL restores it step by step. R514 to R516, R518,
R602, Table 16.11: a SYNC that the node takes is noted with its arrival less the link's delay, and its FOLLOW_UP gives
the offset to the servo; one that it must not use is counted; ANNOUNCE goes on; the loss of SYNC and of PPS lead to
holdover; the delay exchange runs each second; a second's edge goes out where it is enabled. -/
def Obligations.RingAndTimeEventsComplete : Prop :=
  (∀ (s : State) (f : RingFrame) (map tag cause : Nat) (onB : Bool),
    exec (.ringFrameForward f) s = .next (forward f Out.ring (ringCount f s)) ∧
    (takes f (ringCount f s) = false → exec (.discover f map tag) s = .next (forward f (fun b f => Out.discover b f map) (ringCount f s))) ∧
    (takes f (ringCount f s) = true → s.ring.node ≠ 0 → bit map s.ring.node = false →
      let m := mapOf (bitsOf map 32 ++ [s.ring.node])
      exec (.discover f map tag) s =
        .next (forward f (fun b f => Out.discover b f m) (rset kRingNodes m (ringCount f s)))) ∧
    (ringFailed onB s = false →
      let u := modRport onB (fun p => { p with
        up := false, failed := cnt32 p.failed, restoredAt := none, los := cause == 0,
        fec := if cause = 2 then cnt32 p.fec else p.fec }) s
      (s.ring.st = .normal → exec (.ringPortFailed ⟨onB, cause⟩) s = .next (raise 0x1040 0x01 1 (b2n onB)
        (bump kRingWraps (ringTo (if onB then .wrappedB else .wrappedA) u)))) ∧
      ((s.ring.st = .wrappedA ∨ s.ring.st = .wrappedB) → exec (.ringPortFailed ⟨onB, cause⟩) s = .next (ringTo .isolated u))) ∧
    (let u := modRport onB (fun p => { p with up := true, los := false, restoredAt := some s.now }) s
     exec (.ringPortRestored onB) s = .next (if ringFailed onB u then send (.heal onB) u else u)) ∧
    (let u := modRport onB (fun p => { p with up := true, los := false }) s
     (s.ring.st = (if onB then .wrappedB else .wrappedA) →
       exec (.heal onB) s = .next (raise 0x1040 0x02 1 (b2n onB) (ringTo .normal u))) ∧
     (s.ring.st = .isolated →
       exec (.heal onB) s = .next (raise 0x1040 0x02 1 (b2n onB) (ringTo (if onB then .wrappedA else .wrappedB) u))))) ∧
  (∀ (s : State) (p : Ptp) (onB : Bool) (seqId delay t a : Nat),
    let c := ringCount p.frame s
    let on (u : State) : State := forward p.frame (fun b f => Out.ptp b { p with frame := f }) u
    (takes p.frame c = true → ptpOk p c = true → exec (.sync p) s =
      .next (on (setTime (fun x => { x with syncAt := some (timebase c - (rport p.frame.onB c).delay, p.seqId),
                                            interval := syncNs p.logInterval, lastSync := s.now }) (bump kSyncAccepted c)))) ∧
    (takes p.frame c = true → ptpOk p c = false → exec (.sync p) s = .next (on (bump kSyncRejected c)) ∧
      exec (.announce p) s = .next (on (bump kSyncRejected c))) ∧
    (takes p.frame c = true → ptpOk p c = true → s.time.syncAt = some (a, p.seqId) → rget kTimeSource s ≠ 1 →
      let d := (rport p.frame.onB c).delay
      let gain := ((timebase c : Int) - s.now) - ((a + d : Nat) - s.time.lastSync)
      let r := draw (offsetIn ((a : Int) - p.origin) ((a : Int) - p.origin + gain) (setTime (fun x => { x with syncAt := none }) c))
      exec (.followUp p) s = .next (forward p.frame (fun b f => Out.ptp b { p with
        frame := f, origin := p.origin + ((d + r.1 % 301 : Nat) : Int) }) r.2)) ∧
    ((s.time.st = .locking ∨ s.time.st = .locked) → exec .syncLoss s =
      .next (toHoldover (timeTo (s.time.lastSync + rget kSyncLoss s * s.time.interval) s))) ∧
    (nodeAccepts s = true → ringFailed onB s = false →
      exec (.pdelayReq onB seqId) s = .next (send (.pdelay onB true seqId) s) ∧
      ((rport onB s).pseq = seqId →
        exec (.pdelayResp onB seqId delay) s = .next (setRport onB { rport onB s with delay := delay } s)) ∧
      (let u := timeTo ((rport onB s).pdelayAt + nsS) s
       exec (.pdelayTimer onB) s = .next (send (.pdelay onB false ((rport onB s).pseq + 1))
         (setRport onB { rport onB s with pseq := (rport onB s).pseq + 1, pdelayAt := u.now } u)))) ∧
    (s.time.ppsAt = none → rget kTimeSource s ≠ 1 →
      let u := timeTo t s
      exec (.ppsIn t) s = .next (setTime (fun x =>
        { x with ppsAt := some u.now, ppsAcc := timebase u, ppsInterval := 0, ppsLost := false }) u)) ∧
    (s.time.ppsAt = some a → s.time.ppsLost = false → rget kTimeSource s ≠ 1 →
      exec .ppsLost s = .next (raise 0xC000 0x04 0 0 (setTime (fun x => { x with ppsLost := true })
        (timeTo (a + 3 * nsS / 2) s)))) ∧
    (let u := timebaseTo ((timebase s / nsS + 1) * nsS) s
     exec .ppsOut s = .next (if rget kPpsOutEnable s = 1 then send .pps u else u)))
end

