-- ==== Sys2Proof/Laws/Memory.lean ====
section
/-!
SUPPORT. Laws of the canonical memory: what a byte reads as after a write, a clear or a copy, that each of them keeps
the canonical form, and that the form is canonical: memories that read alike are equal.
-/
namespace Sys2Proof.Machine

/-! ### The canonical form is kept -/

theorem Memory.from_mono {lo lo' : Nat} (h : lo' ≤ lo) : ∀ {m}, Memory.from lo m = true → Memory.from lo' m = true
  | [], _ => rfl
  | (k, b) :: r, hm => by
    simp only [Memory.from, Bool.and_eq_true, decide_eq_true_eq] at hm ⊢
    exact ⟨⟨by omega, hm.1.2⟩, hm.2⟩

theorem memPut_from : ∀ (m : List Host.Cell) (lo a : Nat) (b : Byte), lo ≤ a → Memory.from lo m = true →
    Memory.from lo (memPut m a b) = true
  | [], lo, a, b, h, _ => by
    simp only [memPut]
    split <;> simp_all [Memory.from]
  | (k, c) :: r, lo, a, b, h, hm => by
    simp only [Memory.from, Bool.and_eq_true, decide_eq_true_eq, bne_iff_ne] at hm
    obtain ⟨⟨hk, hc⟩, hr⟩ := hm
    simp only [memPut]
    split
    · split
      · simp only [Memory.from, Bool.and_eq_true, decide_eq_true_eq, bne_iff_ne]
        exact ⟨⟨hk, hc⟩, hr⟩
      · rename_i h1 h2
        simp only [Memory.from, Bool.and_eq_true, decide_eq_true_eq, bne_iff_ne]
        exact ⟨⟨h, h2⟩, ⟨by omega, hc⟩, hr⟩
    · split
      · split
        · exact Memory.from_mono (by omega) hr
        · rename_i h1 h2 h3
          simp only [Memory.from, Bool.and_eq_true, decide_eq_true_eq, bne_iff_ne]
          exact ⟨⟨h, h3⟩, by subst h2; exact hr⟩
      · simp only [Memory.from, Bool.and_eq_true, decide_eq_true_eq, bne_iff_ne]
        exact ⟨⟨hk, hc⟩, memPut_from r (k + 1) a b (by omega) hr⟩

/-- Writing a byte keeps the canonical form. -/
theorem memPut_wf {m : List Host.Cell} (a : Nat) (b : Byte) (h : Memory.wf m = true) :
    Memory.wf (memPut m a b) = true := memPut_from m 0 a b (Nat.zero_le _) h

/-- Writing bytes keeps the canonical form. -/
theorem memWrite_wf : ∀ {m : List Host.Cell} (a : Nat) (l : List Byte), Memory.wf m = true →
    Memory.wf (memWrite m a l) = true
  | _, _, [], h => h
  | _, a, b :: r, h => memWrite_wf (a + 1) r (memPut_wf a b h)

/-- Writing some of the bytes keeps the canonical form. -/
theorem memWriteSome_wf : ∀ {m : List Host.Cell} (a : Nat) (l : List (Option Byte)), Memory.wf m = true →
    Memory.wf (memWriteSome m a l) = true
  | _, _, [], h => h
  | _, a, none :: r, h => memWriteSome_wf (a + 1) r h
  | _, a, some b :: r, h => memWriteSome_wf (a + 1) r (memPut_wf a b h)

theorem filter_from (p : Host.Cell → Bool) : ∀ (m : List Host.Cell) (lo : Nat), Memory.from lo m = true →
    Memory.from lo (m.filter p) = true
  | [], _, _ => rfl
  | (k, b) :: r, lo, h => by
    simp only [Memory.from, Bool.and_eq_true, decide_eq_true_eq] at h
    have hr := filter_from p r (k + 1) h.2
    simp only [List.filter]
    split
    · simp only [Memory.from, Bool.and_eq_true, decide_eq_true_eq]
      exact ⟨h.1, hr⟩
    · exact Memory.from_mono (by omega) hr

/-- Clearing a range keeps the canonical form. -/
theorem memClear_wf {m : List Host.Cell} (lo hi : Nat) (h : Memory.wf m = true) :
    Memory.wf (memClear m lo hi) = true := filter_from _ m 0 h

/-- Writing a list of bytes one by one keeps the canonical form. -/
theorem foldl_memPut_wf {α : Type} (f : α → Nat) (g : α → Byte) : ∀ (l : List α) {m : List Host.Cell},
    Memory.wf m = true → Memory.wf (l.foldl (fun m x => memPut m (f x) (g x)) m) = true
  | [], _, h => h
  | x :: l, _, h => foldl_memPut_wf f g l (memPut_wf (f x) (g x) h)

/-! ### Reading after a write -/

theorem memGet_below : ∀ (m : List Host.Cell) (lo a : Nat), Memory.from lo m = true → a < lo → memGet m a = 0
  | [], _, _, _, _ => rfl
  | (k, b) :: r, lo, a, h, ha => by
    simp only [Memory.from, Bool.and_eq_true, decide_eq_true_eq] at h
    simp only [memGet, if_pos (show a < k by omega)]

theorem memGet_memPut_from : ∀ (m : List Host.Cell) (lo a x : Nat) (b : Byte), Memory.from lo m = true →
    memGet (memPut m a b) x = if x = a then b else memGet m x
  | [], lo, a, x, b, _ => by
    simp only [memPut]
    split
    · rename_i h; simp [memGet, h]
    · simp only [memGet]
      split
      · rw [if_neg (by omega)]
      · rfl
  | (k, c) :: r, lo, a, x, b, hm => by
    simp only [Memory.from, Bool.and_eq_true, decide_eq_true_eq] at hm
    simp only [memPut]
    split
    · rename_i hak
      split
      · rename_i hb
        split
        · rename_i hx; subst hx; subst hb; simp [memGet, hak]
        · rfl
      · simp only [memGet]
        split
        · rename_i hx; rw [if_neg (show ¬ x = a by omega), if_pos (show x < k by omega)]
        · rfl
    · rename_i hak
      split
      · rename_i hk
        subst hk
        split
        · rename_i hb
          subst hb
          split
          · rename_i hx; subst hx; exact memGet_below r _ _ hm.2 (by omega)
          · simp only [memGet]
            split
            · exact memGet_below r _ _ hm.2 (by omega)
            · rfl
        · simp only [memGet]
          split
          · rename_i hx; rw [if_neg (show ¬ x = a by omega)]
          · split <;> rfl
      · rename_i hk
        simp only [memGet]
        split
        · rw [if_neg (show ¬ x = a by omega)]
        · split
          · rw [if_neg (show ¬ x = a by omega)]
          · exact memGet_memPut_from r (k + 1) a x b hm.2

/-- A byte written reads back, and every other byte reads as before. -/
theorem memGet_memPut {m : List Host.Cell} (a x : Nat) (b : Byte) (h : Memory.wf m = true) :
    memGet (memPut m a b) x = if x = a then b else memGet m x := memGet_memPut_from m 0 a x b h

/-- Writing bytes leaves every byte outside them as it was. -/
theorem memGet_memWriteSome_out : ∀ {m : List Host.Cell} (a x : Nat) (l : List (Option Byte)),
    Memory.wf m = true → x < a ∨ a + l.length ≤ x → memGet (memWriteSome m a l) x = memGet m x
  | _, _, _, [], _, _ => rfl
  | _, a, x, none :: r, h, hx => memGet_memWriteSome_out (a + 1) x r h (by simp only [List.length_cons] at hx; omega)
  | m, a, x, some b :: r, h, hx => by
    simp only [List.length_cons] at hx
    rw [memWriteSome, memGet_memWriteSome_out (a + 1) x r (memPut_wf a b h) (by omega), memGet_memPut a x b h,
      if_neg (by omega)]

/-- A byte written by a run of bytes reads back as written. -/
theorem memGet_memWriteSome_in : ∀ {m : List Host.Cell} (a i : Nat) (l : List (Option Byte)) (b : Byte),
    Memory.wf m = true → l[i]? = some (some b) → memGet (memWriteSome m a l) (a + i) = b
  | m, a, 0, some c :: r, b, h, hi => by
    simp only [List.getElem?_cons_zero, Option.some.injEq] at hi
    rw [Nat.add_zero, memWriteSome, memGet_memWriteSome_out (a + 1) a r (memPut_wf a c h) (by omega),
      memGet_memPut a a c h, if_pos rfl, hi]
  | m, a, i + 1, none :: r, b, h, hi => by
    rw [memWriteSome, show a + (i + 1) = a + 1 + i by omega]
    exact memGet_memWriteSome_in (a + 1) i r b h (by simpa using hi)
  | m, a, i + 1, some c :: r, b, h, hi => by
    rw [memWriteSome, show a + (i + 1) = a + 1 + i by omega]
    exact memGet_memWriteSome_in (a + 1) i r b (memPut_wf a c h) (by simpa using hi)
  | _, _, _, [], _, _, hi => by simp at hi
  | _, _, 0, none :: _, _, _, hi => by simp at hi

/-- Clearing a range leaves every byte outside it as it was. -/
theorem memGet_memClear_from : ∀ (m : List Host.Cell) (k lo hi x : Nat), Memory.from k m = true →
    memGet (memClear m lo hi) x = if lo ≤ x ∧ x < hi then 0 else memGet m x
  | [], _, _, _, _, _ => by simp [memClear, memGet]
  | (k, b) :: r, q, lo, hi, x, h => by
    simp only [Memory.from, Bool.and_eq_true, decide_eq_true_eq] at h
    have ih := memGet_memClear_from r (k + 1) lo hi x h.2
    simp only [memClear] at ih ⊢
    rw [List.filter_cons]
    split
    · rename_i hk
      simp only [Bool.or_eq_true, decide_eq_true_eq] at hk
      simp only [memGet]
      split
      · split <;> rfl
      · split
        · rename_i hxk; rw [if_neg (by omega)]
        · exact ih
    · rename_i hk
      simp only [Bool.or_eq_true, decide_eq_true_eq, not_or, Nat.not_lt, Nat.not_le] at hk
      rw [ih]
      split
      · rfl
      · simp only [memGet]
        split
        · exact memGet_below r _ _ h.2 (by omega)
        · rw [if_neg (by omega)]

/-- After a clear, the bytes of the range read zero and every other byte reads as before. -/
theorem memGet_memClear {m : List Host.Cell} (lo hi x : Nat) (h : Memory.wf m = true) :
    memGet (memClear m lo hi) x = if lo ≤ x ∧ x < hi then 0 else memGet m x := memGet_memClear_from m 0 lo hi x h

/-! ### The form is canonical -/

theorem memGet_cons_self (k : Nat) (b : Byte) (r : List Host.Cell) : memGet ((k, b) :: r) k = b := by
  simp only [memGet, Nat.lt_irrefl, if_false, if_true]

theorem memory_ext_from : ∀ (m n : List Host.Cell) (lo : Nat), Memory.from lo m = true → Memory.from lo n = true →
    (∀ a, lo ≤ a → memGet m a = memGet n a) → m = n
  | [], [], _, _, _, _ => rfl
  | [], (k, b) :: r, lo, _, hn, h => by
    simp only [Memory.from, Bool.and_eq_true, decide_eq_true_eq, bne_iff_ne] at hn
    exact absurd (by have := h k hn.1.1; rw [memGet_cons_self] at this; exact this.symm) hn.1.2
  | (k, b) :: r, [], lo, hm, _, h => by
    simp only [Memory.from, Bool.and_eq_true, decide_eq_true_eq, bne_iff_ne] at hm
    exact absurd (by have := h k hm.1.1; rw [memGet_cons_self] at this; exact this) hm.1.2
  | (k, b) :: r, (k', b') :: r', lo, hm, hn, h => by
    simp only [Memory.from, Bool.and_eq_true, decide_eq_true_eq, bne_iff_ne] at hm hn
    have hk : k = k' := by
      rcases Nat.lt_trichotomy k k' with hlt | heq | hgt
      · exact absurd (by have := h k hm.1.1; rw [memGet_cons_self] at this; simpa [memGet, hlt] using this) hm.1.2
      · exact heq
      · exact absurd (by have := h k' hn.1.1; rw [memGet_cons_self] at this; simpa [memGet, hgt] using this.symm) hn.1.2
    subst hk
    have hb : b = b' := by have := h k hm.1.1; rwa [memGet_cons_self, memGet_cons_self] at this
    subst hb
    rw [memory_ext_from r r' (k + 1) hm.2 hn.2 (fun a ha => by
      have := h a (by omega)
      simpa [memGet, show ¬ a < k by omega, show ¬ a = k by omega] using this)]

/-- Memories that read alike everywhere are equal. -/
theorem memory_ext {m n : List Host.Cell} (hm : Memory.wf m = true) (hn : Memory.wf n = true)
    (h : ∀ a, memGet m a = memGet n a) : m = n := memory_ext_from m n 0 hm hn (fun a _ => h a)

end Sys2Proof.Machine
end

