-- ==== Sys2Proof/Laws/Keeps.lean ====
section
/-!
SUPPORT. What every change of the state keeps, whichever command makes it: the queue of waiting commands is not
touched, memory stays canonical, the fault ledger stays within its ring, nothing sent is taken back, and no free value
is drawn twice. The relation is a preorder, so a definition keeps it when each part of it does; the files beside this
one prove it once for every definition of the machine.
-/
namespace Sys2Proof.Machine

/-- What the state t keeps of the state s it came from. -/
structure Keeps (s t : State) : Prop where
  queue : t.pending = s.pending
  mem : Memory.wf s.mem = true → Memory.wf t.mem = true
  ledger : s.rst.ledger.length ≤ ledgerMax → t.rst.ledger.length ≤ ledgerMax
  out : s.out <+: t.out
  free : s.freeCtr ≤ t.freeCtr

theorem Keeps.refl (s : State) : Keeps s s := ⟨rfl, id, id, List.prefix_refl _, Nat.le_refl _⟩

theorem Keeps.trans {r s t : State} (h : Keeps r s) (k : Keeps s t) : Keeps r t :=
  ⟨k.queue.trans h.queue, fun x => k.mem (h.mem x), fun x => k.ledger (h.ledger x), h.out.trans k.out,
    Nat.le_trans h.free k.free⟩

/-- A change of other fields. -/
theorem Keeps.upd {r s : State} {now : Nat} {tbOff : Int} {pool : Pool} {tiers : Tiers} {vers : Vers} {hens : Hens}
    {work : Work} {coding : Coding} {eng : Engines} {kv : Kv} {search : Search} {links : Tbl Link} {txn : Txn} {coh : Coh}
    {sw : Switch} {traf : Traffic} {ring : Ring} {dict : Dict} {time : Time} {sec : Security} {rst : Resets} {pow : Power}
    (h : Keeps r s) (hl : rst.ledger = s.rst.ledger) :
    Keeps r (State.mk now tbOff s.mem pool tiers vers hens work coding eng kv search links txn coh sw traf ring dict time
      sec rst pow s.out s.freeCtr s.pending) :=
  ⟨h.queue, h.mem, fun x => hl ▸ h.ledger x, h.out, h.free⟩

/-- A change of memory and of other fields. -/
theorem Keeps.updMem {r s : State} {now : Nat} {tbOff : Int} {mem : List Host.Cell} {pool : Pool} {tiers : Tiers}
    {vers : Vers} {hens : Hens} {work : Work} {coding : Coding} {eng : Engines} {kv : Kv} {search : Search}
    {links : Tbl Link} {txn : Txn} {coh : Coh} {sw : Switch} {traf : Traffic} {ring : Ring} {dict : Dict} {time : Time}
    {sec : Security} {rst : Resets} {pow : Power}
    (h : Keeps r s) (hl : rst.ledger = s.rst.ledger) (hm : Memory.wf s.mem = true → Memory.wf mem = true) :
    Keeps r (State.mk now tbOff mem pool tiers vers hens work coding eng kv search links txn coh sw traf ring dict time
      sec rst pow s.out s.freeCtr s.pending) :=
  ⟨h.queue, fun x => hm (h.mem x), fun x => hl ▸ h.ledger x, h.out, h.free⟩

/-- A change of the resets' state. -/
theorem Keeps.updLedger {r s : State} {now : Nat} {tbOff : Int} {pool : Pool} {tiers : Tiers} {vers : Vers} {hens : Hens}
    {work : Work} {coding : Coding} {eng : Engines} {kv : Kv} {search : Search} {links : Tbl Link} {txn : Txn} {coh : Coh}
    {sw : Switch} {traf : Traffic} {ring : Ring} {dict : Dict} {time : Time} {sec : Security} {rst : Resets} {pow : Power}
    (h : Keeps r s) (hl : s.rst.ledger.length ≤ ledgerMax → rst.ledger.length ≤ ledgerMax) :
    Keeps r (State.mk now tbOff s.mem pool tiers vers hens work coding eng kv search links txn coh sw traf ring dict time
      sec rst pow s.out s.freeCtr s.pending) :=
  ⟨h.queue, h.mem, fun x => hl (h.ledger x), h.out, h.free⟩

/-- A state on the way. -/
theorem Keeps.cut {r s t : State} (h : Keeps r s) (k : Keeps r s → Keeps r t) : Keeps r t := k h

/-- A local change, by the arguments it takes before the state. -/
theorem Keeps.cutF1 {r t : State} {f : State → State} (h : ∀ s, Keeps r s → Keeps r (f s))
    (k : (∀ s, Keeps r s → Keeps r (f s)) → Keeps r t) : Keeps r t := k h
theorem Keeps.cutF2 {α : Type} {r t : State} {f : α → State → State} (h : ∀ a s, Keeps r s → Keeps r (f a s))
    (k : (∀ a s, Keeps r s → Keeps r (f a s)) → Keeps r t) : Keeps r t := k h
theorem Keeps.cutF3 {α β : Type} {r t : State} {f : α → β → State → State}
    (h : ∀ a b s, Keeps r s → Keeps r (f a b s)) (k : (∀ a b s, Keeps r s → Keeps r (f a b s)) → Keeps r t) :
    Keeps r t := k h
theorem Keeps.cutP2 {α β : Type} {r t : State} {f : α → State → β × State} (h : ∀ a s, Keeps r s → Keeps r (f a s).2)
    (k : (∀ a s, Keeps r s → Keeps r (f a s).2) → Keeps r t) : Keeps r t := k h
theorem Keeps.cutP3 {α β γ : Type} {r t : State} {f : α → β → State → γ × State}
    (h : ∀ a b s, Keeps r s → Keeps r (f a b s).2) (k : (∀ a b s, Keeps r s → Keeps r (f a b s).2) → Keeps r t) :
    Keeps r t := k h
theorem Keeps.cutP4 {α β γ δ : Type} {r t : State} {f : α → β → γ → State → δ × State}
    (h : ∀ a b c s, Keeps r s → Keeps r (f a b c s).2) (k : (∀ a b c s, Keeps r s → Keeps r (f a b c s).2) → Keeps r t) :
    Keeps r t := k h
theorem Keeps.cutP1 {β : Type} {r t : State} {f : State → β × State} (h : ∀ s, Keeps r s → Keeps r (f s).2)
    (k : (∀ s, Keeps r s → Keeps r (f s).2) → Keeps r t) : Keeps r t := k h
theorem Keeps.cutC {α : Type} {r t : State} {f : α → State} (h : ∀ a, Keeps r (f a))
    (k : (∀ a, Keeps r (f a)) → Keeps r t) : Keeps r t := k h
theorem Keeps.cutG2 {α : Type} {r t : State} {f : State → α → State} (h : ∀ s a, Keeps r s → Keeps r (f s a))
    (k : (∀ s a, Keeps r s → Keeps r (f s a)) → Keeps r t) : Keeps r t := k h

/-- The state of a pair that a computation answered. -/
theorem Keeps.pair {α : Type} {r t : State} {a : α} {e : α × State} (h : e = (a, t)) (k : Keeps r e.2) : Keeps r t := by
  rw [h] at k; exact k
theorem Keeps.triple {α β : Type} {r t : State} {a : α} {b : β} {e : α × β × State} (h : e = (a, b, t))
    (k : Keeps r e.2.2) : Keeps r t := by
  rw [h] at k; exact k

theorem foldl_keeps {α : Type} {r : State} (f : State → α → State)
    (hf : ∀ s x, Keeps r s → Keeps r (f s x)) : ∀ (l : List α) {s : State}, Keeps r s → Keeps r (l.foldl f s)
  | [], _, h => h
  | x :: l, _, h => foldl_keeps f hf l (hf _ x h)

theorem foldlP_keeps {α β : Type} {r : State} (f : β × State → α → β × State)
    (hf : ∀ p x, Keeps r p.2 → Keeps r (f p x).2) :
    ∀ (l : List α) {p : β × State}, Keeps r p.2 → Keeps r (l.foldl f p).2
  | [], _, h => h
  | x :: l, _, h => foldlP_keeps f hf l (hf _ x h)

theorem each_keeps {α : Type} {r : State} {l : List α} {f : α → State → State} {s : State} (h : Keeps r s)
    (hf : ∀ x s, Keeps r s → Keeps r (f x s)) : Keeps r (each l f s) := foldl_keeps _ (fun s x => hf x s) l h

theorem onlyIf_keeps {r : State} {b : Bool} {f : State → State} {s : State} (h : Keeps r s)
    (hf : ∀ s, Keeps r s → Keeps r (f s)) : Keeps r (onlyIf b f s) := by
  unfold onlyIf; split
  · exact hf s h
  · exact h

end Sys2Proof.Machine
end

