-- ==== Sys2Proof/Laws/KeepsSl.lean ====
section
/-!
SUPPORT. A sliver's computation keeps what every change keeps (Keeps), whatever it answers.
-/
namespace Sys2Proof.Machine

/-- The computation's state keeps what r's does, from any state that does. -/
def SlKeeps {α : Type} (r : State) (m : Sl α) : Prop := ∀ s, Keeps r s → Keeps r (m s).2

theorem SlKeeps.app {α : Type} {r s : State} {m : Sl α} (hm : SlKeeps r m) (h : Keeps r s) : Keeps r (m s).2 := hm s h
theorem SlKeeps.mk {α : Type} {r : State} {m : Sl α} (h : ∀ s, Keeps r s → Keeps r (m s).2) : SlKeeps r m := h
theorem SlKeeps.pure {α : Type} {r : State} {a : α} : SlKeeps r (slPure a) := fun _ h => h
theorem SlKeeps.fail {α : Type} {r : State} {st : Status} : SlKeeps r (slFail (α := α) st) := fun _ h => h
theorem SlKeeps.bind {α β : Type} {r : State} {m : Sl α} {f : α → Sl β} (hm : SlKeeps r m)
    (hf : ∀ a, SlKeeps r (f a)) : SlKeeps r (slBind m f) := by
  intro s h
  have k := hm s h
  unfold slBind
  split <;> rename_i e <;> rw [e] at k
  · exact hf _ _ k
  · exact k
  · exact k
theorem SlKeeps.map {α β : Type} {r : State} {f : α → Sl β} (hf : ∀ a, SlKeeps r (f a)) :
    ∀ {l : List α}, SlKeeps r (slMap f l)
  | [] => SlKeeps.pure
  | _ :: _ => SlKeeps.bind (hf _) (fun _ => SlKeeps.bind (SlKeeps.map hf) (fun _ => SlKeeps.pure))
theorem SlKeeps.fold {α β : Type} {r : State} {f : β → α → Sl β} (hf : ∀ b a, SlKeeps r (f b a)) :
    ∀ {b : β} {l : List α}, SlKeeps r (slFold f b l)
  | _, [] => SlKeeps.pure
  | _, _ :: _ => SlKeeps.bind (hf _ _) (fun _ => SlKeeps.fold hf)

/-- A computation named on the way, by its arguments. -/
theorem SlKeeps.cut0 {α β : Type} {r : State} {f : Sl β} {t : Sl α} (h : SlKeeps r f)
    (k : SlKeeps r f → SlKeeps r t) : SlKeeps r t := k h
theorem SlKeeps.cut1 {α β γ : Type} {r : State} {f : γ → Sl β} {t : Sl α} (h : ∀ a, SlKeeps r (f a))
    (k : (∀ a, SlKeeps r (f a)) → SlKeeps r t) : SlKeeps r t := k h
theorem SlKeeps.cut2 {α β γ δ : Type} {r : State} {f : γ → δ → Sl β} {t : Sl α} (h : ∀ a b, SlKeeps r (f a b))
    (k : (∀ a b, SlKeeps r (f a b)) → SlKeeps r t) : SlKeeps r t := k h
theorem SlKeeps.cut3 {α β γ δ ε : Type} {r : State} {f : γ → δ → ε → Sl β} {t : Sl α}
    (h : ∀ a b c, SlKeeps r (f a b c)) (k : (∀ a b c, SlKeeps r (f a b c)) → SlKeeps r t) : SlKeeps r t := k h

end Sys2Proof.Machine
end

