-- ==== Sys2Proof/Laws/Ops.lean ====
section
/-!
SUPPORT. What the shared operations of Machine/Ops.lean can do, each said once: tables, registers, counters, free values,
iteration, events and the fault ledger.
-/
namespace Sys2Proof.Machine

/-! ### Tables -/

/-- A deleted key is absent, and every other is as it was. -/
theorem tget_tdel {α : Type} (t : Tbl α) (k q : Nat) : tget (tdel t k) q = if k = q then none else tget t q := by
  induction t with
  | nil => simp [tdel, tget]
  | cons e r ih =>
    obtain ⟨a, v⟩ := e
    by_cases h : a = k
    · subst h
      simp only [tdel, if_true, ih, tget]
      split <;> simp_all
    · simp only [tdel, if_neg h, tget, ih]
      by_cases g : a = q
      · subst g; simp [Ne.symm h]
      · simp [g]
/-- A key that is put reads its value, and every other is as it was. -/
theorem tget_tput {α : Type} (t : Tbl α) (k q : Nat) (v : α) : tget (tput t k v) q = if k = q then some v else tget t q := by
  simp only [tput, tget, tget_tdel]
  split <;> rfl
theorem tgetD_tput {α : Type} (t : Tbl α) (k q : Nat) (v d : α) :
    tgetD (tput t k v) q d = if k = q then v else tgetD t q d := by
  simp only [tgetD, tget_tput]
  split <;> rfl

/-! ### Registers and counters -/

/-- A register that is set reads what was written; a register of another object or instance is as it was. -/
theorem rgeti_rseti (key i v key' i' : Nat) (s : State) (hi : i < 65536) (hi' : i' < 65536) :
    rgeti key' i' (rseti key i v s) = if key = key' ∧ i = i' then v else rgeti key' i' s := by
  simp only [rgeti, rseti, tgetD_tput]
  have : key * 65536 + i = key' * 65536 + i' ↔ key = key' ∧ i = i' := by omega
  simp only [this]
theorem rget_rset (key v key' : Nat) (s : State) : rget key' (rset key v s) = if key = key' then v else rget key' s := by
  simpa [rget, rset] using rgeti_rseti key 0 v key' 0 s (by decide) (by decide)
/-- A counter rises by one, and stands at its greatest value. -/
theorem rget_bump (key key' : Nat) (s : State) :
    rget key' (bump key s) = if key = key' then min (rget key s + 1) (regMax key) else rget key' s :=
  rget_rset _ _ _ _
/-- Counting changes the dictionary's registers and nothing else. -/
theorem bump_eq (key : Nat) (s : State) :
    bump key s = { s with dict := { s.dict with regs := (bump key s).dict.regs } } := rfl

/-! ### Free values, conditions, iteration -/

/-- A draw gives an open value and takes the counter on by one; nothing else changes. -/
theorem draw_eq (s : State) : draw s = (Config.freeValue s.freeCtr, { s with freeCtr := s.freeCtr + 1 }) := rfl
@[simp] theorem onlyIf_true (f : State → State) (s : State) : onlyIf true f s = f s := rfl
@[simp] theorem onlyIf_false (f : State → State) (s : State) : onlyIf false f s = s := rfl
@[simp] theorem each_nil {α : Type} (f : α → State → State) (s : State) : each [] f s = s := rfl
@[simp] theorem each_cons {α : Type} (a : α) (l : List α) (f : α → State → State) (s : State) :
    each (a :: l) f s = each l f (f a s) := rfl
/-- What each step of an iteration keeps, the iteration keeps. -/
theorem each_induct {α : Type} {P : State → Prop} {f : α → State → State} (hf : ∀ a s, P s → P (f a s)) (l : List α) :
    ∀ s, P s → P (each l f s) := by
  induction l with
  | nil => exact fun _ h => h
  | cons a l ih => exact fun s h => ih _ (hf a s h)

/-! ### The fault ledger and events -/

/-- A record takes the ledger on by one entry, with the next ENTRY_SEQ, up to its bound. -/
theorem ledger_length (src kind cls body : Nat) (s : State) :
    (ledger src kind cls body s).rst.ledger.length =
      if ledgerMax ≤ s.rst.ledger.length then s.rst.ledger.length - 1 + 1 else s.rst.ledger.length + 1 := by
  by_cases h : ledgerMax ≤ s.rst.ledger.length
  · simp [ledger, h, bump, bumpi, rseti]
  · simp [ledger, h]
/-- An event changes the dictionary (sessions and counters) and what is sent, and nothing else. -/
theorem raise_frame (src num plen payload : Nat) (s : State) :
    (raise src num plen payload s).mem = s.mem ∧ (raise src num plen payload s).pending = s.pending ∧
    (raise src num plen payload s).rst = s.rst ∧ (raise src num plen payload s).pool = s.pool ∧
    (raise src num plen payload s).freeCtr = s.freeCtr := by
  unfold raise
  exact each_induct (P := fun t => t.mem = s.mem ∧ t.pending = s.pending ∧ t.rst = s.rst ∧ t.pool = s.pool ∧ t.freeCtr = s.freeCtr)
    (fun i t h => by
      unfold queueEvent
      repeat' split
      all_goals exact h) _ _ ⟨rfl, rfl, rfl, rfl, rfl⟩

end Sys2Proof.Machine
end

