-- ==== Sys2Proof/Laws/Services.lean ====
section
/-!
SUPPORT. What a service request does in its turn: each row that is a WRITE of an object comes down to that object's commit.
-/
namespace Sys2Proof.Machine

/-- The session that a search for a number finds bears it. -/
theorem sessionOf_id {n : Nat} {s : State} {x : Session} (h : sessionOf n s = some x) : x.id = n := by
  simpa using List.find?_some h

/-- What a session is after a change of it that keeps its number. -/
theorem sessionOf_modSession {n : Nat} {s : State} {x : Session} (f : Session → Session) (hf : ∀ y, (f y).id = y.id)
    (h : sessionOf n s = some x) : sessionOf n (modSession n f s) = some (f x) := by
  have key : ∀ l : List Session, l.find? (fun y => y.id == n) = some x →
      (l.map (fun y => if y.id = n then f y else y)).find? (fun y => y.id == n) = some (f x) := by
    intro l
    induction l with
    | nil => simp
    | cons a l ih =>
      intro hl
      by_cases ha : a.id = n
      · rw [List.find?_cons_of_pos (by simpa using ha)] at hl
        obtain rfl := Option.some.inj hl
        simp [ha, hf]
      · rw [List.find?_cons_of_neg (by simpa using ha)] at hl
        simp [ha, ih hl]
  exact key _ h

/-- A request whose number is the session's next is run and answered. -/
theorem orderReq_turn {n : Nat} {y : Session} {s t : State} {q : Service} {r : Rsp} (hs : sessionOf y.id s = some y)
    (hn : n = expected y) (hq : q ≠ .sessionEnd) (hr : runService y q s = (r, t)) :
    orderReq y n q s = drainHeld y.id 16 (reply y.id n r (modSession y.id (fun z =>
      { z with last := some n, cache := (z.cache ++ [(n, r)]).drop (z.cache.length + 1 - 64) }) t)) := by
  have hd : (n + 2 ^ 32 - expected y) % 2 ^ 32 = 0 := by omega
  unfold orderReq
  simp only [hd, if_true]
  unfold executeReq
  simp only [hs, hr, hq, if_false]

/-- A request in its turn runs on the state that has heard it, and is answered. -/
theorem receive_inTurn {rq : Req} {x : Session} {s : State} {q : Service} {r : Rsp} {t : State} (hw : InTurn rq x s)
    (hq : q ≠ .sessionEnd)
    (hr : runService { x with rxSeq := some rq.frameSeq, activeAt := s.now } q (heard rq x s) = (r, t)) :
    receive rq q s = answered rq x r t := by
  have hid := sessionOf_id hw.session
  have hs := sessionOf_modSession (fun y => { y with rxSeq := some rq.frameSeq, activeAt := s.now }) (fun _ => rfl)
    hw.session
  generalize hy : ({ x with rxSeq := some rq.frameSeq, activeAt := s.now } : Session) = y at hr hs
  have hyi : y.id = rq.session := by rw [← hy]; exact hid
  have hye : expected y = expected x := by rw [← hy]; rfl
  have ho := orderReq_turn (n := rq.seq) (s := heard rq x s) (y := y) (q := q) (by rw [hyi, heard, hid]; exact hs)
    (by rw [hye]; exact hw.turn) hq hr
  unfold receive
  rw [if_neg (by simp [hw.accepts]), if_neg hw.ofSession]
  unfold sealed
  simp only [hw.session, hw.genuine, Bool.not_true, if_neg hw.notLast]
  have hh : modSession x.id (fun z => { z with rxSeq := some rq.frameSeq, activeAt := s.now }) s = heard rq x s := rfl
  rw [hh]
  have hs' : sessionOf x.id (heard rq x s) = some y := by rw [heard, hid]; exact hs
  simp only [hs', hw.form, if_true]
  rw [ho, answered, hyi, ← hid]
  cases hx : x.rxSeq with
  | none => simp
  | some f => simp [hw.fresh f hx]

/-- An object that a MANAGER may write and that a WRITE sets as a whole. -/
def Writable (key : Nat) : Bool :=
  match obj? key with
  | some o => !o.isSel && !vendorIndex key && o.acc != .ro && o.size != 0
  | none => false

/-- A WRITE in its turn takes effect as its object's own rule says: u is the state that rule leaves. -/
theorem writeRow_takes {c : Instr} {rq : Req} {x : Session} {s u : State} {key v : Nat} {st : Status}
    (hw : WritesNow rq x key v s) (he : exec c s = writeRow rq key v s) (hk : Writable key = true)
    (ho : commitOf key (instFor x key) v (heard rq x s) = (st, u)) : Takes c rq x s st u := by
  have hc : commitObj key (instFor x key) v (heard rq x s) = (st, settle u) := by
    simp only [commitObj, hw.clear, ho]
  rw [Takes, he, writeRow]
  generalize settle u = t at hc ⊢
  congr 1
  apply receive_inTurn hw.toInTurn (by simp)
  unfold Writable at hk
  clear ho
  cases ho : obj? key with
  | none => simp [ho] at hk
  | some o =>
    simp only [ho, Bool.and_eq_true, Bool.not_eq_true', bne_iff_ne] at hk
    obtain ⟨⟨⟨h1, h2⟩, h3⟩, h4⟩ := hk
    have hab : writeAbort { x with rxSeq := some rq.frameSeq, activeAt := s.now } key rq.len rq.stage (heard rq x s) = none := by
      have hl := hw.length
      simp only [sizeOf, ho, optN] at hl
      simp [writeAbort, hw.now, mayWrite, ho, h1, h2, hw.manager, findObj, h3, h4, hl]
    rw [hw.now] at hab
    have hi : instFor { x with rxSeq := some rq.frameSeq, activeAt := s.now } key = instFor x key := rfl
    simp [runService, doWrite, hab, isSelect, ho, h1, hw.now, Nat.mod_eq_of_lt hw.fits, hi, hc]

end Sys2Proof.Machine
end

