-- ==== Sys2Proof/Laws/State.lean ====
section
/-!
SUPPORT. The small lemmas of State: for each update of one unit's state, what it sets and that it sets nothing else, each
true by unfolding, so that no proof need unfold a record update; and what the accessor of a unit reads after its update.
-/
namespace Sys2Proof.Machine

@[simp] theorem setLink_sets (p : Nat) (l : Link) (s : State) :
    (setLink p l s).now = s.now ∧ (setLink p l s).tbOff = s.tbOff ∧ (setLink p l s).mem = s.mem ∧
    (setLink p l s).pool = s.pool ∧ (setLink p l s).tiers = s.tiers ∧ (setLink p l s).vers = s.vers ∧
    (setLink p l s).hens = s.hens ∧ (setLink p l s).work = s.work ∧ (setLink p l s).coding = s.coding ∧
    (setLink p l s).eng = s.eng ∧ (setLink p l s).kv = s.kv ∧ (setLink p l s).search = s.search ∧
    (setLink p l s).txn = s.txn ∧ (setLink p l s).coh = s.coh ∧ (setLink p l s).sw = s.sw ∧ (setLink p l s).traf = s.traf ∧
    (setLink p l s).ring = s.ring ∧ (setLink p l s).dict = s.dict ∧ (setLink p l s).time = s.time ∧
    (setLink p l s).sec = s.sec ∧ (setLink p l s).rst = s.rst ∧ (setLink p l s).pow = s.pow ∧ (setLink p l s).out = s.out ∧
    (setLink p l s).freeCtr = s.freeCtr ∧ (setLink p l s).pending = s.pending ∧ (setLink p l s).links = tput s.links p l :=
  by refine ⟨?_, ?_, ?_, ?_, ?_, ?_, ?_, ?_, ?_, ?_, ?_, ?_, ?_, ?_, ?_, ?_, ?_, ?_, ?_, ?_, ?_, ?_, ?_, ?_, ?_, ?_⟩ <;> rfl

@[simp] theorem setPortTx_sets (p : Nat) (x : PortTx) (s : State) :
    (setPortTx p x s).now = s.now ∧ (setPortTx p x s).tbOff = s.tbOff ∧ (setPortTx p x s).mem = s.mem ∧
    (setPortTx p x s).pool = s.pool ∧ (setPortTx p x s).tiers = s.tiers ∧ (setPortTx p x s).vers = s.vers ∧
    (setPortTx p x s).hens = s.hens ∧ (setPortTx p x s).work = s.work ∧ (setPortTx p x s).coding = s.coding ∧
    (setPortTx p x s).eng = s.eng ∧ (setPortTx p x s).kv = s.kv ∧ (setPortTx p x s).search = s.search ∧
    (setPortTx p x s).links = s.links ∧ (setPortTx p x s).coh = s.coh ∧ (setPortTx p x s).sw = s.sw ∧
    (setPortTx p x s).traf = s.traf ∧ (setPortTx p x s).ring = s.ring ∧ (setPortTx p x s).dict = s.dict ∧
    (setPortTx p x s).time = s.time ∧ (setPortTx p x s).sec = s.sec ∧ (setPortTx p x s).rst = s.rst ∧
    (setPortTx p x s).pow = s.pow ∧ (setPortTx p x s).out = s.out ∧ (setPortTx p x s).freeCtr = s.freeCtr ∧
    (setPortTx p x s).pending = s.pending ∧ (setPortTx p x s).txn.ports = tput s.txn.ports p x ∧
    (setPortTx p x s).txn.txs = s.txn.txs ∧ (setPortTx p x s).txn.held = s.txn.held ∧
    (setPortTx p x s).txn.batches = s.txn.batches :=
  by refine ⟨?_, ?_, ?_, ?_, ?_, ?_, ?_, ?_, ?_, ?_, ?_, ?_, ?_, ?_, ?_, ?_, ?_, ?_, ?_, ?_, ?_, ?_, ?_, ?_, ?_, ?_, ?_, ?_, ?_⟩ <;> rfl

@[simp] theorem setTx_sets (t : Tx) (s : State) :
    (setTx t s).now = s.now ∧ (setTx t s).tbOff = s.tbOff ∧ (setTx t s).mem = s.mem ∧ (setTx t s).pool = s.pool ∧
    (setTx t s).tiers = s.tiers ∧ (setTx t s).vers = s.vers ∧ (setTx t s).hens = s.hens ∧ (setTx t s).work = s.work ∧
    (setTx t s).coding = s.coding ∧ (setTx t s).eng = s.eng ∧ (setTx t s).kv = s.kv ∧ (setTx t s).search = s.search ∧
    (setTx t s).links = s.links ∧ (setTx t s).coh = s.coh ∧ (setTx t s).sw = s.sw ∧ (setTx t s).traf = s.traf ∧
    (setTx t s).ring = s.ring ∧ (setTx t s).dict = s.dict ∧ (setTx t s).time = s.time ∧ (setTx t s).sec = s.sec ∧
    (setTx t s).rst = s.rst ∧ (setTx t s).pow = s.pow ∧ (setTx t s).out = s.out ∧ (setTx t s).freeCtr = s.freeCtr ∧
    (setTx t s).pending = s.pending ∧ (setTx t s).txn.ports = s.txn.ports ∧ (setTx t s).txn.batches = s.txn.batches ∧
    (setTx t s).txn.nextTx = s.txn.nextTx :=
  by refine ⟨?_, ?_, ?_, ?_, ?_, ?_, ?_, ?_, ?_, ?_, ?_, ?_, ?_, ?_, ?_, ?_, ?_, ?_, ?_, ?_, ?_, ?_, ?_, ?_, ?_, ?_, ?_, ?_⟩ <;> rfl

@[simp] theorem addTx_sets (t : Tx) (s : State) :
    (addTx t s).now = s.now ∧ (addTx t s).tbOff = s.tbOff ∧ (addTx t s).mem = s.mem ∧ (addTx t s).pool = s.pool ∧
    (addTx t s).tiers = s.tiers ∧ (addTx t s).vers = s.vers ∧ (addTx t s).hens = s.hens ∧ (addTx t s).work = s.work ∧
    (addTx t s).coding = s.coding ∧ (addTx t s).eng = s.eng ∧ (addTx t s).kv = s.kv ∧ (addTx t s).search = s.search ∧
    (addTx t s).links = s.links ∧ (addTx t s).coh = s.coh ∧ (addTx t s).sw = s.sw ∧ (addTx t s).traf = s.traf ∧
    (addTx t s).ring = s.ring ∧ (addTx t s).dict = s.dict ∧ (addTx t s).time = s.time ∧ (addTx t s).sec = s.sec ∧
    (addTx t s).rst = s.rst ∧ (addTx t s).pow = s.pow ∧ (addTx t s).out = s.out ∧ (addTx t s).freeCtr = s.freeCtr ∧
    (addTx t s).pending = s.pending ∧ (addTx t s).txn.txs = s.txn.txs ++ [t] ∧ (addTx t s).txn.nextTx = s.txn.nextTx + 1 ∧
    (addTx t s).txn.ports = s.txn.ports ∧ (addTx t s).txn.batches = s.txn.batches :=
  by refine ⟨?_, ?_, ?_, ?_, ?_, ?_, ?_, ?_, ?_, ?_, ?_, ?_, ?_, ?_, ?_, ?_, ?_, ?_, ?_, ?_, ?_, ?_, ?_, ?_, ?_, ?_, ?_, ?_, ?_⟩ <;> rfl

@[simp] theorem setHen_sets (h : Nat) (x : Hen) (s : State) :
    (setHen h x s).now = s.now ∧ (setHen h x s).tbOff = s.tbOff ∧ (setHen h x s).mem = s.mem ∧ (setHen h x s).pool = s.pool ∧
    (setHen h x s).tiers = s.tiers ∧ (setHen h x s).vers = s.vers ∧ (setHen h x s).work = s.work ∧
    (setHen h x s).coding = s.coding ∧ (setHen h x s).eng = s.eng ∧ (setHen h x s).kv = s.kv ∧
    (setHen h x s).search = s.search ∧ (setHen h x s).links = s.links ∧ (setHen h x s).txn = s.txn ∧
    (setHen h x s).coh = s.coh ∧ (setHen h x s).sw = s.sw ∧ (setHen h x s).traf = s.traf ∧ (setHen h x s).ring = s.ring ∧
    (setHen h x s).dict = s.dict ∧ (setHen h x s).time = s.time ∧ (setHen h x s).sec = s.sec ∧ (setHen h x s).rst = s.rst ∧
    (setHen h x s).pow = s.pow ∧ (setHen h x s).out = s.out ∧ (setHen h x s).freeCtr = s.freeCtr ∧
    (setHen h x s).pending = s.pending ∧ (setHen h x s).hens.hens = tput s.hens.hens h x ∧
    (setHen h x s).hens.larders = s.hens.larders ∧ (setHen h x s).hens.unitMap = s.hens.unitMap ∧
    (setHen h x s).hens.gang = s.hens.gang :=
  by refine ⟨?_, ?_, ?_, ?_, ?_, ?_, ?_, ?_, ?_, ?_, ?_, ?_, ?_, ?_, ?_, ?_, ?_, ?_, ?_, ?_, ?_, ?_, ?_, ?_, ?_, ?_, ?_, ?_, ?_⟩ <;> rfl

@[simp] theorem setLarder_sets (l : Nat) (x : Larder) (s : State) :
    (setLarder l x s).now = s.now ∧ (setLarder l x s).tbOff = s.tbOff ∧ (setLarder l x s).mem = s.mem ∧
    (setLarder l x s).pool = s.pool ∧ (setLarder l x s).tiers = s.tiers ∧ (setLarder l x s).vers = s.vers ∧
    (setLarder l x s).work = s.work ∧ (setLarder l x s).coding = s.coding ∧ (setLarder l x s).eng = s.eng ∧
    (setLarder l x s).kv = s.kv ∧ (setLarder l x s).search = s.search ∧ (setLarder l x s).links = s.links ∧
    (setLarder l x s).txn = s.txn ∧ (setLarder l x s).coh = s.coh ∧ (setLarder l x s).sw = s.sw ∧
    (setLarder l x s).traf = s.traf ∧ (setLarder l x s).ring = s.ring ∧ (setLarder l x s).dict = s.dict ∧
    (setLarder l x s).time = s.time ∧ (setLarder l x s).sec = s.sec ∧ (setLarder l x s).rst = s.rst ∧
    (setLarder l x s).pow = s.pow ∧ (setLarder l x s).out = s.out ∧ (setLarder l x s).freeCtr = s.freeCtr ∧
    (setLarder l x s).pending = s.pending ∧ (setLarder l x s).hens.larders = tput s.hens.larders l x ∧
    (setLarder l x s).hens.hens = s.hens.hens ∧ (setLarder l x s).hens.unitMap = s.hens.unitMap ∧
    (setLarder l x s).hens.gang = s.hens.gang :=
  by refine ⟨?_, ?_, ?_, ?_, ?_, ?_, ?_, ?_, ?_, ?_, ?_, ?_, ?_, ?_, ?_, ?_, ?_, ?_, ?_, ?_, ?_, ?_, ?_, ?_, ?_, ?_, ?_, ?_, ?_⟩ <;> rfl

@[simp] theorem setJob_sets (i : Nat) (j : Job) (s : State) :
    (setJob i j s).now = s.now ∧ (setJob i j s).tbOff = s.tbOff ∧ (setJob i j s).mem = s.mem ∧
    (setJob i j s).tiers = s.tiers ∧ (setJob i j s).vers = s.vers ∧ (setJob i j s).hens = s.hens ∧
    (setJob i j s).work = s.work ∧ (setJob i j s).coding = s.coding ∧ (setJob i j s).eng = s.eng ∧ (setJob i j s).kv = s.kv ∧
    (setJob i j s).search = s.search ∧ (setJob i j s).links = s.links ∧ (setJob i j s).txn = s.txn ∧
    (setJob i j s).coh = s.coh ∧ (setJob i j s).sw = s.sw ∧ (setJob i j s).traf = s.traf ∧ (setJob i j s).ring = s.ring ∧
    (setJob i j s).dict = s.dict ∧ (setJob i j s).time = s.time ∧ (setJob i j s).sec = s.sec ∧ (setJob i j s).rst = s.rst ∧
    (setJob i j s).pow = s.pow ∧ (setJob i j s).out = s.out ∧ (setJob i j s).freeCtr = s.freeCtr ∧
    (setJob i j s).pending = s.pending ∧ (setJob i j s).pool.jobs = tput s.pool.jobs i j ∧
    (setJob i j s).pool.extents = s.pool.extents ∧ (setJob i j s).pool.acls = s.pool.acls ∧
    (setJob i j s).pool.keys = s.pool.keys :=
  by refine ⟨?_, ?_, ?_, ?_, ?_, ?_, ?_, ?_, ?_, ?_, ?_, ?_, ?_, ?_, ?_, ?_, ?_, ?_, ?_, ?_, ?_, ?_, ?_, ?_, ?_, ?_, ?_, ?_, ?_⟩ <;> rfl

@[simp] theorem setExt_sets (n : Nat) (e : Extent) (s : State) :
    (setExt n e s).now = s.now ∧ (setExt n e s).tbOff = s.tbOff ∧ (setExt n e s).mem = s.mem ∧
    (setExt n e s).tiers = s.tiers ∧ (setExt n e s).vers = s.vers ∧ (setExt n e s).hens = s.hens ∧
    (setExt n e s).work = s.work ∧ (setExt n e s).coding = s.coding ∧ (setExt n e s).eng = s.eng ∧ (setExt n e s).kv = s.kv ∧
    (setExt n e s).search = s.search ∧ (setExt n e s).links = s.links ∧ (setExt n e s).txn = s.txn ∧
    (setExt n e s).coh = s.coh ∧ (setExt n e s).sw = s.sw ∧ (setExt n e s).traf = s.traf ∧ (setExt n e s).ring = s.ring ∧
    (setExt n e s).dict = s.dict ∧ (setExt n e s).time = s.time ∧ (setExt n e s).sec = s.sec ∧ (setExt n e s).rst = s.rst ∧
    (setExt n e s).pow = s.pow ∧ (setExt n e s).out = s.out ∧ (setExt n e s).freeCtr = s.freeCtr ∧
    (setExt n e s).pending = s.pending ∧ (setExt n e s).pool.extents = tput s.pool.extents n e ∧
    (setExt n e s).pool.jobs = s.pool.jobs ∧ (setExt n e s).pool.acls = s.pool.acls ∧
    (setExt n e s).pool.keys = s.pool.keys :=
  by refine ⟨?_, ?_, ?_, ?_, ?_, ?_, ?_, ?_, ?_, ?_, ?_, ?_, ?_, ?_, ?_, ?_, ?_, ?_, ?_, ?_, ?_, ?_, ?_, ?_, ?_, ?_, ?_, ?_, ?_⟩ <;> rfl

@[simp] theorem setCrate_sets (ck : Nat) (c : Crate) (s : State) :
    (setCrate ck c s).now = s.now ∧ (setCrate ck c s).tbOff = s.tbOff ∧ (setCrate ck c s).mem = s.mem ∧
    (setCrate ck c s).pool = s.pool ∧ (setCrate ck c s).vers = s.vers ∧ (setCrate ck c s).hens = s.hens ∧
    (setCrate ck c s).work = s.work ∧ (setCrate ck c s).coding = s.coding ∧ (setCrate ck c s).eng = s.eng ∧
    (setCrate ck c s).kv = s.kv ∧ (setCrate ck c s).search = s.search ∧ (setCrate ck c s).links = s.links ∧
    (setCrate ck c s).txn = s.txn ∧ (setCrate ck c s).coh = s.coh ∧ (setCrate ck c s).sw = s.sw ∧
    (setCrate ck c s).traf = s.traf ∧ (setCrate ck c s).ring = s.ring ∧ (setCrate ck c s).dict = s.dict ∧
    (setCrate ck c s).time = s.time ∧ (setCrate ck c s).sec = s.sec ∧ (setCrate ck c s).rst = s.rst ∧
    (setCrate ck c s).pow = s.pow ∧ (setCrate ck c s).out = s.out ∧ (setCrate ck c s).freeCtr = s.freeCtr ∧
    (setCrate ck c s).pending = s.pending ∧ (setCrate ck c s).tiers.crates = tput s.tiers.crates ck c ∧
    (setCrate ck c s).tiers.poison = s.tiers.poison ∧ (setCrate ck c s).tiers.moves = s.tiers.moves ∧
    (setCrate ck c s).tiers.fetches = s.tiers.fetches ∧ (setCrate ck c s).tiers.cmds = s.tiers.cmds :=
  by refine ⟨?_, ?_, ?_, ?_, ?_, ?_, ?_, ?_, ?_, ?_, ?_, ?_, ?_, ?_, ?_, ?_, ?_, ?_, ?_, ?_, ?_, ?_, ?_, ?_, ?_, ?_, ?_, ?_, ?_, ?_⟩ <;> rfl

@[simp] theorem setTray_sets (t : Nat) (x : Tray) (s : State) :
    (setTray t x s).now = s.now ∧ (setTray t x s).tbOff = s.tbOff ∧ (setTray t x s).mem = s.mem ∧
    (setTray t x s).pool = s.pool ∧ (setTray t x s).vers = s.vers ∧ (setTray t x s).hens = s.hens ∧
    (setTray t x s).work = s.work ∧ (setTray t x s).coding = s.coding ∧ (setTray t x s).eng = s.eng ∧
    (setTray t x s).kv = s.kv ∧ (setTray t x s).search = s.search ∧ (setTray t x s).links = s.links ∧
    (setTray t x s).txn = s.txn ∧ (setTray t x s).coh = s.coh ∧ (setTray t x s).sw = s.sw ∧ (setTray t x s).traf = s.traf ∧
    (setTray t x s).ring = s.ring ∧ (setTray t x s).dict = s.dict ∧ (setTray t x s).time = s.time ∧
    (setTray t x s).sec = s.sec ∧ (setTray t x s).rst = s.rst ∧ (setTray t x s).pow = s.pow ∧ (setTray t x s).out = s.out ∧
    (setTray t x s).freeCtr = s.freeCtr ∧ (setTray t x s).pending = s.pending ∧
    (setTray t x s).tiers.trays = tput s.tiers.trays t x ∧ (setTray t x s).tiers.crates = s.tiers.crates ∧
    (setTray t x s).tiers.poison = s.tiers.poison ∧ (setTray t x s).tiers.cmds = s.tiers.cmds :=
  by refine ⟨?_, ?_, ?_, ?_, ?_, ?_, ?_, ?_, ?_, ?_, ?_, ?_, ?_, ?_, ?_, ?_, ?_, ?_, ?_, ?_, ?_, ?_, ?_, ?_, ?_, ?_, ?_, ?_, ?_⟩ <;> rfl

@[simp] theorem setRegion_sets (r : Nat) (x : Region) (s : State) :
    (setRegion r x s).now = s.now ∧ (setRegion r x s).tbOff = s.tbOff ∧ (setRegion r x s).mem = s.mem ∧
    (setRegion r x s).pool = s.pool ∧ (setRegion r x s).tiers = s.tiers ∧ (setRegion r x s).hens = s.hens ∧
    (setRegion r x s).work = s.work ∧ (setRegion r x s).coding = s.coding ∧ (setRegion r x s).eng = s.eng ∧
    (setRegion r x s).kv = s.kv ∧ (setRegion r x s).search = s.search ∧ (setRegion r x s).links = s.links ∧
    (setRegion r x s).txn = s.txn ∧ (setRegion r x s).coh = s.coh ∧ (setRegion r x s).sw = s.sw ∧
    (setRegion r x s).traf = s.traf ∧ (setRegion r x s).ring = s.ring ∧ (setRegion r x s).dict = s.dict ∧
    (setRegion r x s).time = s.time ∧ (setRegion r x s).sec = s.sec ∧ (setRegion r x s).rst = s.rst ∧
    (setRegion r x s).pow = s.pow ∧ (setRegion r x s).out = s.out ∧ (setRegion r x s).freeCtr = s.freeCtr ∧
    (setRegion r x s).pending = s.pending ∧ (setRegion r x s).vers.regions = tput s.vers.regions r x ∧
    (setRegion r x s).vers.owned = s.vers.owned ∧ (setRegion r x s).vers.mirror = s.vers.mirror :=
  by refine ⟨?_, ?_, ?_, ?_, ?_, ?_, ?_, ?_, ?_, ?_, ?_, ?_, ?_, ?_, ?_, ?_, ?_, ?_, ?_, ?_, ?_, ?_, ?_, ?_, ?_, ?_, ?_, ?_⟩ <;> rfl

@[simp] theorem setOwn_sets (o : Nat) (x : OwnObj) (s : State) :
    (setOwn o x s).now = s.now ∧ (setOwn o x s).tbOff = s.tbOff ∧ (setOwn o x s).mem = s.mem ∧ (setOwn o x s).pool = s.pool ∧
    (setOwn o x s).tiers = s.tiers ∧ (setOwn o x s).hens = s.hens ∧ (setOwn o x s).work = s.work ∧
    (setOwn o x s).coding = s.coding ∧ (setOwn o x s).eng = s.eng ∧ (setOwn o x s).kv = s.kv ∧
    (setOwn o x s).search = s.search ∧ (setOwn o x s).links = s.links ∧ (setOwn o x s).txn = s.txn ∧
    (setOwn o x s).coh = s.coh ∧ (setOwn o x s).sw = s.sw ∧ (setOwn o x s).traf = s.traf ∧ (setOwn o x s).ring = s.ring ∧
    (setOwn o x s).dict = s.dict ∧ (setOwn o x s).time = s.time ∧ (setOwn o x s).sec = s.sec ∧ (setOwn o x s).rst = s.rst ∧
    (setOwn o x s).pow = s.pow ∧ (setOwn o x s).out = s.out ∧ (setOwn o x s).freeCtr = s.freeCtr ∧
    (setOwn o x s).pending = s.pending ∧ (setOwn o x s).vers.owned = tput s.vers.owned o x ∧
    (setOwn o x s).vers.regions = s.vers.regions ∧ (setOwn o x s).vers.mirror = s.vers.mirror :=
  by refine ⟨?_, ?_, ?_, ?_, ?_, ?_, ?_, ?_, ?_, ?_, ?_, ?_, ?_, ?_, ?_, ?_, ?_, ?_, ?_, ?_, ?_, ?_, ?_, ?_, ?_, ?_, ?_, ?_⟩ <;> rfl

@[simp] theorem modMirror_sets (f : Mirror → Mirror) (s : State) :
    (modMirror f s).now = s.now ∧ (modMirror f s).tbOff = s.tbOff ∧ (modMirror f s).mem = s.mem ∧
    (modMirror f s).pool = s.pool ∧ (modMirror f s).tiers = s.tiers ∧ (modMirror f s).hens = s.hens ∧
    (modMirror f s).work = s.work ∧ (modMirror f s).coding = s.coding ∧ (modMirror f s).eng = s.eng ∧
    (modMirror f s).kv = s.kv ∧ (modMirror f s).search = s.search ∧ (modMirror f s).links = s.links ∧
    (modMirror f s).txn = s.txn ∧ (modMirror f s).coh = s.coh ∧ (modMirror f s).sw = s.sw ∧ (modMirror f s).traf = s.traf ∧
    (modMirror f s).ring = s.ring ∧ (modMirror f s).dict = s.dict ∧ (modMirror f s).time = s.time ∧
    (modMirror f s).sec = s.sec ∧ (modMirror f s).rst = s.rst ∧ (modMirror f s).pow = s.pow ∧ (modMirror f s).out = s.out ∧
    (modMirror f s).freeCtr = s.freeCtr ∧ (modMirror f s).pending = s.pending ∧
    (modMirror f s).vers.mirror = f s.vers.mirror ∧ (modMirror f s).vers.regions = s.vers.regions ∧
    (modMirror f s).vers.owned = s.vers.owned :=
  by refine ⟨?_, ?_, ?_, ?_, ?_, ?_, ?_, ?_, ?_, ?_, ?_, ?_, ?_, ?_, ?_, ?_, ?_, ?_, ?_, ?_, ?_, ?_, ?_, ?_, ?_, ?_, ?_, ?_⟩ <;> rfl

@[simp] theorem setQueue_sets (q : Nat) (x : Queue) (s : State) :
    (setQueue q x s).now = s.now ∧ (setQueue q x s).tbOff = s.tbOff ∧ (setQueue q x s).mem = s.mem ∧
    (setQueue q x s).pool = s.pool ∧ (setQueue q x s).tiers = s.tiers ∧ (setQueue q x s).vers = s.vers ∧
    (setQueue q x s).hens = s.hens ∧ (setQueue q x s).coding = s.coding ∧ (setQueue q x s).eng = s.eng ∧
    (setQueue q x s).kv = s.kv ∧ (setQueue q x s).search = s.search ∧ (setQueue q x s).links = s.links ∧
    (setQueue q x s).txn = s.txn ∧ (setQueue q x s).coh = s.coh ∧ (setQueue q x s).sw = s.sw ∧
    (setQueue q x s).traf = s.traf ∧ (setQueue q x s).ring = s.ring ∧ (setQueue q x s).dict = s.dict ∧
    (setQueue q x s).time = s.time ∧ (setQueue q x s).sec = s.sec ∧ (setQueue q x s).rst = s.rst ∧
    (setQueue q x s).pow = s.pow ∧ (setQueue q x s).out = s.out ∧ (setQueue q x s).freeCtr = s.freeCtr ∧
    (setQueue q x s).pending = s.pending ∧ (setQueue q x s).work.queues = tput s.work.queues q x ∧
    (setQueue q x s).work.items = s.work.items ∧ (setQueue q x s).work.records = s.work.records :=
  by refine ⟨?_, ?_, ?_, ?_, ?_, ?_, ?_, ?_, ?_, ?_, ?_, ?_, ?_, ?_, ?_, ?_, ?_, ?_, ?_, ?_, ?_, ?_, ?_, ?_, ?_, ?_, ?_, ?_⟩ <;> rfl

@[simp] theorem setItem_sets (i : Nat) (x : Item) (s : State) :
    (setItem i x s).now = s.now ∧ (setItem i x s).tbOff = s.tbOff ∧ (setItem i x s).mem = s.mem ∧
    (setItem i x s).pool = s.pool ∧ (setItem i x s).tiers = s.tiers ∧ (setItem i x s).vers = s.vers ∧
    (setItem i x s).hens = s.hens ∧ (setItem i x s).coding = s.coding ∧ (setItem i x s).eng = s.eng ∧
    (setItem i x s).kv = s.kv ∧ (setItem i x s).search = s.search ∧ (setItem i x s).links = s.links ∧
    (setItem i x s).txn = s.txn ∧ (setItem i x s).coh = s.coh ∧ (setItem i x s).sw = s.sw ∧ (setItem i x s).traf = s.traf ∧
    (setItem i x s).ring = s.ring ∧ (setItem i x s).dict = s.dict ∧ (setItem i x s).time = s.time ∧
    (setItem i x s).sec = s.sec ∧ (setItem i x s).rst = s.rst ∧ (setItem i x s).pow = s.pow ∧ (setItem i x s).out = s.out ∧
    (setItem i x s).freeCtr = s.freeCtr ∧ (setItem i x s).pending = s.pending ∧
    (setItem i x s).work.items = tput s.work.items i x ∧ (setItem i x s).work.queues = s.work.queues ∧
    (setItem i x s).work.records = s.work.records :=
  by refine ⟨?_, ?_, ?_, ?_, ?_, ?_, ?_, ?_, ?_, ?_, ?_, ?_, ?_, ?_, ?_, ?_, ?_, ?_, ?_, ?_, ?_, ?_, ?_, ?_, ?_, ?_, ?_, ?_⟩ <;> rfl

@[simp] theorem setBook_sets (cb : Nat) (b : Codebook) (s : State) :
    (setBook cb b s).now = s.now ∧ (setBook cb b s).tbOff = s.tbOff ∧ (setBook cb b s).mem = s.mem ∧
    (setBook cb b s).pool = s.pool ∧ (setBook cb b s).tiers = s.tiers ∧ (setBook cb b s).vers = s.vers ∧
    (setBook cb b s).hens = s.hens ∧ (setBook cb b s).work = s.work ∧ (setBook cb b s).eng = s.eng ∧
    (setBook cb b s).kv = s.kv ∧ (setBook cb b s).search = s.search ∧ (setBook cb b s).links = s.links ∧
    (setBook cb b s).txn = s.txn ∧ (setBook cb b s).coh = s.coh ∧ (setBook cb b s).sw = s.sw ∧
    (setBook cb b s).traf = s.traf ∧ (setBook cb b s).ring = s.ring ∧ (setBook cb b s).dict = s.dict ∧
    (setBook cb b s).time = s.time ∧ (setBook cb b s).sec = s.sec ∧ (setBook cb b s).rst = s.rst ∧
    (setBook cb b s).pow = s.pow ∧ (setBook cb b s).out = s.out ∧ (setBook cb b s).freeCtr = s.freeCtr ∧
    (setBook cb b s).pending = s.pending ∧ (setBook cb b s).coding.books = tput s.coding.books cb b ∧
    (setBook cb b s).coding.tensors = s.coding.tensors :=
  by refine ⟨?_, ?_, ?_, ?_, ?_, ?_, ?_, ?_, ?_, ?_, ?_, ?_, ?_, ?_, ?_, ?_, ?_, ?_, ?_, ?_, ?_, ?_, ?_, ?_, ?_, ?_, ?_⟩ <;> rfl

@[simp] theorem setColl_sets (c : Nat) (x : Coll) (s : State) :
    (setColl c x s).now = s.now ∧ (setColl c x s).tbOff = s.tbOff ∧ (setColl c x s).mem = s.mem ∧
    (setColl c x s).pool = s.pool ∧ (setColl c x s).tiers = s.tiers ∧ (setColl c x s).vers = s.vers ∧
    (setColl c x s).hens = s.hens ∧ (setColl c x s).work = s.work ∧ (setColl c x s).coding = s.coding ∧
    (setColl c x s).kv = s.kv ∧ (setColl c x s).search = s.search ∧ (setColl c x s).links = s.links ∧
    (setColl c x s).txn = s.txn ∧ (setColl c x s).coh = s.coh ∧ (setColl c x s).sw = s.sw ∧ (setColl c x s).traf = s.traf ∧
    (setColl c x s).ring = s.ring ∧ (setColl c x s).dict = s.dict ∧ (setColl c x s).time = s.time ∧
    (setColl c x s).sec = s.sec ∧ (setColl c x s).rst = s.rst ∧ (setColl c x s).pow = s.pow ∧ (setColl c x s).out = s.out ∧
    (setColl c x s).freeCtr = s.freeCtr ∧ (setColl c x s).pending = s.pending ∧
    (setColl c x s).eng.colls = tput s.eng.colls c x ∧ (setColl c x s).eng.delivers = s.eng.delivers :=
  by refine ⟨?_, ?_, ?_, ?_, ?_, ?_, ?_, ?_, ?_, ?_, ?_, ?_, ?_, ?_, ?_, ?_, ?_, ?_, ?_, ?_, ?_, ?_, ?_, ?_, ?_, ?_, ?_⟩ <;> rfl

@[simp] theorem putEnt_sets (x : FEnt) (s : State) :
    (putEnt x s).now = s.now ∧ (putEnt x s).tbOff = s.tbOff ∧ (putEnt x s).mem = s.mem ∧ (putEnt x s).pool = s.pool ∧
    (putEnt x s).tiers = s.tiers ∧ (putEnt x s).vers = s.vers ∧ (putEnt x s).hens = s.hens ∧ (putEnt x s).work = s.work ∧
    (putEnt x s).coding = s.coding ∧ (putEnt x s).eng = s.eng ∧ (putEnt x s).kv = s.kv ∧ (putEnt x s).search = s.search ∧
    (putEnt x s).links = s.links ∧ (putEnt x s).txn = s.txn ∧ (putEnt x s).sw = s.sw ∧ (putEnt x s).traf = s.traf ∧
    (putEnt x s).ring = s.ring ∧ (putEnt x s).dict = s.dict ∧ (putEnt x s).time = s.time ∧ (putEnt x s).sec = s.sec ∧
    (putEnt x s).rst = s.rst ∧ (putEnt x s).pow = s.pow ∧ (putEnt x s).out = s.out ∧ (putEnt x s).freeCtr = s.freeCtr ∧
    (putEnt x s).pending = s.pending ∧ (putEnt x s).coh.snoops = s.coh.snoops ∧ (putEnt x s).coh.windows = s.coh.windows :=
  by refine ⟨?_, ?_, ?_, ?_, ?_, ?_, ?_, ?_, ?_, ?_, ?_, ?_, ?_, ?_, ?_, ?_, ?_, ?_, ?_, ?_, ?_, ?_, ?_, ?_, ?_, ?_, ?_⟩ <;> rfl

@[simp] theorem setSlice_sets (i : Nat) (x : Slice) (s : State) :
    (setSlice i x s).now = s.now ∧ (setSlice i x s).tbOff = s.tbOff ∧ (setSlice i x s).mem = s.mem ∧
    (setSlice i x s).pool = s.pool ∧ (setSlice i x s).tiers = s.tiers ∧ (setSlice i x s).vers = s.vers ∧
    (setSlice i x s).hens = s.hens ∧ (setSlice i x s).work = s.work ∧ (setSlice i x s).coding = s.coding ∧
    (setSlice i x s).eng = s.eng ∧ (setSlice i x s).kv = s.kv ∧ (setSlice i x s).search = s.search ∧
    (setSlice i x s).links = s.links ∧ (setSlice i x s).txn = s.txn ∧ (setSlice i x s).coh = s.coh ∧
    (setSlice i x s).traf = s.traf ∧ (setSlice i x s).ring = s.ring ∧ (setSlice i x s).dict = s.dict ∧
    (setSlice i x s).time = s.time ∧ (setSlice i x s).sec = s.sec ∧ (setSlice i x s).rst = s.rst ∧
    (setSlice i x s).pow = s.pow ∧ (setSlice i x s).out = s.out ∧ (setSlice i x s).freeCtr = s.freeCtr ∧
    (setSlice i x s).pending = s.pending ∧ (setSlice i x s).sw.slices = tput s.sw.slices i x ∧
    (setSlice i x s).sw.frames = s.sw.frames ∧ (setSlice i x s).sw.attach = s.sw.attach :=
  by refine ⟨?_, ?_, ?_, ?_, ?_, ?_, ?_, ?_, ?_, ?_, ?_, ?_, ?_, ?_, ?_, ?_, ?_, ?_, ?_, ?_, ?_, ?_, ?_, ?_, ?_, ?_, ?_, ?_⟩ <;> rfl

@[simp] theorem setAttach_sets (a : Nat) (x : Attach) (s : State) :
    (setAttach a x s).now = s.now ∧ (setAttach a x s).tbOff = s.tbOff ∧ (setAttach a x s).mem = s.mem ∧
    (setAttach a x s).pool = s.pool ∧ (setAttach a x s).tiers = s.tiers ∧ (setAttach a x s).vers = s.vers ∧
    (setAttach a x s).hens = s.hens ∧ (setAttach a x s).work = s.work ∧ (setAttach a x s).coding = s.coding ∧
    (setAttach a x s).eng = s.eng ∧ (setAttach a x s).kv = s.kv ∧ (setAttach a x s).search = s.search ∧
    (setAttach a x s).links = s.links ∧ (setAttach a x s).txn = s.txn ∧ (setAttach a x s).coh = s.coh ∧
    (setAttach a x s).traf = s.traf ∧ (setAttach a x s).ring = s.ring ∧ (setAttach a x s).dict = s.dict ∧
    (setAttach a x s).time = s.time ∧ (setAttach a x s).sec = s.sec ∧ (setAttach a x s).rst = s.rst ∧
    (setAttach a x s).pow = s.pow ∧ (setAttach a x s).out = s.out ∧ (setAttach a x s).freeCtr = s.freeCtr ∧
    (setAttach a x s).pending = s.pending ∧ (setAttach a x s).sw.attach = tput s.sw.attach a x ∧
    (setAttach a x s).sw.frames = s.sw.frames ∧ (setAttach a x s).sw.slices = s.sw.slices :=
  by refine ⟨?_, ?_, ?_, ?_, ?_, ?_, ?_, ?_, ?_, ?_, ?_, ?_, ?_, ?_, ?_, ?_, ?_, ?_, ?_, ?_, ?_, ?_, ?_, ?_, ?_, ?_, ?_, ?_⟩ <;> rfl

@[simp] theorem setFrame_sets (f : Frame) (s : State) :
    (setFrame f s).now = s.now ∧ (setFrame f s).tbOff = s.tbOff ∧ (setFrame f s).mem = s.mem ∧ (setFrame f s).pool = s.pool ∧
    (setFrame f s).tiers = s.tiers ∧ (setFrame f s).vers = s.vers ∧ (setFrame f s).hens = s.hens ∧
    (setFrame f s).work = s.work ∧ (setFrame f s).coding = s.coding ∧ (setFrame f s).eng = s.eng ∧ (setFrame f s).kv = s.kv ∧
    (setFrame f s).search = s.search ∧ (setFrame f s).links = s.links ∧ (setFrame f s).txn = s.txn ∧
    (setFrame f s).coh = s.coh ∧ (setFrame f s).traf = s.traf ∧ (setFrame f s).ring = s.ring ∧ (setFrame f s).dict = s.dict ∧
    (setFrame f s).time = s.time ∧ (setFrame f s).sec = s.sec ∧ (setFrame f s).rst = s.rst ∧ (setFrame f s).pow = s.pow ∧
    (setFrame f s).out = s.out ∧ (setFrame f s).freeCtr = s.freeCtr ∧ (setFrame f s).pending = s.pending ∧
    (setFrame f s).sw.slices = s.sw.slices ∧ (setFrame f s).sw.attach = s.sw.attach :=
  by refine ⟨?_, ?_, ?_, ?_, ?_, ?_, ?_, ?_, ?_, ?_, ?_, ?_, ?_, ?_, ?_, ?_, ?_, ?_, ?_, ?_, ?_, ?_, ?_, ?_, ?_, ?_, ?_⟩ <;> rfl

@[simp] theorem setCapture_sets (i : Nat) (x : Capture) (s : State) :
    (setCapture i x s).now = s.now ∧ (setCapture i x s).tbOff = s.tbOff ∧ (setCapture i x s).mem = s.mem ∧
    (setCapture i x s).pool = s.pool ∧ (setCapture i x s).tiers = s.tiers ∧ (setCapture i x s).vers = s.vers ∧
    (setCapture i x s).hens = s.hens ∧ (setCapture i x s).work = s.work ∧ (setCapture i x s).coding = s.coding ∧
    (setCapture i x s).eng = s.eng ∧ (setCapture i x s).kv = s.kv ∧ (setCapture i x s).search = s.search ∧
    (setCapture i x s).links = s.links ∧ (setCapture i x s).txn = s.txn ∧ (setCapture i x s).coh = s.coh ∧
    (setCapture i x s).traf = s.traf ∧ (setCapture i x s).ring = s.ring ∧ (setCapture i x s).dict = s.dict ∧
    (setCapture i x s).time = s.time ∧ (setCapture i x s).sec = s.sec ∧ (setCapture i x s).rst = s.rst ∧
    (setCapture i x s).pow = s.pow ∧ (setCapture i x s).out = s.out ∧ (setCapture i x s).freeCtr = s.freeCtr ∧
    (setCapture i x s).pending = s.pending ∧ (setCapture i x s).sw.captures = tput s.sw.captures i x ∧
    (setCapture i x s).sw.frames = s.sw.frames :=
  by refine ⟨?_, ?_, ?_, ?_, ?_, ?_, ?_, ?_, ?_, ?_, ?_, ?_, ?_, ?_, ?_, ?_, ?_, ?_, ?_, ?_, ?_, ?_, ?_, ?_, ?_, ?_, ?_⟩ <;> rfl

@[simp] theorem setMeter_sets (p c : Nat) (m : Meter) (s : State) :
    (setMeter p c m s).now = s.now ∧ (setMeter p c m s).tbOff = s.tbOff ∧ (setMeter p c m s).mem = s.mem ∧
    (setMeter p c m s).pool = s.pool ∧ (setMeter p c m s).tiers = s.tiers ∧ (setMeter p c m s).vers = s.vers ∧
    (setMeter p c m s).hens = s.hens ∧ (setMeter p c m s).work = s.work ∧ (setMeter p c m s).coding = s.coding ∧
    (setMeter p c m s).eng = s.eng ∧ (setMeter p c m s).kv = s.kv ∧ (setMeter p c m s).search = s.search ∧
    (setMeter p c m s).links = s.links ∧ (setMeter p c m s).txn = s.txn ∧ (setMeter p c m s).coh = s.coh ∧
    (setMeter p c m s).sw = s.sw ∧ (setMeter p c m s).ring = s.ring ∧ (setMeter p c m s).dict = s.dict ∧
    (setMeter p c m s).time = s.time ∧ (setMeter p c m s).sec = s.sec ∧ (setMeter p c m s).rst = s.rst ∧
    (setMeter p c m s).pow = s.pow ∧ (setMeter p c m s).out = s.out ∧ (setMeter p c m s).freeCtr = s.freeCtr ∧
    (setMeter p c m s).pending = s.pending ∧ (setMeter p c m s).traf.meters = tput s.traf.meters (tcKey p c) m ∧
    (setMeter p c m s).traf.shapers = s.traf.shapers ∧ (setMeter p c m s).traf.gates = s.traf.gates :=
  by refine ⟨?_, ?_, ?_, ?_, ?_, ?_, ?_, ?_, ?_, ?_, ?_, ?_, ?_, ?_, ?_, ?_, ?_, ?_, ?_, ?_, ?_, ?_, ?_, ?_, ?_, ?_, ?_, ?_⟩ <;> rfl

@[simp] theorem setShaper_sets (p c : Nat) (x : Shaper) (s : State) :
    (setShaper p c x s).now = s.now ∧ (setShaper p c x s).tbOff = s.tbOff ∧ (setShaper p c x s).mem = s.mem ∧
    (setShaper p c x s).pool = s.pool ∧ (setShaper p c x s).tiers = s.tiers ∧ (setShaper p c x s).vers = s.vers ∧
    (setShaper p c x s).hens = s.hens ∧ (setShaper p c x s).work = s.work ∧ (setShaper p c x s).coding = s.coding ∧
    (setShaper p c x s).eng = s.eng ∧ (setShaper p c x s).kv = s.kv ∧ (setShaper p c x s).search = s.search ∧
    (setShaper p c x s).links = s.links ∧ (setShaper p c x s).txn = s.txn ∧ (setShaper p c x s).coh = s.coh ∧
    (setShaper p c x s).sw = s.sw ∧ (setShaper p c x s).ring = s.ring ∧ (setShaper p c x s).dict = s.dict ∧
    (setShaper p c x s).time = s.time ∧ (setShaper p c x s).sec = s.sec ∧ (setShaper p c x s).rst = s.rst ∧
    (setShaper p c x s).pow = s.pow ∧ (setShaper p c x s).out = s.out ∧ (setShaper p c x s).freeCtr = s.freeCtr ∧
    (setShaper p c x s).pending = s.pending ∧ (setShaper p c x s).traf.shapers = tput s.traf.shapers (tcKey p c) x ∧
    (setShaper p c x s).traf.meters = s.traf.meters ∧ (setShaper p c x s).traf.gates = s.traf.gates :=
  by refine ⟨?_, ?_, ?_, ?_, ?_, ?_, ?_, ?_, ?_, ?_, ?_, ?_, ?_, ?_, ?_, ?_, ?_, ?_, ?_, ?_, ?_, ?_, ?_, ?_, ?_, ?_, ?_, ?_⟩ <;> rfl

@[simp] theorem setGate_sets (l : Nat) (g : Gate) (s : State) :
    (setGate l g s).now = s.now ∧ (setGate l g s).tbOff = s.tbOff ∧ (setGate l g s).mem = s.mem ∧
    (setGate l g s).pool = s.pool ∧ (setGate l g s).tiers = s.tiers ∧ (setGate l g s).vers = s.vers ∧
    (setGate l g s).hens = s.hens ∧ (setGate l g s).work = s.work ∧ (setGate l g s).coding = s.coding ∧
    (setGate l g s).eng = s.eng ∧ (setGate l g s).kv = s.kv ∧ (setGate l g s).search = s.search ∧
    (setGate l g s).links = s.links ∧ (setGate l g s).txn = s.txn ∧ (setGate l g s).coh = s.coh ∧ (setGate l g s).sw = s.sw ∧
    (setGate l g s).ring = s.ring ∧ (setGate l g s).dict = s.dict ∧ (setGate l g s).time = s.time ∧
    (setGate l g s).sec = s.sec ∧ (setGate l g s).rst = s.rst ∧ (setGate l g s).pow = s.pow ∧ (setGate l g s).out = s.out ∧
    (setGate l g s).freeCtr = s.freeCtr ∧ (setGate l g s).pending = s.pending ∧
    (setGate l g s).traf.gates = tput s.traf.gates l g ∧ (setGate l g s).traf.meters = s.traf.meters ∧
    (setGate l g s).traf.shapers = s.traf.shapers :=
  by refine ⟨?_, ?_, ?_, ?_, ?_, ?_, ?_, ?_, ?_, ?_, ?_, ?_, ?_, ?_, ?_, ?_, ?_, ?_, ?_, ?_, ?_, ?_, ?_, ?_, ?_, ?_, ?_, ?_⟩ <;> rfl

@[simp] theorem setSessions_sets (l : List Session) (s : State) :
    (setSessions l s).now = s.now ∧ (setSessions l s).tbOff = s.tbOff ∧ (setSessions l s).mem = s.mem ∧
    (setSessions l s).pool = s.pool ∧ (setSessions l s).tiers = s.tiers ∧ (setSessions l s).vers = s.vers ∧
    (setSessions l s).hens = s.hens ∧ (setSessions l s).work = s.work ∧ (setSessions l s).coding = s.coding ∧
    (setSessions l s).eng = s.eng ∧ (setSessions l s).kv = s.kv ∧ (setSessions l s).search = s.search ∧
    (setSessions l s).links = s.links ∧ (setSessions l s).txn = s.txn ∧ (setSessions l s).coh = s.coh ∧
    (setSessions l s).sw = s.sw ∧ (setSessions l s).traf = s.traf ∧ (setSessions l s).ring = s.ring ∧
    (setSessions l s).time = s.time ∧ (setSessions l s).sec = s.sec ∧ (setSessions l s).rst = s.rst ∧
    (setSessions l s).pow = s.pow ∧ (setSessions l s).out = s.out ∧ (setSessions l s).freeCtr = s.freeCtr ∧
    (setSessions l s).pending = s.pending ∧ (setSessions l s).dict.sessions = l ∧
    (setSessions l s).dict.regs = s.dict.regs :=
  by refine ⟨?_, ?_, ?_, ?_, ?_, ?_, ?_, ?_, ?_, ?_, ?_, ?_, ?_, ?_, ?_, ?_, ?_, ?_, ?_, ?_, ?_, ?_, ?_, ?_, ?_, ?_, ?_⟩ <;> rfl

@[simp] theorem setTime_sets (f : Time → Time) (s : State) :
    (setTime f s).now = s.now ∧ (setTime f s).tbOff = s.tbOff ∧ (setTime f s).mem = s.mem ∧ (setTime f s).pool = s.pool ∧
    (setTime f s).tiers = s.tiers ∧ (setTime f s).vers = s.vers ∧ (setTime f s).hens = s.hens ∧ (setTime f s).work = s.work ∧
    (setTime f s).coding = s.coding ∧ (setTime f s).eng = s.eng ∧ (setTime f s).kv = s.kv ∧ (setTime f s).search = s.search ∧
    (setTime f s).links = s.links ∧ (setTime f s).txn = s.txn ∧ (setTime f s).coh = s.coh ∧ (setTime f s).sw = s.sw ∧
    (setTime f s).traf = s.traf ∧ (setTime f s).ring = s.ring ∧ (setTime f s).dict = s.dict ∧ (setTime f s).sec = s.sec ∧
    (setTime f s).rst = s.rst ∧ (setTime f s).pow = s.pow ∧ (setTime f s).out = s.out ∧ (setTime f s).freeCtr = s.freeCtr ∧
    (setTime f s).pending = s.pending ∧ (setTime f s).time = f s.time :=
  by refine ⟨?_, ?_, ?_, ?_, ?_, ?_, ?_, ?_, ?_, ?_, ?_, ?_, ?_, ?_, ?_, ?_, ?_, ?_, ?_, ?_, ?_, ?_, ?_, ?_, ?_, ?_⟩ <;> rfl

@[simp] theorem setSec_sets (f : Security → Security) (s : State) :
    (setSec f s).now = s.now ∧ (setSec f s).tbOff = s.tbOff ∧ (setSec f s).mem = s.mem ∧ (setSec f s).pool = s.pool ∧
    (setSec f s).tiers = s.tiers ∧ (setSec f s).vers = s.vers ∧ (setSec f s).hens = s.hens ∧ (setSec f s).work = s.work ∧
    (setSec f s).coding = s.coding ∧ (setSec f s).eng = s.eng ∧ (setSec f s).kv = s.kv ∧ (setSec f s).search = s.search ∧
    (setSec f s).links = s.links ∧ (setSec f s).txn = s.txn ∧ (setSec f s).coh = s.coh ∧ (setSec f s).sw = s.sw ∧
    (setSec f s).traf = s.traf ∧ (setSec f s).ring = s.ring ∧ (setSec f s).dict = s.dict ∧ (setSec f s).time = s.time ∧
    (setSec f s).rst = s.rst ∧ (setSec f s).pow = s.pow ∧ (setSec f s).out = s.out ∧ (setSec f s).freeCtr = s.freeCtr ∧
    (setSec f s).pending = s.pending ∧ (setSec f s).sec = f s.sec :=
  by refine ⟨?_, ?_, ?_, ?_, ?_, ?_, ?_, ?_, ?_, ?_, ?_, ?_, ?_, ?_, ?_, ?_, ?_, ?_, ?_, ?_, ?_, ?_, ?_, ?_, ?_, ?_⟩ <;> rfl

@[simp] theorem setRst_sets (f : Resets → Resets) (s : State) :
    (setRst f s).now = s.now ∧ (setRst f s).tbOff = s.tbOff ∧ (setRst f s).mem = s.mem ∧ (setRst f s).pool = s.pool ∧
    (setRst f s).tiers = s.tiers ∧ (setRst f s).vers = s.vers ∧ (setRst f s).hens = s.hens ∧ (setRst f s).work = s.work ∧
    (setRst f s).coding = s.coding ∧ (setRst f s).eng = s.eng ∧ (setRst f s).kv = s.kv ∧ (setRst f s).search = s.search ∧
    (setRst f s).links = s.links ∧ (setRst f s).txn = s.txn ∧ (setRst f s).coh = s.coh ∧ (setRst f s).sw = s.sw ∧
    (setRst f s).traf = s.traf ∧ (setRst f s).ring = s.ring ∧ (setRst f s).dict = s.dict ∧ (setRst f s).time = s.time ∧
    (setRst f s).sec = s.sec ∧ (setRst f s).pow = s.pow ∧ (setRst f s).out = s.out ∧ (setRst f s).freeCtr = s.freeCtr ∧
    (setRst f s).pending = s.pending ∧ (setRst f s).rst = f s.rst :=
  by refine ⟨?_, ?_, ?_, ?_, ?_, ?_, ?_, ?_, ?_, ?_, ?_, ?_, ?_, ?_, ?_, ?_, ?_, ?_, ?_, ?_, ?_, ?_, ?_, ?_, ?_, ?_⟩ <;> rfl

@[simp] theorem setPow_sets (f : Power → Power) (s : State) :
    (setPow f s).now = s.now ∧ (setPow f s).tbOff = s.tbOff ∧ (setPow f s).mem = s.mem ∧ (setPow f s).pool = s.pool ∧
    (setPow f s).tiers = s.tiers ∧ (setPow f s).vers = s.vers ∧ (setPow f s).hens = s.hens ∧ (setPow f s).work = s.work ∧
    (setPow f s).coding = s.coding ∧ (setPow f s).eng = s.eng ∧ (setPow f s).kv = s.kv ∧ (setPow f s).search = s.search ∧
    (setPow f s).links = s.links ∧ (setPow f s).txn = s.txn ∧ (setPow f s).coh = s.coh ∧ (setPow f s).sw = s.sw ∧
    (setPow f s).traf = s.traf ∧ (setPow f s).ring = s.ring ∧ (setPow f s).dict = s.dict ∧ (setPow f s).time = s.time ∧
    (setPow f s).sec = s.sec ∧ (setPow f s).rst = s.rst ∧ (setPow f s).out = s.out ∧ (setPow f s).freeCtr = s.freeCtr ∧
    (setPow f s).pending = s.pending ∧ (setPow f s).pow = f s.pow :=
  by refine ⟨?_, ?_, ?_, ?_, ?_, ?_, ?_, ?_, ?_, ?_, ?_, ?_, ?_, ?_, ?_, ?_, ?_, ?_, ?_, ?_, ?_, ?_, ?_, ?_, ?_, ?_⟩ <;> rfl

@[simp] theorem send_sets (o : Out) (s : State) :
    (send o s).now = s.now ∧ (send o s).tbOff = s.tbOff ∧ (send o s).mem = s.mem ∧ (send o s).pool = s.pool ∧
    (send o s).tiers = s.tiers ∧ (send o s).vers = s.vers ∧ (send o s).hens = s.hens ∧ (send o s).work = s.work ∧
    (send o s).coding = s.coding ∧ (send o s).eng = s.eng ∧ (send o s).kv = s.kv ∧ (send o s).search = s.search ∧
    (send o s).links = s.links ∧ (send o s).txn = s.txn ∧ (send o s).coh = s.coh ∧ (send o s).sw = s.sw ∧
    (send o s).traf = s.traf ∧ (send o s).ring = s.ring ∧ (send o s).dict = s.dict ∧ (send o s).time = s.time ∧
    (send o s).sec = s.sec ∧ (send o s).rst = s.rst ∧ (send o s).pow = s.pow ∧ (send o s).freeCtr = s.freeCtr ∧
    (send o s).pending = s.pending ∧ (send o s).out = s.out ++ [o] :=
  by refine ⟨?_, ?_, ?_, ?_, ?_, ?_, ?_, ?_, ?_, ?_, ?_, ?_, ?_, ?_, ?_, ?_, ?_, ?_, ?_, ?_, ?_, ?_, ?_, ?_, ?_, ?_⟩ <;> rfl

@[simp] theorem timeTo_sets (t : Nat) (s : State) :
    (timeTo t s).tbOff = s.tbOff ∧ (timeTo t s).mem = s.mem ∧ (timeTo t s).pool = s.pool ∧ (timeTo t s).tiers = s.tiers ∧
    (timeTo t s).vers = s.vers ∧ (timeTo t s).hens = s.hens ∧ (timeTo t s).work = s.work ∧ (timeTo t s).coding = s.coding ∧
    (timeTo t s).eng = s.eng ∧ (timeTo t s).kv = s.kv ∧ (timeTo t s).search = s.search ∧ (timeTo t s).links = s.links ∧
    (timeTo t s).txn = s.txn ∧ (timeTo t s).coh = s.coh ∧ (timeTo t s).sw = s.sw ∧ (timeTo t s).traf = s.traf ∧
    (timeTo t s).ring = s.ring ∧ (timeTo t s).dict = s.dict ∧ (timeTo t s).time = s.time ∧ (timeTo t s).sec = s.sec ∧
    (timeTo t s).rst = s.rst ∧ (timeTo t s).pow = s.pow ∧ (timeTo t s).out = s.out ∧ (timeTo t s).freeCtr = s.freeCtr ∧
    (timeTo t s).pending = s.pending ∧ (timeTo t s).now = max s.now t :=
  by refine ⟨?_, ?_, ?_, ?_, ?_, ?_, ?_, ?_, ?_, ?_, ?_, ?_, ?_, ?_, ?_, ?_, ?_, ?_, ?_, ?_, ?_, ?_, ?_, ?_, ?_, ?_⟩ <;> rfl

@[simp] theorem rseti_sets (key i v : Nat) (s : State) :
    (rseti key i v s).now = s.now ∧ (rseti key i v s).tbOff = s.tbOff ∧ (rseti key i v s).mem = s.mem ∧
    (rseti key i v s).pool = s.pool ∧ (rseti key i v s).tiers = s.tiers ∧ (rseti key i v s).vers = s.vers ∧
    (rseti key i v s).hens = s.hens ∧ (rseti key i v s).work = s.work ∧ (rseti key i v s).coding = s.coding ∧
    (rseti key i v s).eng = s.eng ∧ (rseti key i v s).kv = s.kv ∧ (rseti key i v s).search = s.search ∧
    (rseti key i v s).links = s.links ∧ (rseti key i v s).txn = s.txn ∧ (rseti key i v s).coh = s.coh ∧
    (rseti key i v s).sw = s.sw ∧ (rseti key i v s).traf = s.traf ∧ (rseti key i v s).ring = s.ring ∧
    (rseti key i v s).time = s.time ∧ (rseti key i v s).sec = s.sec ∧ (rseti key i v s).rst = s.rst ∧
    (rseti key i v s).pow = s.pow ∧ (rseti key i v s).out = s.out ∧ (rseti key i v s).freeCtr = s.freeCtr ∧
    (rseti key i v s).pending = s.pending ∧ (rseti key i v s).dict.sessions = s.dict.sessions ∧
    (rseti key i v s).dict.storeA = s.dict.storeA ∧ (rseti key i v s).dict.storeB = s.dict.storeB ∧
    (rseti key i v s).dict.saving = s.dict.saving ∧ (rseti key i v s).dict.homeIndex = s.dict.homeIndex :=
  by refine ⟨?_, ?_, ?_, ?_, ?_, ?_, ?_, ?_, ?_, ?_, ?_, ?_, ?_, ?_, ?_, ?_, ?_, ?_, ?_, ?_, ?_, ?_, ?_, ?_, ?_, ?_, ?_, ?_, ?_, ?_⟩ <;> rfl

theorem linkOf_setLink (k q : Nat) (v : Link) (s : State) : linkOf q (setLink k v s) = if k = q then v else linkOf q s :=
  tgetD_tput _ k q v _

theorem portTx_setPortTx (k q : Nat) (v : PortTx) (s : State) : portTx q (setPortTx k v s) = if k = q then v else portTx q s :=
  tgetD_tput _ k q v _

theorem henOf_setHen (k q : Nat) (v : Hen) (s : State) : henOf q (setHen k v s) = if k = q then v else henOf q s :=
  tgetD_tput _ k q v _

theorem larderOf_setLarder (k q : Nat) (v : Larder) (s : State) : larderOf q (setLarder k v s) = if k = q then v else larderOf q s :=
  tgetD_tput _ k q v _

theorem crateOf_setCrate (k q : Nat) (v : Crate) (s : State) : crateOf q (setCrate k v s) = if k = q then v else crateOf q s :=
  tgetD_tput _ k q v _

theorem trayOf_setTray (k q : Nat) (v : Tray) (s : State) : trayOf q (setTray k v s) = if k = q then v else trayOf q s :=
  tgetD_tput _ k q v _

theorem sliceOf_setSlice (k q : Nat) (v : Slice) (s : State) : sliceOf q (setSlice k v s) = if k = q then v else sliceOf q s :=
  tgetD_tput _ k q v _

theorem attachOf_setAttach (k q : Nat) (v : Attach) (s : State) : attachOf q (setAttach k v s) = if k = q then v else attachOf q s :=
  tgetD_tput _ k q v _

theorem gateOf_setGate (k q : Nat) (v : Gate) (s : State) : gateOf q (setGate k v s) = if k = q then v else gateOf q s :=
  tgetD_tput _ k q v _

theorem extOf_setExt (k q : Nat) (v : Extent) (s : State) : extOf q (setExt k v s) = if k = q then some v else extOf q s :=
  tget_tput _ k q v
theorem queueOf_setQueue (k q : Nat) (v : Queue) (s : State) :
    queueOf q (setQueue k v s) = if k = q then some v else queueOf q s := tget_tput _ k q v
theorem itemOf_setItem (k q : Nat) (v : Item) (s : State) : itemOf q (setItem k v s) = if k = q then some v else itemOf q s :=
  tget_tput _ k q v
theorem collOf_setColl (k q : Nat) (v : Coll) (s : State) : collOf q (setColl k v s) = if k = q then some v else collOf q s :=
  tget_tput _ k q v
theorem ownOf_setOwn (k q : Nat) (v : OwnObj) (s : State) : ownOf q (setOwn k v s) = if k = q then some v else ownOf q s :=
  tget_tput _ k q v

end Sys2Proof.Machine
end

