-- ==== Sys2Proof/Tests/Slice0.lean ====
section
/-!
SUPPORT. The model's own tests: for each check of WellFormed a command that it refuses, and for the statements of
Certificates/Slice0/Obligations.lean states that meet their hypotheses, and the worked examples of the spec. Values come from spec/'s tables.
-/
namespace Sys2Proof.Tests
open Sys2Proof Sys2Proof.Machine
set_option Elab.async false

/-! ### Well-formedness -/

/-- A request frame that fits its session's frame. -/
def okReq : Req := { session := 1, node := 2, frameSeq := 5, tagOk := true, seq := 0, stage := false, len := 2, formOk := true }

/-- A request of port 0. -/
def okHdr : Hdr :=
  { port := 0, seq := 1, tag := 7, job := 5, addr := 0, length := 4, tc := 1, vc := 0, rel := false, retry := false,
    coded := false, lenOk := true, resZero := true, mem := .none }

/-- A whole message of peer 3 in one fragment. -/
def okPeer : PeerHdr := { port := 0, msgSeq := 1, msgId := 1, frag := 0, frags := 1, job := 5, src := 3, dst := 0 }

/-- A flit of no bits. -/
def okFlit : FlitHdr := { typ := 0, vc := 0, resv := 0, seq := 0, ack := 0, cvc := 0, ccnt := 0, crc := 0, fixed := 0 }

/-- A ring frame from node 2 to node 3. -/
def okRing : RingFrame :=
  { onB := true, dst := 3, src := 2, bcast := false, hops := 3, typ := 0, length := 0, session := 0, frameSeq := 0,
    crcOk := true }

theorem test_wf_accepts :
    (Instr.jobOpen okReq 65535).wf = true ∧ (Instr.read okHdr).wf = true ∧ (Instr.mirrorCtl okPeer .release).wf = true ∧
      (Instr.idleFlit 0 okFlit none).wf = true ∧ (Instr.ringFrameForward okRing).wf = true := by decide

/-- A value longer than LEN. -/
theorem test_wf_value : (Instr.jobOpen okReq 65536).wf = false := by decide
theorem test_wf_req_session : (Instr.commit { okReq with session := 2 ^ 32 }).wf = false := by decide
theorem test_wf_req_node : (Instr.commit { okReq with node := 32 }).wf = false := by decide
theorem test_wf_req_frameSeq : (Instr.commit { okReq with frameSeq := 2 ^ 32 }).wf = false := by decide
theorem test_wf_req_seq : (Instr.commit { okReq with seq := 2 ^ 32 }).wf = false := by decide
theorem test_wf_req_len : (Instr.commit { okReq with len := 1025 }).wf = false := by decide
theorem test_wf_hdr_port : (Instr.fence { okHdr with port := 192 }).wf = false := by decide
theorem test_wf_hdr_seq : (Instr.fence { okHdr with seq := 2 ^ 32 }).wf = false := by decide
theorem test_wf_hdr_tag : (Instr.fence { okHdr with tag := 65536 }).wf = false := by decide
theorem test_wf_hdr_job : (Instr.fence { okHdr with job := 65536 }).wf = false := by decide
theorem test_wf_hdr_addr : (Instr.fence { okHdr with addr := 2 ^ 56 }).wf = false := by decide
theorem test_wf_hdr_length : (Instr.fence { okHdr with length := 8192 }).wf = false := by decide
theorem test_wf_hdr_tc : (Instr.fence { okHdr with tc := 8 }).wf = false := by decide
theorem test_wf_hdr_vc : (Instr.fence { okHdr with vc := 8 }).wf = false := by decide
theorem test_wf_peer_port : (Instr.mirrorCtl { okPeer with port := 192 } .release).wf = false := by decide
theorem test_wf_peer_msgSeq : (Instr.mirrorCtl { okPeer with msgSeq := 2 ^ 64 } .release).wf = false := by decide
theorem test_wf_peer_msgId : (Instr.mirrorCtl { okPeer with msgId := 2 ^ 32 } .release).wf = false := by decide
theorem test_wf_peer_frag : (Instr.mirrorCtl { okPeer with frag := 65536 } .release).wf = false := by decide
theorem test_wf_peer_frags : (Instr.mirrorCtl { okPeer with frags := 65536 } .release).wf = false := by decide
theorem test_wf_peer_job : (Instr.mirrorCtl { okPeer with job := 65536 } .release).wf = false := by decide
theorem test_wf_peer_src : (Instr.mirrorCtl { okPeer with src := 16 } .release).wf = false := by decide
theorem test_wf_peer_dst : (Instr.mirrorCtl { okPeer with dst := 16 } .release).wf = false := by decide
theorem test_wf_flit_typ : (Instr.nak 0 { okFlit with typ := 4 }).wf = false := by decide
theorem test_wf_flit_vc : (Instr.nak 0 { okFlit with vc := 8 }).wf = false := by decide
theorem test_wf_flit_resv : (Instr.nak 0 { okFlit with resv := 2 }).wf = false := by decide
theorem test_wf_flit_seq : (Instr.nak 0 { okFlit with seq := 4096 }).wf = false := by decide
theorem test_wf_flit_ack : (Instr.nak 0 { okFlit with ack := 4096 }).wf = false := by decide
theorem test_wf_flit_cvc : (Instr.nak 0 { okFlit with cvc := 8 }).wf = false := by decide
theorem test_wf_flit_ccnt : (Instr.nak 0 { okFlit with ccnt := 128 }).wf = false := by decide
theorem test_wf_flit_crc : (Instr.nak 0 { okFlit with crc := 2 ^ 24 }).wf = false := by decide
theorem test_wf_flit_link : (Instr.nak 208 okFlit).wf = false := by decide
theorem test_wf_flit_payload : (Instr.dataFlit 0 okFlit (List.replicate 249 0) none).wf = false := by
  rw [Instr.wf, List.length_replicate]; rfl
theorem test_wf_flit_lane : (Instr.idleFlit 0 okFlit (some 8)).wf = false := by decide
theorem test_wf_ring_dst : (Instr.ringFrameForward { okRing with dst := 32 }).wf = false := by decide
theorem test_wf_ring_src : (Instr.ringFrameForward { okRing with src := 32 }).wf = false := by decide
theorem test_wf_ring_hops : (Instr.ringFrameForward { okRing with hops := 64 }).wf = false := by decide
theorem test_wf_ring_typ : (Instr.ringFrameForward { okRing with typ := 64 }).wf = false := by decide
theorem test_wf_ring_length : (Instr.ringFrameForward { okRing with length := 4096 }).wf = false := by decide
theorem test_wf_ptp_domain :
    (Instr.sync { frame := okRing, domain := 256, logInterval := 0, origin := 0, seqId := 0 }).wf = false := by decide
theorem test_wf_ptp_seqId :
    (Instr.sync { frame := okRing, domain := 0, logInterval := 0, origin := 0, seqId := 65536 }).wf = false := by decide
theorem test_wf_tray_link :
    (Instr.trayResponse { link := 191, op := 1, tag := 0, status := 0, corrected := 0, more := false, data := [] }).wf = false ∧
      (Instr.trayResponse { link := 208, op := 1, tag := 0, status := 0, corrected := 0, more := false, data := [] }).wf = false
    := by decide
theorem test_wf_hen_larder : (Instr.scalarInstruction { hen := 12 * 512, ls := LsErr.none }).wf = false := by decide
theorem test_wf_hen_index : (Instr.scalarInstruction { hen := 384, ls := LsErr.none }).wf = false := by decide
theorem test_wf_tile : (Instr.tzero 0 8).wf = false := by decide
theorem test_wf_vreg : (Instr.vopAdd 0 32 0 0).wf = false := by decide
theorem test_wf_move_row : (Instr.vmove 0 (.rowToV 0 16 0)).wf = false := by decide
theorem test_wf_move_lane : (Instr.vmove 0 (.laneToX 0 32 0)).wf = false := by decide
theorem test_wf_dma :
    (Instr.dmard 0 { pool := 2 ^ 64, loc := 0, rows := 1, rowBytes := 8, poolStride := 0, locStride := 0 }).wf = false := by
  decide
theorem test_wf_queue : (Instr.run 16384).wf = false := by decide
theorem test_wf_extent : (Instr.drained 65536).wf = false := by decide
theorem test_wf_tray : (Instr.trayLost 16).wf = false := by decide
theorem test_wf_coll : (Instr.roundOpen 4096).wf = false := by decide
theorem test_wf_slice : (Instr.cellTime { slice := 4, badCell := none }).wf = false := by decide
theorem test_wf_atomic_width : (Instr.atomicAdd okHdr 17 0).wf = false := by decide
theorem test_wf_larder : (Instr.larderFault 12).wf = false := by decide
theorem test_wf_rail : (Instr.vrbAlert 9 0 false).wf = false := by decide
theorem test_wf_sensor : (Instr.thermalRead 74 0).wf = false := by decide
theorem test_wf_hdr_mem : (Instr.fence { okHdr with mem := { MemErr.none with copies := 4 } }).wf = false := by decide
theorem test_wf_ls_word : (Instr.scalarInstruction { hen := 0, ls := { fixed := [], bad := [32768] } }).wf = false := by decide

/-! ### States that meet the statements' hypotheses -/

/-- The session of a MANAGER. -/
def sess : Session :=
  { id := 1, role := roleManager, node := 2, last := none, heldReqs := [], cache := [], staged := [], subs := [], events := [],
    nextEvent := 0, dropped := 0, selects := [], block := none, activeAt := 0, rxSeq := none, txSeq := 0, resendAt := 0 }

/-- A READY home 0 with that session. -/
def up : State :=
  rset kStartState 2 (rset kHomeIndex 0 { State.reset with dict := { State.reset.dict with sessions := [sess], homeIndex := 0 } })

/-- A request of the session that writes an object. -/
def rqOf (key : Nat) : Req := { okReq with len := Machine.sizeOf key }

theorem writes {key v : Nat} {s : State} (h : sessionOf 1 s = some sess ∧ nodeAccepts s = true ∧ v < 256 ^ Machine.sizeOf key ∧
    unreserved key v = v) : WritesNow (rqOf key) sess key v s :=
  { accepts := h.2.1, ofSession := by simp [rqOf, okReq], session := h.1, genuine := rfl, fresh := by simp [sess], notLast := by simp [rqOf, okReq],
    form := rfl, turn := rfl, inRange := by simp [rqOf, okReq], manager := rfl, now := rfl, length := rfl, fits := h.2.2.1,
    clear := h.2.2.2 }

/-- Job 5 with member 1, partner 9, in job slot 0. -/
def job5 : Job := { jobOfRecord (5 * 2 ^ 240 + 0xFFFF * 2 ^ 224 + (2 ^ 96 - 1) * 2 ^ 96) with members := [(1, 9)] }

/-- An ACTIVE extent of job 5: 16 granules at slot 1, list 1. -/
def ext5 : Extent :=
  { job := 5, base := 0, len := 16, acl := 1, key := 1, st := .active, slot := 1, flags := 0, mirrorHome := 0, gen := 1,
    drainAt := 0, origin := none }

/-- Job 5, its key 1, list 1 with member 1 in both maps, and the pool's figures. -/
def jobbed : State :=
  let s := setJob 0 job5 (rset kShelfUsable 1000 (rset kCellarUsable 1000 up))
  { s with pool := { s.pool with keys := [(1, { host := false, owner := 5, key1 := 1, key2 := 2 })], acls := [(1, (2, 2))] } }

/-- The same with extents 3 (flags 0), 4 (LATENCY), 6 (DURABLE). -/
def pooled : State :=
  setExt 3 ext5 (setExt 4 { ext5 with slot := 2, flags := 256 } (setExt 6 { ext5 with slot := 3, flags := 64 } jobbed))

/-- A queue of job 5's member 1 in extent 4. -/
def queue1 : Queue :=
  { job := 5, member := 1, log2 := 6, prio := 0, qcb := 2 * 2 ^ 52, desc := 2 * 2 ^ 52 + 8192, comp := 2 * 2 ^ 52 + 16384,
    st := .active, loadTo := none, paused := false, late := false, lostExt := false }

/-- Queue 1 as it is, ACTIVE; queue 2 in ERROR. -/
def queued : State := setQueue 2 { queue1 with st := .error } (setQueue 1 queue1 pooled)

/-- A link in a state. -/
def linked (p : Nat) (st : LSt) (s : State) : State := setLink p { linkOf p s with st := st, width := 4 } s

/-! ### Witnesses: writes of command objects -/

theorem meets_jobAndMemberWrites :
    (∃ v, WritesNow (rqOf kJobOpen) sess kJobOpen v jobbed ∧ rget kStartState jobbed = 2 ∧ rget kDebugState jobbed = 0 ∧
      homeIndex jobbed ≤ 15 ∧ jobOf (fld v 255 240) jobbed = none ∧ freeKey jobbed.pool.jobs 4096 = some 1) ∧
    (WritesNow (rqOf kJobClose) sess kJobClose 5 jobbed ∧ isActive 5 jobbed = true) ∧
    (WritesNow (rqOf kJobSlots) sess kJobSlots (5 * 2 ^ 16 + 15) pooled ∧ jobSlotsOk 5 15 pooled = true) ∧
    (∃ v, WritesNow (rqOf kMemberAdd) sess kMemberAdd v pooled ∧ memberAddOk (fld v 63 48) (fld v 47 40) (fld v 35 24) pooled = true) ∧
    (WritesNow (rqOf kMemberRemove) sess kMemberRemove (5 * 2 ^ 16 + 256) jobbed ∧ activeJob 5 jobbed = some (0, job5) ∧
      (partnerOf job5 1).isSome = true) :=
  ⟨⟨6 * 2 ^ 240, writes (by decide +kernel), by decide +kernel⟩, ⟨writes (by decide +kernel), by decide +kernel⟩,
   ⟨writes (by decide +kernel), by decide +kernel⟩,
   ⟨5 * 2 ^ 48 + 2 * 2 ^ 40 + 8 * 2 ^ 24, writes (by decide +kernel), by decide +kernel⟩,
   ⟨writes (by decide +kernel), by decide +kernel⟩⟩

/-- An EXTENT_CMD of job 5 for 8 granules at slot 4 with list 1 and key 1, or of extent 3 with list 1. -/
def extCmd : Nat := 3 * 2 ^ 224 + 5 * 2 ^ 208 + 8 * 2 ^ 160 + 4 * 2 ^ 156 + 2 ^ 128 + 2 ^ 116

theorem meets_extentWrites :
    pooled.vers.mirror.waiting = [] ∧
    (WritesNow (rqOf kExtentCmd) sess kExtentCmd (setFld extCmd 255 248 1) pooled ∧
      fMirror (newExtent (setFld extCmd 255 248 1) 0) = false ∧ allocStatus (newExtent (setFld extCmd 255 248 1) 0) pooled = .done ∧
      freeKey pooled.pool.extents 65536 = some 0) ∧
    (WritesNow (rqOf kExtentCmd) sess kExtentCmd (setFld extCmd 255 248 2) pooled ∧
      extOf (ecExt (setFld extCmd 255 248 2)) pooled = some ext5 ∧ ext5.st = .active) ∧
    (WritesNow (rqOf kExtentCmd) sess kExtentCmd (setFld extCmd 255 248 3) pooled ∧
      extOf (ecExt (setFld extCmd 255 248 3)) pooled = some ext5 ∧ aclSuits ext5 (ecAcl (setFld extCmd 255 248 3)) pooled = true) :=
  ⟨by decide +kernel, ⟨writes (by decide +kernel), by decide +kernel⟩, ⟨writes (by decide +kernel), by decide +kernel⟩,
   ⟨writes (by decide +kernel), by decide +kernel⟩⟩

theorem meets_listKeyAndRoleWrites :
    (WritesNow (rqOf kAclEntry) sess kAclEntry 2 pooled ∧ aclWriteOk (instFor sess kAclEntry) 2 pooled = true) ∧
    (∃ v, WritesNow (rqOf kKeyLoad) sess kKeyLoad v jobbed ∧ rget kDebugState jobbed = 0 ∧ fld v 767 756 ≠ 0 ∧
      keyOf (fld v 767 756) jobbed = none ∧ (keyOfRecord v).key1 ≠ (keyOfRecord v).key2 ∧
      ((keyOfRecord v).host = true ∨ isActive (keyOfRecord v).owner jobbed = true)) ∧
    (WritesNow (rqOf kKeyDestroy) sess kKeyDestroy 1 jobbed ∧ keyUsers 1 jobbed = 0) ∧
    (∃ v, WritesNow (rqOf kRoleEntry) sess kRoleEntry v up ∧ recRole v ≤ 3 ∧
      hasManager (tput up.sec.flash.roles (instFor sess kRoleEntry) v) = true) :=
  ⟨⟨writes (by decide +kernel), by decide +kernel⟩,
   ⟨7 * 2 ^ 756 + 5 * 2 ^ 736 + 2 ^ 256 + 2, writes (by decide +kernel), by decide +kernel⟩,
   ⟨writes (by decide +kernel), by decide +kernel⟩,
   ⟨roleManager * 2 ^ 4220 + 1, writes (by decide +kernel), by decide +kernel⟩⟩

/-- An OWNED_CMD for object 7 of job 5: one range, two granules of extent 3. -/
def ownedV : Nat := 7 * 2 ^ 480 + 5 * 2 ^ 464 + 2 ^ 448 + 3 * 2 ^ 368 + 2 * 2 ^ 288

/-- Object 7 as that command makes it. -/
def owned : State := setOwn 7 (ownedOfCmd ownedV) pooled

theorem meets_tierAndOwnershipWrites :
    WritesNow (rqOf kAtticSize) sess kAtticSize 64 up ∧
    (WritesNow (rqOf kFlushCmd) sess kFlushCmd (6 * 2 ^ 16 + 3 * 256) pooled ∧
      extOf 6 pooled = some { ext5 with slot := 3, flags := 64 } ∧ fDurable { ext5 with slot := 3, flags := 64 } = true) ∧
    (WritesNow (rqOf kOwnedCmd) sess kOwnedCmd (setFld ownedV 511 504 1) pooled ∧
      ownedCreateOk 7 (ownedOfCmd (setFld ownedV 511 504 1)) pooled = true) ∧
    (WritesNow (rqOf kOwnedCmd) sess kOwnedCmd (setFld ownedV 511 504 2) owned ∧
      ownOf (ownKeyOf 7 owned) owned = some (ownedOfCmd ownedV) ∧ (ownedOfCmd ownedV).transit = false) :=
  ⟨writes (by decide +kernel), ⟨writes (by decide +kernel), by decide +kernel⟩, ⟨writes (by decide +kernel), by decide +kernel⟩,
   ⟨writes (by decide +kernel), by decide +kernel⟩⟩

/-- Port 8 is ACTIVE toward peer home 1. -/
def peered : State :=
  let s := setLink 8 { linkOf 8 pooled with st := .active, width := 4, bound := some 1, cfg := 2 * 2 ^ 60 + 2 ^ 58 } pooled
  rseti kPortConfig 8 (2 * 2 ^ 60 + 2 ^ 58) s

/-- The mirror relation to home 1 in a state. -/
def mirrored (r : MirRel) : State := rset kMirrorPeer 1 (modMirror (fun m => { m with rel := r }) peered)

/-- What is mirrored here of home 2. -/
def shadow2 : Shadow :=
  { primary := 2, lastSeq := 4, exts := [(3, 3, 1)], members := [(5, 1, 9)], acls := [], owned := [], unmirrored := [],
    takenOver := false }
def shadowed : State := modMirror (fun m => { m with shadows := [shadow2] }) peered

theorem meets_mirrorWrites :
    (WritesNow (rqOf kMirrorPeer) sess kMirrorPeer 0xFF (mirrored .sync) ∧ mirrorPeer (mirrored .sync) = 1) ∧
    (WritesNow (rqOf kMirrorRelease) sess kMirrorRelease 1 (mirrored .lost) ∧ (mirrored .lost).vers.mirror.rel = .lost) ∧
    (WritesNow (rqOf kMirrorResync) sess kMirrorResync 1 (mirrored .degraded) ∧
      (mirrored .degraded).vers.mirror.rel = .degraded ∧
      (peerPort (mirrorPeer (mirrored .degraded)) (mirrored .degraded)).isSome = true) ∧
    (WritesNow (rqOf kMirrorTakeover) sess kMirrorTakeover 2 shadowed ∧ shadowFor 2 shadowed = some shadow2) :=
  ⟨⟨writes (by decide +kernel), by decide +kernel⟩, ⟨writes (by decide +kernel), by decide +kernel⟩,
   ⟨writes (by decide +kernel), by decide +kernel⟩, ⟨writes (by decide +kernel), by decide +kernel⟩⟩

/-- A QUEUE_CMD for queue 1 of job 5, member 1, in extent 4. -/
def queueV : Nat :=
  1 * 2 ^ 224 + 5 * 2 ^ 208 + 2 ^ 200 + 6 * 2 ^ 195 + queue1.qcb * 2 ^ 136 + queue1.desc * 2 ^ 80 + queue1.comp * 2 ^ 24
/-- Every larder's stacks are trained and the unit map maps no hen out. -/
def henned : State :=
  { queued with hens := { queued.hens with unitMap := some [], larders := (List.range 12).map (fun l => (l, { larderOf l up with trained := true })) } }
/-- A COLL_CMD for collective 2 of job 5 with member 1, and that collective. -/
def collV : Nat := 2 * 2 ^ 484 + 5 * 2 ^ 464 + 2
def coll2 : Coll :=
  { job := 5, peers := 0, members := 2, next := 0, openR := none, pending := [], excluded := 0, removed := 0, waitFrom := none }
def collected : State := setColl 2 coll2 henned

theorem meets_queueAndCollectiveWrites :
    (WritesNow (rqOf kQueueCmd) sess kQueueCmd (setFld queueV 255 248 1) pooled ∧ queueCreateOk (setFld queueV 255 248 1) pooled = true) ∧
    (∀ op ∈ [2, 4, 5], WritesNow (rqOf kQueueCmd) sess kQueueCmd (setFld queueV 255 248 op) queued) ∧
    (queueOf 1 queued = some queue1 ∧ queue1.st ≠ .draining) ∧
    (WritesNow (rqOf kQueueCmd) sess kQueueCmd (setFld (queueV + 2 ^ 224) 255 248 3) queued ∧
      queueOf 2 queued = some { queue1 with st := .error }) ∧
    (∃ v, WritesNow (rqOf kJobHens) sess kJobHens v henned ∧ jobHensStatus v henned = .done) ∧
    (WritesNow (rqOf kCollCmd) sess kCollCmd (setFld collV 511 504 1) henned ∧ collCreateOk (setFld collV 511 504 1) henned = true) ∧
    (WritesNow (rqOf kCollCmd) sess kCollCmd (setFld collV 511 504 2) collected ∧ collOf 2 collected = some coll2) :=
  ⟨⟨writes (by decide +kernel), by decide +kernel⟩,
   by intro op h; simp at h; rcases h with rfl | rfl | rfl <;> exact writes (by decide +kernel),
   by decide +kernel, ⟨writes (by decide +kernel), by decide +kernel⟩,
   ⟨5 * 2 ^ 112 + 2 ^ 96 + 64 * 2 ^ 80 + 0xFFF * 2 ^ 68, writes (by decide +kernel), by decide +kernel⟩,
   ⟨writes (by decide +kernel), by decide +kernel⟩, ⟨writes (by decide +kernel), by decide +kernel⟩⟩

/-- The first octet as four ports of two lanes. -/
def ported : State := each (List.range 4) (fun i => rseti kPortConfig i (2 * 2 ^ 60)) up

theorem meets_linkWrites :
    (WritesNow (rqOf kPortConfig) sess kPortConfig (9 * 2 ^ 58) ported ∧ roleOk (9 * 2 ^ 58) = true ∧
      octetValid (octetCfg 0 (fun q => if 0 == q then 9 * 2 ^ 58 else rgeti kPortConfig q ported)) = true ∧
      guaranteedTotal (rseti kPortConfig 0 (9 * 2 ^ 58) (heard (rqOf kPortConfig) sess ported)) ≤ guaranteeMax) ∧
    (WritesNow (rqOf kPortCmd) sess kPortCmd 1 ported ∧ (linkOf 0 ported).st = .disabled ∧ isPort 0 ported = true) ∧
    (WritesNow (rqOf kPortCmd) sess kPortCmd 2 (linked 0 .active up) ∧ (linkOf 0 (linked 0 .active up)).st ≠ .disabled) ∧
    (WritesNow (rqOf kPortCmd) sess kPortCmd 3 (linked 0 .active up) ∧ (linkOf 0 (linked 0 .active up)).st = .active) ∧
    (WritesNow (rqOf kPortCmd) sess kPortCmd 4 (linked 0 .held up) ∧ (linkOf 0 (linked 0 .held up)).st = .held) ∧
    (WritesNow (rqOf kTlinkCmd) sess kTlinkCmd 1 up ∧ (linkOf 192 up).st = .disabled ∧ isPort 192 up = true) ∧
    (WritesNow (rqOf kTlinkCmd) sess kTlinkCmd 2 (linked 192 .down up) ∧ (linkOf 192 (linked 192 .down up)).st ≠ .disabled) ∧
    (WritesNow (rqOf kTlinkCmd) sess kTlinkCmd 3 (linked 192 .active up) ∧ (linkOf 192 (linked 192 .active up)).st = .active) ∧
    (WritesNow (rqOf kTlinkCmd) sess kTlinkCmd 4 (linked 192 .held up) ∧ (linkOf 192 (linked 192 .held up)).st = .held) ∧
    WritesNow (rqOf kPortExpect) sess kPortExpect (9 * 2 ^ 500 + 1) up :=
  ⟨⟨writes (by decide +kernel), by decide +kernel⟩, ⟨writes (by decide +kernel), by decide +kernel⟩,
   ⟨writes (by decide +kernel), by decide +kernel⟩, ⟨writes (by decide +kernel), by decide +kernel⟩,
   ⟨writes (by decide +kernel), by decide +kernel⟩, ⟨writes (by decide +kernel), by decide +kernel⟩,
   ⟨writes (by decide +kernel), by decide +kernel⟩, ⟨writes (by decide +kernel), by decide +kernel⟩,
   ⟨writes (by decide +kernel), by decide +kernel⟩, writes (by decide +kernel)⟩

/-- A coherent window: job 5, slot 1, granules 0 to 15. -/
def windowV : Nat := 2 ^ 127 + 2 ^ 120 + 5 * 2 ^ 104 + 16 * 2 ^ 56
/-- A capture session: mode 1, all ports, job 5, ring in extent 4, 64 lines. -/
def captureV : Nat := 2 ^ 252 + 0xFF * 2 ^ 240 + 5 * 2 ^ 224 + 2 * 2 ^ 52 * 2 ^ 120 + 6 * 2 ^ 115

theorem meets_fabricWrites :
    (WritesNow (rqOf kTrackMin) sess kTrackMin 2048 up ∧
      trackMinSum up - trackMinOf (instFor sess kTrackMin) up + 2048 ≤ trackerSize) ∧
    (WritesNow (rqOf kCohWindow) sess kCohWindow windowV pooled ∧ pooled.coh.removing = [] ∧
      windowOk (instFor sess kCohWindow) windowV pooled = true ∧
      windowKeeps (tgetD pooled.coh.windows (instFor sess kCohWindow) 0) windowV = true) ∧
    WritesNow (rqOf kCohPortCaching) sess kCohPortCaching 1 up ∧
    (WritesNow (rqOf kSliceCmd) sess kSliceCmd 1 up ∧ WritesNow (rqOf kSliceCmd) sess kSliceCmd 2 up) ∧
    (WritesNow (rqOf kBucketSlice) sess kBucketSlice 3 up ∧ ∀ m ∈ up.sw.moving, m.1 ≠ instFor sess kBucketSlice) ∧
    (WritesNow (rqOf kCaptureSession) sess kCaptureSession captureV pooled ∧ captureOk captureV pooled = true) ∧
    (guaranteeKey 1 = some kRoundTripNs ∧ WritesNow (rqOf kRoundTripNs) sess kRoundTripNs 500 up ∧ guaranteeRange 1 500 = true ∧
      guaranteedTotal (rset kRoundTripNs 500 up) ≤ guaranteeMax) ∧
    (guaranteeKey 4 = some kHaGuarantee ∧ WritesNow (rqOf kHaGuarantee) sess kHaGuarantee 256 up ∧ guaranteeRange 4 256 = true ∧
      guaranteedTotal (rset kHaGuarantee 256 up) ≤ guaranteeMax) :=
  ⟨⟨writes (by decide +kernel), by decide +kernel⟩, ⟨writes (by decide +kernel), by decide +kernel⟩,
   writes (by decide +kernel), ⟨writes (by decide +kernel), writes (by decide +kernel)⟩,
   ⟨writes (by decide +kernel), by decide +kernel⟩, ⟨writes (by decide +kernel), by decide +kernel⟩,
   ⟨by decide +kernel, writes (by decide +kernel), by decide +kernel⟩,
   ⟨by decide +kernel, writes (by decide +kernel), by decide +kernel⟩⟩

theorem meets_trafficWrites :
    (WritesNow (rqOf kTcMap) sess kTcMap 0xAAAA up ∧ ∀ c, c < 8 → fld 0xAAAA (2 * c + 1) (2 * c) ≠ 3) ∧
    (∃ v, WritesNow (rqOf kQuantum) sess kQuantum v up ∧
      ∀ c, c < 8 → 17 ≤ fld v (16 * c + 15) (16 * c) ∧ fld v (16 * c + 15) (16 * c) ≤ 4096) ∧
    (∃ v, WritesNow (rqOf kPolicer) sess kPolicer v up ∧ polOn v = true ∧ policerBad v = false) ∧
    (∃ v, WritesNow (rqOf kShaper) sess kShaper v up ∧ shaperBad v = false ∧
      isoAll (rseti kShaper 0 v (setShaper 0 0 { shaperNow 0 0 up with tokens := 0, waitFrom := none }
        (heard (rqOf kShaper) sess up))) = true) ∧
    (WritesNow (rqOf kGateCommit) sess kGateCommit 15 up ∧ (gateCommitStatus 15 up).1 = .done) ∧
    WritesNow (rqOf kPortGateList) sess kPortGateList 0xFF up :=
  ⟨⟨writes (by decide +kernel), by decide +kernel⟩,
   ⟨17 * (1 + 2 ^ 16 + 2 ^ 32 + 2 ^ 48 + 2 ^ 64 + 2 ^ 80 + 2 ^ 96) + 4096 * 2 ^ 112, writes (by decide +kernel), by decide +kernel⟩,
   ⟨1000 * 2 ^ 96 + 2000 * 2 ^ 64 + 4160 * 2 ^ 40 + 4160 * 2 ^ 16 + 2 ^ 15, writes (by decide +kernel), by decide +kernel⟩,
   ⟨205000 * 2 ^ 96 + 16777215 * 2 ^ 64, writes (by decide +kernel), by decide +kernel⟩,
   ⟨writes (by decide +kernel), by decide +kernel⟩, writes (by decide +kernel)⟩

/-- Job 5 with all the hens of its larders to itself. -/
def job5x : Job := { job5 with hens := { job5.hens with exclusive := true } }
/-- An ISO_JOB record: job 5, ENABLE, 1,000 ns, trays 1. -/
def isoV : Nat := 5 * 2 ^ 112 + 2 ^ 111 + 1000 * 2 ^ 64 + 2 ^ 48

/-- A debug token is accepted on a condition on its signature, which no constant of the model fixes (log 3). -/
theorem meets_configurationAndDebugWrites :
    (WritesNow (rqOf kConfigSave) sess kConfigSave 1 up ∧ WritesNow (rqOf kConfigClear) sess kConfigClear 1 up ∧ up.dict.saving = none) ∧
    (WritesNow (rqOf kHomeIndex) sess kHomeIndex 15 up ∧ WritesNow (rqOf kHomeIndex) sess kHomeIndex 0xFF up) ∧
    (WritesNow (rqOf kDebugEnd) sess kDebugEnd 1 (rset kDebugState debugInForce up) ∧
      rget kDebugState (rset kDebugState debugInForce up) = debugInForce) ∧
    (WritesNow (rqOf kIsoJob) sess kIsoJob isoV (setJob 0 job5x up) ∧ activeJob 5 (setJob 0 job5x up) = some (0, job5x) ∧
      bit isoV 111 = true ∧ isoRecordOk isoV 0 job5x (setJob 0 job5x up) = true) :=
  ⟨⟨writes (by decide +kernel), writes (by decide +kernel), by decide +kernel⟩,
   ⟨writes (by decide +kernel), writes (by decide +kernel)⟩, ⟨writes (by decide +kernel), by decide +kernel⟩,
   ⟨writes (by decide +kernel), by decide +kernel⟩⟩

theorem meets_resetAndServiceWrites :
    (∀ v ∈ [1, 2], WritesNow (rqOf kResetCmd) sess kResetCmd v up) ∧
    (WritesNow (rqOf kJobReset) sess kJobReset 5 jobbed ∧ isActive 5 jobbed = true) ∧
    (∀ op ∈ [1, 2, 3], WritesNow (rqOf kLarderCmd) sess kLarderCmd (11 * 256 + op) up) ∧
    (∀ op ∈ [1, 2], WritesNow (rqOf kHenCmd) sess kHenCmd (6015 * 2 ^ 19 + op) henned) ∧
    (6015 / 512 = 11 ∧ 6015 % 512 = 383 ∧ mappedOut 6015 henned = false) ∧
    WritesNow (rqOf kLedgerAck) sess kLedgerAck 4 up ∧ WritesNow (rqOf kLedgerClear) sess kLedgerClear 1 up ∧
    (WritesNow (rqOf kThrottleClear) sess kThrottleClear 1 up ∧ up.pow.throttleLow = false) :=
  ⟨by intro v h; simp at h; rcases h with rfl | rfl <;> exact writes (by decide +kernel),
   ⟨writes (by decide +kernel), by decide +kernel⟩,
   by intro v h; simp at h; rcases h with rfl | rfl | rfl <;> exact writes (by decide +kernel),
   by intro v h; simp at h; rcases h with rfl | rfl <;> exact writes (by decide +kernel),
   by decide +kernel, writes (by decide +kernel), writes (by decide +kernel), writes (by decide +kernel), by decide +kernel⟩

theorem meets_plainWrites :
    ∃ o, obj? kEpochMs = some o ∧ WritesNow (rqOf kEpochMs) sess kEpochMs o.hi up ∧ o.lo ≤ o.hi :=
  ⟨_, rfl, writes (by decide +kernel), by decide +kernel⟩

/-! ### Witnesses: hens -/

/-- Hen 0 runs, as given. -/
def henned0 (x : Hen) : State := setHen 0 { x with st := .running } up
/-- No word of the local store shows an error. -/
def lsNone : LsErr := { fixed := [], bad := [] }
/-- A transfer of two rows of 200 bytes. -/
def pat2 : DmaPat := { pool := 2 ^ 52, loc := 0, rows := 2, rowBytes := 200, poolStride := 4096, locStride := 256 }

theorem meets_vectorAndTileInstructions :
    running 0 (henned0 henDflt) = true ∧
    lsCheck (lsMet lsNone (henOf 0 (henned0 henDflt))) 0 2176 true = none ∧
    (fmtValid (fmtOut henDflt) = true ∧ lsCheck henDflt 0 (tileOut henDflt 0).length false = none) ∧
    (fmtValid (fmtA henDflt) = true ∧ lsCheck henDflt 0 (blockBytes (fmtA henDflt)) true = none ∧
      lsCheck henDflt 0 (blockBytes (fmtOut henDflt)) false = none) ∧
    (sameClass (fmtA { henDflt with hfmt := 0x11 }) (fmtB { henDflt with hfmt := 0x11 }) = true ∧
      lsCheck { henDflt with hfmt := 0x11 } 0 (bBytes (fmtB { henDflt with hfmt := 0x11 })) true = none) ∧
    lsCheck henDflt 0 (16 * henDflt.topk.cands.length) false = none := by decide +kernel

/-- A RAW block's header: BF16, 512 tuples of four. -/
def rawHeader : Nat := 2 ^ 120 + 4 * 2 ^ 116 + 512 * 2 ^ 85 + rawLen 1 512 4 * 2 ^ 16
def codedHen : Hen := { henDflt with hfmt := 0x11, ls := memWrite [] 0 (bytesOf 16 rawHeader) }

theorem meets_codedTmma :
    let x := codedHen
    let bs := inlineBlocks x (32 * classK 1) 8 0
    fmtB x = 1 ∧ sameClass (fmtA x) 1 = true ∧
    lsCheck x 0 (lsum (bs.map (fun b => 16 + cdiv b.2.length 16 * 16))) true = none ∧
    (∀ b ∈ bs, bFmt b.1 = 1) ∧ (blocksGens bs).length ≤ 2 ∧ (∀ g ∈ blocksGens bs, g ∈ x.slots) ∧
    lsum (bs.map (fun b => bTuples b.1 * bTuple b.1)) = 32 * classK 1 ∧
    (bs.all (fun b => (decodeBlock b.1 (entriesFor x.job b.1 up) b.2).isOk)) = true := by decide +kernel

/-- A read of eight bytes, answered DONE. -/
def dma4 : DmaReq :=
  { cmd := 0, id := 4, node := 0, write := false, pool := 0, loc := 0, bytes := 8, data := List.replicate 8 7, issued := true,
    res := some .done }
/-- Messages: one held from hen 1, one on its way to hen 1, which runs the same item as rank 1. -/
def meshed : State :=
  let x := { henDflt with nranks := 2, msgs := [(1, List.replicate 64 0)], sending := [(1, List.replicate 64 1)] }
  setHen 1 { henDflt with st := .running, nranks := 2, rank := 1 } (henned0 { x with answers := [(0, 4)], dma := [dma4] })

theorem meets_dmaAndMessages :
    (pat2.rows ≤ 4096 ∧ pat2.rows * pat2.rowBytes ≤ 65536 ∧ (∀ l ∈ patLines pat2, l.2.1 + l.2.2 ≤ lsBytes) ∧
      dmaCount henDflt < dmaCmds ∧ (lsMet lsNone henDflt).badWords = []) ∧
    dmaCount (henOf 0 meshed) ≤ 1 ∧
    ((henOf 0 meshed).msgs = [(1, List.replicate 64 0)] ∧ lsCheck (henOf 0 meshed) 128 64 false = none) ∧
    (1 < (henOf 0 meshed).nranks ∧ lsCheck (henOf 0 meshed) 128 64 true = none ∧ rankHen 0 1 meshed = some 1 ∧
      msgLoad 1 meshed < msgMax) ∧
    ((henOf 0 meshed).sending.find? (fun e => e.1 == 1) = some (1, List.replicate 64 1) ∧ henReady (henOf 1 meshed) = true ∧
      (henOf 1 meshed).job = (henOf 0 meshed).job) ∧
    ((henOf 0 meshed).answers.find? (fun a => a.2 == 4) = some (0, 4) ∧
      (∀ a ∈ (henOf 0 meshed).answers.takeWhile (fun b => b.2 != 4), a.1 ≠ 0) ∧
      (henReq 0 4 meshed).any (fun r => r.res == some .done) = true) := by decide +kernel

/-- addi x1, x0, 5: imm 5, rs1 0, funct3 0, rd 1, opcode 0x13. -/
def addiHen : Hen := { henDflt with st := .running, imem := memWrite [] 0 (bytesOf 4 0x00500093) }
theorem meets_scalarInstruction :
    running 0 (henned0 addiHen) = true ∧ fetchInsn (lsMet lsNone addiHen) = .ok (4, 0x00500093) ∧ customOk 0x00500093 = false ∧
      scalar32 0 0 0 4 0x00500093 (lsMet lsNone addiHen) = .ok { xSet addiHen 1 5 with pc := 4 } := by
  refine ⟨?_, ?_, ?_, ?_⟩ <;> decide +kernel
theorem meets_scalarAccesses : 262144 < 262137 + 2 ^ 3 ∧ 262136 + 2 ^ 3 ≤ 262144 ∧ 262136 % 2 ^ 3 = 0 ∧ henDflt.dma = [] := by decide

/-- Each trap has its instruction. -/
theorem meets_traps :
    (scalarLoad 3 1 262144 henDflt).toOption = none ∧ lsCheck henDflt 262144 8 true = some (.access 262144) ∧
    lsCheck { henDflt with badWords := [2] } 16 8 true = some (.bad 16) ∧
    lsCheck (henOf 0 meshed) 0 8 true = some .wait := by decide +kernel

/-- An item of job 5's RUN whose sliver 0 hen 0 runs. -/
def item0 : Item :=
  { queue := 1, job := 5, member := 1, partner := 9, index := 0, opcode := ocRun, tag := 3, resume := 0, limitUs := 0,
    fence := false, stopOnFault := false, body := 0, binds := [], at_ := 0, order := 0, total := 2, homes := [], running := [0],
    doneS := [], ended := [], stop := none, limit := false, started := true, fin := .done, detail := 0, exts := [], touch := [],
    extra := .none, jseq := none, closed := false }
def working : State :=
  let s := setHen 0 { henDflt with st := .running, job := 5, item := 0 } queued
  { s with work := { s.work with items := [(0, item0)], nextItem := 1 } }

theorem meets_sliverEnds :
    (running 0 working = true ∧ itemOf 0 working = some item0 ∧ roundFailed item0 = false ∧ rProgress item0.body = 0 ∧
      heldOf (.hen 0) working = none) ∧
    ((henOf 0 (henned0 { henDflt with cbWait := some (2, 1) })).cbWait = some (2, 1)) := by decide +kernel

/-! ### Witnesses: descriptors -/

/-- A field virtual address: slot and offset. -/
def at5 (slot off : Nat) : Nat := slot * 2 ^ 52 + off
/-- Bytes in an extent's base content. -/
def poke (ext off : Nat) (bs : List Byte) (s : State) : State :=
  { s with mem := memWrite s.mem (lineKey ext 0 (off / 128) * 128 + off % 128) bs }
/-- A coded tensor's header: READY, BF16, one RAW block of 512 tuples of four, 2,048 elements. -/
def tensorV : Nat :=
  tensorMagic * 2 ^ 992 + 2 ^ 976 + 2 ^ 974 + 2 ^ 968 + 4 * 2 ^ 964 + 512 * 2 ^ 919 + 2048 * 2 ^ 864 + 2 ^ 832 + 40 * 2 ^ 800
/-- An arena's header: BF16, pages of 16, vectors of 64, one head, layer, sequence and page, its directory at 4,096. -/
def arenaV : Nat :=
  arenaMagic * 2 ^ 992 + 2 ^ 976 + 2 ^ 972 + 2 ^ 960 + 2 ^ 944 + 2 ^ 920 + 2 ^ 896 + 2 ^ 864 + 4096 * 2 ^ 816
/-- An index's header: READY, of a kind, FP32, 32 dimensions, one list. -/
def indexV (kind : Nat) : Nat :=
  indexMagic * 2 ^ 992 + kind * 2 ^ 974 + 2 ^ 972 + 2 ^ 964 + 32 * 2 ^ 951 + 2 ^ 872 + 32 * 2 ^ 416

/-- Extents for every family: 7 CODED, 8 and 10 KV, 9, 11 and 12 INDEX, with their headers; an open
sequence of one token; in extent 3 an ATTEND entry and a predicate of one term. -/
def tooled : State :=
  let s := setExt 7 { ext5 with slot := 4, flags := 8 } (setExt 8 { ext5 with slot := 5, flags := 16 }
    (setExt 9 { ext5 with slot := 6, flags := 32 } (setExt 10 { ext5 with slot := 7, flags := 16 }
    (setExt 11 { ext5 with slot := 8, flags := 32 } (setExt 12 { ext5 with slot := 9, flags := 32 } collected)))))
  poke 3 0 (bytesOf 16 (2 ^ 96)) (poke 3 4096 (bytesOf 128 (2 ^ 512)) (poke 8 4096 (bytesOf 64 (2 ^ 480 + 2 ^ 416 + 2 ^ 392))
    (poke 7 0 (bytesOf 128 tensorV) (poke 8 0 (bytesOf 128 arenaV) (poke 9 0 (bytesOf 128 (indexV 1)) (poke 12 0 (bytesOf 128 (indexV 2)) s))))))
/-- A descriptor of queue 1 waits at its next place. -/
def posted (oc body : Nat) : State :=
  poke 4 8192 (bytesOf 128 (oc + 2 ^ 16 + body * 2 ^ 256)) (setQueue 1 { queue1 with loadTo := some 1 } tooled)
/-- It passes every check of its opcode. -/
def passes (oc body : Nat) (sub : Nat → Bool) (adm : Desc → State → Adm) : Bool :=
  match nextDesc 1 (posted oc body) with
  | some d => !d.qu.late && dOpcode d == oc && sub (dBody d) && (admitStatus d (adm d (posted oc body)) (posted oc body)).isNone
  | none => false

theorem meets_workDescriptors :
    passes ocNop 0 anySub nopAdm = true ∧
    passes ocRun (at5 1 0 * 2 ^ 712 + 2 ^ 696 + 2 ^ 496) anySub runAdm = true ∧
    passes ocCancel 0 anySub (fun d _ => cancelAdm d) = true ∧
    passes ocCodebook (2 ^ 754 + 2 ^ 746 + 4 * 2 ^ 742 + at5 1 0 * 2 ^ 680) (opIs 753 752 0 1) bookAdm = true ∧
    passes ocCodebook (2 ^ 754 + 2 ^ 752) (opIs 753 752 1 1) bookAdm = true ∧
    passes ocEncode (2 ^ 756 + 4 * 2 ^ 752 + at5 1 0 * 2 ^ 664 + at5 4 0 * 2 ^ 608 +
      4096 * 2 ^ 560) (opIs 767 766 0 3) encodeAdm = true ∧
    passes ocEncode (2 ^ 766 + at5 4 0 * 2 ^ 664 + at5 4 65536 * 2 ^ 608) (opIs 767 766 1 3) encodeAdm = true ∧
    passes ocEncode (2 * 2 ^ 766 + 2 ^ 756 + 4 * 2 ^ 752 + at5 4 0 * 2 ^ 664 +
      at5 4 65536 * 2 ^ 608) (opIs 767 766 2 3) encodeAdm = true ∧
    passes ocEncode (3 * 2 ^ 766 + at5 4 0 * 2 ^ 608) (opIs 767 766 3 3) encodeAdm = true ∧
    passes ocDecode (at5 4 0 * 2 ^ 712 + at5 1 0 * 2 ^ 656) anySub decodeAdm = true := by
  decide +kernel

theorem meets_engineDescriptors :
    passes ocReduce (2 * 2 ^ 756 + at5 1 0 * 2 ^ 664 + 2 ^ 616) anySub reduceAdm = true ∧
    passes ocAllreduce (2 * 2 ^ 756 + at5 1 0 * 2 ^ 664 + 2 ^ 616) anySub reduceAdm = true ∧
    passes ocUpdate (2 * 2 ^ 756 + at5 1 0 * 2 ^ 664 + at5 1 4096 * 2 ^ 608 + at5 1 8192 * 2 ^ 552 +
      at5 1 12288 * 2 ^ 496 + 32 * 2 ^ 448) anySub updateAdm = true ∧
    passes ocNormSq (2 * 2 ^ 756 + at5 1 0 * 2 ^ 680 + 2 ^ 632 + at5 1 4096 * 2 ^ 576) anySub normAdm = true ∧
    passes ocGather (at5 1 0 * 2 ^ 712 + at5 1 4096 * 2 ^ 656 + at5 1 8192 * 2 ^ 600 + 16 * 2 ^ 584 + 2 ^ 536 +
      2 ^ 344) anySub (fun d _ => gatherAdm d) = true ∧
    passes ocGatherBags (at5 1 0 * 2 ^ 712 + at5 1 4096 * 2 ^ 656 + at5 1 8192 * 2 ^ 600 + 16 * 2 ^ 584 + 2 ^ 536 +
      2 ^ 504 + at5 1 12288 * 2 ^ 448 + 2 ^ 344) anySub (fun d _ => gatherAdm d) = true ∧
    passes ocFilter (at5 1 0 * 2 ^ 712 + 2 ^ 664 + at5 1 4096 * 2 ^ 608 + at5 1 8192 * 2 ^ 552) anySub filterAdm = true := by
  decide +kernel

theorem meets_arenaDescriptors :
    passes ocEditPages (at5 7 0 * 2 ^ 712 + 2 ^ 540 + 2 ^ 528 + 2 ^ 512 + 2 ^ 488 + 2 * 2 ^ 464 +
      2 ^ 432) (opIs 711 708 0 5) editAdm = true ∧
    passes ocEditPages (at5 5 0 * 2 ^ 712 + 2 ^ 708 + 2 ^ 624) (opIs 711 708 1 5) editAdm = true ∧
    passes ocEditPages (at5 5 0 * 2 ^ 712 + 2 * 2 ^ 708) (opIs 711 708 2 5) editAdm = true ∧
    passes ocEditPages (at5 5 0 * 2 ^ 712 + 3 * 2 ^ 708 + at5 1 0 * 2 ^ 568 + 2 ^ 544) (opIs 711 708 3 5) editAdm = true ∧
    passes ocEditPages (at5 5 0 * 2 ^ 712 + 4 * 2 ^ 708) (opIs 711 708 4 5) editAdm = true ∧
    passes ocEditPages (at5 5 0 * 2 ^ 712 + 5 * 2 ^ 708) (opIs 711 708 5 5) editAdm = true ∧
    passes ocPageFree (at5 5 0 * 2 ^ 712 + at5 1 0 * 2 ^ 656 + 2 ^ 632) anySub freeAdm = true ∧
    passes ocAttend (at5 5 0 * 2 ^ 712 + 2 ^ 680 + at5 1 0 * 2 ^ 624 + at5 1 4096 * 2 ^ 568 + 4096 * 2 ^ 544 +
      2 ^ 524 + 2 ^ 520 + at5 1 8192 * 2 ^ 456 + 4096 * 2 ^ 432) anySub attendAdm = true ∧
    passes ocProject (at5 4 0 * 2 ^ 712 + at5 1 0 * 2 ^ 656 + at5 1 4096 * 2 ^ 600 + 4096 * 2 ^ 520 +
      4096 * 2 ^ 496 + 2 ^ 480 + 64 * 2 ^ 456 + 32 * 2 ^ 432 + 2 ^ 428) anySub projectAdm = true := by
  decide +kernel

theorem meets_searchDescriptors :
    passes ocBuild (at5 8 0 * 2 ^ 712 + 2 ^ 710 + 2 ^ 704 + 32 * 2 ^ 691 + 2 ^ 656 + at5 1 0 * 2 ^ 600 +
      at5 1 4096 * 2 ^ 544 + at5 1 8192 * 2 ^ 488 + 32 * 2 ^ 368 + 2 ^ 348) anySub buildAdm = true ∧
    passes ocAppend (at5 6 0 * 2 ^ 712 + at5 1 0 * 2 ^ 656 + at5 1 4096 * 2 ^ 600 + 2 ^ 520) anySub changeAdm = true ∧
    passes ocDelete (at5 6 0 * 2 ^ 712 + at5 1 4096 * 2 ^ 600 + 2 ^ 520) anySub changeAdm = true ∧
    passes ocMerge (at5 6 0 * 2 ^ 712) anySub changeAdm = true ∧
    passes ocSearchIvf (at5 6 0 * 2 ^ 712 + at5 1 0 * 2 ^ 656 + 2 ^ 619 + 2 ^ 608 + 2 ^ 595 + 2 ^ 582 +
      at5 1 4096 * 2 ^ 464) anySub searchAdm = true ∧
    passes ocSearchGraph (at5 9 0 * 2 ^ 712 + at5 1 0 * 2 ^ 656 + 2 ^ 619 + 2 ^ 608 + 2 ^ 595 + 2 ^ 582 +
      at5 1 4096 * 2 ^ 464) anySub searchAdm = true := by
  decide +kernel

/-- Extent 4's first crate, with queue 1's ring, stands on the shelf. -/
def placed (s : State) : State :=
  { s with tiers := { s.tiers with crates := tput s.tiers.crates (crateKey 4 0 0) { crateDflt with tier := tierShelf } } }
theorem meets_admissionFrame :
    itemOf tooled.work.nextItem tooled = none ∧
    ∃ k, qcbLine queue1 (placed tooled) = some k ∧ (crateOf (lkCrate k) (placed tooled)).tier ≠ 0 ∧
      tierWait (lkCrate k) true (placed tooled) = .none ∧ journalled (lkExt k) (placed tooled) = false :=
  ⟨by decide +kernel, lineKey 4 0 0, by decide +kernel⟩

/-- A descriptor is refused by a check. -/
def refused (oc body : Nat) (adm : Desc → State → Adm) : Bool :=
  match nextDesc 1 (posted oc body) with
  | some d => !d.qu.late && dOpcode d == oc && (admitStatus d (adm d (posted oc body)) (posted oc body)).isSome
  | none => false
theorem meets_refusals :
    refused ocRun 0 runAdm = true ∧ refused ocCancel (2 * 2 ^ 664) (fun d _ => cancelAdm d) = true ∧
    (nextDesc 1 (posted (ocNop + 2 ^ 10) 0)).any (fun d => dOpcode d == ocNop && !dHeaderOk d) = true ∧
    (nextDesc 1 (posted ocRun 0)).any (fun d => dHeaderOk d && !(runAdm d (posted ocRun 0)).bodyOk) = true := by
  decide +kernel

/-- A CANCEL of TAG 3 finds item 0 of queue 1. -/
theorem meets_cancel :
    (match nextDesc 1 (posted ocCancel (3 * 2 ^ 704)) with
     | some d => (admitStatus d (cancelAdm d) (posted ocCancel (3 * 2 ^ 704))).isNone && d.q == item0.queue &&
         item0.tag == fld (dBody d) 767 704 && item0.stop.isNone
     | none => false) = true ∧ itemOf 0 working = some item0 := by decide +kernel

/-- Items with work to do: sliver 0 of item 0 is ready, or is assigned to hen 0 in an opcode of its own. -/
def readied : State :=
  { henned with work := { henned.work with items := [(0, { item0 with running := [], homes := [(0, none, 0)] })], nextItem := 1 } }
def assigned (oc : Nat) : State :=
  setHen 0 { henDflt with st := .assigned, job := 5 }
    { henned with work := { henned.work with items := [(0, { item0 with opcode := oc })], nextItem := 1 } }
/-- A gang of one rank, held. -/
def ganged : State :=
  { henned with
    hens := { henned.hens with gang := some (0, [0], 0) },
    work := { henned.work with items := [(0, { item0 with body := 2 ^ 480 })], nextItem := 1 } }

theorem meets_queueAndSliverEvents :
    (queueOf 1 (setQueue 1 { queue1 with paused := true } queued) = some { queue1 with paused := true } ∧
      loadPaused { queue1 with paused := true } (setQueue 1 { queue1 with paused := true } queued) = false) ∧
    (∃ p k h x, nextSliver 0 readied = some (p, k) ∧ pickHen 0 k.item k.job readied = some h ∧ itemOf k.item readied = some x ∧
      isGang x = false) ∧
    ((henOf 0 (assigned ocDecode)).st = .assigned ∧ itemOf 0 (assigned ocDecode) = some { item0 with opcode := ocDecode } ∧
      ocDecode ≠ ocRun) ∧
    (ganged.hens.gang.map (·.1) = some 0 ∧ (ganged.hens.gang.map (fun g => g.2.1.length)) = some (rRanks (2 ^ 480))) ∧
    (let s := { henned with coding := { henned.coding with recodeQ := [(3, 0, 0)] } }
     extOf 3 s = some ext5 ∧ jobOf 5 s = some (0, job5) ∧ job5.hens.larders.testBit (henLarder 0) = true ∧
      henServes 0 s = true ∧ (henOf 0 s).st = .idle ∧ nextSliver (henLarder 0) s = none) :=
  ⟨by decide +kernel, ⟨2, ⟨1, 0, 0, 0, 5, 0⟩, 0, { item0 with running := [], homes := [(0, none, 0)] }, by decide +kernel⟩,
   by decide +kernel, by decide +kernel, by decide +kernel⟩

theorem meets_limits :
    ({ item0 with limitUs := 10 }.limitUs ≠ 0 ∧ item0.stop = none ∧ ¬ (0 < item0.total ∧ allEnded item0 = true)) ∧
    running 0 working = true := by decide +kernel

/-- A completion record of item 0 waits; or a queue whose descriptors lie in no extent; or one left ACTIVE while it read. -/
def crec0 : CRec :=
  { queue := 1, status := .done, opcode := ocRun, cause := 0, limit := false, tag := 3, index := 0, pre := 0, doneN := 2,
    total := 2, detail := 0, stopOnFault := false }
def recorded : State := let s := placed queued; { s with work := { s.work with records := [crec0] } }
def astray : Queue := { queue1 with desc := at5 15 0, loadTo := some 1 }
theorem meets_completionRecords :
    (recorded.work.records.find? (fun r => r.queue == 1) = some crec0 ∧ jobOf 5 recorded = some (0, job5) ∧
      partnerOf job5 1 = some 9) ∧
    (∃ g, checks25 5 1 9 (compAddr queue1 (qcbGet queue1 offCompleted recorded)) true recorded = .ok g ∧
      (let lk := lineKey g.ext 0 (g.off / 128)
       poisoned lk (meetLine lk recorded) = false ∧ entOf lk recorded = none ∧ tierWait (lkCrate lk) true recorded = .none)) ∧
    (let s := setQueue 1 astray queued
     queueOf 1 s = some astray ∧ qcbGet astray offConsumer s ≠ 1 ∧ loadPaused astray s = false ∧
      (queueRead astray (descAddr astray (qcbGet astray offConsumer s)) 128 s).toOption = none) ∧
    (let s := setQueue 1 { queue1 with late := true, st := .stopped } (posted ocNop 0)
     (nextDesc 1 s).any (fun d => d.qu.late && dOpcode d == ocNop) = true) :=
  ⟨by decide +kernel, ⟨⟨4, { ext5 with slot := 2, flags := 256 }, 1, 9, 0, 16384⟩, rfl, by decide +kernel⟩, by decide +kernel,
   by decide +kernel⟩

/-- A REDUCE of collective 2, its round open or to be opened. -/
def item1 : Item :=
  { item0 with opcode := ocReduce, body := 2 * 2 ^ 756 + at5 1 0 * 2 ^ 664 + 2 ^ 616, running := [], started := false,
               extra := .coll 2 0 0 0 0 sumSq0, total := 1 }
def round0 : Round :=
  { item := 0, round := 0, low := 0, chunks := [], timer := 0, excluded := 0, complete := [], normAt := 0 }
def rounded (x : Item) (k : Coll) : State :=
  { setColl 2 k henned with work := { henned.work with items := [(0, x)], nextItem := 1 } }
def deliver3 : Deliver := { port := 0, tag := 3, coll := 2, item := 0, member := 1, sliver := 0, sent := 0 }
/-- An item of phase 1, 2 of its collective. -/
def phased (p oc : Nat) : Item := { item1 with opcode := oc, extra := .coll 2 p 0 0 0 sumSq0, started := true }

theorem meets_collectiveEvents :
    (let k := { coll2 with pending := [0] }
     collOf 2 (rounded item1 k) = some k ∧ headReady k (rounded item1 k) = some (0, item1) ∧
      roundFits item1 (rounded item1 k) = true ∧ k.removed = 0) ∧
    (collPhase (phased 1 ocReduce) = 1 ∧ round0.low < cChunks (phased 1 ocReduce)) ∧
    (collPhase (phased 2 ocNormSq) = 2 ∧ (phased 2 ocNormSq).stop = none) ∧
    portLive 0 (linked 0 .active up) = true ∧
    ([deliver3].find? (fun d => d.port == 0 && d.tag == 3) = some deliver3) ∧
    engineTurn 0 0 { phased 1 ocReduce with running := [0] } (rounded item1 coll2) = true ∧
    (∀ oc ∈ [ocGather, ocGatherBags, ocFilter, ocNormSq], engineTurn 0 0 (phased 1 oc) (rounded item1 coll2) = true) := by
  decide +kernel

/-- A message of peer home 1 over port 8. -/
def peer8 : PeerHdr := { okPeer with port := 8, src := 1 }
theorem sends {ph : PeerHdr} {s : State} (h : portLive ph.port s = true ∧ portRolePeer ph.port s = true ∧ ph.frags = 1) :
    PeerSends ph s :=
  { live := h.1, peer := h.2.1, last := by
      intro had _; rw [h.2.2, ladd]; split
      · next h' => cases hg : had.getD [] with | nil => rw [hg] at h'; simp at h' | cons a l => simp
      · simp }
/-- A search of job 5 with the peer's shard, closed or not. -/
def search1 (coord sent : Bool) : Item :=
  { item0 with
    opcode := ocSearchIvf, body := 3 * 2 ^ 448 + (if coord then 0 else 1) * 2 ^ 444 + 7 * 2 ^ 408,
    extra := .search { ext := 9, gen := 0, head := 0, tail := 0, entry := 0, pred := 0, plan := [], widths := [], own := [],
                       side := [], got := [], sent := sent, late := false, closed := false } }
def searching (x : Item) : State :=
  let s := setColl 2 { coll2 with peers := 3 } peered
  { s with work := { s.work with items := [(0, x)], nextItem := 1 } }

theorem meets_peerMessagesOfEngines :
    (PeerSends peer8 (searching item0) ∧ collOf 2 (searching item0) = some { coll2 with peers := 3 } ∧
      peer8.src ≠ homeIndex (searching item0) ∧ liveRounds { coll2 with peers := 3 } (searching item0) = [] ∧ roundOlder 0 0 = false) ∧
    coordItem peer8.job 7 (searching item0) = none ∧
    ((searchOf (search1 true true)).isSome = true ∧ (search1 true true).job = peer8.job ∧ qTag (search1 true true).body = 7) ∧
    (qPeers (search1 true false).body ≠ 0 ∧ isCoord (search1 true false).body peered = true) ∧
    isCoord (search1 false true).body peered = false :=
  ⟨⟨sends (by decide +kernel), by decide +kernel⟩, by decide +kernel, by decide +kernel, by decide +kernel, by decide +kernel⟩

/-! ### Witnesses: requests of partners -/

/-- Port 0 is ACTIVE toward partner 9, member 1 of job 5; extent 3's first crate stands on the shelf. -/
def served : State :=
  let s := placed collected
  let t := { s with tiers := { s.tiers with crates := tput s.tiers.crates (crateKey 3 0 0) { crateDflt with tier := tierShelf } } }
  let u := setOwn 7 { ownedOfCmd ownedV with permit := [2 ^ 13 + 1, 0, 0] } t
  each (List.range 4) (fun i => rseti kPortConfig i (2 * 2 ^ 60))
    (setLink 0 { linkOf 0 u with st := .active, width := 2, bound := some 9, cfg := 2 * 2 ^ 60 } u)
/-- A request of port 0 at extent 3. -/
def hdr3 : Hdr := { okHdr with addr := at5 1 64, length := 4, tc := 0, vc := 4 }
def grant3 : Grant := { ext := 3, e := ext5, member := 1, partner := 9, jslot := 0, off := 64 }

theorem arrives {h : Hdr} {k : TxKind} {s : State} (d : portLive h.port s = true ∧ portRolePeer h.port s = false ∧
    tagOpen h.port h.tag s = false ∧ trackerRoom h.port s = true ∧ (∀ x ∈ s.txn.stalled ++ s.txn.jammed, x.1.port ≠ h.port) ∧
    homeFull (homeOf h.job h.addr s) s = false ∧ formatOk h k s = true ∧ s.txn.txs = [] ∧
    (activeJob h.job s).all (fun j => !j.2.iso.enable) = true) : Arrives h k s :=
  { live := d.1, partner := d.2.1, fresh := d.2.2.1, room := d.2.2.2.1, unqueued := d.2.2.2.2.1, home := d.2.2.2.2.2.1,
    form := d.2.2.2.2.2.2.1, alone := d.2.2.2.2.2.2.2.1, unpaced := by
      intro j hj; have := d.2.2.2.2.2.2.2.2; rw [hj] at this; simpa using this }
theorem enters {k : TxKind} (d : formatOk hdr3 k served = true ∧ checkPort 0 5 hdr3.addr (isChange k) served = .ok grant3) :
    Enters hdr3 k served grant3 :=
  { toArrives := arrives ⟨by decide +kernel, by decide +kernel, by decide +kernel, by decide +kernel, by decide +kernel,
      by decide +kernel, d.1, by decide +kernel, by decide +kernel⟩, grant := d.2 }
theorem unheld {k : TxKind} (d : formatOk hdr3 k served = true ∧ checkPort 0 5 hdr3.addr (isChange k) served = .ok grant3)
    (e : check6 grant3 k false served = none ∧ tierWait (crateKey 3 0 0) (isChange k) served = .none) : Unheld hdr3 k served grant3 :=
  { toEnters := enters d, first := rfl, bytes := e.1, plain := by decide +kernel, unmirrored := by decide +kernel, ready := e.2,
    tables := by decide +kernel, incoherent := by decide +kernel }

theorem intact {s : State} (d : s.tiers.poison = [] ∧ s.tiers.failing = []) (i l : Nat) : Intact .none i 3 l s :=
  ⟨by rw [poisoned, d.1]; rfl, by rw [d.2]; simp, by simp [MemErr.none]⟩

theorem meets_loadsAndStores :
    Unheld hdr3 .read served grant3 ∧ (∀ i l, Intact hdr3.mem i 3 l served) ∧
    Unheld hdr3 (.write false ([1, 2, 3, 4].map some)) served grant3 ∧
    Unheld hdr3 (.atomic .swap 4 1 0) served grant3 ∧ (poisonCrates served).length < poisonEntriesMax :=
  ⟨unheld (by decide +kernel) (by decide +kernel),
   fun i l => intact (by decide +kernel) i l,
   unheld (by decide +kernel) (by decide +kernel), unheld (by decide +kernel) (by decide +kernel), by decide +kernel⟩

/-- Extent 3 is VERSIONED: its region, current version 1. -/
def versioned : State :=
  let s := setExt 3 { ext5 with flags := 2 } served
  { s with vers := { s.vers with owned := [], regions := [(0, { ext := 3, cur := 1, live := [{ num := 1, forms := [] }], nextForm := 1 })] } }

theorem meets_fencesRegionsAndOwnership :
    (Arrives { hdr3 with addr := 0, length := 0 } .fence served ∧ portMember 0 5 served = some 1) ∧
    (∀ op, op ∈ [1, 2, 3, 4, 5, 6] → Enters hdr3 (.region op true 1 hdr3.addr) versioned { grant3 with e := { ext5 with flags := 2 } }) ∧
    (∀ e, extOf 3 versioned = some e → fMirror e = false) ∧
    (Enters hdr3 (.own 1 0 7 1) served grant3 ∧ ownAddrOk 5 hdr3.addr 7 served = true) ∧
    (∃ o, ownOf (ownKey 3 7 served) served = some o ∧ o.transit = false ∧
      giveCheck (ownKey 3 7 served) 1 0 1 (giveBusy o served) served = .done ∧ ownWindows o served = false ∧
      ownMirrorHolds o served = false ∧ ownJournalled o served = false ∧ served.vers.gives = []) ∧
    Enters hdr3 (.own 2 0 7 1) served grant3 ∧ Enters hdr3 (.own 3 0 7 0) served grant3 ∧
    Arrives hdr3 (.contrib 2 0 0 0 [0, 0, 0, 0]) served ∧ (∀ x ∈ served.txn.txs, x.wait ≠ .table) := by
  refine ⟨⟨arrives (by decide +kernel), by decide +kernel⟩, ?_, ?_, ⟨enters (by decide +kernel), by decide +kernel⟩,
    ⟨{ ownedOfCmd ownedV with permit := [2 ^ 13 + 1, 0, 0] }, by decide +kernel⟩, enters (by decide +kernel),
    enters (by decide +kernel), arrives (by decide +kernel), by decide +kernel⟩
  · intro op h; simp at h
    rcases h with rfl | rfl | rfl | rfl | rfl | rfl <;>
      exact { toArrives := arrives (by decide +kernel), grant := by decide +kernel }
  · intro e h
    have : extOf 3 versioned = some { ext5 with flags := 2 } := by decide +kernel
    rw [this] at h; obtain rfl := Option.some.inj h; decide

/-- An open request of port 0. -/
def tx4 (k : TxKind) (w : Wait) : Tx :=
  { newTx hdr3 k grant3 [] served with tag := 4, wait := w }
def opened (k : TxKind) (w : Wait) : State := addTx (tx4 k w) served
/-- A batch of one byte in extent 3's line 0. -/
def batch0 : Batch := { line := lineKey 3 0 0, at_ := 0, bytes := [(5, 1)], merged := 0 }
def batched : State := { served with txn := { served.txn with batches := [batch0] } }

theorem meets_requestEvents :
    (portLive 0 (opened .fence .none) = true ∧ portRolePeer 0 (opened .fence .none) = false ∧
      tagOpen 0 4 (opened .fence .none) = true) ∧
    (portTag 0 4 (opened .fence .none) = some (tx4 .fence .none) ∧ earlierStores (tx4 .fence .none) (opened .fence .none) = false) ∧
    (let k := TxKind.write false [some 1]
     portTag 0 4 (opened k .release) = some (tx4 k .release) ∧ earlierStores (tx4 k .release) (opened k .release) = false) ∧
    (batchOf batch0.line batched = some batch0 ∧ (crateOf (lkCrate batch0.line) batched).tier ≠ 0 ∧
      tierWait (lkCrate batch0.line) true (timeTo 64 batched) = .none ∧ (batch0.bytes.map (·.1)).Nodup ∧
      (∀ e ∈ batch0.bytes, e.1 < 128)) ∧
    (let s := { served with txn := { served.txn with stalled := [(hdr3, .fence)] } }
     s.txn.stalled.find? (fun x => x.1.port == 0) = some (hdr3, .fence) ∧ trackerRoom 0 s = true) ∧
    ((portTx 0 (modPortTx 0 (fun x => { x with draining := true }) served)).lossScan = false ∧
      (∀ t ∈ served.txn.txs, t.src ≠ .port 0)) ∧
    (portLive 8 peered = true ∧ portRolePeer 8 peered = true) ∧
    (let o := { ownedOfCmd ownedV with transit := true }
     ownOf (ownKeyOf 7 (setOwn 7 o served)) (setOwn 7 o served) = some o) ∧
    (let g : GiveWait := { obj := 7, permit := 0, port := 0, tag := 4, scanned := true }
     let s := opened (.own 1 0 7 1) .none
     [g].find? (fun g => g.obj == ownKeyOf 7 s) = some g ∧
       s.txn.txs.find? (fun t => t.src == .port g.port && t.tag == g.tag) = some (tx4 (.own 1 0 7 1) .none)) := by decide +kernel

/-- Hen 0 runs item 0 of job 5 with a request not yet sent. -/
def dma5 (write : Bool) : DmaReq :=
  { dma4 with id := 5, write := write, pool := at5 1 64, bytes := 4, data := if write then [1, 2, 3, 4] else [], issued := false, res := none }
def asking (write : Bool) : State :=
  let s := setHen 0 { henDflt with st := .running, job := 5, item := 0, dma := [dma5 write] } served
  { s with work := { s.work with items := [(0, item0)], nextItem := 1 } }

theorem meets_henMemoryRequests :
    ∀ w, ∃ r a, nextSent 0 5 (asking w) = some (r, a) ∧ henReq 0 5 (asking w) = some (dma5 w) ∧
      homeFull (homeOf a.job r.pool (asking w)) (asking w) = false ∧
      checkItem a.job a.member a.partner r.pool r.write (asking w) = .ok grant3 ∧ regionOfExt 3 (asking w) = none ∧
      (asking w).txn.txs = [] ∧ tierWait (crateKey 3 0 0) r.write (asking w) = .none ∧ (asking w).coh.windows = [] ∧
      journalled 3 (asking w) = false ∧ (asking w).tiers.metaBad = [] ∧ (asking w).tiers.poison = [] ∧
      (asking w).tiers.failing = [] ∧ r.write = w ∧
      check6 grant3 (if w then .write false (r.data.map some) else .read) false (asking w) = none := by
  intro w; cases w
  · exact ⟨{ dma5 false with node := henNode 0 5 (at5 1 64) (asking false) }, ⟨5, 1, 9, []⟩, by decide +kernel⟩
  · exact ⟨{ dma5 true with node := henNode 0 5 (at5 1 64) (asking true) }, ⟨5, 1, 9, []⟩, by decide +kernel⟩

/-! ### Witnesses: extents, tiers and mirrors -/

/-- Extent 3 in a life of its own. -/
def ending (st : ExtState) (s : State) : State := setExt 3 { ext5 with st := st } s

theorem meets_extentEvents :
    (extOf 3 (ending .draining served) = some { ext5 with st := .draining } ∧ inflight 3 (ending .draining served) = 0) ∧
    inflight 3 (ending .draining (opened .read .none)) ≠ 0 ∧
    (scrubbed 3 (ending .scrubbing served) = true ∧ Memory.wf (ending .scrubbing served).mem = true) := by decide +kernel

/-- The first crate of extent 3. -/
def ck3 : Nat := crateKey 3 0 0
/-- It moves to a tier. -/
def move3 (t : Nat) (w : MoveWhy) : Move := { crate := ck3, tier := t, loc := 5, gen := 0, why := w }
def movingTo (t : Nat) (w : MoveWhy) (redirty : Bool) : State :=
  let s := { served with tiers := { served.tiers with moves := [move3 t w] } }
  modCrate ck3 (fun c => { c with moving := true, redirty := redirty }) s
/-- It is fetched from a tier to another. -/
def fetch3 (t : Nat) : Fetch := { crate := ck3, tier := t, loc := 5, since := 0, level := 0 }
def fetching (from_ t : Nat) : State :=
  modCrate ck3 (fun c => { c with tier := from_ }) { served with tiers := { served.tiers with fetches := [fetch3 t] } }
/-- A source that no request reads any more. -/
def source3 : Source := { crate := ck3, tier := tierShelf, loc := 5, txs := [] }

theorem meets_movesAndFetches :
    (∀ w ∈ [MoveWhy.flush, MoveWhy.place], ∀ r, ∀ t ∈ [tierAttic, tierCellar, tierVault],
      ((movingTo t w r).tiers.moves.find? (fun m => m.crate == ck3) = some (move3 t w) ∧ moveBusy ck3 (movingTo t w r) = false ∧
        (crateOf ck3 (movingTo t w r)).redirty = r)) ∧
    (∀ t ∈ [tierShelf, tierCellar], (fetching tierAttic t).tiers.fetches.find? (fun f => f.crate == ck3) = some (fetch3 t) ∧
      fetchBusy ck3 (fetching tierAttic t) = false ∧ t ≠ 0) ∧
    (let s := { served with tiers := { served.tiers with sources := [source3] } }
     s.tiers.sources.any (fun x => x.crate == ck3 && !s.txn.txs.any (fun t => x.txs.contains t.id) &&
       !s.txn.held.any (fun h => x.txs.contains h.id)) = true) := by decide +kernel

/-- A part of a request: its first four bytes of extent 3, not yet done. -/
def part3 : Part := { line := lineKey 3 0 0, off := 0, len := 4, wdata := [], res := none, rdata := [], undo := [] }
/-- A request of port 0 that waits, with that part. -/
def waits (k : TxKind) (w : Wait) : Tx := { tx4 k w with parts := [part3] }
/-- The first store to extent 3 waits for a slot. -/
def unplaced : State :=
  modCrate ck3 (fun _ => crateDflt) (addTx (waits (.write false [some 1]) .space) served)
/-- A flush of extent 6 with crates left. -/
def flush6 (left : List Nat) : FlushJob := { ext := 6, seq := 1, stage := 2, left := left, version := none }
def flushing (left : List Nat) : State :=
  modCrate ck3 (fun c => { c with dirty := true }) { served with tiers := { served.tiers with flushes := [flush6 left] } }

theorem meets_placedWritesAndFlushes :
    (unplaced.txn.txs.any (fun t => t.wait == .space && t.parts.any (fun p => lkCrate p.line == ck3 && p.res.isNone)) = true ∧
      (crateOf ck3 unplaced).tier = 0 ∧ (pickShelf ck3 unplaced).isSome = true) ∧
    (∀ left ∈ [[], [ck3]], (flushing left).tiers.flushes = [flush6 left] ∧ (flush6 left).stage = 2 ∧
      regionOfExt 6 (flushing left) = none ∧
      left.filter (fun ck => (crateOf ck (flushing left)).dirty && (crateOf ck (flushing left)).tier != 0) = left) := by
  decide +kernel

/-- Tray 2 answers on link 194. -/
def trayed (x : Tray) (s : State) : State :=
  linked 194 .active { s with tiers := { s.tiers with trays := tput s.tiers.trays 2 x } }
def tray2 : Tray := { trayDflt with present := true, dramGib := 1024, nandGb := 2048, blocksAll := 100 }
/-- A request of an engine, held on the vault. -/
def held7 : Held :=
  { id := 7, who := .engine 0 0, item := 0, ext := 3, addr := at5 1 0, line := lineKey 3 0 0, write := false, wait := .vault,
    since := 0, counted := true, passed := [], res := none }
/-- A command that waits for its answer, and the answer. -/
def cmd2 : TrayCmd :=
  { tray := 2, tag := 3, op := opDramRead, flags := 0, count := 512, addr := 0, data := [], why := .fetch ck3, got := [] }
def rsp2 : TrayRsp := { link := 194, op := opDramRead, tag := 3, status := 0, corrected := 0, more := false, data := [] }

theorem meets_trayEvents :
    (txOf (waits .read .attic).id (addTx (waits .read .attic) served) = some (waits .read .attic) ∧
      tierHeld (waits .read .attic) served = true ∧ (waits .read .attic).wait ≠ .mirror) ∧
    (let s := { served with txn := { served.txn with held := [held7] } }
     txOf 7 s = none ∧ s.txn.held.find? (fun h => h.id == 7) = some held7 ∧ tierWaits held7.wait = true ∧
      held7.res = none) ∧
    trayServes 2 (trayed tray2 served) = true ∧
    (trayOf 2 (trayed { tray2 with rebuilding := true } served)).rebuilding = true ∧
    (served.tiers.retired.contains (tierShelf, 5) = false ∧ served.tiers.retiring.contains (tierShelf, 5) = false ∧
      (∃ i ∈ [511], i < 512) ∧ (usedLocs tierShelf served).contains 5 = false) ∧
    slotFails tierCellar 5 { served with tiers := { served.tiers with
      slotErrs := [{ tier := tierCellar, loc := 5, at_ := 0, hard := true }] } } = true ∧
    (let s := trayed tray2 { served with tiers := { served.tiers with cmds := [cmd2] } }
     s.tiers.cmds = [cmd2] ∧ cmd2.tray = rsp2.link - 192 ∧ cmd2.tag = rsp2.tag ∧ cmd2.op = rsp2.op ∧
      (linkOf rsp2.link s).st = .active) := by decide +kernel

/-- A written block of tray 2 with one valid copy, erased and read often. -/
def block2 : Block :=
  { tray := 2, id := 9, valid := [ck3], erases := 600, reads := 80000, bad := false, written := true, reclaim := false,
    scannedAt := 0 }
def vaulted : State :=
  let s := trayed tray2 served
  { s with tiers := { s.tiers with blocks := [block2] ++ (List.range 97).map (fun i => { block2 with
      id := 10 + i, valid := [ck3, ck3], reads := 0, bad := decide (0 < i) }) } }

theorem meets_vaultEvents :
    (fetching tierVault tierCellar).tiers.fetches.find? (fun f => f.crate == ck3) = some (fetch3 tierCellar) ∧
    (crateOf ck3 (fetching tierVault tierCellar)).tier = tierVault ∧
    freeBlocks 2 vaulted * 100 < (trayOf 2 vaulted).blocksAll * 3 ∧
    minBy (fun b => b.valid.length) ((trayBlocks 2 vaulted).filter (fun b => b.written && !b.bad && !b.reclaim &&
      !vaulted.tiers.logs.any (fun l => l.1 == 2 * 256 + b.id / 2 ^ 36 && l.2.1 == b.id % 2 ^ 36))) = some block2 ∧
    512 < eraseSpread 2 vaulted ∧
    minBy (fun b => b.erases) ((trayBlocks 2 vaulted).filter (fun b => b.written && !b.bad && !b.valid.isEmpty)) = some block2 ∧
    80000 ≤ (blockOfTray 2 9 vaulted).reads ∧ blockOfTray 2 9 vaulted = block2 ∧
    blockOfTray 2 (0 * 2 ^ 36 + 9) vaulted = block2 ∧ block2.written = true ∧ block2.bad = false := by decide +kernel

/-- A record sent to the mirror, unacknowledged. -/
def jrec1 : JRec := { typ := 1, slot := 1, ext := 3, gen := 1, seq := 1, arg0 := 0, arg1 := 0, data := [] }
/-- A mirror in SYNC at home 1, with a record on its way; a copy under way. -/
def syncing : State :=
  modMirror (fun m => { m with unacked := [(jrec1, 0)], nextSeq := 2, copying := true }) (mirrored .sync)
/-- The port to the mirror is down. -/
def cut : State := linked 8 .down syncing
/-- Home 1 is a primary of this home. -/
def shadow1 : Shadow := { shadow2 with primary := 1 }
def shadowing : State := modMirror (fun m => { m with shadows := [shadow1] }) peered

theorem meets_mirrorEvents :
    (cut.vers.mirror.rel = .sync ∧ (peerPort (mirrorPeer cut) cut).isNone = true) ∧
    (syncing.vers.mirror.rel = .sync ∧ (peerPort (mirrorPeer syncing) syncing).isNone = false ∧
      syncing.vers.mirror.unacked ≠ []) ∧
    (syncing.vers.mirror.copying = true ∧ ∀ x ∈ ([] : List Nat), x ∉ mirrorExts syncing) ∧
    (PeerSends peer8 shadowing ∧ shadowFor peer8.src (peerHeard peer8 shadowing) = some shadow1 ∧ shadow1.takenOver = false ∧
      localExt shadow1 3 1 = some 3) ∧
    (PeerSends peer8 syncing ∧ peer8.src = mirrorPeer syncing ∧ 1 < syncing.vers.mirror.nextSeq) ∧
    (PeerSends peer8 peered ∧ ∀ h, shadowFor peer8.src (peerHeard peer8 peered) = some h → h.takenOver = false) :=
  ⟨by decide +kernel, by decide +kernel, ⟨by decide +kernel, by simp⟩, ⟨sends (by decide +kernel), by decide +kernel⟩,
   ⟨sends (by decide +kernel), by decide +kernel⟩,
   ⟨sends (by decide +kernel), by
      have h : shadowFor peer8.src (peerHeard peer8 peered) = none := by decide +kernel
      simp [h]⟩⟩

/-! ### Witnesses: links -/

/-- Port 0 is of two lanes and comes up, in a phase. -/
def rising (ph : Phase) : State :=
  let s := each (List.range 4) (fun i => rseti kPortConfig i (2 * 2 ^ 60 + 2 * 2 ^ 54)) up
  setLink 0 { linkOf 0 s with st := .down, phase := ph, width := 2, lanes := [0, 1], cfg := 2 * 2 ^ 60 + 2 * 2 ^ 54 } s

theorem meets_linkUpPhases :
    (∀ ph ∈ [Phase.detect, .equalise, .fecLock, .order, .param], (linkOf 0 (rising ph)).st = .down ∧
      (linkOf 0 (rising ph)).phase = ph) ∧
    (minWidth 0 (rising .order) ≤ (([0, 1].filter (fun l => decide (l < cfgWidth 0 (rising .order)))).eraseDups).length ∧
      (([1].filter (fun l => decide (l < cfgWidth 0 (rising .order)))).eraseDups).length < minWidth 0 (rising .order)) ∧
    (b2n (portRolePeer 0 (rising .param)) = 0 ∧ creditsOk 0 [17, 17, 0, 0, 0, 0, 0, 0] (rising .param) = true ∧
      0 < min (linkOf 0 (rising .param)).lanes.length 2) := by decide +kernel

/-- Port 0 in IDENT, as a partner's or a peer's port, with what PORT_EXPECT says of it. -/
def naming (expect cfg : Nat) : State :=
  let s := rseti kPortExpect 0 expect (setSec (fun z => { z with identityDone := true }) (rising .param))
  setLink 0 { linkOf 0 s with st := .ident, phase := .ident, cfg := cfg } s

/-- That a signature is right is a value no constant of the model fixes (log 3). -/
theorem meets_identityBinding :
    (isTray 0 = false ∧ (linkOf 0 (naming (0xFFF * 2 ^ 500) 0)).st = .ident ∧ identBarred 0 (naming (0xFFF * 2 ^ 500) 0) = false ∧
      (linkOf 0 (naming (0xFFF * 2 ^ 500) 0)).evidence = none ∧ expectId 0 (naming (0xFFF * 2 ^ 500) 0) = 0xFFF) ∧
    (expectId 0 (naming (9 * 2 ^ 500) 0) ≠ 0xFFF ∧ expectId 0 (naming (9 * 2 ^ 500) 0) ≠ 8 ∧
      identBarred 0 (naming (9 * 2 ^ 500) 0) = false ∧ mayEnter 0 (naming (9 * 2 ^ 500) 0) = true ∧
      isoAll (modLink 0 (fun l => { l with bound := some 9 }) (naming (9 * 2 ^ 500) 0)) = true) ∧
    (portRolePeer 0 (naming 0 (2 ^ 58)) = true ∧ (naming 0 (2 ^ 58)).sec.identityDone = true ∧
      identBarred 0 (naming 0 (2 ^ 58)) = false ∧ statusOf 2 ≠ .done ∧ statusOf 0 = .done) ∧
    (portRolePeer 0 (naming 0 0) = false ∧ (linkOf 0 (naming 0 0)).evidence = none) := by decide +kernel

/-- A flit whose CRC fits its payload. -/
def goodFlit (f : FlitHdr) (p : List Byte) : FlitHdr := { f with crc := linkCrc (flitHdr40 f) p }
/-- A flit sent and not acknowledged. -/
def running0 : State := linked 0 .active up

theorem meets_flits :
    linkRuns (linkOf 0 running0) = true ∧
    (flitGood (goodFlit okFlit [1]) [1] none = true ∧ okFlit.seq % 4096 = (linkOf 0 running0).rxSeq ∧ okFlit.ccnt % 128 = 0) ∧
    flitGood (goodFlit okFlit [1]) [1] (some 0) = false ∧
    (linkOf 0 (modLink 0 (fun l => { l with unacked := [{ typ := 0, vc := 0, seq := 0, payload := [] }] }) running0)).unacked ≠ [] := by
  decide +kernel
/-- A CRC has 24 bits. -/
theorem crc24Bit_lt (c : Nat) (b : Bool) : crc24Bit c b < 2 ^ 24 := by
  unfold crc24Bit
  have h : c * 2 % 2 ^ 24 < 2 ^ 24 := Nat.mod_lt _ (by decide)
  dsimp only
  split
  · exact Nat.xor_lt_two_pow h (by decide)
  · exact h
theorem foldl_bound {α β : Type} (P : β → Prop) (f : β → α → β) (hf : ∀ b a, P b → P (f b a)) (l : List α) :
    ∀ b, P b → P (l.foldl f b) := by
  induction l with
  | nil => exact fun b h => h
  | cons a l ih => exact fun b h => ih _ (hf b a h)
theorem crc24Bits_lt (n v c : Nat) (h : c < 2 ^ 24) : crc24Bits n v c < 2 ^ 24 :=
  foldl_bound (· < 2 ^ 24) _ (fun _ _ _ => crc24Bit_lt _ _) _ _ h
theorem linkCrc_lt (v : Nat) (p : List Byte) : linkCrc v p < 2 ^ 24 :=
  foldl_bound (· < 2 ^ 24) _ (fun _ _ h => crc24Bits_lt _ _ _ h) _ _ (crc24Bits_lt _ _ _ (by decide))
/-- The CRC of a flit's own header and payload makes it good. -/
theorem flitGood_goodFlit (f : FlitHdr) (p : List Byte) : flitGood (goodFlit f p) p none = true := by
  show (true && linkCrc (flitHdr40 f) p == linkCrc (flitHdr40 f) p % 2 ^ 24) = true
  rw [Nat.mod_eq_of_lt (linkCrc_lt _ _)]
  simp
theorem meets_goodFlits :
    flitGood (goodFlit { okFlit with typ := ftCredit } (creditPayload [3])) (creditPayload [3]) none = true ∧
    flitGood (goodFlit { okFlit with typ := ftIdle } (List.replicate flitBytes 0)) (List.replicate flitBytes 0) none = true ∧
    flitGood (goodFlit { okFlit with typ := ftNak } (List.replicate flitBytes 0)) (List.replicate flitBytes 0) none = true :=
  ⟨flitGood_goodFlit _ _, flitGood_goodFlit _ _, flitGood_goodFlit _ _⟩

/-- Port 0 of two lanes, in a state of its own. -/
def mending (st : LSt) : State := setLink 0 { linkOf 0 (rising .param) with st := st, holdN := 1 } (rising .param)
theorem meets_linkRecovery :
    ((linkOf 0 (mending .active)).st = .active ∧ 1 ∈ (linkOf 0 (mending .active)).lanes ∧ (linkOf 0 (mending .active)).holdN ≠ 0) ∧
    ((linkOf 0 (mending .recovery)).st = .recovery ∧
      minWidth 0 (mending .recovery) ≤ ((linkOf 0 (mending .recovery)).lanes.filter (fun x => [0, 1].contains x)).length ∧
      ((linkOf 0 (mending .recovery)).lanes.filter (fun x => [0].contains x)).length < minWidth 0 (mending .recovery)) ∧
    (linkOf 0 (mending .held)).st = .held := by decide +kernel

/-! ### Witnesses: coherence and the machine -/

/-- Extent 3's first line in the filter, of port 0, which caches; a snoop of it is open. -/
def line3 : Nat := lineKey 3 0 0
def ent3 (owner : Option Nat) : FEnt :=
  { line := line3, job := 5, fva := at5 1 0, owner := owner, holders := [0], coarse := none, lseq := 1, set := 0, way := 0 }
def snoop3 (k : SnpKind) : Snoop :=
  { ctag := 4, port := 0, line := line3, kind := k, at_ := 0, discard := false, all := false, drainOf := none }
def caching (owner : Option Nat) (xs : List Snoop) : State :=
  let s := modLink 0 (fun l => { l with caching := true }) served
  { s with coh := { s.coh with ents := [ent3 owner], snoops := xs } }

theorem meets_coherenceEvents :
    (portLive 0 (caching none [snoop3 .share]) = true ∧ portRolePeer 0 (caching none [snoop3 .share]) = false ∧
      portCaches 0 (caching none [snoop3 .share]) = true ∧
      (caching none [snoop3 .share]).coh.snoops.find? (fun x => x.ctag == 4 && x.port == 0 && x.kind != .migrate) =
        some (snoop3 .share) ∧ entOf line3 (caching none [snoop3 .share]) = some (ent3 none)) ∧
    (portCaches 0 (caching (some 0) [snoop3 .inv]) = true ∧
      (caching (some 0) [snoop3 .inv]).coh.snoops.find? (fun x => x.ctag == 4 && x.port == 0 && x.kind != .migrate) =
        some (snoop3 .inv) ∧ entOf line3 (caching (some 0) [snoop3 .inv]) = some (ent3 (some 0))) ∧
    (∀ x ∈ (caching none [snoop3 .inv]).coh.snoops, x.ctag ≠ 5) ∧
    (addrLine 5 (at5 1 0) (caching none []) = some line3 ∧ lineOpen line3 (caching none []) = false ∧
      (caching none []).txn.txs = []) ∧
    (caching none [snoop3 .migrate]).coh.snoops.find? (fun x => x.kind == .migrate && x.port == 0 &&
      lineAddr x.line (caching none [snoop3 .migrate]) == (5, at5 1 0)) = some (snoop3 .migrate) ∧
    (let s := { served with coh := { served.coh with running := [.portLoss 0] } }
     s.coh.running ≠ [] ∧ Scan.portLoss 0 ∈ s.coh.running) ∧
    (addTx (waits .read .filterSet) served).txn.txs.any (fun t => t.wait == .filterSet &&
      t.parts.any (fun p => lineSlice p.line == lineSlice line3 && p.res.isNone)) = true := by decide +kernel

/-- The state after reset keeps the invariants and nothing follows in it; with a command in its queue it steps. -/
theorem meets_machine :
    Memory.wf State.reset.mem = true ∧ Memory.wf served.mem = true ∧ State.reset.rst.ledger.length ≤ ledgerMax ∧
    { State.reset with pending := [.firmwareStart] }.pending = [.firmwareStart] ∧ State.reset.pending = [] ∧
    (State.reset.pool.overflow = [] ∧ State.reset.txn.txs = [] ∧ State.reset.vers.mirror.jpend = [] ∧
      State.reset.coh.evicts = [] ∧ State.reset.coh.removing = [] ∧ State.reset.work.items = [] ∧ State.reset.work.cancels = [] ∧
      State.reset.work.queues = [] ∧ State.reset.work.drains = [] ∧ State.reset.eng.colls = [] ∧ State.reset.eng.delivers = [] ∧
      (∀ e ∈ State.reset.hens.hens, e.2.st ≠ .assigned) ∧ State.reset.hens.gang = none ∧ State.reset.pool.jobs = [] ∧
      State.reset.coding.books = [] ∧ State.reset.kv.tagged = [] ∧ State.reset.vers.regions = [] ∧
      State.reset.txn.jammed = []) := by decide +kernel

/-- Some step is taken, from a state that meets the invariants. -/
theorem meets_steps :
    (match step State.reset with | .next t => t.now == 1 | _ => false) = true ∧
    (match step { State.reset with pending := [.pinGlitch 0] } with | .next t => t.pending.isEmpty | _ => false) = true := by
  decide +kernel

/-! ### Witnesses: the switch core and traffic -/

/-- A red frame of port 0, class 2. -/
def red0 : Frame :=
  { id := 0, slice := 0, ingress := 0, inSub := 0, dest := 1, outSub := 0, vc := 0, cls := 2, own := 2, cells := 1, credit := 0,
    bytes := 64, flow := none, content := [], addrs := [], sent := 0, out := 0, shared := false, yellow := false, red := true,
    barrier := false, cyclic := false, turn := 0, demoted := false }
/-- A state with one slice as given. -/
def sliced (f : Slice → Slice) : State := modSlice 0 f served
/-- Slice 0 has matched every cell of the last 100 µs, all of bucket 0. -/
def hot0 : State := modSlice 0 (fun x => { x with matchedLast := 100 }) { up with sw := { up.sw with busy := [(0, 5)] } }

theorem meets_switchEvents :
    ((sliceOf 0 (sliced (fun x => { x with faultAt := some 7, mode := .twoStage }))).faultAt = some 7 ∧
      (sliceOf 0 (sliced (fun x => { x with faultAt := some 7, mode := .twoStage }))).mode = .twoStage) ∧
    (let s := { up with sw := { up.sw with moving := [(9, 1, 2)] } }
     s.sw.moving.find? (fun m => m.1 == 9) = some (9, 1, 2) ∧ s.sw.frames.any (inBucket 9 1) = false ∧ s.sw.planned = []) ∧
    (rget kRebalance (rset kRebalance 1 hot0) ≠ 0 ∧ (sliceOf 0 hot0).matchedLast = 100 ∧ hot0.now = 0 ∧
      busiest 0 4 (rset kRebalance 1 hot0) = [0] ∧ hot0.sw.moving = []) ∧
    (inService 8 (linked 8 .active up) = true ∧ isCyclic 8 (linked 8 .active up) = false ∧ 8 < attachments) ∧
    ((attachOf 8 (modAttach 8 (fun x => { x with re := .cyclic }) up)).re = .cyclic ∧
      (attachOf 8 (modAttach 8 (fun x => { x with re := .joining }) up)).re = .joining ∧ up.sw.frames = []) ∧
    (tgetD up.sw.freshCells 3 0 = 0 ∧ tgetD up.sw.freeCells 3 [] = []) := by decide +kernel
/-- No attachment of that state has cells in its buffers. -/
theorem meets_gooseSweep (x : Nat) : (attachOf x up).g = 0 ∧ (attachOf x up).s = 0 := ⟨rfl, rfl⟩

/-- Port 0's policer of class 2 is on: 1,000 and 2,000 B/µs, bursts of one frame. -/
def policed (tp : Nat) : State :=
  let s := rseti kPolicer (tcKey 0 2) (1000 * 2 ^ 96 + 2000 * 2 ^ 64 + 4160 * 2 ^ 40 + 4160 * 2 ^ 16 + 2 ^ 15) up
  { s with
    sw := { s.sw with frames := [red0] },
    traf := { s.traf with meters := tput s.traf.meters (tcKey 0 2) { meterFull (polRec 0 2 s) 0 with tp := tp } } }
/-- Gate list 0 in a state of its own. -/
def gated (g : Gate) : State := gateTo 0 g up

theorem meets_trafficEvents :
    ((policed 4160000).sw.frames.find? (fun f => f.red && f.ingress == 0 && f.own == 2) = some red0 ∧
      polOn (polRec 0 2 (policed 4160000)) = true ∧ red0.bytes * 1000 ≤ (meterNow 0 2 (policed 4160000)).tp) ∧
    ((policed 0).sw.frames.find? (fun f => f.red && f.ingress == 0 && f.own == 2) = some red0 ∧
      polOn (polRec 0 2 (policed 0)) = true ∧ (meterNow 0 2 (policed 0)).tp < red0.bytes * 1000 ∧ polPir (polRec 0 2 (policed 0)) ≠ 0) ∧
    (∀ st ∈ [GSt.pending, .swapping], (gateOf 0 (gated { gateDflt with st := st })).st = st ∧
      (gateOf 0 (gated { gateDflt with st := st })).closing = false) ∧
    (∀ c, let s := gated { gateDflt with st := .running, oper := 2 * 2 ^ 4096, entry := 1, closing := c }
      (gateOf 0 s).st = .running ∧ (gateOf 0 (timebaseTo (gateOf 0 s).entryEnd s)).stepped = false ∧ (gateOf 0 s).closing = c) := by
  decide +kernel
/-- An entry that is not the last, and one that is. -/
theorem meets_gateEntries : (let v := 2 * 2 ^ 4096; gtCount v = 2) ∧ (0 + 1 < 2 ∧ 2 ≤ 1 + 1) := by decide +kernel

/-! ### Witnesses: resets, start, power -/

def rec_ (sc : Scope) (t : Nat) : ResetRec := { scope := sc, target := t, cause := causePin, at_ := 0, ended := 0, unrec := 0 }
/-- A reset is in progress. -/
def resetting (sc : Scope) (t : Nat) : State := setRst (fun x => { x with inProgress := [rec_ sc t] }) up

theorem meets_resetEvents :
    (absorbed .cold 0 up = false ∧ absorbed .cold 0 (resetting .cold 0) = true ∧ absorbed .warm 0 (resetting .warm 0) = true ∧
      up.rst.quiesce = none) ∧
    (rget kStartState State.reset = 0 ∧ State.reset.rst.halted = false ∧ State.reset.rst.inProgress = []) ∧
    absorbed .warm 0 up = false ∧
    (setRst (fun x => { x with pendingR := [rec_ .warm 0] }) up).rst.pendingR = [rec_ .warm 0] ∧
    (let s := setRst (fun x => { x with quiesce := some 9 }) (resetting .warm 0)
     warmRec s = some (rec_ .warm 0) ∧ quiesced s = true ∧ s.rst.quiesce = some 9) ∧
    ((resetting .job 5).rst.inProgress.find? (fun r => r.scope == .job && r.target == 5) = some (rec_ .job 5) ∧
      workDone (fun j => j == 5) (resetting .job 5) = true) ∧
    (resetting .larder 11).rst.inProgress.find? (fun r => r.scope == .larder && r.target == 11) = some (rec_ .larder 11) ∧
    (setRst (fun x => { x with vaux := false }) up).rst.vaux = false := by decide +kernel

/-- Firmware runs and all but READY is done. -/
def starting : State :=
  rset kStartState 1 (setRst (fun x => { x with configApplied := true }) (setSec (fun z => { z with identityDone := true })
    (each (List.range 4) (fun i => modSlice i (fun x => { x with mode := .sheepdog })) henned)))
/-- The flash's helper data and the certificate's modulus agree; what the modulus is, no constant of the model fixes. -/
def helped : State :=
  let d : List Byte := [1, 2, 3, 4]
  setSec (fun z => { z with flash := { z.flash with helperA := { z.flash.helperA with data := d, crc := crc32c d },
                                                    idModulus := Config.identityModulus (identitySeed d) } }) up

theorem meets_startEvents :
    (rget kStartState State.reset = 0 ∧ heldDown State.reset = false ∧ State.reset.rst.configApplied = false) ∧
    (let s := setRst (fun x => { x with configApplied := true }) State.reset
     rget kStartState s = 0 ∧ heldDown s = false ∧ s.rst.configApplied = true) ∧
    (rget kStartState up ≠ 0 ∧ (larderOf 11 up).trained = false ∧ (larderOf 11 up).failed = false ∧ up.sec.identityDone = false) ∧
    (let x := setHen 0 { henDflt with st := .selfTest } up
     (henOf 0 x).st = .selfTest) ∧
    (readyNow starting = true ∧ starting.rst.seenReady = false) ∧ readyNow up = false := by decide +kernel
theorem meets_identityDerived :
    helperData helped.sec.flash = some [1, 2, 3, 4] ∧
    helped.sec.flash.idModulus = Config.identityModulus (identitySeed [1, 2, 3, 4]) ∧ rget kStartState helped ≠ 0 ∧
    helped.sec.identityDone = false ∧
    helperData { helped.sec.flash with helperA := { data := [1], crc := 0 }, helperB := { data := [1], crc := 0 } } = none := by
  refine ⟨?_, rfl, ?_, rfl, ?_⟩ <;> decide +kernel

theorem meets_fatalErrors : (∀ n ∈ [2, 3, 4, 5], 2 ≤ n ∧ n ≤ 5) ∧ 3 < 4 := by decide

/-- Rail 0 has a regulator. -/
def railed : State := rseti kVrMap 0 1 up
/-- THROTTLE_N's last edge, at a time, 61 s after reset. -/
def dwelling (t : Nat) (low : Bool) : State :=
  setPow (fun p => { p with throttleAt := some t, throttleLow := low }) (timeTo (61 * nsS) up)
theorem meets_powerAndThermalEvents :
    (mapped railVcore railed = true ∧ vcoreLegal 825 = true ∧ 825 ≤ railed.pow.vcore + 25 ∧ railed.pow.vcore ≤ 825 + 25) ∧
    (mapped railVcore (setVcore 825 railed) = true ∧ (setVcore 825 railed).pow.vcore < 850 ∧ 850 ≤ (setVcore 825 railed).pow.vcore + 25 ∧
      vcoreLegal 850 = true) ∧
    (up.pow.cap < 3201 ∧ 3200 ≤ up.pow.cap) ∧
    (rget kPowerCap up - rget kPowerGuard up = 3050) ∧
    (24 < dieSensors ∧ sensorLarder 24 = none ∧ (109999 : Int) ≤ 109999) ∧
    (up.pow.tripped = false ∧ up.pow.refLost = false) ∧
    (inDwell (dwelling (61 * nsS) true) = true ∧ inDwell (dwelling 0 false) = false ∧ true ≠ (dwelling 0 false).pow.throttleLow) ∧
    ((dwelling (61 * nsS) true).pow.throttleAt = some (61 * nsS) ∧ (dwelling (61 * nsS) true).now ≤ 61 * nsS + dwellNs ∧
      true = (dwelling (61 * nsS) true).pow.throttleLow) ∧
    ((setPow (fun p => { p with throttleLowSince := some 0 }) up).pow.throttleLowSince = some 0 ∧ up.pow.latched = false) := by
  decide +kernel

/-! ### Witnesses: services, security, ring and time -/

theorem inTurn {rq : Req} {s : State} (h : nodeAccepts s = true ∧ rq.session ≠ 0 ∧ sessionOf rq.session s = some sess ∧
    rq.tagOk = true ∧ rq.frameSeq ≠ 0xFFFFFFFF ∧ rq.formOk = true ∧ rq.seq = expected sess ∧ rq.seq < 2 ^ 32) : InTurn rq sess s :=
  { accepts := h.1, ofSession := h.2.1, session := h.2.2.1, genuine := h.2.2.2.1, fresh := by simp [sess], notLast := h.2.2.2.2.1,
    form := h.2.2.2.2.2.1, turn := h.2.2.2.2.2.2.1, inRange := h.2.2.2.2.2.2.2, manager := rfl }
/-- A block transfer of EPOCH_MS's size, open; a session with it, or with a subscription. -/
def block0 (w : Bool) : Block2 := { key := kFwImage, write := w, total := 4, data := if w then [] else [1, 2, 3, 4], at_ := 0 }
def sub0 (mode : Nat) : Sub :=
  { handle := 3, mode := mode, key := kEpochMs, inst := 0, last := 0, period := 1, sentAt := 0, seen := 0 }
/-- The manager's session in a state of its own. -/
def serving (x : Session) : State := { up with dict := { up.dict with sessions := [x] } }
theorem inTurn' {x : Session} (h : sessionOf 1 (serving x) = some x ∧ nodeAccepts (serving x) = true ∧
    x.rxSeq = none ∧ expected x = 0 ∧ x.role = roleManager) : InTurn okReq x (serving x) :=
  { accepts := h.2.1, ofSession := by decide, session := h.1, genuine := rfl, fresh := by simp [h.2.2.1], notLast := by decide,
    form := rfl, turn := by rw [h.2.2.2.1]; rfl, inRange := by decide, manager := h.2.2.2.2 }

theorem meets_services :
    (InTurn okReq sess up ∧ sess.block = none ∧ freeHandle sess = some 0 ∧ subAbort sess kEpochMs 0 0 = none ∧
      sess.txSeq + 1 < 0xFFFFFFFF) ∧
    (InTurn { rqOf kEpochMs with stage := true } sess up ∧
      writeAbort sess kEpochMs (rqOf kEpochMs).len true (heard (rqOf kEpochMs) sess up) = none) ∧
    (∃ o, obj? kEpochMs = some o ∧ o.acc ≠ .ro ∧ o.size ≠ 0 ∧ kEpochMs / 256 < 0xF000 ∧ kEpochMs % 256 < 256) ∧
    (∀ w, InTurn okReq { sess with block := some (block0 w) } (serving { sess with block := some (block0 w) })) ∧
    (0 * 1024 = (block0 true).data.length ∧ (block0 true).data.length + 4 ≤ (block0 true).total ∧ 0 * 1024 < (block0 false).total) ∧
    (InTurn okReq { sess with block := some { block0 true with data := [1, 2, 3, 4] } }
        (serving { sess with block := some { block0 true with data := [1, 2, 3, 4] } }) ∧
      crc32c [1, 2, 3, 4] ≠ 0) ∧
    (InTurn okReq { sess with subs := [sub0 0] } (serving { sess with subs := [sub0 0] }) ∧
      [sub0 0].any (fun u => u.handle == 3) = true) := by
  refine ⟨⟨inTurn (by decide +kernel), by decide +kernel⟩, ⟨inTurn (by decide +kernel), by decide +kernel⟩,
    ⟨_, rfl, by decide +kernel⟩, fun w => inTurn' ?_, by decide, ⟨inTurn' (by decide +kernel), by decide +kernel⟩,
    ⟨inTurn' (by decide +kernel), by decide⟩⟩
  revert w; decide +kernel

/-- A request of another place in the order. -/
def reqAt (n : Nat) : Req := { okReq with seq := n }
theorem heardIn (n : Nat) : HeardIn (reqAt n) sess up :=
  let h := inTurn (rq := okReq) (s := up) (by decide +kernel)
  { accepts := h.accepts, ofSession := h.ofSession, session := h.session, genuine := rfl, fresh := by simp [sess],
    notLast := h.notLast, form := rfl }
theorem meets_order :
    (∀ n, HeardIn (reqAt n) sess up) ∧
    (let d (n : Nat) := (n + 2 ^ 32 - expected sess) % 2 ^ 32
     d 1 = 1 ∧ d 15 = 15 ∧ d 16 = 16 ∧ d (2 ^ 31 - 1) = 2 ^ 31 - 1 ∧ d (2 ^ 31) = 2 ^ 31 ∧ sess.heldReqs = [] ∧ waitingReqs up < 256 ∧
      sess.cache = []) ∧
    (let x := { sess with cache := [(16, rspOk .done 0 [])] }
     sessionOf 1 (serving x) = some x ∧ x.cache.find? (fun c => c.1 == 16) = some (16, rspOk .done 0 [])) :=
  ⟨heardIn, by decide +kernel, by decide +kernel⟩

theorem meets_unsealed :
    nodeAccepts up = true ∧ okReq.session ≠ 0 ∧ sessionOf okReq.session up = some sess ∧ { okReq with tagOk := false }.tagOk = false ∧
    (let x := { sess with rxSeq := some 5 }
     sessionOf 1 (serving x) = some x ∧ x.rxSeq = some 5 ∧ okReq.frameSeq ≤ 5) := by decide +kernel

/-- A paced answer. -/
def paced0 : Paced :=
  { port := 0, tag := 4, seq := 1, job := 5, status := 0, op := 1, flags := 0, tc := 0, data := [], due := 9 }
theorem meets_serviceTimers :
    (let x := { sess with block := some (block0 true), heldReqs := [(1, .discard, 0)], events := [(0, { time := 0, src := 0, num := 0, plen := 0, payload := 0 })] }
     sessionOf 1 (serving x) = some x ∧ x.heldReqs.head? = some (1, .discard, 0) ∧ x.events ≠ []) ∧
    (∀ m ∈ [0, 1], subOf 1 3 (serving { sess with subs := [sub0 m] }) = some (sub0 m) ∧
      readAny kEpochMs 0 (serving { sess with subs := [sub0 m] }) ≠ (sub0 m).seen) ∧
    (setSec (fun z => { z with handshakes := [(1, 2, 3)] }) up).sec.handshakes.find? (fun h => h.1 == 1) = some (1, 2, 3) ∧
    rget kDebugState (rset kDebugState debugInForce up) = debugInForce ∧
    [paced0].find? (fun p => p.port == 0 && p.tag == 4) = some paced0 := by decide +kernel
/-- A store write is under way with no copy, one, or two. -/
def storing (a b : Option Nat) : State :=
  { up with dict := { up.dict with saving := some ([(kEpochMs, 0, 1)], 0), storeA := a.map (·, []), storeB := b.map (·, []) } }
theorem meets_configWriteDone :
    (storing none none).dict.saving = some ([(kEpochMs, 0, 1)], 0) ∧ (storing none none).dict.storeA = none ∧
    (storing (some 7) (some 6)).dict.storeA = some (7, []) ∧ (storing (some 7) (some 6)).dict.storeB = some (6, []) := by
  decide +kernel

/-- That a signature is right is a value no constant of the model fixes (log 3): FINISH's premise finishRole = some role
has no concrete witness, the others have. -/
theorem meets_spdm :
    let s := setSec (fun z => { z with identityDone := true }) up
    (nodeAccepts s = true ∧ identityFailed s = false ∧ s.sec.identityDone = true ∧ okReq.formOk = true ∧
      { okReq with session := 0 }.session = 0 ∧ s.sec.handshakes = [] ∧ sessionOf 7 s = none) ∧
    (setSec (fun z => { z with handshakes := [(1, 2, 3)] }) s).sec.handshakes.find? (fun h => h.1 == okReq.session) =
      some (1, 2, 3) ∧
    (∀ r ∈ [roleMonitor, roleManager, roleVendor], roleRoom r s = true) := by decide +kernel

/-- A frame for node 1, whose length and type are legal. -/
def frame1 : RingFrame := { okRing with dst := 1, typ := 1, onB := true }
theorem meets_ring :
    (takes okRing (ringCount okRing up) = false ∧ takes frame1 (ringCount frame1 up) = true ∧ up.ring.node ≠ 0 ∧
      bit 0 up.ring.node = false) ∧
    (∀ b, ringFailed b up = false ∧ up.ring.st = .normal) ∧
    (ringFailed true (ringTo .wrappedA up) = false ∧ (ringTo .wrappedA up).ring.st = .wrappedA ∧
      ringFailed false (ringTo .wrappedB up) = false ∧ (ringTo .wrappedB up).ring.st = .wrappedB) ∧
    (ringTo .isolated up).ring.st = .isolated := by decide +kernel

/-- A SYNC of node 0 for node 1, and one of another domain. -/
def ptp1 (dom : Nat) : Ptp := { frame := { frame1 with src := 0 }, domain := dom, logInterval := -3, origin := 100, seqId := 4 }
theorem meets_time :
    (takes (ptp1 0).frame (ringCount (ptp1 0).frame up) = true ∧
      ptpOk (ptp1 (rget kPtpDomain up)) (ringCount (ptp1 0).frame up) = true ∧
      ptpOk (ptp1 (rget kPtpDomain up + 1)) (ringCount (ptp1 0).frame up) = false) ∧
    ((setTime (fun x => { x with syncAt := some (9, 4) }) up).time.syncAt = some (9, 4) ∧ rget kTimeSource up ≠ 1) ∧
    (∀ st ∈ [TSt.locking, .locked], (setTime (fun x => { x with st := st }) up).time.st = st) ∧
    (nodeAccepts up = true ∧ ringFailed true up = false ∧ (rport true up).pseq = 0) ∧
    (up.time.ppsAt = none ∧ (setTime (fun x => { x with ppsAt := some 9 }) up).time.ppsAt = some 9 ∧ up.time.ppsLost = false) := by
  decide +kernel

/-! ### The spec's worked examples -/

/-- 02_pool_memory.md, "translating a load": slot 3, granules 16 to 23, offset 591,751,040, line 4,623,055, crate 9,029. -/
def rack : State := setExt 0xA1C { ext5 with job := 0x42, slot := 3, base := 16, len := 8 } up
theorem test_translation :
    (extAt 0x42 (fvaSlot 0x30000123456780) (fvaGran 0x30000123456780) rack).map (fun e => (e.1, extOff e.2 0x30000123456780)) =
      some (0xA1C, 591751040) ∧
    addrLine 0x42 0x30000123456780 rack = some (lineKey 0xA1C 0 4623055) ∧
    lkCrate (lineKey 0xA1C 0 4623055) = crateKey 0xA1C 0 9029 := by decide +kernel

/-- 03_tiers_and_placement.md, "the reference rack's usable pool": a home of full trays (16 of 512 GiB and 64 TB) with the
default attic publishes 5,248, 31,744 and 3,337,860 granules. -/
theorem test_usablePool :
    let s := { up with tiers := { up.tiers with
      atticGib := 192, trays := (List.range 16).map (fun t => (t, { trayDflt with
        present := true, dramGib := 512, nandGb := 64000, usableNand := true })) } }
    shelfGranules s = 5248 ∧ cellarGranules s = 31744 ∧ vaultGranules s = 3337860 := by decide +kernel

/-- 05_hens_and_arithmetic.md, "one chunk, one rounding": 256 and sixteen 0.125 by 256 and sixteen 0.015625, in E4M3. -/
theorem test_oneChunk :
    let v (a b : Nat) : OpVec := { fmt := 3, elems := [a] ++ List.replicate 16 b ++ List.replicate 111 0, scales := List.replicate 4 (some 0) }
    tmmaElem 0 (v 0x78 0x20) (v 0x78 0x08) = 0x47800004#32 := by decide +kernel

/-- 07_ebribry_coding.md, "a block bit by bit". -/
def exEntries : List Nat := [0, 0x38383838] ++ List.replicate 40 0 ++ [0x0040B030]
def exTuples : List Nat := [0x38383838, 0, 0x0040B030, 0, 0x0000387E, 0x38383838, 0, 0x0040B030]
def exHeader : Nat := 0x434081230100040000000000000C74BA
def exPayload : List Byte := [0x01, 0x00, 0x2A, 0x00, 0xFF, 0x01, 0x00, 0x2A, 0x7E, 0x38, 0x00, 0x00]
theorem test_encodeBlock : encodeBlock 1 3 4 0 0x123 2 exEntries exTuples [] = (exHeader, exPayload) := by decide +kernel
theorem test_decodeBlock :
    (decodeBlock exHeader (some exEntries) exPayload).toOption = some (exTuples, []) ∧ expandCycles [(exHeader, exPayload)] = 2 := by
  decide +kernel

/-- 08_reduce_gather_filter.md, "three contributions in any order": 2^24, 1.0 and -2^24 in BF16 give 1.0 in FP32 in every
order, and 1/3 in FP32 and BF16 with AVG. -/
theorem test_threeContributions :
    let sum (l : List Nat) : Elem := l.foldl (fun e b => elemAdd e (decodeElem 1 b)) elem0
    (∀ l ∈ [[0x4B80, 0x3F80, 0xCB80], [0x3F80, 0xCB80, 0x4B80], [0x4B80, 0xCB80, 0x3F80]], elemResult fmt32 false false (sum l) = 0x3F800000) ∧
    elemResult fmt32 true false (sum [0x4B80, 0x3F80, 0xCB80]) = 0x3EAAAAAB ∧
    elemResult fmtBf16 true false (sum [0x4B80, 0x3F80, 0xCB80]) = 0x3EAB := by decide +kernel

end Sys2Proof.Tests
end

/-!
## The state after reset (R6, R32)

After reset no register is set, so a register reads its Default; what an object that reports a unit's state reads is
compared with its Default row by row of the tables of Machine/ReadObj.lean.
-/
namespace Sys2Proof.Machine

/-- The objects whose Default is the part's, the strap's or the bucket's own (Tables 14.9, 16.12). -/
def ownDefaults : List Nat := [kDeviceTag, kStepping, kNode, kSerial, kBucketSlice]

@[simp] theorem rget_reset (key : Nat) : rget key State.reset = regDflt key := rfl

theorem regDflt_of_obj? {key : Nat} {o : Obj} (h : obj? key = some o) : regDflt key = o.dflt := by
  simp [regDflt, h]

/-- No two objects share a key: each is the one found by its own. -/
theorem obj?_of_mem : ∀ o ∈ objects, obj? o.key = some o := by decide +kernel

/-! ### Computed objects -/

/-- The tables of computed objects, in the order in which readObj asks them. -/
def readers : List (Nat → Nat → State → Option Nat) :=
  [readPool, readVers, readHens, readLinks, readSwitch, readRing, readSec]

/-- An object reads what the first table that knows it gives, and its register where none does. -/
theorem readObj_eq (key i : Nat) (s : State) :
    readObj key i s = (readers.findSome? (fun read => read key i s)).getD (rgeti key i s) := by
  simp only [readObj, readers, List.findSome?_cons, List.findSome?_nil]
  repeat' split
  all_goals simp_all

/-- After reset a table gives an object its Default, where it gives it a value at all. -/
def DefaultsAtReset (read : Nat → Nat → State → Option Nat) : Prop :=
  ∀ key, key ∉ ownDefaults → ∀ v ∈ read key 0 State.reset, v = regDflt key

/-- One row of such a table: the object k that it is for, and the table's rest. -/
theorem row_reset {key k : Nat} {row rest : Option Nat} (hk : key ∉ ownDefaults)
    (hrow : k ∉ ownDefaults → ∀ v ∈ row, v = regDflt k) (hrest : ∀ v ∈ rest, v = regDflt key) :
    ∀ v ∈ (if key = k then row else rest), v = regDflt key := by
  split
  · next h => subst h; exact hrow hk
  · exact hrest

theorem readers_reset : ∀ read ∈ readers, DefaultsAtReset read := by
  simp only [readers, List.forall_mem_cons]
  refine ⟨?_, ?_, ?_, ?_, ?_, ?_, ?_, by simp⟩ <;> intro key hk
  all_goals
    repeat refine row_reset hk (by decide +kernel) ?_
    simp

/-- Every object reads its Default after reset, but for the five that have one of their own (R6). -/
theorem readObj_reset {key : Nat} (hk : key ∉ ownDefaults) : readObj key 0 State.reset = regDflt key := by
  rw [readObj_eq]
  cases h : readers.findSome? (fun read => read key 0 State.reset) with
  | none => rfl
  | some v =>
    obtain ⟨read, hmem, hv⟩ := List.exists_of_findSome?_eq_some h
    exact readers_reset read hmem key hk v hv

/-- Settles O7: the units' lists and the memory stand empty in the state after reset. -/
theorem resetState : Obligations.ResetState :=
  ⟨rfl, fun _ => rfl, rfl, rfl, rfl, rfl, rfl, Nat.zero_le _,
   fun _ _ h => regDflt_of_obj? h,
   fun o ho => or_iff_not_imp_left.mpr fun hk => (readObj_reset hk).trans (regDflt_of_obj? (obj?_of_mem o ho))⟩

end Sys2Proof.Machine

/-!
## Reserved fields of a written record, and plain objects (R4, R5, R501, R605)

What unreserved keeps of a value is read field by field; keeping it once more changes no field, so a commit of the value
and of the value with its Reserved bits 0 are the same. A plain object's commit is its range and its register.
-/
namespace Sys2Proof.Machine

/-! ### Fields of a record -/

/-- Fields listed from the highest down, each whole, below bit b and above the next. -/
def FieldsBelow : Nat → List (Nat × Nat) → Prop
  | _, [] => True
  | b, (hi, lo) :: r => hi < b ∧ lo ≤ hi ∧ FieldsBelow lo r

/-- A record's fields of a list, and zero elsewhere: what unreserved keeps of a listed object's value. -/
def onlyFields (l : List (Nat × Nat)) (v : Nat) : Nat := pack (l.map (fun f => (fld v f.1 f.2, f.2)))

theorem unreserved_eq (key v : Nat) :
    unreserved key v = if keptFields key = [] then v else onlyFields (keptFields key) v := by
  unfold unreserved
  split <;> simp_all [onlyFields]

theorem testBit_fld (v hi lo j : Nat) : (fld v hi lo).testBit j = (decide (j < hi + 1 - lo) && v.testBit (lo + j)) := by
  rw [fld, Nat.testBit_mod_two_pow, Nat.testBit_div_two_pow, Nat.add_comm j]

theorem fld_lt (v hi lo : Nat) : fld v hi lo < 2 ^ (hi + 1 - lo) := Nat.mod_lt _ (Nat.two_pow_pos _)

theorem mem_fieldsBelow_lt {f : Nat × Nat} : ∀ {b : Nat} {l : List (Nat × Nat)}, FieldsBelow b l → f ∈ l → f.1 < b
  | _, (_, _) :: _, ⟨hb, hlo, hr⟩, hf => by
    obtain rfl | hf := List.mem_cons.mp hf
    · exact hb
    · exact (mem_fieldsBelow_lt hr hf).trans_le (hlo.trans hb.le)

theorem onlyFields_cons (hi lo : Nat) (r : List (Nat × Nat)) (v : Nat) :
    onlyFields ((hi, lo) :: r) v = 2 ^ lo * fld v hi lo + onlyFields r v := by
  simp [onlyFields, pack, Nat.mul_comm]

/-- The fields below bit b fit in b bits. -/
theorem onlyFields_lt (v : Nat) : ∀ {b : Nat} {l : List (Nat × Nat)}, FieldsBelow b l → onlyFields l v < 2 ^ b
  | b, [], _ => Nat.two_pow_pos b
  | b, (hi, lo) :: r, ⟨hb, hlo, hr⟩ => by
    have hrest : onlyFields r v < 2 ^ lo := onlyFields_lt v hr
    calc onlyFields ((hi, lo) :: r) v
        = 2 ^ lo * fld v hi lo + onlyFields r v := onlyFields_cons ..
      _ < 2 ^ lo * (fld v hi lo + 1) := by rw [Nat.mul_succ]; omega
      _ ≤ 2 ^ lo * 2 ^ (hi + 1 - lo) := Nat.mul_le_mul_left _ (fld_lt v hi lo)
      _ = 2 ^ (hi + 1) := by rw [← Nat.pow_add]; congr 1; omega
      _ ≤ 2 ^ b := Nat.pow_le_pow_right (by decide) hb

/-- A field above what lies below it is read whole. -/
theorem fld_top {hi lo x y : Nat} (hx : x < 2 ^ (hi + 1 - lo)) (hy : y < 2 ^ lo) : fld (2 ^ lo * x + y) hi lo = x := by
  rw [fld, Nat.mul_add_div (Nat.two_pow_pos lo), Nat.div_eq_of_lt hy, Nat.add_zero, Nat.mod_eq_of_lt hx]

/-- A field does not see what stands above it. -/
theorem fld_below {hi lo b x y : Nat} (hb : hi < b) (hy : y < 2 ^ b) : fld (2 ^ b * x + y) hi lo = fld y hi lo := by
  apply Nat.eq_of_testBit_eq
  intro j
  rw [testBit_fld, testBit_fld, Nat.testBit_two_pow_mul_add x hy]
  by_cases hj : j < hi + 1 - lo
  · rw [if_pos (by omega)]
  · simp [hj]

/-- Each field kept reads as it did in the value. -/
theorem fld_onlyFields (v : Nat) {f : Nat × Nat} : ∀ {b : Nat} {l : List (Nat × Nat)}, FieldsBelow b l → f ∈ l →
    fld (onlyFields l v) f.1 f.2 = fld v f.1 f.2
  | _, (hi, lo) :: r, ⟨_, _, hr⟩, hf => by
    rw [onlyFields_cons]
    obtain rfl | hf := List.mem_cons.mp hf
    · exact fld_top (fld_lt v hi lo) (onlyFields_lt v hr)
    · rw [fld_below (mem_fieldsBelow_lt hr hf) (onlyFields_lt v hr), fld_onlyFields v hr hf]

theorem onlyFields_idem {b : Nat} {l : List (Nat × Nat)} (h : FieldsBelow b l) (v : Nat) :
    onlyFields l (onlyFields l v) = onlyFields l v := by
  unfold onlyFields
  congr 1
  exact List.map_congr_left fun f hf => by rw [← onlyFields, fld_onlyFields v h hf]

/-- The fields of every listed record are disjoint and stand from the highest down, in at most ROLE_ENTRY's 528 bytes. -/
theorem keptFields_below (key : Nat) : FieldsBelow 4224 (keptFields key) := by
  unfold keptFields
  repeat refine iteInduction (motive := FieldsBelow 4224) (fun _ => by simp [FieldsBelow]) fun _ => ?_
  trivial

/-- Reserved bits once ignored stay so. -/
theorem unreserved_idem (key v : Nat) : unreserved key (unreserved key v) = unreserved key v := by
  simp only [unreserved_eq]
  split
  · rfl
  · exact onlyFields_idem (keptFields_below key) v

/-- A commit does not see Reserved bits (R5). -/
theorem commitObj_unreserved (key i v : Nat) (s : State) :
    commitObj key i (unreserved key v) s = commitObj key i v s := by
  simp only [commitObj, unreserved_idem]

/-! ### Objects without behaviour of their own (R605) -/

/-- Objects of chapters 03, 05, 11, 13, 16, 18 and 19 that have a range and no rule of their own. -/
def plainKeys : List Nat :=
  [kEpochMs, kTierTimeout, kStealNs, kSliverLimitUs, kReplayTimeout, kHotThreshold, kSnoopTimeoutUs, kMigrateStreak,
   kStepNs, kSessionIdleMs, kAutoWarm, kHenFaultLimit, kPowerCap, kThermWarn]

theorem writable_of_plain : ∀ key ∈ plainKeys, Writable key = true := by decide +kernel

/-- No unit has a rule of its own for such an object: its write is judged by its range alone. -/
theorem commitOf_of_plain (i v : Nat) (s : State) : ∀ key ∈ plainKeys, commitOf key i v s = commitPlain key i v s := by
  simp only [plainKeys, List.forall_mem_cons]
  exact ⟨rfl, rfl, rfl, rfl, rfl, rfl, rfl, rfl, rfl, rfl, rfl, rfl, rfl, rfl, by simp⟩

/-- A value within the object's range is taken by its register. -/
theorem commitPlain_inRange {key i v : Nat} {o : Obj} (ho : obj? key = some o) (hlo : o.lo ≤ v) (hhi : v ≤ o.hi) (s : State) :
    commitPlain key i v s = (.done, rseti key i v s) := by
  simp [commitPlain, ho, Nat.not_lt.mpr hlo, Nat.not_lt.mpr hhi]

/-- A DICT_WRITE is a WRITE of the object whose index and sub-index its key holds. -/
theorem exec_dictWrite (rq : Req) (key v : Nat) (s : State) :
    exec (.dictWrite rq (key / 256) (key % 256) v) s = writeRow rq key v s := by
  conv_rhs => rw [← Nat.div_add_mod' key 256]
  rfl

/-- Settles O18: a plain object's WRITE comes down to its commit, and a commit takes only what unreserved keeps. -/
theorem plainObjectWriteSetsItsRegister : Obligations.PlainObjectWriteSetsItsRegister := by
  refine ⟨fun rq x s v key hk o ho hw hlo hhi => ?_, fun key i v s => ?_⟩
  · refine writeRow_takes hw (exec_dictWrite rq key v s) (writable_of_plain key hk) ?_
    rw [commitOf_of_plain _ _ _ key hk, commitPlain_inRange ho hlo hhi]
  · exact ⟨unreserved_idem key v, (commitObj_unreserved key i v s).symm⟩

end Sys2Proof.Machine

/-!
## What every step keeps (R32)

Every definition of the machine keeps what `Keeps` names, memory's canonical form among it: one lemma per definition
that takes a state and gives one, in the order of the model's files, each by the branches of its definition. The
commands follow, and with them the step.
-/
namespace Sys2Proof.Machine

/-! ### Choices -/

section
variable {r s : State}
theorem Keeps.ite {c : Prop} [Decidable c] {t u : State} (ht : Keeps r t) (hu : Keeps r u) :
    Keeps r (if c then t else u) := by
  split <;> assumption
theorem Keeps.iteSnd {α : Type} {c : Prop} [Decidable c] {t u : α × State} (ht : Keeps r t.2) (hu : Keeps r u.2) :
    Keeps r (if c then t else u).2 := by
  split <;> assumption
theorem Keeps.iteSnd2 {α β : Type} {c : Prop} [Decidable c] {t u : α × β × State} (ht : Keeps r t.2.2)
    (hu : Keeps r u.2.2) : Keeps r (if c then t else u).2.2 := by
  split <;> assumption
theorem SlKeeps.ite {α : Type} {c : Prop} [Decidable c] {t u : Sl α} (ht : SlKeeps r t) (hu : SlKeeps r u) :
    SlKeeps r (if c then t else u) := by
  split <;> assumption
/-- A computation that chooses by the state it starts from. -/
theorem SlKeeps.iteS {α : Type} {c : State → Prop} [∀ s, Decidable (c s)] {f g : Sl α} (hf : SlKeeps r f)
    (hg : SlKeeps r g) : SlKeeps r (fun s => if c s then f s else g s) := fun s h => by
  dsimp only
  split
  · exact hf s h
  · exact hg s h
/-- A computation whose parts are chosen by the state it starts from. -/
theorem SlKeeps.atState {α : Type} {f : State → Sl α} (hf : ∀ s, SlKeeps r (f s)) : SlKeeps r (fun s => f s s) :=
  fun s h => hf s s h
end

/-! ### Machine/Ops.lean -/

section

variable {r s : State} {o : Out} {e : Event} {i src num plen payload kind cls body unitN detail : Nat}

theorem send_keeps (h : Keeps r s) : Keeps r (send o s) :=
  ⟨h.queue, h.mem, h.ledger, h.out.trans (List.prefix_append _ _), h.free⟩
theorem draw_keeps (h : Keeps r s) : Keeps r (draw s).2 :=
  ⟨h.queue, h.mem, h.ledger, h.out, h.free.trans (Nat.le_succ _)⟩
theorem queueEvent_keeps (h : Keeps r s) : Keeps r (queueEvent e i s) := by
  unfold queueEvent
  split
  · exact h
  · exact .ite h (.ite (send_keeps (h.upd rfl)) (h.upd rfl))
theorem raise_keeps (h : Keeps r s) : Keeps r (raise src num plen payload s) := by
  unfold raise
  exact each_keeps (h.upd rfl) fun _ _ h1 => queueEvent_keeps h1
theorem ledger_keeps (h : Keeps r s) : Keeps r (ledger src kind cls body s) := by
  unfold ledger
  extract_lets _ full l
  have hl : s.rst.ledger.length ≤ ledgerMax → l.length ≤ ledgerMax := by
    intro hl
    simp only [l, full, ledgerMax, decide_eq_true_eq, List.length_append, List.length_singleton] at hl ⊢
    split
    · rw [List.length_drop]; omega
    · omega
  exact onlyIf_keeps (h.updLedger hl) fun _ h => h.upd rfl
theorem fatalRecord_keeps (h : Keeps r s) : Keeps r (fatalRecord unitN detail s) :=
  raise_keeps ((ledger_keeps h).upd rfl)

end

/-! ### Machine/Access.lean -/

section

variable {r s : State} {id jslot addr key : Nat} {f : Job → Job}

theorem modJob_keeps (h : Keeps r s) : Keeps r (modJob id f s) := by
  unfold modJob
  split
  · exact h.upd rfl
  · exact h
theorem translate_keeps (h : Keeps r s) : Keeps r (translate jslot addr s) := by
  unfold translate
  exact .ite h (.ite (h.upd rfl) ((draw_keeps (h.upd rfl)).upd rfl))
theorem countCheck_keeps (h : Keeps r s) : Keeps r (countCheck key s) := .ite h (h.upd rfl)

end

/-! ### Machine/Content.lean -/

section

variable {r s : State} {ck lk cause off src dst rid : Nat} {hard : Bool} {d : List (Option Byte)} {p : Nat → Bool}

theorem dirtyCrate_keeps (h : Keeps r s) : Keeps r (dirtyCrate ck s) := .ite h (h.upd rfl)
theorem poisonLine_keeps (h : Keeps r s) : Keeps r (poisonLine lk cause s) := by
  unfold poisonLine
  exact .ite h (.ite (.ite h (raise_keeps ((fatalRecord_keeps h).upd rfl))) (ledger_keeps (h.upd rfl)))
theorem noteSlotErr_keeps (h : Keeps r s) : Keeps r (noteSlotErr lk hard s) := by
  unfold noteSlotErr
  exact .ite (h.upd rfl) h
theorem meetLine_keeps (h : Keeps r s) : Keeps r (meetLine lk s) := by
  unfold meetLine
  exact .ite (poisonLine_keeps (noteSlotErr_keeps (h.upd rfl))) h
theorem meetCrate_keeps (h : Keeps r s) : Keeps r (meetCrate ck s) := each_keeps h fun _ _ h1 => meetLine_keeps h1
theorem cleanLine_keeps (h : Keeps r s) : Keeps r (cleanLine lk s) := by
  unfold cleanLine
  exact .ite (h.upd rfl) (h.upd rfl)
theorem poisonCrate_keeps (h : Keeps r s) : Keeps r (poisonCrate ck cause s) :=
  each_keeps h fun _ _ h1 => poisonLine_keeps h1
theorem batchOpen_keeps (h : Keeps r s) : Keeps r (batchOpen lk off d s) := by
  unfold batchOpen
  split <;> exact h.upd rfl
theorem batchStore_keeps (h : Keeps r s) : Keeps r (batchStore lk off d s) :=
  onlyIf_keeps (batchOpen_keeps h) fun _ h1 => h1.upd rfl
theorem poke_keeps (h : Keeps r s) : Keeps r (poke lk off d s) := by
  unfold poke
  split
  · exact h.upd rfl
  · exact h.updMem rfl (memWriteSome_wf _ _)
theorem writeBatch_keeps (h : Keeps r s) : Keeps r (writeBatch lk s) := by
  unfold writeBatch
  split
  · exact h
  · exact (h.updMem rfl (foldl_memPut_wf _ _ _)).upd rfl
theorem writeBatchesOf_keeps (h : Keeps r s) : Keeps r (writeBatchesOf p s) :=
  each_keeps h fun _ _ h1 => writeBatch_keeps h1
theorem copyCrate_keeps (h : Keeps r s) : Keeps r (copyCrate src dst s) := by
  unfold copyCrate
  extract_lets s₁
  have h1 : Keeps r s₁ := meetCrate_keeps (writeBatchesOf_keeps h)
  exact h1.updMem rfl fun hm => foldl_memPut_wf _ _ _ (memClear_wf _ _ hm)
theorem zeroCrate_keeps (h : Keeps r s) : Keeps r (zeroCrate ck s) := h.updMem rfl (memClear_wf _ _)
theorem sweepForms_keeps (h : Keeps r s) : Keeps r (sweepForms rid s) := by
  unfold sweepForms
  split
  · exact h
  · exact each_keeps h fun _ _ h1 => (zeroCrate_keeps h1).upd rfl

end

/-! ### Machine/Place.lean -/

section

variable {r s : State} {hen old shelf : Option Nat} {c : Crate} {n t op flags count addr ck tier loc gen : Nat} {data :
  List Byte} {why : MoveWhy}

theorem noteMoved_keeps (h : Keeps r s) : Keeps r (noteMoved hen c n s) := by
  unfold noteMoved
  extract_lets home from_ gate s₁
  have hg : ∀ l s, Keeps r s → Keeps r (gate l s) := by
    intro l s h
    unfold gate
    split
    · exact h.upd rfl
    · exact h
  have h1 : Keeps r s₁ := by
    unfold s₁
    clear_value home
    split
    · exact h.upd rfl
    · exact h
  exact h1.ite (hg _ _ (hg _ _ h1))
theorem sendTray_keeps {c : TrayCmd} (h : Keeps r s) : Keeps r (sendTray c s) := send_keeps h
theorem trayCmd_keeps {why : TrayWhy} (h : Keeps r s) : Keeps r (trayCmd t op flags count addr data why s) := by
  unfold trayCmd
  exact onlyIf_keeps (h.upd rfl) fun _ h1 => sendTray_keeps h1
theorem moveCmds_keeps (h : Keeps r s) : Keeps r (moveCmds ck tier loc s) := by
  unfold moveCmds
  exact .ite (.ite (trayCmd_keeps h) (trayCmd_keeps (onlyIf_keeps h fun _ h1 => trayCmd_keeps h1))) (onlyIf_keeps
    (onlyIf_keeps h fun _ h2 => trayCmd_keeps h2) fun _ h3 => trayCmd_keeps h3)
theorem startMoveTo_keeps (h : Keeps r s) : Keeps r (startMoveTo ck tier loc gen why s) := by
  unfold startMoveTo
  exact (moveCmds_keeps (meetCrate_keeps (writeBatchesOf_keeps h))).upd rfl
theorem startMove_keeps (h : Keeps r s) : Keeps r (startMove ck tier loc why s) := startMoveTo_keeps h
theorem vaultLoc_keeps (h : Keeps r s) : Keeps r (vaultLoc t s).2 := by
  unfold vaultLoc
  extract_lets
  split
  · exact h
  split
  · extract_lets _ _ _ _ fresh
    have h1 : Keeps r fresh.2 := by
      unfold fresh
      split
      · exact (Keeps.pair ‹_› (draw_keeps h)).upd rfl
      · exact .pair ‹_› (draw_keeps h)
    split
    · exact .iteSnd ((Keeps.pair ‹_› (draw_keeps h)).upd rfl) h1
    · exact h1
theorem journalMap_keeps (h : Keeps r s) : Keeps r (journalMap ck loc old s) :=
  trayCmd_keeps (draw_keeps (draw_keeps h))
theorem regroup_keeps (h : Keeps r s) : Keeps r (regroup ck s) := by
  unfold regroup
  extract_lets
  split
  · exact h.upd rfl
  split
  · exact h
  split
  · split
    · exact (Keeps.pair ‹_› (draw_keeps h)).upd rfl
    · exact .pair ‹_› (draw_keeps h)
theorem leaveLoc_keeps (h : Keeps r s) : Keeps r (leaveLoc ck tier loc s) := by
  unfold leaveLoc
  exact .ite h (h.upd rfl)
theorem atticTrial_keeps (h : Keeps r s) : Keeps r (atticTrial ck s).2.2 := by
  unfold atticTrial
  extract_lets _ s₁
  have h1 : Keeps r s₁ := writeBatchesOf_keeps h
  split
  · exact h
  extract_lets s₂ _ s₃
  have h2 : Keeps r s₂ := h1.upd rfl
  have h3 : Keeps r s₃ := .ite (h2.upd rfl) h1
  split
  · exact h3
  · exact h3.upd rfl
theorem moveTo_keeps (h : Keeps r s) : Keeps r (moveTo ck tier why s).2 := by
  unfold moveTo
  extract_lets _ s₁
  have h1 : Keeps r s₁ := leaveLoc_keeps (writeBatchesOf_keeps h)
  split
  · exact h
  split
  · split
    · exact regroup_keeps (h1.upd rfl)
    split
    · exact h
    split
    · exact .pair ‹_› (vaultLoc_keeps h)
    · exact startMove_keeps (.pair ‹_› (vaultLoc_keeps h))
  · split
    · split
      · exact h
      · exact startMove_keeps h
    · split
      · split
        · exact h
        · exact startMove_keeps h
      · exact h
theorem demote_keeps (h : Keeps r s) : Keeps r (demote ck s) := by
  unfold demote
  extract_lets
  split
  · split
    · split
      · exact moveTo_keeps ((Keeps.triple ‹_› (atticTrial_keeps h)).upd rfl)
      split
      · exact startMoveTo_keeps (.triple ‹_› (atticTrial_keeps h))
      · exact moveTo_keeps (.triple ‹_› (atticTrial_keeps h))
  · exact moveTo_keeps h
theorem putCrate_keeps (h : Keeps r s) : Keeps r (putCrate ck tier loc s).2 := by
  unfold putCrate
  exact regroup_keeps (h.upd rfl)
theorem placeAt_keeps (h : Keeps r s) : Keeps r (placeAt shelf ck s).2 := by
  unfold placeAt
  split
  · exact putCrate_keeps h
  split
  · split
    · exact h
    split
    · exact (demote_keeps h).upd rfl
    · exact h
  · split
    · exact putCrate_keeps h
    split
    · exact h
    split
    · exact h
    extract_lets s₁
    have h1 : Keeps r s₁ := (moveTo_keeps h).upd rfl
    split
    · exact putCrate_keeps h1
    · exact h1
theorem placeNew_keeps (h : Keeps r s) : Keeps r (placeNew ck s).2 := by
  unfold placeNew
  exact placeAt_keeps h
theorem vaultDest_keeps (h : Keeps r s) : Keeps r (vaultDest ck s).2 := by
  unfold vaultDest
  extract_lets _ own
  clear_value own
  split
  · exact h
  split
  · exact h
  split
  · exact h
  split
  · exact h
  · exact (moveTo_keeps h).upd rfl
theorem fetchAttic_keeps (h : Keeps r s) : Keeps r (fetchAttic shelf ck s) := by
  unfold fetchAttic
  split <;> exact h.upd rfl
theorem fetchVault_keeps (h : Keeps r s) : Keeps r (fetchVault ck s) := by
  unfold fetchVault
  extract_lets
  split
  · exact (Keeps.pair ‹_› (vaultDest_keeps h)).upd rfl
  · exact (trayCmd_keeps ((Keeps.pair ‹_› (vaultDest_keeps h)).upd rfl)).upd rfl
theorem startFetch_keeps (h : Keeps r s) : Keeps r (startFetch ck s) :=
  .ite h (.ite (fetchAttic_keeps h) (fetchVault_keeps h))

end

/-! ### Machine/Journal.lean -/

section

variable {r s : State} {q : PartialQ} {x : List Byte × State} {kind num home key job typ slot ext gen arg0 arg1 ck lk
  off n st : Nat} {recs : List JRec} {res : List PartialQ} {data : List Byte} {d : List (Option Byte)} {write : Bool}

theorem partialBytes_keeps (h : Keeps r x.2) : Keeps r (partialBytes q x).2 := by
  unfold partialBytes
  exact draw_keeps h
theorem peerBody_keeps (h : Keeps r s) : Keeps r (peerBody kind recs res num s).2 := by
  unfold peerBody
  exact .iteSnd h (.iteSnd h (.iteSnd (foldlP_keeps _ (fun _ _ h1 => partialBytes_keeps h1) _ h) (.iteSnd h h)))
theorem sendPeer_keeps (h : Keeps r s) : Keeps r (sendPeer home kind key job recs res num s) := by
  unfold sendPeer
  split
  · exact h
  · exact send_keeps ((peerBody_keeps h).upd rfl)
theorem journalRec_keeps (h : Keeps r s) : Keeps r (journalRec typ slot ext gen arg0 arg1 data s).2 := by
  unfold journalRec
  dsimp only
  exact sendPeer_keeps (h.upd rfl)
theorem journalAny_keeps (h : Keeps r s) : Keeps r (journalAny typ slot ext gen arg0 arg1 data s) := by
  unfold journalAny
  split
  · exact journalRec_keeps h
  · exact journalRec_keeps h
  · exact h.upd rfl
  · exact h
theorem markCrate_keeps (h : Keeps r s) : Keeps r (markCrate ck s) := by
  unfold markCrate
  split
  · exact h
  · exact .ite (h.upd rfl) h
theorem journalLk_keeps (h : Keeps r s) : Keeps r (journalLk lk s).2 := by
  unfold journalLk
  split
  · exact h
  · exact journalRec_keeps h
theorem ownChanged_keeps (h : Keeps r s) : Keeps r (ownChanged lk s) := by
  unfold ownChanged
  exact .cut (markCrate_keeps (dirtyCrate_keeps h)) fun h1 => .ite (journalLk_keeps h1) h1
theorem ownLine_keeps (h : Keeps r s) : Keeps r (ownLine lk off d s) := by
  unfold ownLine
  exact .cut (.ite (placeNew_keeps h) h) fun h1 => .ite (poke_keeps h1) (batchOpen_keeps (.ite (startFetch_keeps h1)
    h1))
theorem ownPut_keeps (h : Keeps r s) : Keeps r (ownPut lk off d s) := ownChanged_keeps (ownLine_keeps h)
theorem ownReach_keeps (h : Keeps r s) : Keeps r (ownReach ext off n write s).2 := by
  unfold ownReach
  exact foldlP_keeps _ (fun _ _ h1 => .cut (.ite (placeNew_keeps h1) h1) fun h2 => .ite (startFetch_keeps h2) h2) _ h
theorem journalExtAs_keeps (h : Keeps r s) : Keeps r (journalExtAs ext st s) := by
  unfold journalExtAs
  split
  · exact h
  · exact .ite h (journalAny_keeps h)
theorem journalExt_keeps (h : Keeps r s) : Keeps r (journalExt ext s) := by
  unfold journalExt
  split
  · exact h
  · exact journalExtAs_keeps h

end

/-! ### Machine/Coh.lean -/

section

variable {r s : State} {lk p result lseq : Nat} {kind : SnpKind} {discard all : Bool} {drainOf but atomicPort src :
  Option Nat} {data : List Byte} {x : Scan} {a : Access} {e : HeldEvict}

theorem dropHolder_keeps (h : Keeps r s) : Keeps r (dropHolder lk p s) := by
  unfold dropHolder
  split
  · exact h
  · exact .ite h (.ite (h.upd rfl) (h.upd rfl))
theorem sendSnoop_keeps (h : Keeps r s) : Keeps r (sendSnoop kind p lk discard all drainOf s) := by
  unfold sendSnoop
  exact send_keeps (h.upd rfl)
theorem mergeBack_keeps (h : Keeps r s) : Keeps r (mergeBack lk data s) := by
  unfold mergeBack
  extract_lets _ s₁
  have h1 : Keeps r s₁ := dirtyCrate_keeps (cleanLine_keeps h)
  split
  · exact poke_keeps h1
  · exact h1.upd rfl
theorem loseHolder_keeps (h : Keeps r s) : Keeps r (loseHolder lk p s) := by
  unfold loseHolder
  split
  · exact h
  · exact .ite ((poisonLine_keeps (h.upd rfl)).upd rfl) (dropHolder_keeps h)
theorem loseSnoop_keeps {x : Snoop} (h : Keeps r s) : Keeps r (loseSnoop x s) := by
  unfold loseSnoop
  exact onlyIf_keeps (loseHolder_keeps h) fun _ h1 => h1.upd rfl
theorem invalidate_keeps (h : Keeps r s) : Keeps r (invalidate lk but discard drainOf s) := by
  unfold invalidate
  split
  · exact h
  extract_lets
  split
  · extract_lets s₁ s₂ s₃
    have h1 : Keeps r s₁ := each_keeps h fun _ _ h2 => loseHolder_keeps h2
    have h2 : Keeps r s₂ := by
      unfold s₂
      split
      · split
        · exact dropHolder_keeps h1
        · exact h1
      · exact h1
    have h3 : Keeps r s₃ := each_keeps h2 fun _ _ h4 => sendSnoop_keeps h4
    exact .ite (h3.upd rfl) h3
theorem findWay_keeps (h : Keeps r s) : Keeps r (findWay lk s).2 := by
  unfold findWay
  extract_lets
  split
  · exact h
  split
  · exact h
  · exact invalidate_keeps (h.upd rfl)
theorem predict_keeps (h : Keeps r s) : Keeps r (predict lk atomicPort src s) := by
  unfold predict
  extract_lets
  split
  · split
    · exact h.upd rfl
    · exact h
  · split
    · exact .ite (h.upd rfl) (.ite h (h.upd rfl))
    split
    · exact h.upd rfl
    · exact h
theorem cohPrep_keeps (h : Keeps r s) : Keeps r (cohPrep lk src a s).2 := by
  unfold cohPrep
  split
  · exact h
  split
  · split
    · split <;> exact .pair ‹_› (findWay_keeps h)
    · exact h
  · split
    · exact .iteSnd (loseHolder_keeps h) (.iteSnd (sendSnoop_keeps (onlyIf_keeps h fun _ h1 => h1.upd rfl))
        (sendSnoop_keeps h))
    · exact .iteSnd (.cut (invalidate_keeps h) fun h1 => .iteSnd (h1.upd rfl) h1) h
theorem acquire_keeps (h : Keeps r s) : Keeps r (acquire lk p s) := by
  unfold acquire
  split
  · exact h.upd rfl
  split
  next heq => exact ((findWay_keeps h).pair heq).upd rfl
  next heq => exact (findWay_keeps h).pair heq
theorem cohAck_keeps (h : Keeps r s) : Keeps r (cohAck p lk result lseq s) := by
  unfold cohAck
  exact send_keeps (onlyIf_keeps h fun _ h1 => h1.upd rfl)
theorem doEvict_keeps (h : Keeps r s) : Keeps r (doEvict e s) := by
  unfold doEvict
  split
  · exact cohAck_keeps h
  · exact .ite (.ite (cohAck_keeps ((mergeBack_keeps h).upd rfl)) (cohAck_keeps h)) (.ite (cohAck_keeps
      (dropHolder_keeps h)) (cohAck_keeps h))
theorem releaseEvicts_keeps (h : Keeps r s) : Keeps r (releaseEvicts s) := by
  unfold releaseEvicts
  exact each_keeps (h.upd rfl) fun _ _ h1 => doEvict_keeps h1
theorem queueScan_keeps (h : Keeps r s) : Keeps r (queueScan x s) := by
  unfold queueScan
  exact .ite (h.upd rfl) (h.upd rfl)
theorem scanApply_keeps (h : Keeps r s) : Keeps r (scanApply x s) := by
  unfold scanApply
  refine onlyIf_keeps (each_keeps h fun _ _ h1 => ?_) fun _ h3 => queueScan_keeps h3
  split
  · exact loseHolder_keeps h1
  · exact .ite h1 (invalidate_keeps h1)
  · split
    · exact h1
    · exact .ite h1 (each_keeps h1 fun _ _ h2 => sendSnoop_keeps h2)
  · exact .ite h1 (invalidate_keeps h1)
theorem settleWindows_keeps (h : Keeps r s) : Keeps r (settleWindows s) := by
  unfold settleWindows
  exact each_keeps h fun _ _ h1 => .ite h1 (.ite (queueScan_keeps h1) (onlyIf_keeps (h1.upd rfl) fun _ h2 => h2.upd
    rfl))

end

/-! ### Machine/Regions.lean -/

section

variable {r s : State} {rid job member v ext op version idx obj permit epoch : Nat} {judged draft current : Bool} {b :
  Binding} {p : Binding → Bool} {o rec_ : OwnObj}

theorem retireVersions_keeps (h : Keeps r s) : Keeps r (retireVersions rid s) := by
  unfold retireVersions
  split
  · exact h
  · exact sweepForms_keeps (h.upd rfl)
theorem settleVersions_keeps (h : Keeps r s) : Keeps r (settleVersions s) :=
  each_keeps h fun _ _ h1 => retireVersions_keeps h1
theorem regionBind_keeps (h : Keeps r s) : Keeps r (regionBind judged draft job member rid v s).2.2 := by
  unfold regionBind
  split
  · exact h
  · exact .iteSnd2 h (.iteSnd2 h (retireVersions_keeps (h.upd rfl)))
theorem regionPublish_keeps (h : Keeps r s) : Keeps r (regionPublish judged job member rid v b s).2.2 := by
  unfold regionPublish
  split
  · exact h
  · exact .iteSnd2 h (.iteSnd2 (h.upd rfl) (.iteSnd2 (h.upd rfl) (.iteSnd2 (h.upd rfl) (retireVersions_keeps (h.upd
      rfl)))))
theorem regionRebase_keeps (h : Keeps r s) : Keeps r (regionRebase judged job member rid v b s).2.2 := by
  unfold regionRebase
  split
  · exact h
  · exact .iteSnd2 h (.iteSnd2 h (retireVersions_keeps ((writeBatchesOf_keeps h).upd rfl)))
theorem regionCmd_keeps (h : Keeps r s) : Keeps r (regionCmd judged ext job member op current version s).2 := by
  unfold regionCmd
  split
  · split
    · exact h
    · extract_lets b v
      clear_value b v
      split
      next heq =>
        refine Keeps.triple heq ?_
        split
        · exact .iteSnd2 (regionBind_keeps h) (.iteSnd2 (regionBind_keeps h) h)
        · split
          · exact .iteSnd2 (regionPublish_keeps h) (.iteSnd2 (regionRebase_keeps h)
              (.iteSnd2 (.iteSnd2 h (retireVersions_keeps (h.upd rfl))) h))
          · exact .iteSnd2 (regionBind_keeps h) (.iteSnd2 (regionBind_keeps h)
              (.iteSnd2 (retireVersions_keeps (h.upd rfl)) h))
  · exact h
  · exact h
theorem draftCrate_keeps (h : Keeps r s) : Keeps r (draftCrate rid idx b s).2 := by
  unfold draftCrate
  split
  · exact h
  · exact h
  extract_lets _ _ s₁ s₂ s₃ s₄
  have h1 : Keeps r s₁ := copyCrate_keeps h
  have h2 : Keeps r s₂ := h1.upd rfl
  have h3 : Keeps r s₃ := h2.upd rfl
  have h4 : Keeps r s₄ := by
    unfold s₄
    split
    · exact .ite (journalRec_keeps h3) h3
    · exact h3
  exact .iteSnd (h.upd rfl) h4
theorem clearBindings_keeps (h : Keeps r s) : Keeps r (clearBindings p s) := by
  unfold clearBindings
  exact each_keeps (h.upd rfl) fun _ _ h1 => retireVersions_keeps h1
theorem journalOwnAs_keeps (h : Keeps r s) : Keeps r (journalOwnAs obj o rec_ s).2 := by
  unfold journalOwnAs
  split
  · extract_lets
    split
    · exact h
    · exact journalRec_keeps h
  · exact h
theorem journalOwn_keeps (h : Keeps r s) : Keeps r (journalOwn obj s).2 := by
  unfold journalOwn
  split
  · exact h
  · exact journalOwnAs_keeps h
theorem journalGone_keeps (h : Keeps r s) : Keeps r (journalGone obj s).2 := by
  unfold journalGone
  split
  · exact h
  · exact journalOwnAs_keeps h
theorem ownRevert_keeps (h : Keeps r s) : Keeps r (ownRevert obj s) := by
  unfold ownRevert
  split
  · exact h
  · exact .ite h (raise_keeps ((journalOwn_keeps (h.upd rfl)).upd rfl))
theorem ownExpire_keeps (h : Keeps r s) : Keeps r (ownExpire obj s) := by
  unfold ownExpire
  split
  · exact .ite (ownRevert_keeps h) h
  · exact h
theorem giveFinish_keeps (h : Keeps r s) : Keeps r (giveFinish obj permit s) := by
  unfold giveFinish
  split
  · exact h
  · exact h.upd rfl
theorem takeCmd_keeps (h : Keeps r s) : Keeps r (takeCmd obj member epoch s).2 := by
  unfold takeCmd
  split
  · exact h
  · exact .iteSnd (.iteSnd h (.iteSnd (h.upd rfl) (.iteSnd h h))) (.iteSnd h h)

end

/-! ### Machine/Txn.lean -/

section

variable {r s : State} {q off n v port tag seq job op flags tc acc id lk p way version gran copies len cls cause : Nat}
  {st : Status} {lost current : Bool} {data : List Byte} {h' : Hdr} {k : TxKind} {t : Tx} {w : Wait} {a parts : List
  Part} {x : List Nat × State} {m : MemErr} {g : Grant} {bind : Option Binding}

theorem qcbPut_keeps {q : Queue} (h : Keeps r s) : Keeps r (qcbPut q off n v s) := by
  unfold qcbPut
  split
  · exact ownPut_keeps h
  · exact h
theorem queueTo_keeps {st : QSt} (h : Keeps r s) : Keeps r (queueTo q st s) := by
  unfold queueTo
  split
  · exact h
  · extract_lets ends live
    split
    next heq =>
      have h1 := Keeps.pair heq (.iteSnd (draw_keeps h) h)
      extract_lets y s₂
      have h2 : Keeps r s₂ := h1.upd rfl
      split
      · exact onlyIf_keeps h2 fun _ h3 => qcbPut_keeps h3
      · exact h2
theorem queueError_keeps (h : Keeps r s) : Keeps r (queueError q lost s) := raise_keeps (queueTo_keeps h)
theorem doorbell_keeps (h : Keeps r s) : Keeps r (doorbell q s) := by
  unfold doorbell
  split
  · exact h
  · exact .ite h (.ite (h.upd rfl) (queueError_keeps h))
theorem respond_keeps (h : Keeps r s) : Keeps r (respond port tag seq job op flags tc acc st data s) := by
  unfold respond
  extract_lets
  split
  · exact .ite (.ite (h.upd rfl) (send_keeps (h.upd rfl))) (send_keeps h)
  · exact send_keeps h
theorem refuse_keeps (h : Keeps r s) : Keeps r (refuse h' k st data s) := respond_keeps (h.upd rfl)
theorem answerHen_keeps {h' : Nat} (h : Keeps r s) : Keeps r (answerHen h' id st data s) := by
  unfold answerHen
  extract_lets
  split
  · exact h
  · exact onlyIf_keeps (h.upd rfl) fun _ h1 => send_keeps h1
theorem completeTx_keeps (h : Keeps r s) : Keeps r (completeTx t st data s) := by
  unfold completeTx
  extract_lets s₁
  have h1 : Keeps r s₁ := h.upd rfl
  split
  · exact onlyIf_keeps (respond_keeps h1) fun _ h2 => h2.upd rfl
  · exact answerHen_keeps h1
  · exact h1
theorem finishTx_keeps (h : Keeps r s) : Keeps r (finishTx t st data s) := by
  unfold finishTx
  extract_lets s₁
  have h1 : Keeps r s₁ := by
    unfold s₁
    split
    · exact h.upd rfl
    · exact h
  exact .ite (completeTx_keeps h1) (h1.upd rfl)
theorem countHot_keeps (h : Keeps r s) : Keeps r (countHot lk s) := by
  unfold countHot
  exact onlyIf_keeps (h.upd rfl) fun _ h1 => raise_keeps (h1.upd rfl)
theorem afterChange_keeps (h : Keeps r s) : Keeps r (afterChange t lk s) := by
  unfold afterChange
  extract_lets s₁
  have h1 : Keeps r s₁ := countHot_keeps (dirtyCrate_keeps (markCrate_keeps h))
  split
  · exact h1
  · exact .ite h1 (.ite (doorbell_keeps h1) (h1.upd rfl))
theorem execLine_keeps {p : Part} (h : Keeps r s) : Keeps r (execLine t p s).2.2 := by
  unfold execLine
  extract_lets _ s₁ _ _ s₂ _ s₃ s₄ s₅
  have h1 : Keeps r s₁ := meetLine_keeps (onlyIf_keeps h fun _ h2 => predict_keeps h2)
  have h2 : Keeps r s₂ := onlyIf_keeps h fun _ h3 => predict_keeps h3
  have h3 : Keeps r s₃ := onlyIf_keeps h2 fun _ h4 => meetLine_keeps h4
  have h4 : Keeps r s₄ := batchStore_keeps (onlyIf_keeps h3 fun _ h5 => cleanLine_keeps h5)
  have h5 : Keeps r s₅ := meetLine_keeps h
  split
  · split
    · exact h1
    split
    · exact onlyIf_keeps h1 fun _ h6 => acquire_keeps h6
    · exact h1
  · split
    · exact h3
    dsimp only
    exact afterChange_keeps h4
  · split
    · exact h5
    dsimp only
    exact afterChange_keeps (batchStore_keeps h5)
  · exact h
theorem migrate_keeps (h : Keeps r s) : Keeps r (migrate lk p way s) := by
  unfold migrate
  exact send_keeps (h.upd rfl)
theorem predictAtomic_keeps (h : Keeps r s) : Keeps r (predictAtomic t lk s) := by
  unfold predictAtomic
  split
  · exact h
  split
  · exact .ite (predict_keeps h) (predict_keeps h)
  · exact predict_keeps h
theorem holdTx_keeps (h : Keeps r s) : Keeps r (holdTx t w s) := by
  unfold holdTx
  exact (onlyIf_keeps h fun _ h1 => h1.upd rfl).upd rfl
theorem lineReady_keeps {p : Part} (h : Keeps r s) : Keeps r (lineReady t p s).2 := by
  unfold lineReady
  exact .iteSnd h (.iteSnd h (.iteSnd (startFetch_keeps h) (.iteSnd h (.iteSnd h (.iteSnd h (.iteSnd (cohPrep_keeps h)
    h))))))
theorem undoPart_keeps {p : Part} (h : Keeps r s) : Keeps r (undoPart t p s) := by
  unfold undoPart
  exact onlyIf_keeps h fun _ h1 => batchStore_keeps h1
theorem runParts_keeps (h : Keeps r x.2) : Keeps r (runParts id a x).2 := by
  induction a generalizing x with
  | nil => exact h
  | cons p l ih =>
    obtain ⟨atoms, s⟩ := x
    unfold runParts
    split
    · exact h
    next t _ =>
      have hr : Keeps r (lineReady t p s).2 := lineReady_keeps h
      extract_lets
      split
      next heq =>
        have h0 := hr.pair heq
        extract_lets s₁ _
        have h1 : Keeps r s₁ := onlyIf_keeps h0 fun _ h2 => predictAtomic_keeps h2
        split
        next heq2 =>
          have h2 := Keeps.pair heq2 (.iteSnd (findWay_keeps h1) h1)
          split
          · exact holdTx_keeps h2
          · exact holdTx_keeps (onlyIf_keeps h2 fun _ h3 => h3.upd rfl)
          · extract_lets
            split
            next heq3 =>
              extract_lets s₃ _ s₄ s₅
              have h3 : Keeps r s₃ := onlyIf_keeps (Keeps.triple heq3 (execLine_keeps h2)) fun _ h4 => noteMoved_keeps
                  h4
              have h4 : Keeps r s₄ := onlyIf_keeps h3 fun _ h5 => h5.upd rfl
              have h5 : Keeps r s₅ := by
                unfold s₅
                split
                · exact .ite (migrate_keeps h4) h4
                · exact h4
              exact ih (h5.upd rfl)
      next heq =>
        exact ih (holdTx_keeps (onlyIf_keeps (onlyIf_keeps (hr.pair heq) fun _ h2 => h2.upd rfl) fun _ h2 => h2.upd
          rfl))
theorem runRegion_keeps (h : Keeps r s) : Keeps r (runRegion t op version current s) := by
  unfold runRegion
  split
  · extract_lets
    split
    · exact .ite (finishTx_keeps (journalRec_keeps h)) (finishTx_keeps (.pair ‹_› (regionCmd_keeps h)))
    · exact finishTx_keeps (.pair ‹_› (regionCmd_keeps h))
theorem runTx_keeps (h : Keeps r x.2) : Keeps r (runTx id x).2 := by
  unfold runTx
  split
  · split
    · exact h
    split
    · exact h
    split
    · exact h
    · exact h
    · exact h
    · exact .iteSnd (holdTx_keeps h) (.iteSnd (holdTx_keeps h) (runRegion_keeps h))
    split
    · split
      · exact .pair ‹_› (runParts_keeps h)
      split
      · split
        · extract_lets s₁
          have h1 : Keeps r s₁ := by
            unfold s₁
            split
            · exact (Keeps.pair ‹_› (runParts_keeps h)).upd rfl
            · exact .pair ‹_› (runParts_keeps h)
          exact finishTx_keeps h1
      · exact .pair ‹_› (runParts_keeps h)
theorem pump_keeps (h : Keeps r s) : Keeps r (pump s) :=
  foldlP_keeps _ (fun _ _ h1 => runTx_keeps h1) _ (releaseEvicts_keeps h)
theorem replayAnswer_keeps {h' : Hdr} {k : TxKind} {g : Grant} {t : State} (ht : replayAnswer h' k g s = some t)
    (h : Keeps r s) : Keeps r t := by
  have stale : Keeps r (refuse h' k .stale [] (bump kReplayStale s)) := refuse_keeps (h.upd rfl)
  unfold replayAnswer at ht
  split at ht
  · split at ht
    · cases ht
    · split at ht
      · split at ht
        · split at ht
          · cases ht; exact respond_keeps (h.upd rfl)
          · cases ht; exact stale
        · split at ht <;> cases ht
          exact stale
      · split at ht <;> cases ht
        exact stale
  · cases ht
theorem readTables_keeps (h : Keeps r s) : Keeps r (readTables gran copies s).2 := by
  unfold readTables
  exact .iteSnd (h.upd rfl) (h.upd rfl)
theorem meetErrs_keeps (h : Keeps r s) : Keeps r (meetErrs m parts s) := by
  unfold meetErrs
  exact each_keeps h fun _ _ h1 => onlyIf_keeps (onlyIf_keeps h1 fun _ h2 => noteSlotErr_keeps h2) fun _ h3 => h3.upd
    rfl
theorem startAccess_keeps (h : Keeps r s) : Keeps r (startAccess t g bind len m s).2 := by
  unfold startAccess
  extract_lets
  split
  · exact .cut (readTables_keeps (meetErrs_keeps (h.upd rfl))) fun h1 => .ite (holdTx_keeps (h1.upd rfl)) (.ite
      (holdTx_keeps (h1.upd rfl)) (runTx_keeps (h1.upd rfl)))
  split
  · split
    · exact h
    split
    · exact .cut (readTables_keeps (meetErrs_keeps ((Keeps.pair ‹_› (draftCrate_keeps h)).upd rfl))) fun h1 => .ite
        (holdTx_keeps (h1.upd rfl)) (.ite (holdTx_keeps (h1.upd rfl)) (runTx_keeps (h1.upd rfl)))
    · exact .pair ‹_› (draftCrate_keeps h)
  · exact .cut (readTables_keeps (meetErrs_keeps (h.upd rfl))) fun h1 => .ite (holdTx_keeps (h1.upd rfl)) (.ite
      (holdTx_keeps (h1.upd rfl)) (runTx_keeps (h1.upd rfl)))
theorem enterTracker_keeps (h : Keeps r s) : Keeps r (enterTracker h' k s) := by
  unfold enterTracker
  extract_lets
  split
  · exact refuse_keeps (h.upd rfl)
  split
  · split
    · exact refuse_keeps (h.upd rfl)
    · extract_lets g t s₁
      have h1 : Keeps r s₁ := h.upd rfl
      exact .ite (holdTx_keeps h1) (finishTx_keeps h1)
  · split
    · exact refuse_keeps (h.upd rfl)
    · exact h.upd rfl
  · split
    · exact refuse_keeps (countCheck_keeps h)
    · extract_lets s₁
      have h1 : Keeps r s₁ := translate_keeps h
      split
      · exact runTx_keeps (h1.upd rfl)
      · exact h1.upd rfl
      · split
        · exact refuse_keeps h1
        · split
          next heq => exact replayAnswer_keeps heq h1
          · split
            next heq => exact Keeps.pair heq (startAccess_keeps h1)
            next heq => exact refuse_keeps (Keeps.pair heq (startAccess_keeps h1))
theorem enterHome_keeps (h : Keeps r s) : Keeps r (enterHome h' k s) := by
  unfold enterHome
  exact .ite (h.upd rfl) (enterTracker_keeps h)
theorem accept_keeps (h : Keeps r s) : Keeps r (accept h' k s) := by
  unfold accept
  exact .ite (h.upd rfl) (enterHome_keeps (h.upd rfl))
theorem takeJammed_keeps (h : Keeps r s) : Keeps r (takeJammed s) := by
  unfold takeJammed
  exact each_keeps h fun _ _ h1 => .ite (enterTracker_keeps (h1.upd rfl)) h1
theorem endEpoch_keeps (h : Keeps r s) : Keeps r (endEpoch p cls s) := by
  unfold endEpoch
  exact .cut (ledger_keeps (h.upd rfl)) fun h1 => .ite (queueScan_keeps (each_keeps (h1.upd rfl) fun _ _ h2 =>
    loseSnoop_keeps h2)) (h1.upd rfl)
theorem portLeaves_keeps {st : LSt} (h : Keeps r s) : Keeps r (portLeaves p st cls s) := by
  unfold portLeaves
  exact (onlyIf_keeps (onlyIf_keeps (h.upd rfl) fun _ h1 => raise_keeps (endEpoch_keeps h1)) fun _ h2 => raise_keeps
    h2).upd rfl
theorem portReset_keeps (h : Keeps r s) : Keeps r (portReset p cause s) := by
  unfold portReset
  exact .ite (h.upd rfl) (portLeaves_keeps (h.upd rfl))

end

/-! ### Machine/Items.lean -/

section

variable {r s : State} {i job q from_ a : Nat} {f : Item → Item} {r' : CRec} {st : Status} {started : Bool} {d : Desc}

theorem modItem_keeps (h : Keeps r s) : Keeps r (modItem i f s) := by
  unfold modItem
  split
  · exact h.upd rfl
  · exact h
theorem itemLedger_keeps (h : Keeps r s) : Keeps r (itemLedger r' job s) := ledger_keeps h
theorem stopItem_keeps (h : Keeps r s) : Keeps r (stopItem i st s) := modItem_keeps h
theorem pushRec_keeps (h : Keeps r s) : Keeps r (pushRec r' s) := by
  unfold pushRec
  split
  · exact h
  · exact .ite (itemLedger_keeps (h.upd rfl)) (h.upd rfl)
theorem cancelQueue_keeps (h : Keeps r s) : Keeps r (cancelQueue q started from_ s) := by
  unfold cancelQueue
  exact each_keeps h fun _ _ h1 => stopItem_keeps h1
theorem stopOnFault_keeps (h : Keeps r s) : Keeps r (stopOnFault r' from_ s) := by
  unfold stopOnFault
  split
  · exact h
  · exact .ite (raise_keeps (cancelQueue_keeps (queueTo_keeps h))) h
theorem completeItem_keeps (h : Keeps r s) : Keeps r (completeItem i s) := by
  unfold completeItem
  split
  · exact h
  · exact stopOnFault_keeps (pushRec_keeps ((onlyIf_keeps h fun _ h1 => h1.upd rfl).upd rfl))
theorem completeOver_keeps (h : Keeps r s) : Keeps r (completeOver a s) := by
  induction a generalizing s with
  | zero => exact h
  | succ n ih =>
    unfold completeOver
    extract_lets ready
    split
    · exact h
    · exact ih (completeItem_keeps h)
theorem completeCancels_keeps (h : Keeps r s) : Keeps r (completeCancels s) := by
  unfold completeCancels
  exact each_keeps (h.upd rfl) fun _ _ h1 => pushRec_keeps h1
theorem dropQueues_keeps (h : Keeps r s) : Keeps r (dropQueues s) := by
  unfold dropQueues
  exact each_keeps h fun _ _ h1 => raise_keeps (h1.upd rfl)
theorem completeAll_keeps (h : Keeps r s) : Keeps r (completeAll a s) := by
  induction a generalizing s with
  | zero => exact h
  | succ n ih => exact ih (completeCancels_keeps (completeOver_keeps h))
theorem settleItems_keeps (h : Keeps r s) : Keeps r (settleItems s) := dropQueues_keeps (completeAll_keeps h)
theorem consumed_keeps (h : Keeps r s) : Keeps r (consumed d s) := by
  unfold consumed
  exact (qcbPut_keeps h).upd rfl
theorem notePause_keeps (h : Keeps r s) : Keeps r (notePause q s) := by
  unfold notePause
  split
  · exact h
  · exact .ite (h.upd rfl) h
theorem refuseDesc_keeps (h : Keeps r s) : Keeps r (refuseDesc d st s) := by
  unfold refuseDesc
  exact stopOnFault_keeps (pushRec_keeps (h.upd rfl))
theorem lateDesc_keeps (h : Keeps r s) : Keeps r (lateDesc d s) := pushRec_keeps (consumed_keeps h)
theorem admitDesc_keeps {a : Adm} (h : Keeps r s) : Keeps r (admitDesc d a s).2 := by
  unfold admitDesc
  split
  · exact lateDesc_keeps h
  split
  · exact notePause_keeps (refuseDesc_keeps (countCheck_keeps (consumed_keeps h)))
  · exact notePause_keeps ((consumed_keeps h).upd rfl)

end

/-! ### Machine/SlMem.lean -/

section

variable {r s : State} {cb gen lk n item a addr : Nat} {who : Holder} {q : Want} {x : Item} {write own : Bool} {d :
  List (Option Byte)} {w : Nat × Nat × List (Option Byte)} {ws : List SlWrite}

theorem noteSlot_keeps (h : Keeps r s) : Keeps r (noteSlot cb gen s) := by
  unfold noteSlot
  split
  · exact h
  · exact .ite h (h.upd rfl)
theorem runMoved_keeps (h : Keeps r s) : Keeps r (runMoved lk n s) := noteMoved_keeps h
theorem holdFor_keeps (h : Keeps r s) : Keeps r (holdFor who item q s) := by
  unfold holdFor
  exact (onlyIf_keeps (h.upd rfl) fun _ h1 => h1.upd rfl).upd rfl
theorem slRun_keeps {α : Type} {who : Holder} {item : Nat} {m : Sl α} (hm : SlKeeps r m) : SlKeeps r (slRun who item m)
    := by
  refine .mk fun s h => ?_
  unfold slRun
  extract_lets old passed
  split
  · exact h.upd rfl
  · have hm1 := hm.app (s := setRuns passed [] (setRunner (some who) s)) (h.upd rfl)
    split
    next heq => exact (holdFor_keeps (hm1.pair heq)).upd rfl
    next heq => exact (hm1.pair heq).upd rfl
    next heq => exact (hm1.pair heq).upd rfl
theorem slGrant_keeps (h : Keeps r s) : Keeps r (slGrant x a write s).2 := by
  unfold slGrant
  split
  · extract_lets s₁
    have h1 : Keeps r s₁ := h.upd rfl
    split <;> exact h1
  · split
    · exact countCheck_keeps h
    · exact translate_keeps h
theorem slReadLine_keeps : SlKeeps r (slReadLine x a n) := by
  refine .mk fun s h => ?_
  unfold slReadLine
  have hg : Keeps r (slGrant x a false s).2 := slGrant_keeps h
  split
  next heq => exact hg.pair heq
  next heq =>
    extract_lets fresh idx form lk ck s₁ wait w
    have h1 : Keeps r s₁ := onlyIf_keeps ((hg.pair heq).upd rfl) fun _ h2 => h2.upd rfl
    split
    · exact h1
    · refine .iteSnd (startFetch_keeps h1) (.iteSnd h1 ?_)
      split
      next heq2 =>
        have h2 := Keeps.pair heq2 (.iteSnd (cohPrep_keeps h1) h1)
        extract_lets s₂
        have h3 : Keeps r s₂ := onlyIf_keeps h2 fun _ h4 => meetLine_keeps (onlyIf_keeps h4 fun _ h5 => predict_keeps
            h5)
        exact .iteSnd h3 (.iteSnd h3 (runMoved_keeps h3))
theorem slRead_keeps : SlKeeps r (slRead x addr n) := .bind (.map fun _ => slReadLine_keeps) fun _ => .pure
theorem slNat_keeps : SlKeeps r (slNat x addr n) := .bind slRead_keeps fun _ => .pure
theorem slPrepLine_keeps : SlKeeps r (slPrepLine x own a d) := by
  refine .mk fun s h => ?_
  unfold slPrepLine
  have hg : Keeps r (slGrant x a true s).2 := slGrant_keeps h
  split
  next heq => exact hg.pair heq
  next heq =>
    have h0 := hg.pair heq
    extract_lets fresh idx bind drafting f g'
    clear_value bind
    split
    · exact onlyIf_keeps h0 fun _ h2 => h2.upd rfl
    · split
      next heq1 =>
        refine .cut (Keeps.pair heq1 ?_) fun h1 => ?_
        · split
          · exact h0
          · exact draftCrate_keeps h0
          · exact h0
        · split
          · exact h1
          · extract_lets lk ck s₂
            have h2 : Keeps r s₂ := onlyIf_keeps (h1.upd rfl) fun _ h3 => h3.upd rfl
            split
            next heq2 =>
              have h3 := Keeps.pair heq2 (.iteSnd (placeNew_keeps h2) h2)
              refine .iteSnd h3 (.iteSnd (startFetch_keeps h3) (.iteSnd h3 (.iteSnd h3 ?_)))
              split
              next heq3 =>
                have h4 := Keeps.pair heq3 (.iteSnd (cohPrep_keeps h3) h3)
                extract_lets s₃ s₄
                have h5 : Keeps r s₄ := onlyIf_keeps (onlyIf_keeps h4 fun _ h6 => predict_keeps h6) fun _ h6 =>
                  meetLine_keeps h6
                exact .iteSnd h5 (.iteSnd h5 h5)
theorem slApply_keeps (h : Keeps r s) : Keeps r (slApply x w s) := by
  unfold slApply
  exact .cut (markCrate_keeps (dirtyCrate_keeps (runMoved_keeps (poke_keeps (onlyIf_keeps h fun _ h1 => cleanLine_keeps
    h1))))) fun h2 => onlyIf_keeps (.ite (modItem_keeps (journalLk_keeps h2)) h2) fun _ h3 => h3.upd rfl
theorem slWrite_keeps : SlKeeps r (slWrite x own ws) :=
  .bind (.map fun _ => slPrepLine_keeps) fun _ => .mk fun _ h1 => each_keeps h1 fun _ _ h2 => slApply_keeps h2
theorem slDraw_keeps : SlKeeps r (slDraw) := .mk fun _ h1 => draw_keeps h1

end

/-! ### Machine/Hens.lean -/

section

variable {r s : State} {h' cause addr i sliver : Nat} {st : Status} {t : Trap} {f : Hen → Except Trap Hen}

theorem henShort_keeps (h : Keeps r s) : Keeps r (henShort s) := by
  unfold henShort
  exact onlyIf_keeps h fun _ h1 => raise_keeps h1
theorem henLeave_keeps (h : Keeps r s) : Keeps r (henLeave h' s) := by
  unfold henLeave
  exact henShort_keeps (onlyIf_keeps (h.upd rfl) fun _ h1 => raise_keeps h1)
theorem henFaultRec_keeps (h : Keeps r s) : Keeps r (henFaultRec h' cause st addr s) := by
  unfold henFaultRec
  exact ledger_keeps h
theorem itemSliverEnd_keeps (h : Keeps r s) : Keeps r (itemSliverEnd i sliver st s) := by
  unfold itemSliverEnd
  exact .cut (modItem_keeps h) fun h1 => .ite h1 (modItem_keeps h1)
theorem endSliver_keeps (h : Keeps r s) : Keeps r (endSliver h' st s) := by
  unfold endSliver
  exact .cut (itemSliverEnd_keeps (h.upd rfl)) fun h1 => .ite (h1.upd rfl) (.ite ((modItem_keeps h1).upd rfl) (h1.upd
    rfl))
theorem henFault_keeps (h : Keeps r s) : Keeps r (henFault h' t s) := by
  unfold henFault
  split
  · exact h
  · exact endSliver_keeps (henFaultRec_keeps (h.upd rfl))
  · exact endSliver_keeps (henFaultRec_keeps (h.upd rfl))
  · exact endSliver_keeps (henFaultRec_keeps h)
  · exact henLeave_keeps (endSliver_keeps (henFaultRec_keeps (h.upd rfl)))
theorem henInsn_keeps (h : Keeps r s) : Keeps r (henInsn h' f s) := by
  unfold henInsn
  split
  · exact h
  split
  · exact h.upd rfl
  · exact henFault_keeps h

end

/-! ### Machine/Scalar.lean -/

section

variable {r s : State} {h' : Nat}

theorem scalarInsn_keeps (h : Keeps r s) : Keeps r (scalarInsn h' s) := by
  unfold scalarInsn
  split
  · exact h
  extract_lets
  split
  · exact henFault_keeps h
  split
  · exact h
  split
  · exact h.upd rfl
  · exact henFault_keeps h

end

/-! ### Machine/Coding.lean -/

section

variable {r s : State} {x : Item} {a t k op src fmt count lo hi mode cw cb gen n elems dst blocks cap i sliver ext off
  : Nat} {bs : List (Nat × List Byte)} {f : Nat → Nat} {q : Nat × Nat × Nat}

theorem settleBooks_keeps (h : Keeps r s) : Keeps r (settleBooks s) := by
  unfold settleBooks
  refine each_keeps h fun _ _ h1 => ?_
  split
  · exact h1
  · exact each_keeps (.ite (h1.upd rfl) (.ite h1 (h1.upd rfl))) fun _ _ h2 => raise_keeps h2
theorem blockFail_keeps {α : Type} {e : BlockErr} : SlKeeps r (blockFail (α := α) e) := by
  refine .mk fun _ h => ?_
  unfold blockFail
  split
  · exact h
  · exact h.upd rfl
theorem readBlock_keeps : SlKeeps r (readBlock x a t k) := by
  unfold readBlock
  refine .bind slNat_keeps fun _ => .bind slRead_keeps fun _ => .mk fun _ h => ?_
  split
  · exact onlyIf_keeps h fun _ h1 => noteSlot_keeps h1
  · exact blockFail_keeps.app h
theorem srcElems_keeps : SlKeeps r (srcElems x op src fmt count lo hi) := by
  unfold srcElems
  exact .ite (.bind slRead_keeps fun _ => .bind slRead_keeps fun _ => .pure) (.bind slNat_keeps fun _ => .bind (.map
    fun _ => readBlock_keeps) fun _ => .pure)
theorem buildBlocks_keeps : SlKeeps r (buildBlocks x op src fmt t mode cw cb gen n elems lo hi) := by
  unfold buildBlocks
  exact .map fun _ => .bind srcElems_keeps fun _ => .mk fun _ h1 => h1
theorem importBlocks_keeps : SlKeeps r (importBlocks x src t lo hi) := by
  unfold importBlocks
  refine .map fun _ => .bind slNat_keeps fun _ => .bind slRead_keeps fun _ => .mk fun _ h1 => ?_
  split
  · exact h1
  · exact h1.upd rfl
  · exact h1
theorem writeBlocks_keeps : SlKeeps r (writeBlocks x dst fmt t mode cw cb n elems blocks cap lo bs) := by
  unfold writeBlocks
  exact .bind (.ite .pure (.bind slNat_keeps fun _ => .bind slNat_keeps fun _ => .pure)) fun _ => .ite .fail (.bind
    slWrite_keeps fun _ => .mk fun _ h1 => h1.upd rfl)
theorem slDetail_keeps : SlKeeps r (slDetail i f) := .mk fun _ h1 => modItem_keeps h1
theorem encodeSliver_keeps : SlKeeps r (encodeSliver i sliver x) := by
  unfold encodeSliver
  extract_lets
  split
  · exact .bind slNat_keeps fun _ => .bind slRead_keeps fun _ => .bind (.mk fun _ h1 => h1.upd rfl) fun _ => .bind
      slDetail_keeps fun _ => .ite (.bind slWrite_keeps fun _ => .mk fun _ h2 => h2.upd rfl) .pure
  · exact .bind slNat_keeps fun _ => .mk fun _ h1 => SlKeeps.app (.bind (.ite (.bind slWrite_keeps fun _ => .mk fun _
      h2 => h2.upd rfl) .pure) fun _ => .bind (.ite importBlocks_keeps buildBlocks_keeps) fun _ => .bind
      writeBlocks_keeps fun _ => .bind slNat_keeps fun _ => slDetail_keeps) h1
theorem encodeFinal_keeps : SlKeeps r (encodeFinal x) := by
  unfold encodeFinal
  exact .bind slNat_keeps fun _ => slWrite_keeps
theorem decodeSliver_keeps : SlKeeps r (decodeSliver i sliver x) := by
  unfold decodeSliver
  exact .bind slNat_keeps fun _ => .bind (.map fun _ => readBlock_keeps) fun _ => .bind slWrite_keeps fun _ =>
    slDetail_keeps
theorem bookSliver_keeps : SlKeeps r (bookSliver i x) := by
  unfold bookSliver
  dsimp only
  refine .ite (.mk fun _ h1 => ?_) (.bind slRead_keeps fun _ => .mk fun _ h2 => .iteSnd h2 (.iteSnd (h2.upd rfl)
    (.iteSnd h2 (SlKeeps.app slDetail_keeps (h2.upd rfl)))))
  split
  · exact h1.upd rfl
  · exact h1
theorem claimBook_keeps (h : Keeps r s) : Keeps r (claimBook x s) := by
  unfold claimBook
  exact .ite h (h.upd rfl)
theorem extWrite_keeps {bs : List Byte} (h : Keeps r s) : Keeps r (extWrite ext off bs s) := by
  unfold extWrite
  exact each_keeps h fun _ _ h1 => ownPut_keeps (onlyIf_keeps h1 fun _ h2 => cleanLine_keeps h2)
theorem recodeBlock_keeps (h : Keeps r s) : Keeps r (recodeBlock q s) := by
  unfold recodeBlock
  split
  · extract_lets _ gone
    have h1 : Keeps r gone := h.upd rfl
    split
    · exact h1
    split
    · split
      · split
        · split
          · extract_lets _ _ _ s₁
            have h2 : Keeps r s₁ := (Keeps.pair ‹_› (ownReach_keeps (.pair ‹_› (ownReach_keeps (.pair ‹_›
              (ownReach_keeps (.pair ‹_› (ownReach_keeps h)))))))).upd rfl
            split
            · exact .pair ‹_› (ownReach_keeps (.pair ‹_› (ownReach_keeps (.pair ‹_› (ownReach_keeps (.pair ‹_›
                (ownReach_keeps h)))))))
            split
            · exact .pair ‹_› (ownReach_keeps (.pair ‹_› (ownReach_keeps (.pair ‹_› (ownReach_keeps (.pair ‹_›
                (ownReach_keeps h)))))))
            split
            · exact h2
            split
            · exact h2.upd rfl
            · exact h2
            · exact .ite (h2.upd rfl) ((onlyIf_keeps (extWrite_keeps (extWrite_keeps (extWrite_keeps h2))) fun _ h3 =>
                h3.upd rfl).upd rfl)

end

/-! ### Machine/Collect.lean -/

section

variable {r s : State} {i unitN excluded m sliver off c sl job round chunk fmt a u : Nat} {st : Status} {es ms : List
  Nat} {k : Chunk} {coded : Bool} {d : List Byte} {z : SumSq} {x : Item} {ws : List SlWrite}

theorem roundFail_keeps (h : Keeps r s) : Keeps r (roundFail i unitN st s) := by
  unfold roundFail
  split
  · exact h
  · exact .ite (itemSliverEnd_keeps h) (.ite h (modItem_keeps h))
theorem noteExcluded_keeps (h : Keeps r s) : Keeps r (noteExcluded i excluded s) := by
  unfold noteExcluded
  exact modItem_keeps h
theorem loseDelivery_keeps (h : Keeps r s) : Keeps r (loseDelivery i m s) := by
  unfold loseDelivery
  split
  · exact h
  · exact .ite (h.upd rfl) ((noteExcluded_keeps (modItem_keeps (h.upd rfl))).upd rfl)
theorem deliverTo_keeps (h : Keeps r s) : Keeps r (deliverTo i sliver off es m s) := by
  unfold deliverTo
  split
  · exact h
  split
  · exact loseDelivery_keeps h
  · exact send_keeps (h.upd rfl)
theorem deliverAll_keeps (h : Keeps r s) : Keeps r (deliverAll i c sliver off es s) := by
  unfold deliverAll
  split
  · exact h
  · exact each_keeps h fun _ _ h1 => deliverTo_keeps h1
theorem noteRunning_keeps (h : Keeps r s) : Keeps r (noteRunning c i sl s) := by
  unfold noteRunning
  split
  · split
    · exact onlyIf_keeps h fun _ h1 => modItem_keeps h1
    · exact h
  · exact h
theorem finishChunk_keeps (h : Keeps r s) : Keeps r (finishChunk c i k s) := by
  unfold finishChunk
  split
  · exact h
  extract_lets
  split
  · exact h
  split
  · exact roundFail_keeps h
  split
  · exact .pair ‹_› (SlKeeps.app (slRun_keeps slWrite_keeps) h)
  · exact roundFail_keeps (.pair ‹_› (SlKeeps.app (slRun_keeps slWrite_keeps) h))
  · exact .cut (.pair ‹_› (SlKeeps.app (slRun_keeps slWrite_keeps) h)) fun h1 => .ite (modItem_keeps (h1.upd rfl))
      (noteRunning_keeps
      (.ite (deliverAll_keeps (h1.upd rfl)) (h1.upd rfl)))
theorem tryChunks_keeps (h : Keeps r s) : Keeps r (tryChunks c s) := by
  unfold tryChunks
  split
  · exact h
  split
  · exact h
  split
  · exact h
  · exact .ite h (.ite (roundFail_keeps h) ((each_keeps h fun _ _ h1 => finishChunk_keeps h1).upd rfl))
theorem missing_keeps (h : Keeps r s) : Keeps r (missing c ms s) := by
  unfold missing
  split
  · exact h
  split
  · exact h
  split
  · exact h
  · exact .ite h (.ite (roundFail_keeps h) (tryChunks_keeps (each_keeps ((noteExcluded_keeps (h.upd rfl)).upd rfl) fun
      _ _ h1 => raise_keeps h1)))
theorem collMemberGone_keeps (h : Keeps r s) : Keeps r (collMemberGone job m s) :=
  each_keeps h fun _ _ h1 => missing_keeps (h1.upd rfl)
theorem contribRun_keeps (h : Keeps r s) : Keeps r (contribRun c round chunk fmt m job coded d s).2 := by
  unfold contribRun
  split
  · exact h
  split
  · exact h
  extract_lets
  split
  · split
    · exact h.upd rfl
    split
    · exact h.upd rfl
    split
    · exact h.upd rfl
    split
    · exact h
    split
    · exact h.upd rfl
    split
    · exact h
    split
    · exact h
    · exact h.upd rfl
    · exact .iteSnd (h.upd rfl) (.iteSnd (h.upd rfl) (tryChunks_keeps (each_keeps (h.upd rfl) fun _ _ h1 => h1.upd
        rfl)))
  · split
    · exact h.upd rfl
    split
    · exact h.upd rfl
    split
    · exact h.upd rfl
    split
    · exact h
    split
    · exact h.upd rfl
    split
    · exact h
    split
    · exact h
    · exact h.upd rfl
    · exact .iteSnd (h.upd rfl) (.iteSnd (h.upd rfl) (tryChunks_keeps (each_keeps (h.upd rfl) fun _ _ h1 => h1.upd
        rfl)))
theorem runContribs_keeps (h : Keeps r s) : Keeps r (runContribs s) := by
  unfold runContribs
  refine each_keeps h fun _ _ h1 => ?_
  split
  · exact finishTx_keeps (contribRun_keeps (h1.upd rfl))
  · exact h1
theorem openRound_keeps (h : Keeps r s) : Keeps r (openRound c s) := by
  unfold openRound
  split
  · exact h
  split
  · exact h
  · exact .ite h (missing_keeps (modItem_keeps (h.upd rfl)))
theorem normFinish_keeps (h : Keeps r s) : Keeps r (normFinish i z s) := by
  unfold normFinish
  split
  · exact h
  extract_lets _ _ _ _ _ s₁
  have h1 : Keeps r s₁ := onlyIf_keeps h fun _ h2 => h2.upd rfl
  split
  · split
    · exact .pair ‹_› (SlKeeps.app (slRun_keeps slWrite_keeps) h)
    · exact modItem_keeps (.pair ‹_› (SlKeeps.app (slRun_keeps slWrite_keeps) h))
    · exact modItem_keeps (.pair ‹_› (SlKeeps.app (slRun_keeps slWrite_keeps) h))
  · exact .ite ((modItem_keeps h).upd rfl) (modItem_keeps h1)
theorem enterNorm_keeps (h : Keeps r s) : Keeps r (enterNorm c i s) := by
  unfold enterNorm
  split
  · exact each_keeps (modItem_keeps (h.upd rfl)) fun _ _ h1 => sendPeer_keeps h1
  · exact h
theorem noteSlotWait_keeps (h : Keeps r s) : Keeps r (noteSlotWait c s) := by
  unfold noteSlotWait
  split
  · exact h
  extract_lets
  split <;> exact onlyIf_keeps h fun _ h1 => h1.upd rfl
theorem settleColl_keeps (h : Keeps r s) : Keeps r (settleColl c s) := by
  unfold settleColl
  extract_lets s₁ s₂
  have h1 : Keeps r s₁ := h.upd rfl
  have h2 : Keeps r s₂ := tryChunks_keeps h1
  split
  · exact h2
  extract_lets s₃
  have h3 : Keeps r s₃ := by
    unfold s₃
    split
    · exact h2
    split
    · exact h2
    extract_lets _ s₄
    have h4 : Keeps r s₄ := .ite (enterNorm_keeps h2) h2
    split
    · exact h4
    split
    · split
      · exact onlyIf_keeps (normFinish_keeps h4) fun _ h5 => h5.upd rfl
      · exact h4
    · exact h4
  exact noteSlotWait_keeps h3
theorem settleNorms_keeps (h : Keeps r s) : Keeps r (settleNorms s) := each_keeps h fun _ _ h1 => normFinish_keeps h1
theorem settleDelivers_keeps (h : Keeps r s) : Keeps r (settleDelivers s) := by
  unfold settleDelivers
  exact each_keeps (h.upd rfl) fun _ _ h1 => loseDelivery_keeps h1
theorem settleColls_keeps (h : Keeps r s) : Keeps r (settleColls s) :=
  each_keeps (settleNorms_keeps (settleDelivers_keeps (runContribs_keeps h))) fun _ _ h1 => settleColl_keeps h1
theorem pendRound_keeps (h : Keeps r s) : Keeps r (pendRound i s) := by
  unfold pendRound
  split
  · exact h
  · exact .ite (h.upd rfl) h
theorem slLine_keeps (h : Keeps r s) : Keeps r (slLine x a s).2 := by
  unfold slLine
  split
  · exact h
  extract_lets off idx
  split
  next heq =>
    refine Keeps.cut (Keeps.pair heq ?_) fun h1 => ?_
    · split
      · exact h
      · split
        · exact .iteSnd (draftCrate_keeps h) h
        · exact h
    · split
      · exact h1
      · exact .iteSnd (placeNew_keeps h1) h1
theorem slScramble_keeps (h : Keeps r s) : Keeps r (slScramble x ws s) := by
  refine each_keeps h fun _ _ h1 => ?_
  split
  · exact slApply_keeps (draw_keeps (.pair ‹_› (slLine_keeps h1)))
  · exact (.pair ‹_› (slLine_keeps h1))
theorem updateSliver_keeps : SlKeeps r (updateSliver i u x) := by
  unfold updateSliver
  extract_lets
  refine .bind slRead_keeps fun _ => .bind slRead_keeps fun _ => .bind (.ite .pure slRead_keeps) fun _ =>
    .bind (.ite slRead_keeps .pure) fun _ => .mk fun s h => ?_
  split
  extract_lets _ _ _ _ _ ws
  have hs := slWrite_keeps (x := x) (own := false) (ws := ws).app h
  split
  next heq => exact hs.pair heq
  next heq => exact .ite (slScramble_keeps (hs.pair heq)) (hs.pair heq)
  next heq => exact (each_keeps (hs.pair heq) fun _ _ h1 => deliverAll_keeps h1).upd rfl

end

/-! ### Machine/Engines.lean -/

section

variable {r s : State} {f : State → State} {x : Item} {idx : List Nat} {i sl : Nat}

theorem slDo_keeps (hf : ∀ s, Keeps r s → Keeps r (f s)) : SlKeeps r (slDo f) := .mk fun _ h1 => hf _ h1
theorem readRows_keeps : SlKeeps r (readRows x idx) := by
  unfold readRows
  exact .map fun _ => .bind slRead_keeps fun _ => .pure
theorem gatherCount_keeps (h : Keeps r s) : Keeps r (gatherCount i x idx s) := by
  unfold gatherCount
  exact modItem_keeps (h.upd rfl)
theorem gatherSliver_keeps : SlKeeps r (gatherSliver i sl x) := by
  unfold gatherSliver
  exact .bind slRead_keeps fun _ => .bind readRows_keeps fun _ => .bind slWrite_keeps fun _ => slDo_keeps fun _ h1 =>
    gatherCount_keeps h1
theorem bagsSliver_keeps : SlKeeps r (bagsSliver i sl x) := by
  unfold bagsSliver
  exact .bind slRead_keeps fun _ => .ite .fail (.bind slRead_keeps fun _ => .bind (.ite .pure slRead_keeps) fun _ =>
    .bind readRows_keeps fun _ => .bind slWrite_keeps fun _ => slDo_keeps fun _ h1 => gatherCount_keeps h1)
theorem filterSliver_keeps : SlKeeps r (filterSliver i sl x) := by
  unfold filterSliver
  extract_lets
  split
  · exact .bind slRead_keeps fun _ => .ite (.bind (.ite .pure slWrite_keeps) fun _ => slDo_keeps fun _ h1 =>
      modItem_keeps (h1.upd rfl)) (.bind slDraw_keeps fun _ => .bind slWrite_keeps fun _ => slDo_keeps fun _ h2 =>
      modItem_keeps (h2.upd rfl))
theorem normSliver_keeps : SlKeeps r (normSliver i sl x) := by
  unfold normSliver
  exact .bind slRead_keeps fun _ => slDo_keeps fun _ h1 => modItem_keeps h1
theorem engineSliver_keeps (h : Keeps r s) : Keeps r (engineSliver i sl s) := by
  unfold engineSliver
  split
  · exact h
  split
  · exact h
  extract_lets s₁ work
  have h1 : Keeps r s₁ := modItem_keeps h
  have hw : SlKeeps r work :=
    .ite gatherSliver_keeps (.ite bagsSliver_keeps (.ite filterSliver_keeps (.ite normSliver_keeps .pure)))
  have h2 := (slRun_keeps (who := .engine i sl) (item := i) hw).app h1
  split
  next heq => exact h2.pair heq
  next heq => exact itemSliverEnd_keeps (h2.pair heq)
  next heq => exact itemSliverEnd_keeps (h2.pair heq)

end

/-! ### Machine/Matrix.lean -/

section

variable {r s : State} {h' tc ta rs1 cb gen : Nat}

theorem tmmaCoded_keeps (h : Keeps r s) : Keeps r (tmmaCoded h' tc ta rs1 s) := by
  unfold tmmaCoded
  extract_lets _ _ _ _ _ _ _ _ _ _ _ s₁ _ _ _ s₂
  have h1 : Keeps r s₁ := h.upd rfl
  have h2 : Keeps r s₂ := h1.upd rfl
  split
  · exact h
  split
  · exact henFault_keeps h
  split
  · exact henFault_keeps h
  split
  · exact henFault_keeps h
  split
  · exact .ite (endSliver_keeps (henFaultRec_keeps h)) (h.upd rfl)
  · exact .ite (endSliver_keeps (henFaultRec_keeps h1)) (.ite (endSliver_keeps h1) (h2.upd rfl))
theorem codebookFetched_keeps (h : Keeps r s) : Keeps r (codebookFetched h' cb gen s) := by
  unfold codebookFetched
  exact .ite h (h.upd rfl)

end

/-! ### Machine/Kv.lean -/

section

variable {r s : State} {x : Item} {h' a a' n e lo hi i head detail : Nat} {cs chunks pages : List Nat} {ws : List
  SlWrite} {t : Tagged}

theorem freeChunks_keeps : SlKeeps r (freeChunks x h' a a') := by
  induction a generalizing a' with
  | zero => exact .pure
  | succ n ih =>
    unfold freeChunks
    exact .ite .pure (.bind slNat_keeps fun _ => .bind ih fun _ => .pure)
theorem takeChunks_keeps : SlKeeps r (takeChunks x h' n) := .bind freeChunks_keeps fun _ => .ite .fail .pure
theorem seqChunks_keeps : SlKeeps r (seqChunks x h' e) := by
  unfold seqChunks
  exact .bind slRead_keeps fun _ => .pure
theorem indexWords_keeps : SlKeeps r (indexWords x h' e) := .bind slRead_keeps fun _ => .pure
theorem tableEntries_keeps : SlKeeps r (tableEntries x h' cs lo hi) := .map fun _ => slNat_keeps
theorem editApply_keeps : SlKeeps r (editApply i x h' ws head chunks pages detail) := by
  refine .mk fun s h => ?_
  unfold editApply
  extract_lets _ _ _ _ _ _ hw
  split
  · exact h.upd rfl
  have hs := slWrite_keeps (x := x) (own := true) (ws := ws ++ hw).app h
  split
  next heq => exact hs.pair heq
  next heq => exact hs.pair heq
  next heq => exact modItem_keeps ((hs.pair heq).upd rfl)
theorem arenaInit_keeps : SlKeeps r (arenaInit i x) := by
  unfold arenaInit
  exact .bind slNat_keeps fun _ => .ite .fail (.bind slWrite_keeps fun _ => .mk fun _ h1 => modItem_keeps h1)
theorem editSliver_keeps : SlKeeps r (editSliver i x) := by
  unfold editSliver
  extract_lets
  split
  · exact arenaInit_keeps
  split
  · exact .bind slNat_keeps fun _ => .bind slNat_keeps fun _ => .ite .fail (.bind takeChunks_keeps fun _ =>
      editApply_keeps)
  · exact .bind slNat_keeps fun _ => .bind slNat_keeps fun _ => .ite .fail (.bind seqChunks_keeps fun _ => .bind (.ite
      tableEntries_keeps .pure) fun _ => editApply_keeps)
  · exact .bind slNat_keeps fun _ => .bind slNat_keeps fun _ => .bind slRead_keeps fun _ => .ite .fail (.bind
      seqChunks_keeps fun _ => .bind takeChunks_keeps fun _ => .bind (.map fun _ => .bind tableEntries_keeps fun _ =>
      .pure) fun _ => .bind indexWords_keeps fun _ => editApply_keeps)
  · exact .bind slNat_keeps fun _ => .bind slNat_keeps fun _ => .ite .fail (.bind seqChunks_keeps fun _ => .bind
      takeChunks_keeps fun _ => .bind (.ite tableEntries_keeps .pure) fun _ => .bind (.ite tableEntries_keeps .pure)
      fun _ => .bind indexWords_keeps fun _ => editApply_keeps)
  · exact .bind slNat_keeps fun _ => .bind slNat_keeps fun _ => .bind slNat_keeps fun _ => .ite .fail (.bind
      seqChunks_keeps fun _ => .bind seqChunks_keeps fun _ => .bind tableEntries_keeps fun _ => editApply_keeps)
theorem freeSliver_keeps : SlKeeps r (freeSliver i x) := by
  unfold freeSliver
  exact .bind slNat_keeps fun _ => .bind slRead_keeps fun _ => .ite .fail editApply_keeps
theorem reclaimOne_keeps (h : Keeps r s) : Keeps r (reclaimOne t s) := by
  unfold reclaimOne
  exact .ite (extWrite_keeps (extWrite_keeps h)) (.ite (h.upd rfl) ((extWrite_keeps (extWrite_keeps h)).upd rfl))
theorem settleKv_keeps (h : Keeps r s) : Keeps r (settleKv s) := by
  unfold settleKv
  dsimp only
  exact each_keeps (h.upd rfl) fun _ _ h1 => .cut (ownReach_keeps (ownReach_keeps h1)) fun h2 => .ite (reclaimOne_keeps
    h2) (h2.upd rfl)

end

/-! ### Machine/Attend.lean -/

section

variable {r s : State} {x a : Item} {dm p row first pos h' index t kv len i sl kk r' : Nat} {rope : Bool}

theorem ropeRow_keeps : SlKeeps r (ropeRow x dm p) := by
  unfold ropeRow
  exact .bind slRead_keeps fun _ => .pure
theorem inputHead_keeps : SlKeeps r (inputHead x dm row first pos rope) := by
  unfold inputHead
  exact .bind slRead_keeps fun _ => .ite (.bind ropeRow_keeps fun _ => .pure) .pure
theorem pageOf_keeps : SlKeeps r (pageOf x h' index t) := by
  unfold pageOf
  exact .bind slNat_keeps fun _ => .bind slNat_keeps fun _ => .ite .fail .pure
theorem kvOf_keeps : SlKeeps r (kvOf x h' kv len row index t) := by
  unfold kvOf
  exact .ite (.bind inputHead_keeps fun _ => .bind inputHead_keeps fun _ => .pure) (.bind pageOf_keeps fun _ => .bind
    slRead_keeps fun _ => .bind (.map fun _ => slNat_keeps) fun _ => .pure)
theorem attendSliver_keeps : SlKeeps r (attendSliver i sl x) := by
  unfold attendSliver
  extract_lets
  refine .bind slNat_keeps fun _ => .bind slRead_keeps fun _ => ?_
  extract_lets
  split
  extract_lets
  split
  extract_lets
  refine .bind (.map fun _ => .bind inputHead_keeps fun _ => .pure) fun _ => ?_
  extract_lets
  refine .bind (.fold fun _ _ => .bind (.map fun _ => ?_) fun _ => ?_) fun _ => ?_
  · exact .ite (.bind kvOf_keeps fun _ => .pure) .pure
  · extract_lets
    exact .pure
  extract_lets
  refine .bind (.map fun _ => .bind kvOf_keeps fun _ => .bind pageOf_keeps fun _ => .pure) fun _ => ?_
  extract_lets
  refine .bind (.ite .pure slWrite_keeps) fun _ => ?_
  -- the partial results saved, those of the last split merged, and the counts
  exact .bind (.ite .pure slWrite_keeps) fun _ => .bind
    (.ite (.bind (.map fun _ => .ite .pure (.bind (.map fun _ => .bind slRead_keeps fun _ => .pure) fun _ => .pure))
      fun _ => slWrite_keeps) .pure)
    fun _ => slDo_keeps fun _ h1 => modItem_keeps (onlyIf_keeps (h1.upd rfl) fun _ h2 => h2.upd rfl)
theorem attendCommit_keeps : SlKeeps r (attendCommit x) := by
  unfold attendCommit
  exact .bind slNat_keeps fun _ => .bind slRead_keeps fun _ => slWrite_keeps
theorem xRow_keeps : SlKeeps r (xRow x kk r') := by
  unfold xRow
  exact .bind slRead_keeps fun _ => .bind (.ite slRead_keeps .pure) fun _ => .pure
theorem projectSliver_keeps {x : Nat} : SlKeeps r (projectSliver x sl a) := by
  unfold projectSliver
  extract_lets
  refine .bind slNat_keeps fun _ => ?_
  extract_lets
  refine .bind (.map fun _ => .bind (.map fun _ => readBlock_keeps) fun _ => .pure) fun _ =>
    .bind (.map fun _ => xRow_keeps) fun _ => ?_
  extract_lets
  refine .bind (.map fun _ => .ite (.bind slRead_keeps fun _ => .pure) .pure) fun ws => .mk fun s h => ?_
  have hs := slWrite_keeps (x := a) (own := false) (ws := ws).app h
  split
  next heq => exact hs.pair heq
  next heq => exact .ite (slScramble_keeps (hs.pair heq)) (hs.pair heq)
  next heq => exact (hs.pair heq).upd rfl

end

/-! ### Machine/Index.lean -/

section

variable {r s : State} {x a : Item} {h' off gen n l head tail dim hi sl i entry ef : Nat} {attr : Bool} {g : List Ent}
  {e : Ent}

theorem readGroup_keeps : SlKeeps r (readGroup x h' off attr) := by
  unfold readGroup
  exact .bind slRead_keeps fun _ => .pure
theorem readNode_keeps : SlKeeps r (readNode x h' gen n) := by
  unfold readNode
  exact .bind slRead_keeps fun _ => .pure
theorem readCentroids_keeps : SlKeeps r (readCentroids x h' gen) := .bind (.map fun _ => readGroup_keeps) fun _ => .pure
theorem readDir_keeps : SlKeeps r (readDir x h' gen l) := .bind slNat_keeps fun _ => .pure
theorem readList_keeps : SlKeeps r (readList x h' gen l) :=
  .bind readDir_keeps fun _ => .bind (.map fun _ => readGroup_keeps) fun _ => .pure
theorem readSide_keeps : SlKeeps r (readSide x h' head tail) := by
  unfold readSide
  exact .map fun _ => .bind readGroup_keeps fun _ => .pure
theorem idmapWrites_keeps : SlKeeps r (idmapWrites x h' n) := by
  unfold idmapWrites
  exact .map fun _ => .bind slDraw_keeps fun _ => .bind slDraw_keeps fun _ => .bind slNat_keeps fun _ => .pure
theorem readRows32_keeps {a : Nat} : SlKeeps r (readRows32 x a dim n) := .map fun _ => .bind slRead_keeps fun _ => .pure
theorem loadIds_keeps : SlKeeps r (loadIds x hi) := by
  unfold loadIds
  exact .ite (.bind slRead_keeps fun _ => .pure) (.map fun _ => slNat_keeps)
theorem buildSliver_keeps {x : Nat} : SlKeeps r (buildSliver x sl a) := by
  unfold buildSliver
  exact .bind loadIds_keeps fun _ => .bind (.ite .pure (.map fun _ => slRead_keeps)) fun _ => .ite (.bind slWrite_keeps
    fun _ => .fail) (.ite slWrite_keeps (.ite (.bind readRows32_keeps fun _ => .bind readRows32_keeps fun _ => .bind
    (.ite (.map fun _ => slNat_keeps) .pure) fun _ => .bind idmapWrites_keeps fun _ => slWrite_keeps) (.bind
    idmapWrites_keeps fun _ => slWrite_keeps)))
theorem buildFinal_keeps : SlKeeps r (buildFinal x) := .bind slNat_keeps fun _ => slWrite_keeps
theorem appendSliver_keeps {x : Nat} : SlKeeps r (appendSliver x sl a) := by
  unfold appendSliver
  extract_lets
  refine .bind slNat_keeps fun h => .bind slRead_keeps fun _ => ?_
  extract_lets
  refine .ite .fail (.bind (.map fun _ => .bind slRead_keeps fun _ => .pure) fun _ =>
    .bind (.ite (.map fun _ => slNat_keeps) .pure) fun _ => ?_)
  exact .iteS (.mk fun _ h1 => h1.upd rfl)
    (.atState (f := fun _ => slBind _ _) fun _ => .bind idmapWrites_keeps fun _ => slWrite_keeps)
theorem deleteSliver_keeps : SlKeeps r (deleteSliver i sl x) := by
  unfold deleteSliver
  exact .bind slNat_keeps fun _ => .bind slRead_keeps fun _ => .mk fun _ h1 => SlKeeps.app (.bind idmapWrites_keeps fun
    _ => .bind slWrite_keeps fun _ => slDo_keeps fun _ h2 => modItem_keeps h2) h1
theorem walkNbrs_keeps {h' : Nat} {q : Query} {ef : Nat} {ok : Ent → Bool} {get : Nat → Sl Ent} (hg : ∀ n, SlKeeps r
    (get n)) {l : List Nat} {w : Walk} :
    SlKeeps r (walkNbrs h' q ef ok get l w) := by
  induction l generalizing w with
  | nil => exact .pure
  | cons n l ih =>
    unfold walkNbrs
    exact .ite ih (.ite .pure (.bind (hg n) fun _ => ih))
theorem walkLoop_keeps {h' : Nat} {q : Query} {ef : Nat} {ok : Ent → Bool} {get : Nat → Sl Ent} (hg : ∀ n, SlKeeps r
    (get n)) {k : Nat} {w : Walk} :
    SlKeeps r (walkLoop h' q ef ok get k w) := by
  induction k generalizing w with
  | zero => exact .pure
  | succ k ih =>
    unfold walkLoop
    split
    · exact .pure
    · exact .ite .pure (.bind (hg _) fun _ => .bind (walkNbrs_keeps hg) fun _ => ih)
theorem graphWalk_keeps {entry : Nat} {h' : Nat} {q : Query} {ef : Nat} {ok : Ent → Bool} {get : Nat → Sl Ent} (hg : ∀
    n, SlKeeps r (get n)) :
    SlKeeps r (graphWalk h' entry q ef ok get) := by
  unfold graphWalk
  exact .bind (hg entry) fun _ => walkLoop_keeps hg
theorem graphInsert_keeps : SlKeeps r (graphInsert h' entry ef g e) := by
  unfold graphInsert
  extract_lets get
  have hg : ∀ n, SlKeeps r (get n) := by
    intro n
    unfold get
    split
    · exact .pure
    · exact .fail
  exact .bind (.ite .pure (.bind (graphWalk_keeps hg) fun _ => .pure)) fun _ => .pure
theorem mergeSliver_keeps : SlKeeps r (mergeSliver x) := by
  unfold mergeSliver
  extract_lets
  refine .bind slNat_keeps fun h' => .mk fun s h => ?_
  extract_lets gen old fin
  have hf : ∀ live entry ws, SlKeeps r (fin live entry ws) := fun _ _ _ => by
    unfold fin
    exact .ite .fail (.bind idmapWrites_keeps fun _ => .bind slWrite_keeps fun _ => slDo_keeps fun _ h1 => h1.upd rfl)
  refine .iteSnd (h.upd rfl) (SlKeeps.app (.bind readSide_keeps fun side => ?_) h)
  extract_lets
  refine .ite ?_ ?_
  · refine .bind readCentroids_keeps fun _ => .bind (.map fun _ => .bind readList_keeps fun _ => .pure) fun _ => ?_
    extract_lets
    exact hf _ _ _
  · refine .bind (.map fun _ => readNode_keeps) fun _ => .bind (.fold fun _ _ => graphInsert_keeps) fun _ => ?_
    split
    exact hf _ _ _

end

/-! ### Machine/Search.lean -/

section

variable {r s : State} {i h' p qi gen a sl src job tag : Nat} {f : SearchX → SearchX} {x : Item} {q : Query} {z a' :
  SearchX} {ls : List (List Nat)} {from_ upto : List Nat} {k : Nat × Nat × Nat} {rs : List PartialQ}

theorem modSearch_keeps (h : Keeps r s) : Keeps r (modSearch i f s) := modItem_keeps h
theorem readQuery_keeps {q : Nat} : SlKeeps r (readQuery x h' q) := .bind slRead_keeps fun _ => .pure
theorem ivfLists_keeps : SlKeeps r (ivfLists x h' z q p) := .bind readCentroids_keeps fun _ => .pure
theorem sidePart_keeps : SlKeeps r (sidePart x h' z qi q) := by
  unfold sidePart
  split
  · exact .pure
  · exact .bind readSide_keeps fun _ => .pure
theorem queryAt_keeps : SlKeeps r (queryAt x h' z qi) := by
  unfold queryAt
  refine .bind readQuery_keeps fun _ => .bind sidePart_keeps fun _ => ?_
  split
  · exact .ite .pure (.ite (.bind (graphWalk_keeps fun _ => readNode_keeps) fun _ => .pure) (.bind ivfLists_keeps fun _
      => .bind (.map fun _ =>
      readList_keeps) fun _ => .pure))
  · exact .ite (.bind (graphWalk_keeps fun _ => readNode_keeps) fun _ => .pure) (.bind ivfLists_keeps fun _ => .bind
      (.map fun _ =>
      readList_keeps) fun _ => .pure)
theorem scanPlan_keeps : SlKeeps r (scanPlan x h' gen ls) := by
  unfold scanPlan
  exact .bind (.map fun _ => .bind readDir_keeps fun _ => .pure) fun _ => .pure
theorem newLists_keeps : SlKeeps r (newLists x h' z from_ upto) := by
  unfold newLists
  exact .map fun _ => .ite .pure (.bind readQuery_keeps fun _ => .bind ivfLists_keeps fun _ => .pure)
theorem searchRound_keeps : SlKeeps r (searchRound x h' a a') := by
  induction a generalizing a' with
  | zero => exact .pure
  | succ n ih =>
    unfold searchRound
    extract_lets qs
    refine .bind (.map fun _ => .bind queryAt_keeps fun _ => .pure) fun _ => ?_
    extract_lets _ _ wider
    exact .ite .pure (.ite .pure (.bind newLists_keeps fun _ => .bind scanPlan_keeps fun _ =>
      .ite (.bind ih fun _ => .pure) .pure))
theorem searchGrow_keeps : SlKeeps r (searchGrow x h' z) := by
  unfold searchGrow
  exact .ite .pure (.ite (.bind newLists_keeps fun _ => .bind scanPlan_keeps fun _ => .ite searchRound_keeps .pure)
    searchRound_keeps)
theorem searchRead_keeps : SlKeeps r (searchRead x h' z k) := by
  unfold searchRead
  exact .ite (.bind (.map fun _ => .bind slRead_keeps fun _ => .pure) fun _ => .pure) (.ite (.bind readDir_keeps fun _
    => .bind (.map fun _ => .bind slRead_keeps fun _ => .pure) fun _ => .pure) (.ite (.bind (.map fun _ => .bind
    slRead_keeps fun _ => .pure) fun _ => .pure) .pure))
theorem searchCount_keeps (h : Keeps r s) : Keeps r (searchCount x z s) := by
  unfold searchCount
  exact onlyIf_keeps (h.upd rfl) fun _ h1 => h1.upd rfl
theorem searchFinish_keeps (h : Keeps r s) : Keeps r (searchFinish i s) := by
  unfold searchFinish
  split
  · exact h
  split
  · exact h
  extract_lets
  split
  · exact h
  split
  · exact .pair ‹_› (SlKeeps.app (slRun_keeps slWrite_keeps) h)
  · exact modItem_keeps (.pair ‹_› (SlKeeps.app (slRun_keeps slWrite_keeps) h))
  · exact modSearch_keeps (modItem_keeps ((searchCount_keeps (.pair ‹_› (SlKeeps.app (slRun_keeps slWrite_keeps)
      h))).upd rfl))
theorem searchSend_keeps (h : Keeps r s) : Keeps r (searchSend i s) := by
  unfold searchSend
  split
  · exact h
  split
  · exact h
  · exact .ite h (sendPeer_keeps (modSearch_keeps h))
theorem searchSliver_keeps : SlKeeps r (searchSliver i sl x) := by
  unfold searchSliver
  split
  · exact .fail
  · exact .bind slNat_keeps fun _ => .bind (.ite .pure (.ite (.bind readQuery_keeps fun _ => .bind (graphWalk_keeps fun
      _ => readNode_keeps) fun
      _ => .pure) searchRead_keeps)) fun _ => .bind (.ite searchGrow_keeps .pure) fun _ => slDo_keeps fun _ h1 =>
      modItem_keeps (modSearch_keeps (h1.upd rfl))
theorem takePartial_keeps (h : Keeps r s) : Keeps r (takePartial i x z src rs s) := by
  unfold takePartial
  exact .ite (h.upd rfl) (sendPeer_keeps (modSearch_keeps h))
theorem partialArrives_keeps (h : Keeps r s) : Keeps r (partialArrives job tag src rs s) := by
  unfold partialArrives
  split
  · exact takePartial_keeps h
  · exact .ite (h.upd rfl) (h.upd rfl)
theorem takeHeld_keeps (h : Keeps r s) : Keeps r (takeHeld i s) := by
  unfold takeHeld
  split
  · exact h
  refine .ite h (each_keeps (h.upd rfl) fun _ _ h1 => ?_)
  split
  · split
    · exact takePartial_keeps h1
    · exact h1
  · exact h1
theorem settleSearch_keeps (h : Keeps r s) : Keeps r (settleSearch s) := by
  refine each_keeps h fun _ _ h1 => ?_
  split
  · exact h1
  · exact .ite (searchFinish_keeps h1) (searchSend_keeps h1)

end

/-! ### Machine/Drain.lean -/

section

variable {r s : State} {ext q obj k home code num aborted job : Nat} {r' : CRec} {p : Nat → Bool} {forced : Bool} {t :
  Tx} {h' : Held} {st : Status}

theorem detachKey_keeps (h : Keeps r s) : Keeps r (detachKey ext s) := by
  unfold detachKey
  split
  · exact h
  · exact onlyIf_keeps (h.upd rfl) fun _ h1 => h1.upd rfl
theorem queueDestroy_keeps (h : Keeps r s) : Keeps r (queueDestroy q s) := cancelQueue_keeps (queueTo_keeps h)
theorem loseRec_keeps (h : Keeps r s) : Keeps r (loseRec r' s) := by
  unfold loseRec
  exact itemLedger_keeps (h.upd rfl)
theorem queueLost_keeps (h : Keeps r s) : Keeps r (queueLost q s) := by
  unfold queueLost
  extract_lets s₁
  have h1 : Keeps r s₁ := queueTo_keeps h
  split
  · exact h1
  · exact cancelQueue_keeps (each_keeps (h1.upd rfl) fun _ _ h2 => loseRec_keeps h2)
theorem destroyOwn_keeps (h : Keeps r s) : Keeps r (destroyOwn obj s) := by
  unfold destroyOwn
  split
  · exact h
  · exact raise_keeps ((journalGone_keeps h).upd rfl)
theorem captureOff_keeps (h : Keeps r s) : Keeps r (captureOff k s) := by
  unfold captureOff
  exact raise_keeps (h.upd rfl)
theorem capturesOff_keeps (h : Keeps r s) : Keeps r (capturesOff p s) := by
  unfold capturesOff
  exact each_keeps h fun _ _ h1 => captureOff_keeps h1
theorem sendCtl_keeps (h : Keeps r s) : Keeps r (sendCtl home code num s) := sendPeer_keeps h
theorem revokeExt_keeps (h : Keeps r s) : Keeps r (revokeExt ext s) := by
  unfold revokeExt
  split
  · exact h
  split
  · exact h
  extract_lets _ _ _ _ s₁ s₂ _ s₃ s₄ s₅ s₆ s₇ s₈ s₉
  have h1 : Keeps r s₁ := capturesOff_keeps h
  have h2 : Keeps r s₂ := h1.upd rfl
  have h3 : Keeps r s₃ := h2.upd rfl
  have h4 : Keeps r s₄ := each_keeps h3 fun _ _ h5 => stopItem_keeps h5
  have h5 : Keeps r s₅ := each_keeps h4 fun _ _ h6 => queueLost_keeps h6
  have h6 : Keeps r s₆ := each_keeps h5 fun _ _ h7 => destroyOwn_keeps h7
  have h7 : Keeps r s₇ := by
    unfold s₇
    split
    · exact clearBindings_keeps h6
    · exact h6
  have h8 : Keeps r s₈ := journalExt_keeps h7
  have h9 : Keeps r s₉ := onlyIf_keeps h8 fun _ h10 => sendCtl_keeps h10
  exact onlyIf_keeps h9 fun _ h10 => queueScan_keeps h10
theorem beginScrub_keeps (h : Keeps r s) : Keeps r (beginScrub ext s) := by
  unfold beginScrub
  exact each_keeps (h.upd rfl) fun _ _ h1 => .ite (h1.upd rfl) (.ite (trayCmd_keeps (h1.upd rfl)) (h1.upd rfl))
theorem drainedExt_keeps (h : Keeps r s) : Keeps r (drainedExt ext forced aborted s) := by
  unfold drainedExt
  split
  · exact h
  · exact beginScrub_keeps (settleBooks_keeps ((journalExt_keeps (detachKey_keeps ((raise_keeps (onlyIf_keeps h fun _
      h1 => h1.upd rfl)).upd rfl))).upd rfl))
theorem abortHenTx_keeps (h : Keeps r s) : Keeps r (abortHenTx t s) := by
  unfold abortHenTx
  split
  · exact onlyIf_keeps (completeTx_keeps h) fun _ h1 => endSliver_keeps h1
  · exact h.upd rfl
theorem abortPortTx_keeps (h : Keeps r s) : Keeps r (abortPortTx t s) := by
  unfold abortPortTx
  split
  · exact completeTx_keeps (onlyIf_keeps h fun _ h1 => h1.upd rfl)
  · exact abortHenTx_keeps h
theorem endHeld_keeps (h : Keeps r s) : Keeps r (endHeld h' st s) := by
  unfold endHeld
  split
  · exact onlyIf_keeps (h.upd rfl) fun _ h1 => endSliver_keeps h1
  · exact .ite (itemSliverEnd_keeps (h.upd rfl)) (h.upd rfl)
  · exact h.upd rfl
theorem forceDrain_keeps (h : Keeps r s) : Keeps r (forceDrain ext s) := by
  unfold forceDrain
  exact drainedExt_keeps (each_keeps ((each_keeps (each_keeps h fun _ _ h1 => abortPortTx_keeps h1) fun _ _ h2 =>
    endHeld_keeps h2).upd rfl) fun _ _ h3 => h3.upd rfl)
theorem jobFreed_keeps (h : Keeps r s) : Keeps r (jobFreed job s) := by
  unfold jobFreed
  split
  · exact h
  · exact .ite h (each_keeps ((each_keeps h fun _ _ h1 => journalAny_keeps h1).upd rfl) fun _ _ h2 => h2.upd rfl)
theorem freeExt_keeps (h : Keeps r s) : Keeps r (freeExt ext s) := by
  unfold freeExt
  split
  · exact h
  next e _ =>
    extract_lets _ s₁ s₂ s₃
    have h1 : Keeps r s₁ := by
      unfold s₁
      split
      · exact h.upd rfl
      · exact h
    have h2 : Keeps r s₂ := raise_keeps (h1.upd rfl)
    have h3 : Keeps r s₃ := journalExtAs_keeps h2
    exact jobFreed_keeps (h3.updMem rfl (memClear_wf _ _))
theorem closeJob_keeps (h : Keeps r s) : Keeps r (closeJob job s) := by
  unfold closeJob
  exact jobFreed_keeps (settleBooks_keeps ((each_keeps (capturesOff_keeps (each_keeps (each_keeps (modJob_keeps h) fun
    _ _ h1 => queueDestroy_keeps h1) fun _ _ h2 => revokeExt_keeps h2)) fun _ _ h3 => queueScan_keeps (h3.upd rfl)).upd
    rfl))
theorem settleClosing_keeps (h : Keeps r s) : Keeps r (settleClosing s) := by
  unfold settleClosing
  exact (each_keeps h fun _ _ h1 => jobFreed_keeps h1).upd rfl

end

/-! ### Machine/Assign.lean -/

section

variable {r s : State} {x : Item} {sl l h' i v rs1 id rank loc src dst : Nat} {hs : List Nat} {d : Desc} {m : MemErr}

theorem attendAnchor_keeps : SlKeeps r (attendAnchor x sl) := by
  unfold attendAnchor
  extract_lets
  refine .bind slNat_keeps fun _ => .bind slRead_keeps fun _ => ?_
  extract_lets
  split
  extract_lets
  split
  extract_lets
  exact .bind pageOf_keeps fun _ => .pure
theorem projectAnchor_keeps : SlKeeps r (projectAnchor x sl) := by
  unfold projectAnchor
  exact .bind slNat_keeps fun _ => .bind slNat_keeps fun _ => .pure
theorem searchAnchor_keeps : SlKeeps r (searchAnchor x sl) := by
  unfold searchAnchor
  split
  · exact .fail
  refine .bind slNat_keeps fun _ => ?_
  split
  · exact .fail
  · exact .ite .pure (.ite (.bind readDir_keeps fun _ => .pure) (.ite .pure (.ite .pure .fail)))
theorem assignOne_keeps (h : Keeps r s) : Keeps r (assignOne l s) := by
  unfold assignOne
  split
  · exact h
  split
  · exact h
  extract_lets s₁
  have h1 : Keeps r s₁ := onlyIf_keeps (h.upd rfl) fun _ h2 => h2.upd rfl
  split
  · exact h1
  · exact .ite (h1.upd rfl) (modItem_keeps (h1.upd rfl))
theorem loadImage_keeps : SlKeeps r (loadImage h' i x) := by
  refine .mk fun s h => ?_
  unfold loadImage
  refine .iteSnd h ?_
  have hs : Keeps r (slRead x (rImage x.body) (rLines x.body * 128) s).2 := slRead_keeps.app h
  split
  next heq => exact (hs.pair heq).upd rfl
  next heq => exact hs.pair heq
  next heq => exact hs.pair heq
theorem startHen_keeps (h : Keeps r s) : Keeps r (startHen h' i x s) := by
  unfold startHen
  exact (modItem_keeps h).upd rfl
theorem startSliver_keeps (h : Keeps r s) : Keeps r (startSliver h' s) := by
  unfold startSliver
  extract_lets _ s₁ s₂
  have h1 : Keeps r s₁ := h.upd rfl
  have h2 : Keeps r s₂ := h1.upd rfl
  split
  · exact h.upd rfl
  split
  · exact modItem_keeps (h.upd rfl)
  split
  · exact startHen_keeps h2
  split
  · exact startHen_keeps (.pair ‹_› (SlKeeps.app (slRun_keeps loadImage_keeps) h2))
  · exact .pair ‹_› (SlKeeps.app (slRun_keeps loadImage_keeps) h2)
  · exact endSliver_keeps (startHen_keeps (.pair ‹_› (SlKeeps.app (slRun_keeps loadImage_keeps) h2)))
theorem loadGang_keeps : SlKeeps r (loadGang i x hs) := .bind (.map fun _ => loadImage_keeps) fun _ => .pure
theorem gangStart_keeps (h : Keeps r s) : Keeps r (gangStart i s) := by
  unfold gangStart
  split
  next x _ _ =>
    split
    · exact h
    extract_lets s₁
    have h1 : Keeps r s₁ := each_keeps h fun _ _ h2 => h2.upd rfl
    split
    next heq => exact Keeps.pair heq ((slRun_keeps loadGang_keeps).app h1)
    next heq =>
      extract_lets _ _ s₂ s₃ s₄
      have h2 : Keeps r s₂ := (Keeps.pair heq ((slRun_keeps loadGang_keeps).app h1)).upd rfl
      have h4 : Keeps r s₄ := each_keeps (modItem_keeps h2) fun _ _ h5 => startHen_keeps h5
      split
      · exact each_keeps h4 fun _ _ h5 => endSliver_keeps h5
      · exact h4
  · exact h
theorem builtIn_keeps : SlKeeps r (builtIn i sl x) := by
  unfold builtIn
  exact .ite encodeSliver_keeps (.ite decodeSliver_keeps (.ite bookSliver_keeps (.ite updateSliver_keeps (.ite
    editSliver_keeps (.ite freeSliver_keeps (.ite attendSliver_keeps (.ite projectSliver_keeps (.ite buildSliver_keeps
    (.ite appendSliver_keeps (.ite deleteSliver_keeps (.ite mergeSliver_keeps searchSliver_keeps)))))))))))
theorem finalWork_keeps : SlKeeps r (finalWork x) :=
  .ite encodeFinal_keeps (.ite buildFinal_keeps (.ite attendCommit_keeps .pure))
theorem settleFinals_keeps (h : Keeps r s) : Keeps r (settleFinals s) := by
  refine each_keeps h fun _ _ h1 => ?_
  split
  · exact (.pair ‹_› (SlKeeps.app (slRun_keeps finalWork_keeps) h1))
  · exact modItem_keeps (.pair ‹_› (SlKeeps.app (slRun_keeps finalWork_keeps) h1))
  · exact modItem_keeps (.pair ‹_› (SlKeeps.app (slRun_keeps finalWork_keeps) h1))
theorem progressWrite_keeps : SlKeeps r (progressWrite x sl v) := .ite .pure slWrite_keeps
theorem slvend_keeps (h : Keeps r s) : Keeps r (slvend h' rs1 s) := by
  unfold slvend
  extract_lets y
  split
  · exact h.upd rfl
  split
  · exact h
  extract_lets work
  have hw : SlKeeps r work := .ite progressWrite_keeps builtIn_keeps
  have h1 := (slRun_keeps (who := .hen h') (item := y.item) hw).app h
  split
  next heq => exact endSliver_keeps ((h1.pair heq).upd rfl)
  next heq => exact endSliver_keeps ((h1.pair heq).upd rfl)
  next heq => exact h1.pair heq
theorem sliverLimit_keeps (h : Keeps r s) : Keeps r (sliverLimit h' s) := by
  unfold sliverLimit
  exact henLeave_keeps ((endSliver_keeps (henFaultRec_keeps (h.upd rfl))).upd rfl)
theorem settleAssigned_keeps (h : Keeps r s) : Keeps r (settleAssigned s) := by
  unfold settleAssigned
  exact each_keeps h fun _ _ h1 => modItem_keeps (h1.upd rfl)
theorem settleGang_keeps (h : Keeps r s) : Keeps r (settleGang s) := by
  unfold settleGang
  split
  · exact h
  · exact .ite h (each_keeps (h.upd rfl) fun _ _ h1 => h1.upd rfl)
theorem settleDrains_keeps (h : Keeps r s) : Keeps r (settleDrains s) := h.upd rfl
theorem settlePauses_keeps (h : Keeps r s) : Keeps r (settlePauses s) := by
  refine each_keeps h fun _ _ h1 => ?_
  split
  · exact .ite h1 (notePause_keeps h1)
  · exact h1
theorem runCancel_keeps (h : Keeps r s) : Keeps r (runCancel d s) := by
  unfold runCancel
  split
  · exact lateDesc_keeps h
  split
  · exact notePause_keeps (refuseDesc_keeps (countCheck_keeps (consumed_keeps h)))
  · exact notePause_keeps ((each_keeps ((consumed_keeps h).upd rfl) fun _ _ h1 => stopItem_keeps h1).upd rfl)
theorem issueReq_keeps (h : Keeps r s) : Keeps r (issueReq h' id m s) := by
  unfold issueReq
  split
  · exact h
  split
  · exact h
  extract_lets s₁ s₂
  have h1 : Keeps r s₁ := h.upd rfl
  have h2 : Keeps r s₂ := onlyIf_keeps h1 fun _ h3 => send_keeps h3
  split
  · exact answerHen_keeps (countCheck_keeps h2)
  extract_lets s₃ s₄
  have h3 : Keeps r s₃ := onlyIf_keeps h2 fun _ h4 => modItem_keeps h4
  have h4 : Keeps r s₄ := translate_keeps h3
  split
  · exact answerHen_keeps h4
  split
  · exact .pair ‹_› (startAccess_keeps h4)
  · exact answerHen_keeps (.pair ‹_› (startAccess_keeps h4))
theorem returnReq_keeps (h : Keeps r s) : Keeps r (returnReq h' id s) := by
  unfold returnReq
  extract_lets _ s₁
  have h1 : Keeps r s₁ := h.upd rfl
  split
  · split
    · exact h
    split
    · exact h1.upd rfl
    · exact (endSliver_keeps h1).upd rfl
    · exact h1
  · exact h
theorem msgSend_keeps (h : Keeps r s) : Keeps r (msgSend h' rank loc s) := by
  unfold msgSend
  extract_lets
  split
  · exact henFault_keeps h
  split
  · exact henFault_keeps h
  split
  · exact h
  · exact .ite (h.upd rfl) ((onlyIf_keeps h fun _ h1 => send_keeps h1).upd rfl)
theorem msgArrive_keeps (h : Keeps r s) : Keeps r (msgArrive src dst s) := by
  unfold msgArrive
  extract_lets
  split
  · exact h
  · exact onlyIf_keeps (h.upd rfl) fun _ h1 => h1.upd rfl

end

/-! ### Machine/Owned.lean -/

section

variable {r s : State} {lk port permit obj epoch id w v : Nat} {t : Tx} {st : Status} {data : List Byte} {done : Bool}
  {q : Option Nat}

theorem journalLine_keeps (h : Keeps r s) : Keeps r (journalLine lk s).2 := by
  unfold journalLine
  exact .iteSnd (journalLk_keeps h) (markCrate_keeps h)
theorem settleLine_keeps (h : Keeps r s) : Keeps r (settleLine lk s) := by
  unfold settleLine
  exact (journalLine_keeps h).upd rfl
theorem land_keeps (h : Keeps r s) : Keeps r (land t st data s).2.2 := by
  unfold land
  split
  · exact .iteSnd2 h (regionCmd_keeps h)
  · exact .iteSnd2 h (.ite (giveFinish_keeps h) (takeCmd_keeps h))
  · exact h
theorem landTx_keeps (h : Keeps r s) : Keeps r (landTx t s) := by
  unfold landTx
  split
  · exact completeTx_keeps (land_keeps h)
  · exact h
theorem completeFree_keeps (h : Keeps r s) : Keeps r (completeFree s) := each_keeps h fun _ _ h1 => landTx_keeps h1
theorem settleJournal_keeps (h : Keeps r s) : Keeps r (settleJournal s) :=
  completeFree_keeps (each_keeps h fun _ _ h1 => settleLine_keeps h1)
theorem ownAnswer_keeps {t : Tx} {op obj : Nat} {st : Status} {change : Option State}
    (hc : ∀ u, change = some u → Keeps r u) (h : Keeps r s) : Keeps r (ownAnswer t op obj st change s) := by
  unfold ownAnswer
  split
  · have hu := hc _ rfl
    split
    · split
      next heq => exact finishTx_keeps (Keeps.pair heq (journalOwnAs_keeps h))
      · exact finishTx_keeps hu
    · exact finishTx_keeps hu
  · exact finishTx_keeps h
theorem ownAnswer_none_keeps {t : Tx} {op obj : Nat} {st : Status} (h : Keeps r s) :
    Keeps r (ownAnswer t op obj st none s) := ownAnswer_keeps (fun _ hu => by cases hu) h
theorem runGive_keeps (h : Keeps r s) : Keeps r (runGive t port permit obj epoch done s) := by
  unfold runGive
  split
  · exact ownAnswer_none_keeps (h.upd rfl)
  extract_lets _ _ _ s₁ _ _ _ s₂
  have h1 : Keeps r s₁ := .ite (holdTx_keeps h) h
  have h2 : Keeps r s₂ := h.upd rfl
  refine .ite (ownAnswer_none_keeps (h.upd rfl)) (.ite (.ite h1 (h1.upd rfl)) (.ite (queueScan_keeps (h.upd rfl))
    (.ite (onlyIf_keeps h fun _ h3 => queueScan_keeps h3) (ownAnswer_keeps (fun u hu => ?_) h2))))
  cases hu
  exact giveFinish_keeps h2
theorem runOwn_keeps (h : Keeps r s) : Keeps r (runOwn done id s) := by
  unfold runOwn
  split
  · exact h
  split
  · extract_lets obj' s₁
    have h1 : Keeps r s₁ := ownExpire_keeps h
    refine .ite h1 (.ite (runGive_keeps h1) (.ite ?_ (ownAnswer_none_keeps h1)))
    split
    next heq =>
      refine .ite (holdTx_keeps h1) (ownAnswer_keeps (fun u hu => ?_) h1)
      split at hu <;> cases hu
      exact Keeps.pair heq (takeCmd_keeps h1)
  · exact h
theorem runOwns_keeps (h : Keeps r s) : Keeps r (runOwns s) := each_keeps h fun _ _ h1 => runOwn_keeps h1
theorem giveRecallDone_keeps (h : Keeps r s) : Keeps r (giveRecallDone obj s) := by
  unfold giveRecallDone
  split
  · exact h
  split
  · exact h.upd rfl
  · exact runOwn_keeps h
theorem ownedPost_keeps (h : Keeps r s) : Keeps r (ownedPost q w s) := by
  unfold ownedPost
  extract_lets wait
  clear_value wait
  split <;> exact h.upd rfl
theorem commitOwned_keeps (h : Keeps r s) : Keeps r (commitOwned v s).2 := by
  unfold commitOwned
  extract_lets
  split
  · exact .iteSnd (ownedPost_keeps (journalOwn_keeps (h.upd rfl))) (ownedPost_keeps h)
  split
  · split
    · exact ownedPost_keeps h
    · exact .iteSnd (ownedPost_keeps h) (ownedPost_keeps ((journalGone_keeps h).upd rfl))
  · exact ownedPost_keeps h

end

/-! ### Machine/Settle.lean -/

section

variable {r s : State}

theorem settleOverflow_keeps (h : Keeps r s) : Keeps r (settleOverflow s) := by
  unfold settleOverflow
  exact each_keeps (h.upd rfl) fun _ _ h1 => revokeExt_keeps h1
theorem settleOnce_keeps (h : Keeps r s) : Keeps r (settleOnce s) := by
  unfold settleOnce
  extract_lets s₁ s₂ s₃ s₄
  have h1 : Keeps r s₁ := settleWindows_keeps (runOwns_keeps (pump_keeps (takeJammed_keeps (settleJournal_keeps
    (settleOverflow_keeps h)))))
  have h2 : Keeps r s₂ := settleSearch_keeps (settleColls_keeps h1)
  have h3 : Keeps r s₃ := settleFinals_keeps (settleAssigned_keeps (settleGang_keeps h2))
  have h4 : Keeps r s₄ := settleItems_keeps h3
  exact (settlePauses_keeps (settleDrains_keeps (settleClosing_keeps (settleVersions_keeps (settleBooks_keeps
    (settleKv_keeps h4)))))).upd rfl
theorem settle_keeps (h : Keeps r s) : Keeps r (settle s) := settleOnce_keeps (settleOnce_keeps h)

end

/-! ### Machine/HenRows.lean -/

section

variable {r s : State} {h' : Nat} {f : State → State} {e : LsErr}

theorem henDo_keeps (h : Keeps r s) (hf : ∀ s, Keeps r s → Keeps r (f s)) : Keeps r (henDo h' f s) := by
  unfold henDo
  exact .ite h (.cut (hf _ h) fun h1 => .ite h1 (settle_keeps h1))
theorem meetLs_keeps (h : Keeps r s) : Keeps r (meetLs h' e s) := onlyIf_keeps h fun _ h1 => h1.upd rfl

end

/-! ### Machine/WorkRows.lean -/

section

variable {r s : State} {x i q job h' c port tag status src round : Nat} {ph : PeerHdr} {k : State → State} {z : SumSq}

theorem noPost_keeps (h : Keeps r s) : Keeps r (noPost x s) := h
theorem bookPost_keeps (h : Keeps r s) : Keeps r (bookPost i s) := by
  unfold bookPost
  split
  · exact claimBook_keeps h
  · exact h
theorem resumeLoading_keeps (h : Keeps r s) : Keeps r (resumeLoading q s) := by
  unfold resumeLoading
  split
  · exact .ite (h.upd rfl) h
  · exact h
theorem descReadFail_keeps (h : Keeps r s) : Keeps r (descReadFail q s) := by
  unfold descReadFail
  split
  · exact h
  extract_lets
  split
  · exact h
  split
  · exact h
  · exact stopOnFault_keeps (pushRec_keeps (countCheck_keeps (consumed_keeps h)))
theorem applyRec_keeps (h : Keeps r s) : Keeps r (applyRec q s) := by
  unfold applyRec
  split
  · extract_lets _ _ _ _ ok
    clear_value ok
    split
    · exact .cut (.iteSnd (cohPrep_keeps h) h) fun h1 => .ite h1 (qcbPut_keeps (ownPut_keeps (h1.upd rfl)))
    · exact onlyIf_keeps (countCheck_keeps (loseRec_keeps (qcbPut_keeps (h.upd rfl)))) fun _ h1 => queueError_keeps h1
  · exact h
theorem timeLimit_keeps (h : Keeps r s) : Keeps r (timeLimit i s) := by
  unfold timeLimit
  split
  · exact h
  · exact .ite h (modItem_keeps (stopItem_keeps (h.upd rfl)))
theorem hensDrained_keeps (h : Keeps r s) : Keeps r (hensDrained job s) := by
  unfold hensDrained
  exact .ite (raise_keeps (h.upd rfl)) (h.upd rfl)
theorem backgroundRecode_keeps (h : Keeps r s) : Keeps r (backgroundRecode h' s) := by
  unfold backgroundRecode
  extract_lets
  split
  · exact h
  · exact .ite (recodeBlock_keeps h) h
theorem memberTimer_keeps (h : Keeps r s) : Keeps r (memberTimer c s) := by
  unfold memberTimer
  split
  · exact h
  split
  · exact h
  split
  · exact h
  · exact .ite h (missing_keeps (h.upd rfl))
theorem deliverAnswer_keeps (h : Keeps r s) : Keeps r (deliverAnswer port tag status s) := by
  unfold deliverAnswer
  exact .ite (h.upd rfl) h
theorem deliverTimeout_keeps (h : Keeps r s) : Keeps r (deliverTimeout port tag s) := by
  unfold deliverTimeout
  split
  · exact h
  split
  · exact h
  · exact loseDelivery_keeps (h.upd rfl)
theorem normTimeout_keeps (h : Keeps r s) : Keeps r (normTimeout c s) := by
  unfold normTimeout
  split
  · exact h
  split
  · exact h
  split
  · exact h
  · exact .ite h (modItem_keeps (h.upd rfl))
theorem peerIn_keeps (h : Keeps r s) (hk : ∀ s, Keeps r s → Keeps r (k s)) : Keeps r (peerIn ph k s) := by
  unfold peerIn
  exact .ite h (.cut (send_keeps (h.upd rfl)) fun h1 => .ite (hk _ (h1.upd rfl)) (h1.upd rfl))
theorem normArrives_keeps (h : Keeps r s) : Keeps r (normArrives src c round z s) := by
  unfold normArrives
  extract_lets drop
  have h1 : Keeps r drop := h.upd rfl
  split
  · exact h1
  · exact .ite h1 (h.upd rfl)
theorem ackArrives_keeps (h : Keeps r s) : Keeps r (ackArrives job tag s) := by
  unfold ackArrives
  extract_lets
  split
  · exact h
  split
  · exact searchCount_keeps (modSearch_keeps h)
  · exact h
theorem partialTimeout_keeps (h : Keeps r s) : Keeps r (partialTimeout i s) := by
  unfold partialTimeout
  split
  · exact h
  split
  · exact h
  · exact .ite h (modSearch_keeps (h.upd rfl))
theorem ackTimeout_keeps (h : Keeps r s) : Keeps r (ackTimeout i s) := by
  unfold ackTimeout
  split
  · exact h
  split
  · exact h
  · exact .ite h (modItem_keeps (h.upd rfl))
theorem holdExpiry_keeps (h : Keeps r s) : Keeps r (holdExpiry job tag src s) := by
  unfold holdExpiry
  split
  · exact h
  · exact h.upd rfl

end

/-! ### Machine/Tiers.lean -/

section

variable {r s : State} {key v ck loc t vloc id level corrected addr tier ext tray step n budget : Nat} {clean counted
  ok fault : Bool} {cks bad : List Nat} {d : List Byte} {c : TrayCmd} {r' : TrayRsp} {m : Planned}

theorem republish_keeps (h : Keeps r s) : Keeps r (republish key v s) := .ite (h.upd rfl) h
theorem keepImage_keeps (h : Keeps r s) : Keeps r (keepImage ck s) := by
  unfold keepImage
  exact .ite h (h.upd rfl)
theorem setCopy_keeps (h : Keeps r s) : Keeps r (setCopy ck loc clean s) := keepImage_keeps (h.upd rfl)
theorem countRead_keeps (h : Keeps r s) : Keeps r (countRead t vloc s) := by
  unfold countRead
  exact .ite (h.upd rfl) h
theorem retireBlock_keeps (h : Keeps r s) : Keeps r (retireBlock t id s) := by
  unfold retireBlock
  exact .ite h (onlyIf_keeps (h.upd rfl) fun _ h1 => raise_keeps (republish_keeps h1))
theorem relocateCopy_keeps (h : Keeps r s) : Keeps r (relocateCopy counted ck s) := by
  unfold relocateCopy
  extract_lets
  split
  · exact h
  split
  · exact .pair ‹_› (vaultLoc_keeps h)
  · exact trayCmd_keeps (.pair ‹_› (vaultLoc_keeps h))
theorem eraseEmpty_keeps (h : Keeps r s) : Keeps r (eraseEmpty s) := by
  unfold eraseEmpty
  exact each_keeps h fun _ _ h1 => trayCmd_keeps h1
theorem vaultReclaim_keeps (h : Keeps r s) : Keeps r (vaultReclaim t s) := by
  unfold vaultReclaim
  split
  · exact h
  extract_lets
  split
  · exact h
  · exact eraseEmpty_keeps (each_keeps (h.upd rfl) fun _ _ h1 => relocateCopy_keeps h1)
theorem vaultStaticMove_keeps (h : Keeps r s) : Keeps r (vaultStaticMove t s) := by
  unfold vaultStaticMove
  split
  · exact h
  split
  · exact h
  · exact each_keeps h fun _ _ h1 => relocateCopy_keeps h1
theorem vaultReadRelocate_keeps (h : Keeps r s) : Keeps r (vaultReadRelocate t id s) := by
  unfold vaultReadRelocate
  exact .ite h (each_keeps h fun _ _ h1 => relocateCopy_keeps h1)
theorem scanRead_keeps (h : Keeps r s) : Keeps r (scanRead ck t id level s) := trayCmd_keeps h
theorem vaultScan_keeps (h : Keeps r s) : Keeps r (vaultScan t id s) := by
  unfold vaultScan
  exact .ite h (each_keeps (h.upd rfl) fun _ _ h1 => scanRead_keeps h1)
theorem scanBack_keeps (h : Keeps r s) : Keeps r (scanBack ck t id level corrected ok addr s) := by
  unfold scanBack
  exact .ite h (.ite (onlyIf_keeps h fun _ h1 => relocateCopy_keeps h1) (.ite (scanRead_keeps (trayCmd_keeps h)) h))
theorem retryFetches_keeps (h : Keeps r s) : Keeps r (retryFetches s) := by
  unfold retryFetches
  exact each_keeps h fun _ _ h1 => (startFetch_keeps (h1.upd rfl)).upd rfl
theorem slotRetired_keeps (h : Keeps r s) : Keeps r (slotRetired tier loc s) := by
  unfold slotRetired
  exact .ite (h.upd rfl) (onlyIf_keeps (republish_keeps (h.upd rfl)) fun _ h1 => raise_keeps h1)
theorem finishRetires_keeps (h : Keeps r s) : Keeps r (finishRetires s) :=
  each_keeps h fun _ _ h1 => slotRetired_keeps h1
theorem startRetires_keeps (h : Keeps r s) : Keeps r (startRetires s) := by
  unfold startRetires
  exact each_keeps (finishRetires_keeps h) fun _ _ h1 => .ite (.cut (moveTo_keeps h1) fun h2 => .ite h2 (moveTo_keeps
    h2)) (.ite (.cut (moveTo_keeps h1) fun h3 => .ite h3 (moveTo_keeps h3)) h1)
theorem fetchModified_keeps (h : Keeps r s) : Keeps r (fetchModified ext s) := by
  refine each_keeps h fun _ _ h1 => ?_
  split
  · exact .ite (loseHolder_keeps h1) (.ite h1 (sendSnoop_keeps h1))
  · exact h1
theorem startFlushes_keeps (h : Keeps r s) : Keeps r (startFlushes s) := by
  unfold startFlushes
  split
  · exact h
  · exact .ite h (.cut (.ite h ((fetchModified_keeps h).upd rfl)) fun h1 => .ite h1 (each_keeps (h1.upd rfl) fun _ _ h2
      => .ite h2 (moveTo_keeps h2)))
theorem flushed_keeps (h : Keeps r s) : Keeps r (flushed ck s) := by
  unfold flushed
  split
  · exact h
  · exact h.upd rfl
theorem moveCopyDone_keeps (h : Keeps r s) : Keeps r (moveCopyDone ck s) := by
  unfold moveCopyDone
  split
  · exact h
  · exact .ite h (startFlushes_keeps (startRetires_keeps (retryFetches_keeps (regroup_keeps (.ite (.cut (setCopy_keeps
      (h.upd rfl)) fun h1 => .ite (flushed_keeps h1) (.ite (h1.upd rfl) (leaveLoc_keeps (h1.upd rfl)))) (.ite (h.upd
      rfl) (leaveLoc_keeps ((Keeps.ite (h.upd rfl) (h.upd rfl)).upd rfl))))))))
theorem moveSourceFreed_keeps (h : Keeps r s) : Keeps r (moveSourceFreed ck s) := by
  unfold moveSourceFreed
  exact .ite (startRetires_keeps (retryFetches_keeps (h.upd rfl))) h
theorem fetchDone_keeps (h : Keeps r s) : Keeps r (fetchDone ck s) := by
  unfold fetchDone
  split
  · exact h
  · exact .ite (retryFetches_keeps h) (.ite h (.cut (regroup_keeps (h.upd rfl)) fun h1 => startFlushes_keeps
      (startRetires_keeps (.ite ((leaveLoc_keeps h1).upd rfl) h1))))
theorem vaultUncorrectable_keeps (h : Keeps r s) : Keeps r (vaultUncorrectable ck s) := by
  unfold vaultUncorrectable
  split
  · exact h
  split
  · exact h
  extract_lets _ s₁ s₂ s₃
  have h1 : Keeps r s₁ := h.upd rfl
  have h2 : Keeps r s₂ := h1.upd rfl
  have h3 : Keeps r s₃ := poisonCrate_keeps ((regroup_keeps h2).upd rfl)
  exact each_keeps (h3.upd rfl) fun _ _ h4 => endHeld_keeps h4
theorem unmappedPlaced_keeps (h : Keeps r s) : Keeps r (unmappedPlaced ck s) := by
  unfold unmappedPlaced
  exact .ite h (.ite h (placeNew_keeps h))
theorem undoChange_keeps {t : Tx} (h : Keeps r s) : Keeps r (undoChange t cks s) := by
  unfold undoChange
  extract_lets _ s₁ s₂
  have h1 : Keeps r s₁ := each_keeps h fun _ _ h2 => undoPart_keeps h2
  have h2 : Keeps r s₂ := by
    unfold s₂
    split
    · exact onlyIf_keeps h1 fun _ h3 => journalOwn_keeps h3
    · exact h1
  exact h2.upd rfl
theorem tierTimeout_keeps (h : Keeps r s) : Keeps r (tierTimeout id s) := by
  unfold tierTimeout
  split
  · split
    · exact h
    · exact .ite h (onlyIf_keeps (endHeld_keeps (h.upd rfl)) fun _ h1 => gangStart_keeps h1)
  · split
    · exact h
    extract_lets s₁ _ s₂ s₃
    have h1 : Keeps r s₁ := h.upd rfl
    have h2 : Keeps r s₂ := .ite (undoChange_keeps h1) h1
    have h3 : Keeps r s₃ := by
      unfold s₃
      split
      · exact onlyIf_keeps h2 fun _ h4 => h4.upd rfl
      · exact h2
    exact completeTx_keeps h3
theorem retireSlot_keeps (h : Keeps r s) : Keeps r (retireSlot tier loc bad s) := by
  unfold retireSlot
  extract_lets _ s₁
  have h1 : Keeps r s₁ := by
    unfold s₁
    split
    · exact h
    · exact each_keeps h fun _ _ h2 => poisonLine_keeps h2
  exact .ite h (startRetires_keeps (h1.upd rfl))
theorem restoreImage_keeps (h : Keeps r s) : Keeps r (restoreImage ck s) := by
  unfold restoreImage
  split
  · exact h
  · exact (zeroCrate_keeps h).updMem rfl (foldl_memPut_wf _ _ _)
theorem loseCrate_keeps (h : Keeps r s) : Keeps r (loseCrate tray ck s) := by
  unfold loseCrate
  extract_lets c s₁ dest s₂ c' s₃
  have h1 : Keeps r s₁ := .ite (restoreImage_keeps h) h
  have h2 : Keeps r s₂ := h.upd rfl
  have h3 : Keeps r s₃ := by
    unfold s₃
    clear_value dest
    split <;> exact h2.upd rfl
  exact .ite (regroup_keeps (h1.upd rfl)) (poisonCrate_keeps (regroup_keeps h3))
theorem loseTray_keeps (h : Keeps r s) : Keeps r (loseTray t s) := by
  unfold loseTray
  exact startFlushes_keeps (startRetires_keeps (retryFetches_keeps (raise_keeps (ledger_keeps (each_keeps ((each_keeps
    (each_keeps (h.upd rfl) fun _ _ h1 => h1.upd rfl) fun _ _ h2 => h2.upd rfl).upd rfl) fun _ _ h3 => loseCrate_keeps
    h3)))))
theorem trayLost_keeps (h : Keeps r s) : Keeps r (trayLost t s) := by
  unfold trayLost
  exact .ite h (loseTray_keeps (.ite h (h.upd rfl)))
theorem mapRebuilt_keeps (h : Keeps r s) : Keeps r (mapRebuilt t s) := by
  unfold mapRebuilt
  exact .ite h (each_keeps (h.upd rfl) fun _ _ h1 => regroup_keeps h1)
theorem identifyTray_keeps (h : Keeps r s) : Keeps r (identifyTray t d s) := by
  unfold identifyTray
  exact .ite (h.upd rfl) (raise_keeps (republish_keeps (republish_keeps ((Keeps.ite (loseTray_keeps (h.upd rfl)) (h.upd
    rfl)).upd rfl))))
theorem discover1_keeps (h : Keeps r s) : Keeps r (discover1 t step s) := by
  unfold discover1
  extract_lets s₁ s₂ s₃
  have h1 : Keeps r s₁ := h.upd rfl
  have h2 : Keeps r s₂ := h1.upd rfl
  have h3 : Keeps r s₃ := each_keeps h2 fun _ _ h4 => sendTray_keeps h4
  split
  · exact trayCmd_keeps h1
  · exact trayCmd_keeps h1
  · exact trayCmd_keeps h1
  · exact raise_keeps h3
theorem reprogram_keeps (h : Keeps r s) : Keeps r (reprogram ck s) := by
  unfold reprogram
  split
  · exact h
  extract_lets t s₁
  have h1 : Keeps r s₁ := retireBlock_keeps h
  have h2 : Keeps r (match pickVaultTray ck s₁ with | some u => vaultLoc u s₁ | none => (none, s₁)).2 := by
    split
    · exact vaultLoc_keeps h1
    · exact h1
  split
  next heq => exact (h2.pair heq).upd rfl
  next heq => exact moveCmds_keeps ((h2.pair heq).upd rfl)
theorem againTray_keeps (h : Keeps r s) : Keeps r (againTray c s) := trayCmd_keeps h
theorem trayDone_keeps (h : Keeps r s) : Keeps r (trayDone c ok corrected d s) := by
  unfold trayDone
  split
  · extract_lets s₁ _ s₂
    have h1 : Keeps r s₁ := onlyIf_keeps h fun _ h2 => countRead_keeps h2
    have h2 : Keeps r s₂ := h1.upd rfl
    split
    · exact h1
    · exact .ite (onlyIf_keeps h1 fun _ h3 => trayCmd_keeps h3) (.ite (againTray_keeps h1) (againTray_keeps
        (trayCmd_keeps h2)))
  · exact .ite h (.ite (.ite (journalMap_keeps h) (reprogram_keeps h)) (.ite h (againTray_keeps h)))
  · exact .ite (h.upd rfl) (againTray_keeps h)
  · exact scanBack_keeps (countRead_keeps h)
  · split
    · exact againTray_keeps h
    extract_lets _ s₁
    have h1 : Keeps r s₁ := h.upd rfl
    split
    · exact h1
    · exact eraseEmpty_keeps (.ite (h1.upd rfl) h1)
  · exact .ite (discover1_keeps (.ite (identifyTray_keeps h) h)) (discover1_keeps h)
  · exact .cut (countRead_keeps h) fun h1 => .ite (relocateCopy_keeps (retireBlock_keeps h1)) (.ite (journalMap_keeps
      (onlyIf_keeps h1 fun _ h2 => h2.upd rfl)) (eraseEmpty_keeps h1))
  · exact .ite (h.upd rfl) (retireBlock_keeps h)
  · exact h
theorem trayResponse_keeps (h : Keeps r s) : Keeps r (trayResponse r' s) := by
  unfold trayResponse
  extract_lets t mine _ next s₁ s₂
  split
  · exact h
  have h1 : Keeps r s₁ := h.upd rfl
  have h2 : Keeps r s₂ := by
    unfold s₂
    clear_value next
    split
    · exact sendTray_keeps h1
    · exact h1
  exact .ite h (.ite (h.upd rfl) (trayDone_keeps h2))
theorem commitFlush_keeps (h : Keeps r s) : Keeps r (commitFlush v s).2 := by
  unfold commitFlush
  exact .iteSnd (h.upd rfl) (startFlushes_keeps ((writeBatchesOf_keeps h).upd rfl))
theorem flushDone_keeps (h : Keeps r s) : Keeps r (flushDone fault s) := by
  unfold flushDone
  split
  · exact h
  extract_lets _ _ _ _ s₁ s₂
  have h1 : Keeps r s₁ := h.upd rfl
  have h2 : Keeps r s₂ := by
    unfold s₂
    split
    · exact retireVersions_keeps h1
    · exact h1
  exact .ite h (startFlushes_keeps h2)
theorem commitAtticSize_keeps (h : Keeps r s) : Keeps r (commitAtticSize v s).2 := by
  unfold commitAtticSize
  exact .iteSnd h (h.upd rfl)
theorem planDemote_keeps {p : Plan} {ck : Nat} (h : Keeps r p.s) : Keeps r (planDemote p ck).s := by
  unfold planDemote
  extract_lets c
  split
  · have ha : Keeps r (atticTrial ck p.s).2.2 := atticTrial_keeps h
    split
    next heq =>
      have h1 := ha.triple heq
      split
      · exact h1.upd rfl
      · extract_lets
        split <;> exact h1
  · exact h
theorem planPromote_keeps {low : Int} {p : Plan} {c : Nat × Crate} (h : Keeps r p.s) :
    Keeps r (planPromote low p c).s := by
  unfold planPromote
  split
  · exact h
  split
  · split
    · exact h
    · split
      · exact h
      · exact planDemote_keeps h
  · exact h
theorem planShelf_keeps {low : Int} {n : Nat} {p : Plan} (h : Keeps r p.s) : Keeps r (planShelf low n p).s := by
  induction n generalizing p with
  | zero => exact h
  | succ n ih =>
    unfold planShelf
    split
    · exact h
    · split
      · exact h
      · exact ih (planDemote_keeps h)
theorem planAttic_keeps {low : Int} {n : Nat} {p : Plan} (h : Keeps r p.s) : Keeps r (planAttic low n p).s := by
  induction n generalizing p with
  | zero => exact h
  | succ n ih =>
    unfold planAttic
    split
    · exact h
    · split
      · exact h
      · exact ih h
/-- A plan's state through a loop over it. -/
theorem foldl_plan_keeps {α : Type} (f : Plan → α → Plan) (hf : ∀ p x, Keeps r p.s → Keeps r (f p x).s) (l : List α)
    {p : Plan} (h : Keeps r p.s) : Keeps r (l.foldl f p).s := by
  induction l generalizing p with
  | nil => exact h
  | cons x l ih => exact ih (hf p x h)
theorem planEpoch_keeps (h : Keeps r s) : Keeps r (planEpoch s).s := by
  unfold planEpoch
  extract_lets p live p₁ p₂ shelfLow hot p₃ p₄ p₅ cellarLow
  have h1 : Keeps r p₁.s := foldl_plan_keeps _ (fun p d hp => by
    split
    · split
      · exact planDemote_keeps hp
      · exact hp
    · exact hp) _ h
  have h2 : Keeps r p₂.s := foldl_plan_keeps _ (fun p c hp => by split <;> exact hp) _ h1
  have h3 : Keeps r p₃.s := foldl_plan_keeps _ (fun _ _ hp => planPromote_keeps hp) _ h2
  have h5 : Keeps r p₅.s := planAttic_keeps (planShelf_keeps h3)
  refine foldl_plan_keeps _ (fun p c hp => ?_) _ h5
  split
  · exact hp
  · split <;> exact hp
theorem beginPlanned_keeps (h : Keeps r s) : Keeps r (beginPlanned m s) := by
  unfold beginPlanned
  split
  · exact h
  split
  · exact h.upd rfl
  split
  · split
    · exact startMoveTo_keeps h
    · exact moveTo_keeps h
  · exact moveTo_keeps h
theorem retrain_keeps (h : Keeps r s) : Keeps r (retrain s) := by
  refine each_keeps h fun _ s h1 => ?_
  split
  extract_lets _ s₁
  have h2 : Keeps r s₁ := h1.upd rfl
  split
  · exact h2.upd rfl
  · exact .ite (h2.upd rfl) h2
theorem recodeAttic_keeps (h : Keeps r s) : Keeps r (recodeAttic n s) := by
  unfold recodeAttic
  extract_lets old
  refine each_keeps h fun ck s h1 => ?_
  have h2 : Keeps r (atticTrial ck s).2.2 := atticTrial_keeps h1
  split
  next heq =>
    have h3 := h2.triple heq
    refine .ite (moveTo_keeps (h3.upd rfl)) ?_
    split
    · exact startMoveTo_keeps h3
    · exact h3
theorem settleIso_keeps (h : Keeps r s) : Keeps r (settleIso s) := by
  unfold settleIso
  exact each_keeps h fun _ _ h1 => .ite h1 (raise_keeps (h1.upd rfl))
theorem placementEpoch_keeps (h : Keeps r s) : Keeps r (placementEpoch budget s) := by
  unfold placementEpoch
  extract_lets n p now later _ _ s₁ _ s₂ s₃
  have hp : Keeps r p.s := planEpoch_keeps (retrain_keeps (startFlushes_keeps (startRetires_keeps h)))
  have h1 : Keeps r s₁ := each_keeps (hp.upd rfl) fun _ _ h2 => beginPlanned_keeps h2
  have h2 : Keeps r s₂ := h1.upd rfl
  have h3 : Keeps r s₃ := recodeAttic_keeps (h2.upd rfl)
  exact settleBooks_keeps (settleIso_keeps (h3.upd rfl))

end

/-! ### Machine/Pool.lean -/

section

variable {r s : State} {v job m ext l : Nat} {e : Extent} {a : List Nat}

theorem commitJobOpen_keeps (h : Keeps r s) : Keeps r (commitJobOpen v s).2 := by
  unfold commitJobOpen
  split <;> exact h.upd rfl
theorem commitJobClose_keeps (h : Keeps r s) : Keeps r (commitJobClose v s).2 := by
  unfold commitJobClose
  exact .iteSnd ((closeJob_keeps h).upd rfl) (h.upd rfl)
theorem commitJobSlots_keeps (h : Keeps r s) : Keeps r (commitJobSlots v s).2 := by
  unfold commitJobSlots
  exact .iteSnd ((modJob_keeps h).upd rfl) (h.upd rfl)
theorem commitMemberAdd_keeps (h : Keeps r s) : Keeps r (commitMemberAdd v s).2 := by
  unfold commitMemberAdd
  exact .iteSnd (journalAny_keeps (modJob_keeps h)) h
theorem removeMember_keeps (h : Keeps r s) : Keeps r (removeMember job m s) := by
  unfold removeMember
  exact journalAny_keeps (collMemberGone_keeps (each_keeps ((modJob_keeps (clearBindings_keeps h)).upd rfl) fun _ _ h1
    => queueError_keeps h1))
theorem commitMemberRemove_keeps (h : Keeps r s) : Keeps r (commitMemberRemove v s).2 := by
  unfold commitMemberRemove
  extract_lets
  split
  · exact h
  split
  · dsimp only
    exact removeMember_keeps h
  · exact h
theorem makeExtent_keeps (h : Keeps r s) : Keeps r (makeExtent ext e s) := by
  unfold makeExtent
  extract_lets _ _ s₁ s₂
  have h1 : Keeps r s₁ := h.upd rfl
  have h2 : Keeps r s₂ := by
    unfold s₂
    split
    · exact h1.upd rfl
    · exact h1
  split
  · exact h2
  split
  · exact h2
  · exact h2.upd rfl
theorem allocate_keeps (h : Keeps r s) : Keeps r (allocate v s) := by
  unfold allocate
  extract_lets
  split
  · exact (journalExt_keeps (makeExtent_keeps h)).upd rfl
  · exact h.upd rfl
theorem revoke_keeps (h : Keeps r s) : Keeps r (revoke v s) := by
  unfold revoke
  extract_lets
  split
  · exact h.upd rfl
  · exact (Keeps.ite (revokeExt_keeps h) h).upd rfl
theorem setAcl_keeps (h : Keeps r s) : Keeps r (setAcl v s) := by
  unfold setAcl
  extract_lets
  split
  · exact h.upd rfl
  · exact .ite ((journalExt_keeps (h.upd rfl)).upd rfl) (h.upd rfl)
theorem askShadow_keeps (h : Keeps r s) : Keeps r (askShadow v s) := by
  unfold askShadow
  exact sendCtl_keeps (h.upd rfl)
theorem runExtents_keeps (h : Keeps r s) : Keeps r (runExtents a s) := by
  induction a generalizing s with
  | nil => exact h
  | cons v l ih =>
    unfold runExtents
    extract_lets e
    exact .ite (.ite (.ite (ih (h.upd rfl)) (askShadow_keeps (h.upd rfl))) (ih (allocate_keeps h)))
      (.ite (ih (revoke_keeps h)) (.ite (ih (setAcl_keeps h)) (ih (h.upd rfl))))
theorem resumeExtents_keeps (h : Keeps r s) : Keeps r (resumeExtents s) := by
  unfold resumeExtents
  exact runExtents_keeps (h.upd rfl)
theorem commitExtent_keeps (h : Keeps r s) : Keeps r (commitExtent v s).2 := by
  unfold commitExtent
  exact .iteSnd (runExtents_keeps h) (h.upd rfl)
theorem writeAcl_keeps (h : Keeps r s) : Keeps r (writeAcl l v s) := by
  unfold writeAcl
  exact each_keeps (journalAny_keeps (h.upd rfl)) fun _ _ h1 => .ite (queueScan_keeps h1) h1
theorem commitAcl_keeps (h : Keeps r s) : Keeps r (commitAcl l v s).2 := by
  unfold commitAcl
  exact .iteSnd (writeAcl_keeps h) h
theorem commitKeyDestroy_keeps (h : Keeps r s) : Keeps r (commitKeyDestroy v s).2 := by
  unfold commitKeyDestroy
  exact .iteSnd h (h.upd rfl)
theorem drainedRow_keeps (h : Keeps r s) : Keeps r (drainedRow ext s) := by
  unfold drainedRow
  split
  · exact .ite (drainedExt_keeps h) h
  · exact h
theorem drainBound_keeps (h : Keeps r s) : Keeps r (drainBound ext s) := by
  unfold drainBound
  split
  · exact .ite (forceDrain_keeps (h.upd rfl)) h
  · exact h

end

/-! ### Machine/WorkCmds.lean -/

section

variable {r s : State} {job addr n v : Nat}

theorem zeroRange_keeps (h : Keeps r s) : Keeps r (zeroRange job addr n s) := by
  unfold zeroRange
  split
  · exact h
  extract_lets lo hi s₁ zero part
  have h1 : Keeps r s₁ := each_keeps h fun _ _ h2 => cleanLine_keeps h2
  refine each_keeps h1 fun ck s h2 => ?_
  unfold part
  extract_lets a z s₂ _ s₃ s₄
  have h3 : Keeps r s₂ := .ite (placeNew_keeps h2) h2
  have h4 : Keeps r s₃ :=
    .ite (each_keeps h3 fun _ _ h5 => ownLine_keeps h5) (h3.updMem rfl (memClear_wf _ _))
  have h5 : Keeps r s₄ := markCrate_keeps (dirtyCrate_keeps h4)
  exact onlyIf_keeps h5 fun _ h6 => each_keeps h6 fun _ _ h7 => journalLk_keeps h7
theorem queueCreate_keeps (h : Keeps r s) : Keeps r (queueCreate v s) := by
  unfold queueCreate
  exact qcbPut_keeps ((zeroRange_keeps (zeroRange_keeps h)).upd rfl)
theorem runQueueCmd_keeps (h : Keeps r s) : Keeps r (runQueueCmd v s).2 := by
  unfold runQueueCmd
  extract_lets
  split
  · exact .iteSnd (queueCreate_keeps h) h
  split
  · exact h
  · exact .iteSnd (.iteSnd h h) (.iteSnd (queueDestroy_keeps h) (.iteSnd (.ite h (queueTo_keeps h)) (.iteSnd
      (cancelQueue_keeps h) (.iteSnd (h.upd rfl) h))))
theorem commitQueue_keeps (h : Keeps r s) : Keeps r (commitQueue v s).2 := by
  unfold commitQueue
  exact (runQueueCmd_keeps h).upd rfl
theorem commitJobHens_keeps (h : Keeps r s) : Keeps r (commitJobHens v s).2 := by
  unfold commitJobHens
  extract_lets _ _ s₁ _ _ _ s₂
  have h1 : Keeps r s₁ := modJob_keeps h
  have h2 : Keeps r s₂ := h1.upd rfl
  split
  · exact h2.upd rfl
  · exact h.upd rfl
theorem runCollCmd_keeps (h : Keeps r s) : Keeps r (runCollCmd v s).2 := by
  unfold runCollCmd
  extract_lets
  split
  · exact .iteSnd (h.upd rfl) h
  split
  · split
    · exact h
    · exact .iteSnd h (h.upd rfl)
  · exact h
theorem commitColl_keeps (h : Keeps r s) : Keeps r (commitColl v s).2 := by
  unfold commitColl
  exact (runCollCmd_keeps h).upd rfl

end

/-! ### Machine/TxnRows.lean -/

section

variable {r s : State} {p obj tag lk v seq : Nat} {h' : Hdr} {k : TxKind}

theorem preActive_keeps (h : Keeps r s) : Keeps r (preActive p s) := by
  unfold preActive
  exact .ite (h.upd rfl) h
theorem request_keeps (h : Keeps r s) : Keeps r (request h' k s) :=
  .ite (preActive_keeps h) (.ite (h.upd rfl) (.ite (portReset_keeps (h.upd rfl)) (accept_keeps h)))
theorem ownReverted_keeps (h : Keeps r s) : Keeps r (ownReverted obj s) := by
  unfold ownReverted
  split
  · exact h
  · exact .ite (ownRevert_keeps (h.upd rfl)) h
theorem fenceDone_keeps (h : Keeps r s) : Keeps r (fenceDone p tag s) := by
  unfold fenceDone
  split
  · exact h
  · exact .ite (finishTx_keeps h) h
theorem releaseRun_keeps (h : Keeps r s) : Keeps r (releaseRun p tag s) := by
  unfold releaseRun
  split
  · exact h
  · exact .ite (runTx_keeps (h.upd rfl)) h
theorem batchDue_keeps (h : Keeps r s) : Keeps r (batchDue lk s) := by
  unfold batchDue
  split
  · exact h
  · exact .cut (.ite (placeNew_keeps (h.upd rfl)) (h.upd rfl)) fun h1 => .ite (writeBatch_keeps h1) h1
theorem trackFreed_keeps (h : Keeps r s) : Keeps r (trackFreed p tag s) := by
  unfold trackFreed
  split
  · exact h
  · exact .ite h (enterHome_keeps (h.upd rfl))
theorem epochDrained_keeps (h : Keeps r s) : Keeps r (epochDrained p s) := .ite h (.ite (h.upd rfl) h)
theorem commitTrackMin_keeps (h : Keeps r s) : Keeps r (commitTrackMin p v s).2 := by
  unfold commitTrackMin
  exact .iteSnd h (.iteSnd h (h.upd rfl))
theorem peerAcked_keeps (h : Keeps r s) : Keeps r (peerAcked p seq s) := .ite (h.upd rfl) h

end

/-! ### Machine/Mirror.lean -/

section

variable {r s : State} {seq src ck ext rid index op version answered v a' p entry kcv lk idx member job : Nat} {e :
  Extent} {forms : List (Nat × Nat × Nat)} {r' : Region} {a refused : List Nat} {st : Status} {d : List Byte} {recs :
  List JRec} {c : MirrorMsg} {h' : Shadow}

theorem mirrorLostEvent_keeps (h : Keeps r s) : Keeps r (mirrorLostEvent s) := raise_keeps h
theorem resend_keeps (h : Keeps r s) : Keeps r (resend s) := by
  unfold resend
  exact each_keeps (h.upd rfl) fun _ _ h1 => sendPeer_keeps h1
theorem acknowledged_keeps (h : Keeps r s) : Keeps r (acknowledged seq s) := by
  unfold acknowledged
  exact each_keeps ((each_keeps h fun _ _ h1 => landTx_keeps h1).upd rfl) fun _ _ h2 => h2.upd rfl
theorem forgetRecords_keeps (h : Keeps r s) : Keeps r (forgetRecords s) := acknowledged_keeps (h.upd rfl)
theorem copyForm_keeps (h : Keeps r s) : Keeps r (copyForm e src s) := by
  unfold copyForm
  exact each_keeps (journalRec_keeps (writeBatchesOf_keeps h)) fun _ _ h1 => journalLk_keeps h1
theorem copyRecords_keeps (h : Keeps r s) : Keeps r (copyRecords ck s) := by
  unfold copyRecords
  split
  · exact h
  · exact copyForm_keeps h
theorem regionRecord_keeps (h : Keeps r s) : Keeps r (regionRecord e ext rid index op version answered s) := by
  unfold regionRecord
  exact journalRec_keeps h
theorem draftRecords_keeps (h : Keeps r s) : Keeps r (draftRecords e ext index forms s) := by
  unfold draftRecords
  exact each_keeps h fun _ _ h1 => each_keeps (journalRec_keeps (writeBatchesOf_keeps h1)) fun _ _ h2 =>
    journalRec_keeps h2
theorem bindRecords_keeps (h : Keeps r s) : Keeps r (bindRecords e ext rid r' v s) :=
  each_keeps h fun _ _ h1 => .ite (draftRecords_keeps (regionRecord_keeps h1)) (regionRecord_keeps h1)
theorem versionRecords_keeps (h : Keeps r s) : Keeps r (versionRecords e ext rid r' a a' s) := by
  induction a generalizing a' s with
  | nil => exact h
  | cons w l ih => exact ih (bindRecords_keeps (regionRecord_keeps (draftRecords_keeps (regionRecord_keeps h))))
theorem copyRegion_keeps (h : Keeps r s) : Keeps r (copyRegion ext rid r' s) := by
  unfold copyRegion
  split
  · exact regionRecord_keeps (versionRecords_keeps (bindRecords_keeps (regionRecord_keeps (each_keeps (each_keeps h fun
      _ _ h1 => regionRecord_keeps h1) fun _ _ h2 => copyForm_keeps h2))))
  · exact h
theorem copyExt_keeps (h : Keeps r s) : Keeps r (copyExt ext s) := by
  unfold copyExt
  split
  · exact copyRegion_keeps h
  · exact each_keeps h fun _ _ h1 => copyRecords_keeps h1
theorem copyMarked_keeps (h : Keeps r s) : Keeps r (copyMarked s) := by
  unfold copyMarked
  exact each_keeps (each_keeps (h.upd rfl) fun _ _ h1 => copyRecords_keeps h1) fun _ _ h2 => copyExt_keeps h2
theorem journalAll_keeps (h : Keeps r s) : Keeps r (journalAll s) := by
  unfold journalAll
  exact each_keeps (each_keeps (each_keeps (each_keeps (h.upd rfl) fun _ _ h1 => journalAny_keeps h1) fun _ _ h2 =>
    journalExt_keeps h2) fun _ _ h3 => each_keeps h3 fun _ _ h4 => journalAny_keeps h4) fun _ _ h5 => journalAny_keeps
    h5
theorem journalAcked_keeps (h : Keeps r s) : Keeps r (journalAcked src seq s) := by
  unfold journalAcked
  exact .ite h (.cut (acknowledged_keeps (h.upd rfl)) fun h1 => .ite (copyMarked_keeps (resend_keeps (h1.upd rfl))) h1)
theorem endWaiting_keeps (h : Keeps r s) : Keeps r (endWaiting st s) := by
  unfold endWaiting
  split
  · exact h
  · exact resumeExtents_keeps (h.upd rfl)
theorem relationLost_keeps (h : Keeps r s) : Keeps r (relationLost s) := by
  unfold relationLost
  exact endWaiting_keeps (each_keeps (mirrorLostEvent_keeps (h.upd rfl)) fun _ _ h1 => holdTx_keeps h1)
theorem mirrorLost_keeps (h : Keeps r s) : Keeps r (mirrorLost s) := by
  unfold mirrorLost
  extract_lets _ dead
  clear_value dead
  split
  · exact h
  split
  · exact h
  · exact relationLost_keeps (.ite h (h.upd rfl))
theorem commitMirrorRelease_keeps (h : Keeps r s) : Keeps r (commitMirrorRelease s).2 := by
  unfold commitMirrorRelease
  exact .iteSnd h (forgetRecords_keeps (h.upd rfl))
theorem commitMirrorResync_keeps (h : Keeps r s) : Keeps r (commitMirrorResync s).2 := by
  unfold commitMirrorResync
  exact .iteSnd h (copyMarked_keeps (journalAll_keeps (h.upd rfl)))
theorem mirrorCopyDone_keeps (h : Keeps r s) : Keeps r (mirrorCopyDone refused s) := by
  unfold mirrorCopyDone
  exact .ite h ((copyMarked_keeps (each_keeps h fun _ _ h1 => mirrorLostEvent_keeps (h1.upd rfl))).upd rfl)
theorem commitMirrorPeer_keeps (h : Keeps r s) : Keeps r (commitMirrorPeer v s).2 := by
  unfold commitMirrorPeer
  extract_lets _ s₁ s₂ s₃ _ _ s₄ s₅ _ s₆ s₇ s₈
  have h1 : Keeps r s₁ := .ite h (sendCtl_keeps h)
  have h2 : Keeps r s₂ := forgetRecords_keeps (endWaiting_keeps h1)
  have h3 : Keeps r s₃ := h2.upd rfl
  have h4 : Keeps r s₄ := h3.upd rfl
  have h5 : Keeps r s₅ := h4.upd rfl
  have h6 : Keeps r s₆ := by
    refine each_keeps h5 fun _ _ h7 => ?_
    split
    · exact h7.upd rfl
    · exact h7
  have h7 : Keeps r s₇ := by
    refine each_keeps h6 fun _ _ h8 => ?_
    split
    · exact sendCtl_keeps h8
    · exact h8
  have h8 : Keeps r s₈ := h7.upd rfl
  split
  · exact h
  split
  · exact h
  split
  · exact h3.upd rfl
  dsimp only
  exact each_keeps (journalAll_keeps h8) fun _ _ h9 => copyExt_keeps h9
theorem shadowAnswered_keeps {st : Nat} (h : Keeps r s) : Keeps r (shadowAnswered ext st s) := by
  unfold shadowAnswered
  split
  · exact .ite (endWaiting_keeps h) (.ite (endWaiting_keeps h) (resumeExtents_keeps ((journalExt_keeps
      (makeExtent_keeps h)).upd rfl)))
  · exact .ite h (mirrorLostEvent_keeps (h.upd rfl))
theorem shadowMade_keeps (h : Keeps r s) : Keeps r (shadowMade p entry kcv s).2 := by
  unfold shadowMade
  extract_lets
  split
  · exact h
  split
  · exact h
  split
  · exact h
  split
  · exact h
  · exact .iteSnd h ((makeExtent_keeps h).upd rfl)
theorem shadowLine_keeps (h : Keeps r s) : Keeps r (shadowLine lk d s) :=
  dirtyCrate_keeps (ownLine_keeps (cleanLine_keeps h))
theorem shadowDraft_keeps (h : Keeps r s) : Keeps r (shadowDraft ext idx member s).2 := by
  unfold shadowDraft
  split
  · exact h
  split
  · exact h
  · exact draftCrate_keeps h
theorem shadowRegion_keeps (h : Keeps r s) : Keeps r (shadowRegion ext member op version answered s) := by
  unfold shadowRegion
  extract_lets
  split
  · extract_lets s₁ _ _ s₂
    have h1 : Keeps r s₁ := .ite (h.upd rfl) h
    have h2 : Keeps r s₂ := regionCmd_keeps h1
    split
    · exact h2
    · exact .ite h2 (h2.upd rfl)
  · exact h
theorem applyRecord_keeps {r' : JRec} (h : Keeps r s) : Keeps r (applyRecord p r' s) := by
  unfold applyRecord
  extract_lets _ _ s₁ _ _ _ _ _ _ s₂
  have h1 : Keeps r s₁ := h.upd rfl
  have h2 : Keeps r s₂ := onlyIf_keeps h1 fun _ h3 => clearBindings_keeps h3
  split
  · exact h1.upd rfl
  split
  · exact h2.upd rfl
  split
  · exact h1.upd rfl
  split
  · split
    · split
      · split
        · exact h1.upd rfl
        · exact h1
      · exact revokeExt_keeps h1
    · exact h1.upd rfl
  · split
    · exact h1
    split
    · exact shadowRegion_keeps h1
    split
    · exact shadowDraft_keeps h1
    split
    · exact dirtyCrate_keeps (zeroCrate_keeps h1)
    split
    · split
      · split
        · exact shadowLine_keeps (.pair ‹_› (shadowDraft_keeps h1))
        · exact .pair ‹_› (shadowDraft_keeps h1)
      · exact shadowLine_keeps h1
    · exact h1
theorem applyRecords_keeps {a : List JRec} (h : Keeps r s) : Keeps r (applyRecords p a s) := by
  induction a generalizing s with
  | nil => exact h
  | cons x l ih =>
    unfold applyRecords
    extract_lets last
    exact .ite (ih h) (.ite (ih (applyRecord_keeps h)) h)
theorem journalIn_keeps (h : Keeps r s) : Keeps r (journalIn p recs s) := by
  unfold journalIn
  split
  · exact .ite (sendCtl_keeps h) (sendPeer_keeps ((applyRecords_keeps h).upd rfl))
  · exact sendPeer_keeps ((applyRecords_keeps (h.upd rfl)).upd rfl)
theorem shadowsReleased_keeps (h : Keeps r s) : Keeps r (shadowsReleased p s) := by
  unfold shadowsReleased
  split
  · exact h
  · exact .ite h ((each_keeps h fun _ _ h1 => revokeExt_keeps h1).upd rfl)
theorem mirrorCtl_keeps (h : Keeps r s) : Keeps r (mirrorCtl p c s) := by
  unfold mirrorCtl
  extract_lets
  split
  · split
    · exact .ite h (revokeExt_keeps h)
    · exact h
  · exact .ite (sendCtl_keeps h) (sendCtl_keeps (shadowMade_keeps h))
  · exact .ite (shadowAnswered_keeps h) h
  · exact shadowsReleased_keeps h
  · exact onlyIf_keeps h fun _ h1 => relationLost_keeps h1
theorem takeJob_keeps (h : Keeps r s) : Keeps r (takeJob h' job s) := by
  unfold takeJob
  extract_lets
  split
  · exact .ite (h.upd rfl) (h.upd rfl)
  · split <;> exact h.upd rfl
theorem takeOver_keeps (h : Keeps r s) : Keeps r (takeOver h' s) := by
  unfold takeOver
  refine raise_keeps (ledger_keeps (each_keeps (each_keeps ((each_keeps (h.upd rfl) fun _ _ h1 => takeJob_keeps h1).upd
    rfl) fun _ _ h2 => ?_) fun _ _ h3 => h3.upd rfl))
  split
  · exact h2.upd rfl
  · exact h2
theorem commitTakeover_keeps (h : Keeps r s) : Keeps r (commitTakeover v s).2 := by
  unfold commitTakeover
  split
  · exact .iteSnd h (takeOver_keeps h)
  · exact h

end

/-! ### Machine/CohRows.lean -/

section

variable {r s : State} {w v p result ctag job addr lseq q : Nat} {k : State → State} {x : Snoop} {keep : Bool} {data :
  List Byte}

theorem cohSettle_keeps (h : Keeps r s) : Keeps r (cohSettle s) := settle_keeps (startFlushes_keeps h)
theorem commitCohWindow_keeps (h : Keeps r s) : Keeps r (commitCohWindow w v s).2 := by
  unfold commitCohWindow
  exact .iteSnd (h.upd rfl) (.iteSnd (h.upd rfl) (.iteSnd (h.upd rfl) (queueScan_keeps (h.upd rfl))))
theorem cohError_keeps (h : Keeps r s) : Keeps r (cohError p s) := portReset_keeps (h.upd rfl)
theorem cohFrame_keeps (h : Keeps r s) (hk : ∀ s, Keeps r s → Keeps r (k s)) : Keeps r (cohFrame p k s) :=
  .ite (preActive_keeps h) (.ite (h.upd rfl) (.ite (cohError_keeps h) (hk _ h)))
theorem freeIfAnswered_keeps (h : Keeps r s) : Keeps r (freeIfAnswered x s) :=
  .ite (.ite h (h.upd rfl)) (dropHolder_keeps h)
theorem ownerData_keeps (h : Keeps r s) : Keeps r (ownerData x keep data s) := by
  unfold ownerData
  extract_lets s₁ s₂
  have h1 : Keeps r s₁ := onlyIf_keeps (h.upd rfl) fun _ h2 => h2.upd rfl
  have h2 : Keeps r s₂ := .ite h1 (mergeBack_keeps h1)
  split
  · split
    · exact h2.upd rfl
    · exact h2
  · exact h2.upd rfl
theorem snoopAnswer_keeps (h : Keeps r s) : Keeps r (snoopAnswer x result data s) := by
  unfold snoopAnswer
  extract_lets _ _ s₁ _ s₂ s₃
  have h1 : Keeps r s₁ := onlyIf_keeps h fun _ h2 => h2.upd rfl
  have h2 : Keeps r s₂ := h1.upd rfl
  have h3 : Keeps r s₃ := h.upd rfl
  split
  · exact cohError_keeps h
  split
  · split
    · split
      · exact cohError_keeps h1
      · exact cohAck_keeps (ownerData_keeps (h1.upd rfl))
    · exact .ite (freeIfAnswered_keeps h2) (dropHolder_keeps h2)
  · exact .ite (ownerData_keeps (h.upd rfl)) (.ite (freeIfAnswered_keeps h3) h3)
theorem snpRsp_keeps (h : Keeps r s) : Keeps r (snpRsp p ctag result data s) := by
  unfold snpRsp
  split
  · exact cohError_keeps h
  · exact snoopAnswer_keeps h
theorem evictIn_keeps (h : Keeps r s) : Keeps r (evictIn p job addr lseq result data s) := by
  unfold evictIn
  split
  · split
    · exact cohError_keeps h
    extract_lets s₁
    have h1 : Keeps r s₁ := h.upd rfl
    split
    · exact send_keeps (h1.upd rfl)
    · exact .ite (h1.upd rfl) (doEvict_keeps h1)
  · split
    · exact cohError_keeps h
    extract_lets s₁
    have h1 : Keeps r s₁ := h.upd rfl
    split
    · exact send_keeps (h1.upd rfl)
    · exact .ite (h1.upd rfl) (doEvict_keeps h1)
theorem migAck_keeps (h : Keeps r s) : Keeps r (migAck p job addr s) := by
  unfold migAck
  split
  · exact cohError_keeps h
  · exact h.upd rfl
theorem snoopTimeout_keeps (h : Keeps r s) : Keeps r (snoopTimeout ctag s) := by
  unfold snoopTimeout
  split
  · exact h
  · exact .cut (portReset_keeps (raise_keeps (ledger_keeps (h.upd rfl)))) fun h1 => .ite (loseSnoop_keeps (h1.upd rfl))
      h1
theorem scanDone_keeps (h : Keeps r s) : Keeps r (scanDone s) := by
  unfold scanDone
  refine .ite h (each_keeps (each_keeps (h.upd rfl) fun _ _ h1 => scanApply_keeps h1) fun _ _ h2 => ?_)
  split
  · exact h2.upd rfl
  · exact h2
theorem wayFreed_keeps (h : Keeps r s) : Keeps r (wayFreed q s) := .ite (settle_keeps h) h

end

/-! ### Machine/FlitTx.lean -/

section

variable {r s : State} {p typ vc op n body : Nat} {f : TxFlit} {payload content : List Byte}

theorem sendFlit_keeps (h : Keeps r s) : Keeps r (sendFlit p f s) := send_keeps h
theorem sendBare_keeps (h : Keeps r s) : Keeps r (sendBare p typ s) := send_keeps h
theorem newFlit_keeps (h : Keeps r s) : Keeps r (newFlit p typ vc payload s) := by
  unfold newFlit
  exact sendFlit_keeps (h.upd rfl)
theorem sendFrame_keeps (h : Keeps r s) : Keeps r (sendFrame p vc content s) := by
  unfold sendFrame
  exact each_keeps (h.upd rfl) fun _ _ h1 => newFlit_keeps h1
theorem sendMgmt_keeps (h : Keeps r s) : Keeps r (sendMgmt p op n body s) := by
  unfold sendMgmt
  exact sendFrame_keeps (send_keeps h)
theorem payCredits_keeps (h : Keeps r s) : Keeps r (payCredits p s) := by
  unfold payCredits
  exact .ite h (newFlit_keeps (h.upd rfl))

end

/-! ### Machine/Traffic.lean -/

section

variable {r s : State} {p c bytes v i t l : Nat} {x : Status × State} {g : Gate}

theorem meterFrame_keeps (h : Keeps r s) : Keeps r (meterFrame p c bytes s).2 := by
  unfold meterFrame
  exact .iteSnd (h.upd rfl) (.iteSnd (h.upd rfl) (.iteSnd (h.upd rfl) (h.upd rfl)))
theorem ctrlTake_keeps (h : Keeps r s) : Keeps r (ctrlTake p c s).2 := by
  unfold ctrlTake
  exact onlyIf_keeps (h.upd rfl) fun _ h1 => h1.upd rfl
theorem shaperCharge_keeps (h : Keeps r s) : Keeps r (shaperCharge p c bytes s) := by
  unfold shaperCharge
  exact .ite h (h.upd rfl)
theorem shaperWait_keeps (h : Keeps r s) : Keeps r (shaperWait p c s) := by
  unfold shaperWait
  exact .ite h (h.upd rfl)
theorem trafficLinkUp_keeps (h : Keeps r s) : Keeps r (trafficLinkUp p s) := by
  unfold trafficLinkUp
  exact (foldl_keeps _ (fun _ _ h1 => h1.upd rfl) _ h).upd rfl
theorem tcPost_keeps (h : Keeps r x.2) : Keeps r (tcPost x).2 := h.upd rfl
theorem commitTcMap_keeps (h : Keeps r s) : Keeps r (commitTcMap v s).2 := by
  unfold commitTcMap
  exact (Keeps.iteSnd h (h.upd rfl)).upd rfl
theorem commitQuantum_keeps (h : Keeps r s) : Keeps r (commitQuantum v s).2 := by
  unfold commitQuantum
  exact (Keeps.iteSnd (h.upd rfl) h).upd rfl
theorem commitShaper_keeps (h : Keeps r s) : Keeps r (commitShaper i v s).2 := by
  unfold commitShaper
  exact (Keeps.iteSnd h (h.upd rfl)).upd rfl
theorem commitPortGate_keeps (h : Keeps r s) : Keeps r (commitPortGate p v s).2 := by
  unfold commitPortGate
  exact (Keeps.iteSnd h (h.upd rfl)).upd rfl
theorem timebaseTo_keeps (h : Keeps r s) : Keeps r (timebaseTo t s) := .ite h (h.upd rfl)
theorem gateTo_keeps (h : Keeps r s) : Keeps r (gateTo l g s) := by
  unfold gateTo
  exact onlyIf_keeps (h.upd rfl) fun _ h1 => raise_keeps h1
theorem gateCommitStatus_keeps (h : Keeps r s) : Keeps r (gateCommitStatus l s).2 := by
  unfold gateCommitStatus
  extract_lets
  split
  · split
    · exact h
    · exact gateTo_keeps h
    · exact h.upd rfl
    · exact h.upd rfl
  · exact .iteSnd h (gateTo_keeps h)
theorem commitGate_keeps (h : Keeps r s) : Keeps r (commitGate v s).2 := by
  unfold commitGate
  exact (Keeps.iteSnd (gateCommitStatus_keeps h) h).upd rfl
theorem gateSwitch_keeps (h : Keeps r s) : Keeps r (gateSwitch l s) := by
  unfold gateSwitch
  exact .ite h ((gateTo_keeps (onlyIf_keeps (onlyIf_keeps (timebaseTo_keeps h) fun _ h1 => h1.upd rfl) fun _ h2 =>
    h2.upd rfl)).upd rfl)
theorem gateEntryEnd_keeps (h : Keeps r s) : Keeps r (gateEntryEnd l s) := by
  unfold gateEntryEnd
  exact .ite h (.cut (timebaseTo_keeps h) fun h1 => .ite (h1.upd rfl) (.ite (h1.upd rfl) (.ite (gateTo_keeps h1) (.ite
    (h1.upd rfl) (h1.upd rfl)))))

end

/-! ### Machine/Links.lean -/

section

variable {r s : State} {r' : ResetRec} {ended unrecorded p o n version role width depth claim digest exponent modulus
  sig nonce tag status v lane : Nat} {raw : List (Nat × Nat)} {k : State → State} {ph : Phase} {lanes credits : List
  Nat}

theorem resetRecord_keeps (h : Keeps r s) : Keeps r (resetRecord r' ended unrecorded s) := by
  unfold resetRecord
  exact raise_keeps ((ledger_keeps h).upd rfl)
theorem endPortReset_keeps (h : Keeps r s) : Keeps r (endPortReset p s) := by
  unfold endPortReset
  split
  · exact h
  · exact resetRecord_keeps (h.upd rfl)
theorem reshape_keeps (h : Keeps r s) : Keeps r (reshape o s) := by
  unfold reshape
  exact each_keeps h fun _ _ h1 => .ite (portLeaves_keeps h1) (endPortReset_keeps (portLeaves_keeps h1))
theorem commitPortConfigs_keeps (h : Keeps r s) : Keeps r (commitPortConfigs raw s).2 := by
  unfold commitPortConfigs
  exact .iteSnd h (each_keeps (each_keeps h fun _ _ h1 => h1.upd rfl) fun _ _ h2 => reshape_keeps h2)
/-- One PORT_CONFIG, by the equation between functions: reduction would run the list of one. -/
theorem commitPortConfig_eq {p v : Nat} {l : List Status} {t : State} (ht : commitPortConfigs [(p, v)] s = (l, t)) :
    commitPortConfig p v s = (l.headD .refusedFormat, settle t) := by
  have e : commitPortConfig = fun p v s => match commitPortConfigs [(p, v)] s with
      | (l, t) => (l.headD .refusedFormat, settle t) := by
    delta commitPortConfig
    exact Eq.refl _
  refine (congrFun (congrFun (congrFun e p) v) s).trans ?_
  rw [ht]
theorem commitPortConfig_keeps {p v : Nat} (h : Keeps r s) : Keeps r (commitPortConfig p v s).2 := by
  rcases ht : commitPortConfigs [(p, v)] s with ⟨l, t⟩
  rw [commitPortConfig_eq ht]
  exact settle_keeps (Keeps.pair ht (commitPortConfigs_keeps h))
theorem linkEvent_keeps (h : Keeps r s) : Keeps r (linkEvent n p s) := raise_keeps h
theorem toHeld_keeps (h : Keeps r s) : Keeps r (toHeld p s) := by
  unfold toHeld
  exact endPortReset_keeps (linkEvent_keeps ((portLeaves_keeps h).upd rfl))
theorem linkRetrain_keeps (h : Keeps r s) (hk : ∀ s, Keeps r s → Keeps r (k s)) : Keeps r (linkRetrain p k s) := by
  unfold linkRetrain
  exact .ite (toHeld_keeps (h.upd rfl)) (hk _ (h.upd rfl))
theorem enterRecovery_keeps (h : Keeps r s) : Keeps r (enterRecovery p s) :=
  .ite h (linkRetrain_keeps h fun _ h1 => h1.upd rfl)
theorem inPhase_keeps (h : Keeps r s) (hk : ∀ s, Keeps r s → Keeps r (k s)) : Keeps r (inPhase p ph k s) :=
  .ite (hk _ h) h
theorem startParam_keeps (h : Keeps r s) : Keeps r (startParam p lanes s) := by
  unfold startParam
  exact sendMgmt_keeps (h.upd rfl)
theorem orderDone_keeps (h : Keeps r s) : Keeps r (orderDone p lanes s) := by
  unfold orderDone
  exact .ite (h.upd rfl) (startParam_keeps h)
theorem phaseTimeout_keeps (h : Keeps r s) : Keeps r (phaseTimeout p s) := by
  unfold phaseTimeout
  exact .ite (.ite (h.upd rfl) (h.upd rfl)) (.ite (h.upd rfl) h)
theorem sendNonce_keeps (h : Keeps r s) : Keeps r (sendNonce p s) := by
  unfold sendNonce
  exact sendMgmt_keeps ((draw_keeps h).upd rfl)
theorem startIdent_keeps (h : Keeps r s) : Keeps r (startIdent p s) := by
  unfold startIdent
  exact .ite (discover1_keeps (h.upd rfl)) (sendNonce_keeps (h.upd rfl))
theorem paramIn_keeps (h : Keeps r s) : Keeps r (paramIn p version role width depth credits s) := by
  unfold paramIn
  exact .ite (h.upd rfl) (startIdent_keeps (trafficLinkUp_keeps (h.upd rfl)))
theorem identDenied_keeps (h : Keeps r s) : Keeps r (identDenied p claim digest s) := by
  unfold identDenied
  exact (sendMgmt_keeps (h.upd rfl)).upd rfl
theorem bindPort_keeps (h : Keeps r s) : Keeps r (bindPort p claim digest s) := by
  unfold bindPort
  exact (linkEvent_keeps (endPortReset_keeps (sendMgmt_keeps (h.upd rfl)))).upd rfl
theorem tryBind_keeps (h : Keeps r s) : Keeps r (tryBind p s) := by
  unfold tryBind
  split
  · exact .ite (identDenied_keeps h) (.ite h (.ite (identDenied_keeps h) (.ite (identDenied_keeps h) (.ite h
      (bindPort_keeps h)))))
  · exact h
theorem identIn_keeps (h : Keeps r s) : Keeps r (identIn p claim exponent modulus sig nonce s) := by
  unfold identIn
  exact .ite h (.ite (identDenied_keeps h) (.ite (linkEvent_keeps (h.upd rfl)) (tryBind_keeps (h.upd rfl))))
theorem nonceIn_keeps (h : Keeps r s) : Keeps r (nonceIn p nonce tag s) := by
  unfold nonceIn
  exact .ite h (.ite (sendMgmt_keeps h) (sendMgmt_keeps h))
theorem identVerdict_keeps (h : Keeps r s) : Keeps r (identVerdict p status s) := .ite (h.upd rfl) (tryBind_keeps h)
theorem identTimeout_keeps (h : Keeps r s) : Keeps r (identTimeout p s) := by
  unfold identTimeout
  extract_lets _ _ s₁ s₂
  have h1 : Keeps r s₁ := h.upd rfl
  have h2 : Keeps r s₂ := by
    unfold s₂
    split
    · exact h1.upd rfl
    · exact h1
  exact .ite h (h2.upd rfl)
theorem commitPortExpect_keeps (h : Keeps r s) : Keeps r (commitPortExpect p v s).2 := by
  unfold commitPortExpect
  exact tryBind_keeps (h.upd rfl)
theorem trayAnswered_keeps {r' : TrayRsp} (h : Keeps r s) : Keeps r (trayAnswered r' s) := by
  unfold trayAnswered
  exact .cut (trayResponse_keeps h) fun h1 => .ite ((endPortReset_keeps h1).upd rfl) h1
theorem commitPortCmd_keeps (h : Keeps r s) : Keeps r (commitPortCmd p v s).2 := by
  unfold commitPortCmd
  exact .iteSnd (.ite (h.upd rfl) h) (.iteSnd (.ite h (settle_keeps (endPortReset_keeps (portLeaves_keeps h))))
    (.iteSnd (.ite (h.upd rfl) h) (.iteSnd (.ite (h.upd rfl) h) h)))
theorem replay_keeps (h : Keeps r s) : Keeps r (replay p s) := by
  unfold replay
  extract_lets
  split
  · exact h
  · exact .cut (each_keeps (h.upd rfl) fun _ _ h1 => sendFlit_keeps h1) fun h2 => .ite (enterRecovery_keeps (h2.upd
      rfl)) h2
theorem lossOfLock_keeps (h : Keeps r s) : Keeps r (lossOfLock p lane s) := .ite (enterRecovery_keeps h) h
theorem recoveryDone_keeps (h : Keeps r s) : Keeps r (recoveryDone p lanes s) := by
  unfold recoveryDone
  exact .ite h (.ite (portLeaves_keeps h) (replay_keeps (onlyIf_keeps (h.upd rfl) fun _ h1 => linkEvent_keeps h1)))
theorem recoveryTimeout_keeps (h : Keeps r s) : Keeps r (recoveryTimeout p s) := by
  unfold recoveryTimeout
  exact .ite h (portLeaves_keeps (h.upd rfl))
theorem holdExpired_keeps (h : Keeps r s) : Keeps r (holdExpired p s) := by
  unfold holdExpired
  exact .ite h (h.upd rfl)
theorem holdReset_keeps (h : Keeps r s) : Keeps r (holdReset p s) := by
  unfold holdReset
  exact .ite h (h.upd rfl)

end

/-! ### Machine/Switch.lean -/

section

variable {r s : State} {b slice a id tc link vc credit ingress dest cls hen line p c lk off v ctl prod first i port
  bank sub : Nat} {f : Frame} {content d : List Byte} {flow : Option (Nat × Nat)} {lines : List (List Byte)} {egress :
  Bool}

theorem takeCell_keeps (h : Keeps r s) : Keeps r (takeCell b s).2 := by
  unfold takeCell
  split <;> exact h.upd rfl
theorem takeCells_keeps (h : Keeps r s) : Keeps r (takeCells slice a s).2 := by
  induction a generalizing s with
  | zero => exact h
  | succ n ih =>
    unfold takeCells
    extract_lets b
    exact .iteSnd h (ih (onlyIf_keeps (takeCell_keeps h) fun _ h1 => h1.upd rfl))
theorem creditBack_keeps (h : Keeps r s) : Keeps r (creditBack f s) := .ite (h.upd rfl) h
theorem shareFrame_keeps (h : Keeps r s) : Keeps r (shareFrame id s) := by
  unfold shareFrame
  split
  · exact h
  · exact .ite h (creditBack_keeps (h.upd rfl))
theorem reshare_keeps (h : Keeps r s) : Keeps r (reshare s) := each_keeps h fun _ _ h1 => shareFrame_keeps h1
theorem frameLeaves_keeps (h : Keeps r s) : Keeps r (frameLeaves f s) := by
  unfold frameLeaves
  exact onlyIf_keeps ((each_keeps (h.upd rfl) fun _ _ h1 => h1.upd rfl).upd rfl) fun _ h2 => creditBack_keeps h2
theorem placeFrame_keeps (h : Keeps r s) : Keeps r (placeFrame f s) := by
  unfold placeFrame
  exact shareFrame_keeps ((takeCells_keeps h).upd rfl)
theorem inheritClass_keeps (h : Keeps r s) : Keeps r (inheritClass f s).2 := by
  unfold inheritClass
  split
  · exact h
  split
  · exact .iteSnd h (h.upd rfl)
  · exact h
theorem colourFrame_keeps (h : Keeps r s) : Keeps r (colourFrame f tc s).2 := by
  unfold colourFrame
  exact .iteSnd h (.iteSnd h (.cut (meterFrame_keeps h) fun h1 => .ite (h1.upd rfl) h1))
theorem switchIn_keeps (h : Keeps r s) : Keeps r (switchIn link vc credit content s) := by
  unfold switchIn
  exact placeFrame_keeps (colourFrame_keeps (inheritClass_keeps (.iteSnd (ctrlTake_keeps h) h)))
theorem switchFrom_keeps (h : Keeps r s) : Keeps r (switchFrom slice ingress dest vc cls flow content s) := by
  unfold switchFrom
  exact placeFrame_keeps (inheritClass_keeps h)
theorem switchOut_keeps (h : Keeps r s) : Keeps r (switchOut slice ingress dest vc cls content s) := switchFrom_keeps h
theorem switchHen_keeps (h : Keeps r s) : Keeps r (switchHen hen line dest vc content s) := by
  unfold switchHen
  exact switchFrom_keeps h
theorem remeter_keeps (h : Keeps r s) : Keeps r (remeter p c a s) := by
  induction a generalizing s with
  | zero => exact h
  | succ n ih =>
    unfold remeter
    split
    · exact h.upd rfl
    · split
      next heq =>
        have h1 := Keeps.pair heq (meterFrame_keeps h)
        exact .ite (h1.upd rfl) (ih (shareFrame_keeps (h1.upd rfl)))
theorem remeterAll_keeps (h : Keeps r s) : Keeps r (remeterAll p c s) := remeter_keeps h
theorem capPoke_keeps (h : Keeps r s) : Keeps r (capPoke lk off d s) := ownPut_keeps h
theorem capLinesPut_keeps (h : Keeps r s) : Keeps r (capLinesPut v ctl prod first lines s) := by
  unfold capLinesPut
  extract_lets put s₁
  have hp : ∀ l d s, Keeps r s → Keeps r (put l d s) := by
    intro l d s h1
    unfold put
    split
    · exact capPoke_keeps h1
    · exact h1
  have h1 : Keeps r s₁ := each_keeps h fun _ _ h2 => hp _ _ _ h2
  exact capPoke_keeps h1
theorem capFlush_keeps (h : Keeps r s) : Keeps r (capFlush i s) := by
  unfold capFlush
  extract_lets
  split
  · exact capLinesPut_keeps (h.upd rfl)
  · exact h.upd rfl
theorem commitCapture_keeps (h : Keeps r s) : Keeps r (commitCapture i v s).2 := by
  unfold commitCapture
  exact .iteSnd ((capFlush_keeps h).upd rfl) (h.upd rfl)
theorem captureWrite_keeps (h : Keeps r s) : Keeps r (captureWrite i v port egress slice content s) := by
  unfold captureWrite
  extract_lets
  split
  · exact h
  dsimp only
  exact .ite (h.upd rfl) (.cut (.iteSnd (draw_keeps h) h) fun h1 => .ite (h1.upd rfl) ((capLinesPut_keeps h1).upd rfl))
theorem capture_keeps (h : Keeps r s) : Keeps r (capture port egress slice content s) := by
  unfold capture
  exact .ite h (each_keeps h fun _ _ h1 => .ite h1 (.ite (captureWrite_keeps (h1.upd rfl)) (h1.upd rfl)))
theorem discardFrame_keeps (h : Keeps r s) : Keeps r (discardFrame f s) := by
  unfold discardFrame
  exact .cut (frameLeaves_keeps h) fun h1 => .ite (respond_keeps (h1.upd rfl)) (h1.upd rfl)
theorem cellFails_keeps (h : Keeps r s) : Keeps r (cellFails c f s) :=
  .ite (portReset_keeps ((frameLeaves_keeps h).upd rfl)) (discardFrame_keeps h)
theorem cellBad_keeps (h : Keeps r s) : Keeps r (cellBad c s) := each_keeps h fun _ _ h1 => cellFails_keeps h1
theorem gooseSweep_keeps (h : Keeps r s) : Keeps r (gooseSweep bank s) := by
  unfold gooseSweep
  refine onlyIf_keeps ((each_keeps ((each_keeps (each_keeps h fun _ _ h1 => ?_) fun _ _ h2 => raise_keeps (ledger_keeps
    (h2.upd rfl))).upd rfl) fun _ _ h3 => h3.upd rfl).upd rfl) fun _ h4 => h4.upd rfl
  split
  · exact cellFails_keeps h1
  · exact h1
theorem commitGuarantee_keeps (h : Keeps r s) : Keeps r (commitGuarantee sub v s).2 := by
  unfold commitGuarantee
  split
  · exact h
  · exact .iteSnd h (.iteSnd h (h.upd rfl))

end

/-! ### Machine/CellTime.lean -/

section

variable {r s : State} {o : Out} {f : Frame} {id slice i paths path lane n m b to_ v a p c : Nat} {x : List (Nat × Nat)
  × State} {used : List Nat}

theorem portMessage_keeps (h : Keeps r s) : Keeps r (portMessage o s) := by
  unfold portMessage
  split
  · exact switchOut_keeps h
  · exact switchOut_keeps h
  · exact switchOut_keeps h
  · exact each_keeps h fun _ _ h1 => switchOut_keeps h1
  · exact switchOut_keeps h
  · exact each_keeps h fun _ _ h1 => switchOut_keeps h1
  · exact switchHen_keeps h
  · exact switchOut_keeps h
  · exact switchHen_keeps h
  · exact h
theorem portOut_keeps (h : Keeps r s) : Keeps r (portOut s) := by
  unfold portOut
  exact each_keeps (h.upd rfl) fun _ _ h1 => portMessage_keeps h1
theorem noteTray_keeps (h : Keeps r s) : Keeps r (noteTray f s) := by
  unfold noteTray
  exact .ite (h.upd rfl) h
theorem egressStep_keeps (h : Keeps r x.2) : Keeps r (egressStep x id).2 := by
  unfold egressStep
  split
  · split
    · exact h
    · exact .iteSnd h (.iteSnd h (.iteSnd (frameLeaves_keeps h) (.iteSnd (frameLeaves_keeps (h.upd rfl)) (.iteSnd
        (frameLeaves_keeps (noteTray_keeps (capture_keeps (sendFrame_keeps h)))) h))))
theorem egress_keeps (h : Keeps r s) : Keeps r (egress slice s) := by
  unfold egress
  exact each_keeps (reshare_keeps (onlyIf_keeps (foldlP_keeps _ (fun _ _ h1 => egressStep_keeps h1) _ h) fun _ h2 =>
    h2.upd rfl)) fun _ _ h3 => payCredits_keeps h3
theorem grantClass_keeps (h : Keeps r s) : Keeps r (grantClass f s) := by
  unfold grantClass
  exact .ite h (shaperCharge_keeps (onlyIf_keeps h fun _ h1 => h1.upd rfl))
theorem normalOffer_keeps {o : Nat} (h : Keeps r s) : Keeps r (normalOffer slice i o s).2 := by
  unfold normalOffer
  exact .iteSnd h (h.upd rfl)
theorem offers_keeps (h : Keeps r s) : Keeps r (offers slice s).2 := by
  unfold offers
  refine foldlP_keeps _ (fun p io hp => ?_) _ h
  split
  split
  · exact hp
  · have h1 : Keeps r (normalOffer slice io.1 io.2 _).2 := normalOffer_keeps hp
    split
    next heq => exact h1.pair heq
    next heq => exact h1.pair heq
theorem noteWaits_keeps (h : Keeps r s) : Keeps r (noteWaits slice s) := by
  unfold noteWaits
  exact each_keeps h fun _ _ h1 => .ite (shaperWait_keeps h1) h1
theorem moveCell_keeps (h : Keeps r s) : Keeps r (moveCell id s) := by
  unfold moveCell
  split
  · exact h
  extract_lets s₁ _ s₂
  have h1 : Keeps r s₁ := h.upd rfl
  have h2 : Keeps r s₂ := by
    unfold s₂
    split
    · exact h1.upd rfl
    · exact h1
  exact h2.upd rfl
theorem grantOffer_keeps {o : Offer} (h : Keeps r s) : Keeps r (grantOffer slice o s) := by
  unfold grantOffer
  exact (grantClass_keeps (h.upd rfl)).upd rfl
theorem heldCells_keeps (h : Keeps r s) : Keeps r (heldCells slice s) :=
  (each_keeps h fun _ _ h1 => moveCell_keeps h1).upd rfl
theorem sheepdogCycle_keeps (h : Keeps r s) : Keeps r (sheepdogCycle slice paths s) := by
  unfold sheepdogCycle
  exact heldCells_keeps (each_keeps ((offers_keeps (noteWaits_keeps h)).upd rfl) fun _ _ h1 => grantOffer_keeps h1)
theorem arrive_keeps (h : Keeps r s) : Keeps r (arrive id s) := by
  unfold arrive
  split
  · exact h.upd rfl
  · exact h
theorem reseqStep_keeps (h : Keeps r s) : Keeps r (reseqStep slice s id) := by
  unfold reseqStep
  split
  · exact h
  · exact .ite (arrive_keeps (h.upd rfl)) h
theorem reseqDrain_keeps (h : Keeps r s) : Keeps r (reseqDrain slice s) :=
  foldl_keeps _ (fun _ _ h1 => reseqStep_keeps h1) _ h
theorem stageOne_keeps (h : Keeps r s) : Keeps r (stageOne slice path lane used s).2 := by
  unfold stageOne
  extract_lets
  split
  · exact h
  split
  · exact h
  split
  · exact h
  extract_lets s₁ s₂ s₃ s₄
  have h1 : Keeps r s₁ := .ite (grantClass_keeps h) h
  have h2 : Keeps r s₂ := h1.upd rfl
  have h3 : Keeps r s₃ := h2.upd rfl
  have h4 : Keeps r s₄ := h3.upd rfl
  exact (Keeps.ite ((Keeps.ite (h4.upd rfl) h4).upd rfl) (.ite (h4.upd rfl) h4)).upd rfl
theorem stageTwo_keeps (h : Keeps r s) : Keeps r (stageTwo slice path lane s) := by
  unfold stageTwo
  extract_lets
  split
  · exact h
  extract_lets
  split
  · exact h.upd rfl
  · exact .ite (.ite (arrive_keeps (h.upd rfl)) h) (.ite (h.upd rfl) h)
theorem cyclicCycle_keeps (h : Keeps r s) : Keeps r (cyclicCycle slice n m s) := by
  unfold cyclicCycle
  exact .cut (onlyIf_keeps h fun _ h1 => h1.upd rfl) fun h2 => (foldl_keeps _ (fun _ _ h3 => reseqDrain_keeps
    (stageTwo_keeps h3)) _ (.ite h2 (foldlP_keeps _ (fun _ _ h4 => stageOne_keeps h4) _ h2))).upd rfl
theorem settleAttach_keeps (h : Keeps r s) : Keeps r (settleAttach s) := by
  unfold settleAttach
  exact each_keeps h fun _ _ h1 => (each_keeps h1 fun _ _ h2 => frameLeaves_keeps h2).upd rfl
theorem sliceCycle_keeps (h : Keeps r s) : Keeps r (sliceCycle slice s) := by
  unfold sliceCycle
  extract_lets s₁ s₂ s₃
  have h1 : Keeps r s₁ := settleAttach_keeps ((portOut_keeps h).upd rfl)
  have h2 : Keeps r s₂ := cyclicCycle_keeps (sheepdogCycle_keeps h1)
  have h3 : Keeps r s₃ := by
    unfold s₃
    split
    · exact cyclicCycle_keeps (heldCells_keeps h1)
    · exact onlyIf_keeps h2 fun _ h4 => h4.upd rfl
    · exact .ite (cyclicCycle_keeps (sheepdogCycle_keeps h1)) (sheepdogCycle_keeps h1)
  exact egress_keeps h3
theorem sheepdogFault_keeps (h : Keeps r s) : Keeps r (sheepdogFault slice s) := by
  unfold sheepdogFault
  exact raise_keeps (ledger_keeps (h.upd rfl))
theorem sheepdogReturn_keeps (h : Keeps r s) : Keeps r (sheepdogReturn slice s) := by
  unfold sheepdogReturn
  split
  · exact h
  · exact h.upd rfl
theorem startRepin_keeps (h : Keeps r s) : Keeps r (startRepin b to_ s) := by
  unfold startRepin
  exact .ite h (h.upd rfl)
theorem commitBucketSlice_keeps (h : Keeps r s) : Keeps r (commitBucketSlice b v s).2 := by
  unfold commitBucketSlice
  exact .iteSnd h (.iteSnd (h.upd rfl) (startRepin_keeps h))
theorem bucketDrained_keeps (h : Keeps r s) : Keeps r (bucketDrained b s) := by
  unfold bucketDrained
  split
  · exact h
  split
  · exact h
  extract_lets _ _ s₁
  have h1 : Keeps r s₁ := h.upd rfl
  split
  · exact h1
  · exact startRepin_keeps (h1.upd rfl)
theorem rebalance_keeps (h : Keeps r s) : Keeps r (rebalance s) := by
  unfold rebalance
  split
  · exact h
  extract_lets load sum hot cold _ s'
  have h1 : Keeps r s' := by
    unfold s'
    clear_value hot
    split
    · exact h
    · split
      · exact h
      · exact .ite (startRepin_keeps (h.upd rfl)) (h.upd rfl)
  exact h1.upd rfl
theorem readmit_keeps (h : Keeps r s) : Keeps r (readmit a s) := .ite (h.upd rfl) h
theorem warmReached_keeps (h : Keeps r s) : Keeps r (warmReached a s) := by
  unfold warmReached
  exact .ite h ((Keeps.ite h (h.upd rfl)).upd rfl)
theorem joiningDone_keeps (h : Keeps r s) : Keeps r (joiningDone a s) := .ite h (h.upd rfl)
theorem redRemeter_keeps (h : Keeps r s) : Keeps r (redRemeter p c s) := by
  unfold redRemeter
  split
  · exact h
  · exact .ite h (remeterAll_keeps (.ite (h.upd rfl) h))
theorem commitPolicer_keeps (h : Keeps r s) : Keeps r (commitPolicer i v s).2 := by
  unfold commitPolicer
  exact .iteSnd (h.upd rfl) ((remeterAll_keeps (h.upd rfl)).upd rfl)

end

/-! ### Machine/Flits.lean -/

section

variable {r s : State} {p lane ack vc a : Nat} {badLane : Option Nat} {f : FlitHdr} {payload content a' : List Byte} {k
  : State → State}

theorem fecBad_keeps (h : Keeps r s) : Keeps r (fecBad p lane s) := by
  unfold fecBad
  exact .ite (enterRecovery_keeps (h.upd rfl)) (h.upd rfl)
theorem ackIn_keeps (h : Keeps r s) : Keeps r (ackIn p ack s) := by
  unfold ackIn
  exact .ite (h.upd rfl) h
theorem nakOut_keeps (h : Keeps r s) : Keeps r (nakOut p s) := by
  unfold nakOut
  exact .ite h (sendBare_keeps (h.upd rfl))
theorem flitBad_keeps (h : Keeps r s) : Keeps r (flitBad p badLane s) := by
  unfold flitBad
  extract_lets s₁ s₂
  have h1 : Keeps r s₁ := h.upd rfl
  have h2 : Keeps r s₂ := by
    unfold s₂
    split
    · exact fecBad_keeps h1
    · exact h1
  exact .ite (nakOut_keeps h2) h2
theorem sequencedIn_keeps (h : Keeps r s) (hk : ∀ s, Keeps r s → Keeps r (k s)) : Keeps r (sequencedIn p f payload
  badLane k s) := by
  unfold sequencedIn
  exact .ite (h.upd rfl) (.ite (flitBad_keeps (h.upd rfl)) (.cut (ackIn_keeps (h.upd rfl)) fun h1 => .ite (.cut (hk _
    (.ite (h1.upd rfl) (h1.upd rfl))) fun h2 => .ite (sendBare_keeps (payCredits_keeps h2)) h2) (.ite (sendBare_keeps
    h1) (nakOut_keeps h1))))
theorem framingError_keeps (h : Keeps r s) : Keeps r (framingError p vc s) := enterRecovery_keeps (h.upd rfl)
theorem frameIn_keeps (h : Keeps r s) : Keeps r (frameIn p vc content s) := by
  unfold frameIn
  exact .ite (portReset_keeps (h.upd rfl)) (.ite (h.upd rfl) (.ite (h.upd rfl) (.ite (h.upd rfl) (.ite (h.upd rfl)
    (capture_keeps (switchIn_keeps (h.upd rfl)))))))
theorem takeFrames_keeps (h : Keeps r s) : Keeps r (takeFrames p vc a a' s) := by
  induction a generalizing a' s with
  | zero => exact h
  | succ n ih =>
    unfold takeFrames
    extract_lets put len s₁
    have hp : ∀ l, Keeps r (put l s) := fun _ => h.upd rfl
    have h1 : Keeps r s₁ := frameIn_keeps (hp _)
    exact .ite (hp _) (.ite (hp _) (.ite (framingError_keeps h) (.ite (hp _) (.ite (ih h1) h1))))
theorem dataIn_keeps (h : Keeps r s) : Keeps r (dataIn p f payload s) := takeFrames_keeps h
theorem bareIn_keeps (h : Keeps r s) (hk : ∀ s, Keeps r s → Keeps r (k s)) : Keeps r (bareIn p f badLane k s) := by
  unfold bareIn
  exact .ite (h.upd rfl) (.ite (flitBad_keeps (h.upd rfl)) (hk _ (ackIn_keeps (h.upd rfl))))
theorem replayTimeout_keeps (h : Keeps r s) : Keeps r (replayTimeout p s) := by
  unfold replayTimeout
  exact .ite h (replay_keeps (h.upd rfl))

end

/-! ### Machine/Ring.lean -/

section

variable {r s : State} {onB : Bool} {x : RPort} {f : RingFrame} {o : Bool → RingFrame → Out} {map tag cause seqId delay
  t : Nat} {p : Ptp} {d off cur : Int}

theorem setRport_keeps (h : Keeps r s) : Keeps r (setRport onB x s) := by
  unfold setRport
  exact .ite (h.upd rfl) (h.upd rfl)
theorem modRport_keeps {f : RPort → RPort} (h : Keeps r s) : Keeps r (modRport onB f s) := setRport_keeps h
theorem ringCount_keeps (h : Keeps r s) : Keeps r (ringCount f s) := modRport_keeps h
theorem forward_keeps (h : Keeps r s) : Keeps r (forward f o s) := by
  unfold forward
  exact .ite h (.ite (h.upd rfl) (send_keeps (modRport_keeps h)))
theorem ringForward_keeps (h : Keeps r s) : Keeps r (ringForward f s) := forward_keeps (ringCount_keeps h)
theorem discoverIn_keeps (h : Keeps r s) : Keeps r (discoverIn f map tag s) := by
  unfold discoverIn
  exact .cut (ringCount_keeps h) fun h1 => forward_keeps (onlyIf_keeps (.ite (h1.upd rfl) h1) fun _ h2 => h2.upd rfl)
theorem ringPortFailed_keeps (h : Keeps r s) : Keeps r (ringPortFailed onB cause s) := by
  unfold ringPortFailed
  split
  · exact h
  extract_lets s₁
  have h1 : Keeps r s₁ := modRport_keeps h
  split
  · exact raise_keeps (h1.upd rfl)
  · exact h1.upd rfl
  · exact h1.upd rfl
  · exact h1
theorem ringPortRestored_keeps (h : Keeps r s) : Keeps r (ringPortRestored onB s) := by
  unfold ringPortRestored
  exact onlyIf_keeps (modRport_keeps h) fun _ h1 => send_keeps h1
theorem healIn_keeps (h : Keeps r s) : Keeps r (healIn onB s) := by
  unfold healIn
  extract_lets
  split
  · exact raise_keeps ((modRport_keeps h).upd rfl)
  · exact raise_keeps ((modRport_keeps h).upd rfl)
  · exact raise_keeps ((modRport_keeps h).upd rfl)
  · exact raise_keeps ((modRport_keeps h).upd rfl)
  · exact h
theorem syncIn_keeps (h : Keeps r s) : Keeps r (syncIn p s) := by
  unfold syncIn
  exact .cut (ringCount_keeps h) fun h1 => forward_keeps (.ite h1 (.ite (h1.upd rfl) (h1.upd rfl)))
theorem stepTime_keeps (h : Keeps r s) : Keeps r (stepTime d s) := by
  unfold stepTime
  exact raise_keeps (h.upd rfl)
theorem offsetIn_keeps (h : Keeps r s) : Keeps r (offsetIn off cur s) := by
  unfold offsetIn
  extract_lets _ s₁
  have h1 : Keeps r s₁ := h.upd rfl
  split
  · exact h1.upd rfl
  · exact h1.upd rfl
  · exact .ite (stepTime_keeps (h1.upd rfl)) (.ite (h1.upd rfl) (raise_keeps (h1.upd rfl)))
  · exact .ite (h1.upd rfl) (h1.upd rfl)
theorem followUpIn_keeps (h : Keeps r s) : Keeps r (followUpIn p s) := by
  unfold followUpIn
  extract_lets s₁ _ _ _ s₂ _ s₃
  have h1 : Keeps r s₁ := ringCount_keeps h
  have h2 : Keeps r s₂ := h1.upd rfl
  have h3 : Keeps r s₃ := by
    unfold s₃
    split
    · exact .ite (.ite h2 (offsetIn_keeps h2)) (onlyIf_keeps h1 fun _ h4 => h4.upd rfl)
    · exact onlyIf_keeps h1 fun _ h4 => h4.upd rfl
  exact forward_keeps (draw_keeps h3)
theorem announceIn_keeps (h : Keeps r s) : Keeps r (announceIn p s) := by
  unfold announceIn
  exact forward_keeps (onlyIf_keeps (ringCount_keeps h) fun _ h1 => h1.upd rfl)
theorem toHoldover_keeps (h : Keeps r s) : Keeps r (toHoldover s) := .ite (raise_keeps (h.upd rfl)) h
theorem syncLoss_keeps (h : Keeps r s) : Keeps r (syncLoss s) := .ite (toHoldover_keeps (h.upd rfl)) h
theorem pdelayReq_keeps (h : Keeps r s) : Keeps r (pdelayReq onB seqId s) := .ite (send_keeps h) h
theorem pdelayResp_keeps (h : Keeps r s) : Keeps r (pdelayResp onB seqId delay s) := by
  unfold pdelayResp
  exact .ite (setRport_keeps h) h
theorem pdelayTimer_keeps (h : Keeps r s) : Keeps r (pdelayTimer onB s) := by
  unfold pdelayTimer
  exact .ite (h.upd rfl) (send_keeps (setRport_keeps (h.upd rfl)))
theorem ppsIn_keeps (h : Keeps r s) : Keeps r (ppsIn t s) := by
  unfold ppsIn
  extract_lets s₁
  have h1 : Keeps r s₁ := h.upd rfl
  split
  · exact .ite (offsetIn_keeps (h1.upd rfl)) (h1.upd rfl)
  · exact .ite (h1.upd rfl) (.ite (h1.upd rfl) (.ite (offsetIn_keeps (h1.upd rfl)) (h1.upd rfl)))
theorem ppsLost_keeps (h : Keeps r s) : Keeps r (ppsLost s) := by
  unfold ppsLost
  split
  · exact h
  · exact .ite h (onlyIf_keeps (raise_keeps (h.upd rfl)) fun _ h1 => toHoldover_keeps h1)
theorem ppsOut_keeps (h : Keeps r s) : Keeps r (ppsOut s) := by
  unfold ppsOut
  exact onlyIf_keeps (timebaseTo_keeps h) fun _ h1 => send_keeps h1

end

/-! ### Machine/Security.lean -/

section

variable {r s : State} {id role node frameSeq v i port tag : Nat} {d : List Byte}

theorem endSession_keeps (h : Keeps r s) : Keeps r (endSession id s) := .ite (h.upd rfl) h
theorem openSession_keeps (h : Keeps r s) : Keeps r (openSession id role node frameSeq s) := by
  unfold openSession
  exact (each_keeps h fun _ _ h1 => endSession_keeps h1).upd rfl
theorem handshakeTimeout_keeps (h : Keeps r s) : Keeps r (handshakeTimeout id s) := by
  unfold handshakeTimeout
  split
  · exact h.upd rfl
  · exact h
theorem commitKeyLoad_keeps (h : Keeps r s) : Keeps r (commitKeyLoad v s).2 := by
  unfold commitKeyLoad
  extract_lets _ _ _ s₁
  have h1 : Keeps r s₁ := h.upd rfl
  split
  · exact h1.upd rfl
  · exact (draw_keeps h).upd rfl
theorem commitRoleEntry_keeps (h : Keeps r s) : Keeps r (commitRoleEntry i v s).2 := by
  unfold commitRoleEntry
  exact .iteSnd (h.upd rfl) (h.upd rfl)
theorem writeImage_keeps (h : Keeps r s) : Keeps r (writeImage d s) := by
  unfold writeImage
  exact .ite (h.upd rfl) ((draw_keeps h).upd rfl)
theorem drawNonce_keeps (h : Keeps r s) : Keeps r (drawNonce s) := (draw_keeps h).upd rfl
theorem commitDebugToken_keeps (h : Keeps r s) : Keeps r (commitDebugToken v s).2 := by
  unfold commitDebugToken
  extract_lets _ s₁
  have h1 : Keeps r s₁ := h.upd rfl
  split
  · exact (raise_keeps (h1.upd rfl)).upd rfl
  · exact h.upd rfl
theorem endToken_keeps (h : Keeps r s) : Keeps r (endToken s) := .ite (drawNonce_keeps (raise_keeps (h.upd rfl))) h
theorem commitDebugEnd_keeps (h : Keeps r s) : Keeps r (commitDebugEnd s).2 := by
  unfold commitDebugEnd
  exact endToken_keeps h
theorem debugExpiry_keeps (h : Keeps r s) : Keeps r (debugExpiry s) := .ite (endToken_keeps (h.upd rfl)) h
theorem commitIsoJob_keeps (h : Keeps r s) : Keeps r (commitIsoJob v s).2 := by
  unfold commitIsoJob
  split
  · exact h.upd rfl
  · exact .iteSnd (h.upd rfl) (.iteSnd (h.upd rfl) (h.upd rfl))
theorem isoRelease_keeps (h : Keeps r s) : Keeps r (isoRelease port tag s) := by
  unfold isoRelease
  split
  · exact send_keeps (h.upd rfl)
  · exact h

end

/-! ### Machine/Resets.lean -/

section

variable {r s : State} {sc : Scope} {target cause ended i job v l op cls h' nodeId bootSel unitN detail : Nat} {r' :
  ResetRec} {p : Nat → Hen → Bool} {st : Status} {passed keepLedger : Bool}

theorem setRst_keeps {f : Resets → Resets} (h : Keeps r s) (hf : ∀ x, (f x).ledger = x.ledger := by intro _; rfl) :
    Keeps r (setRst f s) := h.upd (hf s.rst)
theorem startReset_keeps (h : Keeps r s) : Keeps r (startReset sc target cause ended s) := by
  unfold startReset
  exact setRst_keeps h
theorem finishReset_keeps (h : Keeps r s) : Keeps r (finishReset r' s) := resetRecord_keeps (setRst_keeps h)
theorem cancelNow_keeps (h : Keeps r s) : Keeps r (cancelNow i s) := by
  unfold cancelNow
  split
  · exact h
  · exact pushRec_keeps (h.upd rfl)
theorem endSlivers_keeps (h : Keeps r s) : Keeps r (endSlivers p st s) :=
  each_keeps h fun _ _ h1 => (endSliver_keeps h1).upd rfl
theorem stopQueues_keeps {p : Queue → Bool} (h : Keeps r s) : Keeps r (stopQueues p s) := by
  unfold stopQueues
  exact each_keeps h fun _ _ h1 => .ite h1 (queueTo_keeps (h1.upd rfl))
theorem stopWork_keeps {p : Nat → Bool} (h : Keeps r s) : Keeps r (stopWork p s).2 := by
  unfold stopWork
  exact settle_keeps (each_keeps ((endSlivers_keeps (each_keeps (stopQueues_keeps h) fun _ _ h1 => modItem_keeps
    h1)).upd rfl) fun _ _ h2 => cancelNow_keeps h2)
theorem beginJobReset_keeps (h : Keeps r s) : Keeps r (beginJobReset job s) := by
  unfold beginJobReset
  split
  · exact (startReset_keeps (.pair ‹_› (stopWork_keeps (h.upd rfl)))).upd rfl
theorem commitJobReset_keeps (h : Keeps r s) : Keeps r (commitJobReset v s).2 := by
  unfold commitJobReset
  exact .iteSnd (h.upd rfl) (h.upd rfl)
theorem jobResetOver_keeps (h : Keeps r s) : Keeps r (jobResetOver job s) := by
  unfold jobResetOver
  split
  · exact .ite ((raise_keeps (finishReset_keeps (h.upd rfl))).upd rfl) h
  · exact h
theorem larderRecord_keeps (h : Keeps r s) : Keeps r (larderRecord l op cls s) := raise_keeps (ledger_keeps h)
theorem breakGang_keeps (h : Keeps r s) : Keeps r (breakGang l s) := by
  unfold breakGang
  split
  · exact .ite (each_keeps (h.upd rfl) fun _ _ h1 => h1.upd rfl) h
  · exact h
theorem beginLarderReset_keeps (h : Keeps r s) : Keeps r (beginLarderReset l cause s) := by
  unfold beginLarderReset
  exact .ite (h.upd rfl) (settle_keeps (henShort_keeps (larderRecord_keeps ((startReset_keeps (breakGang_keeps
    (endSlivers_keeps (h.upd rfl)))).upd rfl))))
theorem larderResetOver_keeps (h : Keeps r s) : Keeps r (larderResetOver l s) := by
  unfold larderResetOver
  split
  · exact settle_keeps (finishReset_keeps (h.upd rfl))
  · exact h
theorem henOut_keeps (h : Keeps r s) : Keeps r (henOut h' s) := by
  unfold henOut
  extract_lets
  split
  · exact h.upd rfl
  · exact (breakGang_keeps h).upd rfl
  · exact h
  · exact h
  · exact h.upd rfl
theorem henBack_keeps (h : Keeps r s) : Keeps r (henBack h' s) := by
  unfold henBack
  extract_lets
  split <;> exact h.upd rfl
theorem commitLarderCmd_keeps (h : Keeps r s) : Keeps r (commitLarderCmd v s).2 := by
  unfold commitLarderCmd
  extract_lets _ _ _ s₁ _ s₂
  have h1 : Keeps r s₁ := each_keeps (breakGang_keeps (h.upd rfl)) fun _ _ h2 => henOut_keeps h2
  have h2 : Keeps r s₂ := each_keeps (h.upd rfl) fun _ _ h3 => .ite h3 (.ite (henBack_keeps h3) (h3.upd rfl))
  split
  · exact h.upd rfl
  split
  · exact h.upd rfl
  · exact (settle_keeps (henShort_keeps (larderRecord_keeps h1))).upd rfl
  · exact (larderRecord_keeps h2).upd rfl
  · exact h.upd rfl
theorem commitHenCmd_keeps (h : Keeps r s) : Keeps r (commitHenCmd v s).2 := by
  unfold commitHenCmd
  extract_lets
  split
  · exact h.upd rfl
  split
  · exact (henShort_keeps (henOut_keeps h)).upd rfl
  · exact .iteSnd (h.upd rfl) ((henBack_keeps h).upd rfl)
  · exact h.upd rfl
theorem henTested_keeps (h : Keeps r s) : Keeps r (henTested h' passed s) := by
  unfold henTested
  exact .ite h (.ite (settle_keeps (h.upd rfl)) (henShort_keeps (raise_keeps (ledger_keeps (h.upd rfl)))))
theorem dropScratch_keeps (h : Keeps r s) : Keeps r (dropScratch s) := by
  unfold dropScratch
  exact each_keeps h fun _ _ h1 => (zeroCrate_keeps h1).upd rfl
theorem endRemovals_keeps (h : Keeps r s) : Keeps r (endRemovals s) := by
  unfold endRemovals
  exact each_keeps (h.upd rfl) fun _ _ h1 => onlyIf_keeps (h1.upd rfl) fun _ h2 => h2.upd rfl
theorem unitsReset_keeps (h : Keeps r s) : Keeps r (unitsReset s) := by
  unfold unitsReset
  exact (dropScratch_keeps (each_keeps (endRemovals_keeps (h.upd rfl)) fun _ _ h1 => endSession_keeps h1)).upd rfl
theorem endEpochs_keeps (h : Keeps r s) : Keeps r (endEpochs cls s) := each_keeps h fun _ _ h1 => endEpoch_keeps h1
theorem coldState_keeps (h : Keeps r s) : Keeps r (coldState keepLedger s) := by
  refine ⟨h.queue, fun _ => rfl, fun hl => ?_, h.out, h.free⟩
  cases keepLedger
  · exact Nat.zero_le _
  · exact h.ledger hl
theorem beginCold_keeps (h : Keeps r s) : Keeps r (beginCold cause s) := by
  unfold beginCold
  exact .ite (h.upd rfl) (startReset_keeps (coldState_keeps (endEpochs_keeps h)))
theorem coldRelease_keeps (h : Keeps r s) : Keeps r (coldRelease nodeId bootSel s) := by
  unfold coldRelease
  exact .ite h (setRst_keeps (h.upd rfl))
theorem warmUnits_keeps (h : Keeps r s) : Keeps r (warmUnits r' s) := by
  unfold warmUnits
  extract_lets s₁ s₂ s₃ s₄ s₅ s₆
  have h1 : Keeps r s₁ := writeBatchesOf_keeps h
  have h2 : Keeps r s₂ := by
    refine each_keeps h1 fun _ _ h3 => ?_
    split
    · exact completeTx_keeps h3
    · exact h3
  have h3 : Keeps r s₃ := each_keeps h2 fun _ _ h4 => send_keeps h4
  have h4 : Keeps r s₄ := endEpochs_keeps h3
  have h5 : Keeps r s₅ := resetRecord_keeps h4
  have h6 : Keeps r s₆ := (setRst_keeps (unitsReset_keeps h5)).upd rfl
  exact .ite (h6.upd rfl) h6
theorem quiesceDone_keeps (h : Keeps r s) : Keeps r (quiesceDone s) := by
  unfold quiesceDone
  split
  · exact .ite (warmUnits_keeps h) h
  · exact h
theorem cutQuiesce_keeps (h : Keeps r s) : Keeps r (cutQuiesce r' s) := by
  unfold cutQuiesce
  refine warmUnits_keeps (each_keeps (setRst_keeps (each_keeps h fun _ _ h1 => queueTo_keeps (itemLedger_keeps h1)))
    fun _ _ h2 => ?_)
  split
  · exact loseHolder_keeps h2
  · exact h2
theorem quiesceTimeout_keeps (h : Keeps r s) : Keeps r (quiesceTimeout s) := by
  unfold quiesceTimeout
  split
  · exact cutQuiesce_keeps (h.upd rfl)
  · exact h
theorem beginWarm_keeps (h : Keeps r s) : Keeps r (beginWarm cause s) := by
  unfold beginWarm
  split
  · extract_lets s₁
    have h1 : Keeps r s₁ := h.upd rfl
    split
    · exact .ite (cutQuiesce_keeps h1) h1
    · exact h1
  · dsimp only
    exact setRst_keeps (cohSettle_keeps (queueScan_keeps (stopWork_keeps (setRst_keeps (setRst_keeps (h.upd rfl))))))
theorem commitResetCmd_keeps (h : Keeps r s) : Keeps r (commitResetCmd v s).2 := by
  unfold commitResetCmd
  exact .iteSnd (h.upd rfl) (.iteSnd (h.upd rfl) h)
theorem beginReset_keeps (h : Keeps r s) : Keeps r (beginReset r' s) := by
  unfold beginReset
  split
  · exact .ite (settle_keeps (portReset_keeps h)) h
  · exact .ite (h.upd rfl) (beginJobReset_keeps h)
  · exact beginLarderReset_keeps h
  · exact beginWarm_keeps h
  · exact beginCold_keeps h
theorem resetBegin_keeps (h : Keeps r s) : Keeps r (resetBegin s) := by
  unfold resetBegin
  split
  · exact h
  · exact beginReset_keeps ((setRst_keeps h).upd rfl)
theorem fatal_keeps (h : Keeps r s) : Keeps r (fatal unitN detail cause s) := by
  unfold fatal
  exact .cut (setRst_keeps (fatalRecord_keeps h)) fun h1 => .ite (beginWarm_keeps h1) h1
theorem watchdog_keeps (h : Keeps r s) : Keeps r (watchdog s) := fatal_keeps (draw_keeps h)
theorem commitLedgerAck_keeps (h : Keeps r s) : Keeps r (commitLedgerAck v s).2 := by
  unfold commitLedgerAck
  dsimp only
  exact setRst_keeps h
theorem commitLedgerClear_keeps (h : Keeps r s) : Keeps r (commitLedgerClear s).2 := h.updLedger fun _ => Nat.zero_le _

end

/-! ### Machine/Power.lean -/

section

variable {r s : State} {mv r' amps watts word n w l k : Nat} {answered fault low : Bool} {milli : Int}

theorem setVcore_keeps (h : Keeps r s) : Keeps r (setVcore mv s) := send_keeps (h.upd rfl)
theorem vcoreAdjust_keeps (h : Keeps r s) : Keeps r (vcoreAdjust mv s) := by
  unfold vcoreAdjust
  exact .ite (setVcore_keeps (h.upd rfl)) h
theorem marginLow_keeps (h : Keeps r s) : Keeps r (marginLow mv s) := .ite (setVcore_keeps h) h
theorem regFault_keeps (h : Keeps r s) : Keeps r (regFault r' s) := fatal_keeps (raise_keeps h)
theorem regulatorPoll_keeps (h : Keeps r s) : Keeps r (regulatorPoll r' mv amps watts answered s) := by
  unfold regulatorPoll
  split
  · exact h
  split
  · exact .ite (h.upd rfl) (.ite (regFault_keeps (h.upd rfl)) (h.upd rfl))
theorem vrbAlert_keeps (h : Keeps r s) : Keeps r (vrbAlert r' word fault s) := by
  unfold vrbAlert
  split
  · exact h
  split
  · exact onlyIf_keeps (h.upd rfl) fun _ h1 => regFault_keeps h1
theorem haltUnits_keeps (h : Keeps r s) : Keeps r (haltUnits s) := setRst_keeps (unitsReset_keeps (endEpochs_keeps h))
theorem refClkLost_keeps (h : Keeps r s) : Keeps r (refClkLost s) := by
  unfold refClkLost
  exact .ite h ((haltUnits_keeps (setRst_keeps (fatalRecord_keeps h))).upd rfl)
theorem setFrac_keeps (h : Keeps r s) : Keeps r (setFrac n s) := onlyIf_keeps (h.upd rfl) fun _ h1 => raise_keeps h1
theorem powerSample_keeps (h : Keeps r s) : Keeps r (powerSample w s) := by
  unfold powerSample
  exact .ite (setFrac_keeps (h.upd rfl)) (h.upd rfl)
theorem powerBoundary_keeps (h : Keeps r s) : Keeps r (powerBoundary w s) := by
  unfold powerBoundary
  exact .ite (setFrac_keeps (h.upd rfl)) (.ite (setFrac_keeps (h.upd rfl)) (h.upd rfl))
theorem setThermal_keeps (h : Keeps r s) : Keeps r (setThermal l n s) :=
  onlyIf_keeps (h.upd rfl) fun _ h1 => raise_keeps h1
theorem larderThermal_keeps (h : Keeps r s) : Keeps r (larderThermal l s) := by
  unfold larderThermal
  extract_lets _ _ s₁
  have h1 : Keeps r s₁ := h.upd rfl
  split
  · exact .ite (setThermal_keeps h1) h1
  split
  · split
    · exact h.upd rfl
    · exact .ite (setThermal_keeps h) h
  · exact h.upd rfl
theorem noteMax_keeps (h : Keeps r s) : Keeps r (noteMax milli s) := .ite (h.upd rfl) h
theorem thermalRead_keeps (h : Keeps r s) : Keeps r (thermalRead k milli s) := by
  unfold thermalRead
  split
  · exact h
  extract_lets _ _ s₁ s₂ s₃
  have h1 : Keeps r s₁ := h.upd rfl
  have h2 : Keeps r s₂ := onlyIf_keeps h1 fun _ h3 => noteMax_keeps h3
  have h3 : Keeps r s₃ := by
    unfold s₃
    split
    · exact larderThermal_keeps h2
    · exact h2
  exact .ite (fatal_keeps (h3.upd rfl)) (.ite (raise_keeps h3) h3)
theorem thermalTrip_keeps (h : Keeps r s) : Keeps r (thermalTrip k s) := by
  unfold thermalTrip
  split
  · exact h
  extract_lets s₁ s₂
  have h1 : Keeps r s₁ := setRst_keeps h
  have h2 : Keeps r s₂ := each_keeps h1 fun _ _ h3 => send_keeps h3
  exact (haltUnits_keeps (fatalRecord_keeps h2)).upd rfl
theorem throttleEdge_keeps (h : Keeps r s) : Keeps r (throttleEdge low s) := .ite (h.upd rfl) (.ite (h.upd rfl) h)
theorem dwellEnd_keeps (h : Keeps r s) : Keeps r (dwellEnd low s) := by
  unfold dwellEnd
  split
  · exact .ite (.ite (h.upd rfl) (h.upd rfl)) h
  · exact h
theorem throttleStuck_keeps (h : Keeps r s) : Keeps r (throttleStuck s) := by
  unfold throttleStuck
  split
  · exact .ite h (raise_keeps (h.upd rfl))
  · exact h
theorem commitThrottleClear_keeps (h : Keeps r s) : Keeps r (commitThrottleClear s).2 := by
  unfold commitThrottleClear
  exact .iteSnd h (h.upd rfl)

end

/-! ### Machine/Commit.lean -/

section

variable {r s : State} {v key i w : Nat} {values : List Stored} {x : Stored} {ws : List (Nat × Nat)}

theorem commitHomeIndex_keeps (h : Keeps r s) : Keeps r (commitHomeIndex v s).2 := by
  unfold commitHomeIndex
  exact .iteSnd (h.upd rfl) h
theorem commitStore_keeps (h : Keeps r s) : Keeps r (commitStore values s).2 := by
  unfold commitStore
  exact .iteSnd h (h.upd rfl)
theorem configWriteDone_keeps (h : Keeps r s) : Keeps r (configWriteDone s) := by
  unfold configWriteDone
  split
  · exact h
  · exact h.upd rfl
theorem commitPlain_keeps (h : Keeps r s) : Keeps r (commitPlain key i v s).2 := by
  unfold commitPlain
  split
  · exact .iteSnd h (h.upd rfl)
  · exact h
theorem commitSlice_keeps (h : Keeps r s) : Keeps r (commitSlice i v s).2 := by
  unfold commitSlice
  exact .iteSnd (h.upd rfl) (.iteSnd (h.upd rfl) h)
theorem commitTimeSource_keeps (h : Keeps r s) : Keeps r (commitTimeSource v s).2 := by
  unfold commitTimeSource
  exact .iteSnd h (onlyIf_keeps (h.upd rfl) fun _ h1 => toHoldover_keeps h1)
/-- An object's own commit, where it has one, keeps what every change keeps. -/
def CommitKeeps (r : State) (o : Option (State → Status × State)) : Prop :=
  ∀ f s, o = some f → Keeps r s → Keeps r (f s).2
theorem CommitKeeps.none : CommitKeeps r none := fun _ _ hf => nomatch hf
theorem CommitKeeps.some {f : State → Status × State} (hf : ∀ s, Keeps r s → Keeps r (f s).2) :
    CommitKeeps r (some f) := fun _ s hs h => by
  cases hs
  exact hf s h
theorem CommitKeeps.ite {c : Prop} [Decidable c] {o p : Option (State → Status × State)} (ho : CommitKeeps r o)
    (hp : CommitKeeps r p) : CommitKeeps r (if c then o else p) := by
  split <;> assumption
theorem commitPool_keeps {key i v : Nat} : CommitKeeps r (commitPool key i v) := by
  unfold commitPool
  exact .ite (.some fun _ h => commitJobOpen_keeps h) <| .ite (.some fun _ h => commitJobClose_keeps h) <|
    .ite (.some fun _ h => commitJobSlots_keeps h) <| .ite (.some fun _ h => commitMemberAdd_keeps h) <|
    .ite (.some fun _ h => commitMemberRemove_keeps h) <| .ite (.some fun _ h => commitExtent_keeps h) <|
    .ite (.some fun _ h => commitAcl_keeps h) <| .ite (.some fun _ h => commitKeyDestroy_keeps h) <|
    .ite (.some fun _ h => commitAtticSize_keeps h) <| .ite (.some fun _ h => commitFlush_keeps h) <|
    .ite (.some fun _ h => commitOwned_keeps h) <| .ite (.some fun _ h => commitMirrorPeer_keeps h) <|
    .ite (.some fun _ h => commitMirrorRelease_keeps h) <| .ite (.some fun _ h => commitMirrorResync_keeps h) <|
    .ite (.some fun _ h => commitTakeover_keeps h) <| .ite (.some fun _ h => commitQueue_keeps h) <|
    .ite (.some fun _ h => commitJobHens_keeps h) <| .ite (.some fun _ h => commitColl_keeps h) <| .none
theorem commitFabric_keeps {key i v : Nat} : CommitKeeps r (commitFabric key i v) := by
  unfold commitFabric
  exact .ite (.some fun _ h => commitPortConfig_keeps h) <| .ite (.some fun _ h => commitPortCmd_keeps h) <|
    .ite (.some fun _ h => commitPortCmd_keeps h) <| .ite (.some fun _ h => commitPortExpect_keeps h) <|
    .ite (.some fun _ h => commitTrackMin_keeps h) <| .ite (.some fun _ h => commitCohWindow_keeps h) <|
    .ite (.some fun _ h => h.upd rfl) <| .ite (.some fun _ h => commitSlice_keeps h) <|
    .ite (.some fun _ h => commitBucketSlice_keeps h) <| .ite (.some fun _ h => commitCapture_keeps h) <|
    .ite (.some fun _ h => commitGuarantee_keeps h) <| .ite (.some fun _ h => commitGuarantee_keeps h) <|
    .ite (.some fun _ h => commitGuarantee_keeps h) <| .ite (.some fun _ h => commitGuarantee_keeps h) <|
    .ite (.some fun _ h => commitTcMap_keeps h) <| .ite (.some fun _ h => commitPolicer_keeps h) <|
    .ite (.some fun _ h => commitShaper_keeps h) <| .ite (.some fun _ h => commitQuantum_keeps h) <|
    .ite (.some fun _ h => commitGate_keeps h) <| .ite (.some fun _ h => commitPortGate_keeps h) <|
    .ite (.some fun _ h => tcPost_keeps (commitPlain_keeps h)) <| .none
theorem commitLoft_keeps {key i v : Nat} : CommitKeeps r (commitLoft key i v s) := by
  unfold commitLoft
  exact .ite (.some fun _ h => commitHomeIndex_keeps h) <| .ite (.some fun _ h => commitTimeSource_keeps h) <|
    .ite (.some fun _ h => commitStore_keeps h) <| .ite (.some fun _ h => commitStore_keeps h) <|
    .ite (.some fun _ h => commitKeyLoad_keeps h) <| .ite (.some fun _ h => commitRoleEntry_keeps h) <|
    .ite (.some fun _ h => commitDebugToken_keeps h) <| .ite (.some fun _ h => commitDebugEnd_keeps h) <|
    .ite (.some fun _ h => commitIsoJob_keeps h) <| .ite (.some fun _ h => commitResetCmd_keeps h) <|
    .ite (.some fun _ h => commitJobReset_keeps h) <| .ite (.some fun _ h => commitLarderCmd_keeps h) <|
    .ite (.some fun _ h => commitHenCmd_keeps h) <| .ite (.some fun _ h => commitLedgerAck_keeps h) <|
    .ite (.some fun _ h => commitLedgerClear_keeps h) <| .ite (.some fun _ h => commitThrottleClear_keeps h) <| .none
theorem commitOf_keeps (h : Keeps r s) : Keeps r (commitOf key i v s).2 := by
  unfold commitOf
  split
  next hf => exact commitPool_keeps _ _ hf h
  · split
    next hf => exact commitFabric_keeps _ _ hf h
    · cases hf : commitLoft key i v s with
      | none => exact commitPlain_keeps h
      | some f => exact commitLoft_keeps f s hf h
theorem commitObj_keeps (h : Keeps r s) : Keeps r (commitObj key i w s).2 := by
  unfold commitObj
  exact settle_keeps (commitOf_keeps h)
theorem applyStored_keeps (h : Keeps r s) : Keeps r (applyStored x s) := by
  unfold applyStored
  exact .cut (commitObj_keeps h) fun h1 => .ite (.ite (h1.upd rfl) h1) (h.upd rfl)
theorem applyOctet_keeps (h : Keeps r s) : Keeps r (applyOctet ws s) := (commitPortConfigs_keeps h).upd rfl
theorem applyConfig_keeps (h : Keeps r s) : Keeps r (applyConfig s) := by
  unfold applyConfig
  split
  · exact h.upd rfl
  · exact (each_keeps (each_keeps (each_keeps h fun _ _ h1 => applyStored_keeps h1) fun _ _ h2 => applyOctet_keeps h2)
      fun _ _ h3 => applyStored_keeps h3).upd rfl

end

/-! ### Machine/Requests.lean -/

section

variable {r s : State} {before : State}

theorem tablesLost_keeps (h : Keeps r s) : Keeps r (tablesLost before s) :=
  each_keeps h fun _ _ h1 => fatal_keeps (draw_keeps h1)

end

/-! ### Machine/Start.lean -/

section

variable {r s : State} {slotB fallback passed : Bool} {i l : Nat}

theorem tryReady_keeps (h : Keeps r s) : Keeps r (tryReady s) := by
  unfold tryReady
  exact .ite h (.ite (h.upd rfl) (raise_keeps (ledger_keeps (setRst_keeps (h.upd rfl)))))
theorem takeUnitMap_keeps (h : Keeps r s) : Keeps r (takeUnitMap s) := by
  unfold takeUnitMap
  exact .ite (h.upd rfl) (raise_keeps (ledger_keeps (h.upd rfl)))
theorem haltLoft_keeps (h : Keeps r s) : Keeps r (haltLoft s) := setRst_keeps h
theorem startImage_keeps (h : Keeps r s) : Keeps r (startImage slotB fallback s) := by
  unfold startImage
  exact onlyIf_keeps (h.upd rfl) fun _ h1 => raise_keeps h1
theorem startLinks_keeps (h : Keeps r s) : Keeps r (startLinks s) := by
  unfold startLinks
  exact each_keeps (each_keeps h fun _ _ h1 => h1.upd rfl) fun _ _ h2 => h2.upd rfl
theorem endResets_keeps (h : Keeps r s) : Keeps r (endResets s) := by
  unfold endResets
  extract_lets cold s₁
  have h1 : Keeps r s₁ := setRst_keeps h
  clear_value cold
  split
  · exact finishReset_keeps h1
  · exact h1
theorem coldStart_keeps (h : Keeps r s) : Keeps r (coldStart s) := by
  unfold coldStart
  split
  · exact haltLoft_keeps h
  extract_lets s₁ s₂ _ s₃ s₄ _ s₅
  have h1 : Keeps r s₁ := (startImage_keeps h).upd rfl
  have h2 : Keeps r s₂ := onlyIf_keeps h1 fun _ h3 => h3.upd rfl
  have h3 : Keeps r s₃ := takeUnitMap_keeps (h2.upd rfl)
  have h4 : Keeps r s₄ := (applyConfig_keeps (drawNonce_keeps h3)).upd rfl
  have h5 : Keeps r s₅ := h4.upd rfl
  exact startLinks_keeps (endResets_keeps (h5.upd rfl))
theorem sramVerifies_keeps (h : Keeps r s) : Keeps r (sramVerifies s).2 := by
  unfold sramVerifies
  split
  · dsimp only
    exact setRst_keeps (draw_keeps h)
  · exact h
theorem warmImage_keeps {t : State} (ht : warmImage s = some t) (h : Keeps r s) : Keeps r t := by
  have hs : Keeps r (sramVerifies s).2 := sramVerifies_keeps h
  unfold warmImage at ht
  split at ht
  next heq =>
    have h1 := hs.pair heq
    split at ht
    · cases ht
      exact h1
    · obtain ⟨i, _, rfl⟩ := Option.map_eq_some_iff.1 ht
      exact startImage_keeps h1
theorem warmStart_keeps (h : Keeps r s) : Keeps r (warmStart s) := by
  unfold warmStart
  split
  next heq =>
    exact startLinks_keeps (startRetires_keeps (endResets_keeps ((warmImage_keeps heq h).upd rfl)))
  · exact h.upd rfl
theorem firmwareStart_keeps (h : Keeps r s) : Keeps r (firmwareStart s) :=
  .ite h (tryReady_keeps (settle_keeps (.ite (warmStart_keeps h) (coldStart_keeps h))))
theorem sheepdogTested_keeps (h : Keeps r s) : Keeps r (sheepdogTested i s) := .ite h (tryReady_keeps (h.upd rfl))
theorem publishStacks_keeps (h : Keeps r s) : Keeps r (publishStacks s) := .ite (h.upd rfl) h
theorem stacksTrained_keeps (h : Keeps r s) : Keeps r (stacksTrained l passed s) := by
  unfold stacksTrained
  exact .ite h (tryReady_keeps (settle_keeps (publishStacks_keeps (onlyIf_keeps (h.upd rfl) fun _ h1 =>
    larderRecord_keeps h1))))
theorem vaultScanned_keeps (h : Keeps r s) : Keeps r (vaultScanned s) := by
  unfold vaultScanned
  exact .ite h (h.upd rfl)
theorem identityDerived_keeps (h : Keeps r s) : Keeps r (identityDerived s) := by
  unfold identityDerived
  split
  · exact h
  extract_lets _ s₁ s₂
  have h1 : Keeps r s₁ := h.upd rfl
  have h2 : Keeps r s₂ := by
    unfold s₂
    split
    · exact h1.upd rfl
    · exact onlyIf_keeps h1 fun _ h3 => h3.upd rfl
  exact tryReady_keeps (settle_keeps (each_keeps h2 fun _ _ h3 => tryBind_keeps h3))

end

/-! ### Machine/Spdm.lean -/

section

variable {r s : State} {nonce op id pub : Nat} {q : Spdm}

theorem challengeAuth_keeps (h : Keeps r s) : Keeps r (challengeAuth nonce s).2 := by
  unfold challengeAuth
  exact draw_keeps h
theorem measurements_keeps (h : Keeps r s) : Keeps r (measurements op nonce s).2 := by
  unfold measurements
  exact .iteSnd (h.upd rfl) (draw_keeps h)
theorem keyExchange_keeps (h : Keeps r s) : Keeps r (keyExchange id pub s).2 := by
  unfold keyExchange
  exact .iteSnd (h.upd rfl) (.iteSnd (h.upd rfl) ((draw_keeps (draw_keeps h)).upd rfl))
theorem spdmRun_keeps (h : Keeps r s) : Keeps r (spdmRun q s).2 := by
  unfold spdmRun
  split
  · exact h.upd rfl
  split
  · exact h.upd rfl
  split
  · exact h
  · exact h
  · exact h
  · exact h
  · exact .iteSnd (h.upd rfl) h
  · exact .iteSnd (h.upd rfl) (challengeAuth_keeps h)
  · exact measurements_keeps h
  · exact keyExchange_keeps h

end

/-! ### Machine/Services.lean -/

section

variable {r s : State} {id seq key v len total off crc mode period last handle n sig modulus exponent : Nat} {r' : Rsp}
  {x : Session} {stage write : Bool} {a : List Staged} {a' : Option (List Status)} {data msg : List Byte} {b : Block2}
  {u : Sub} {q : Service} {rq : Req} {k : Session → State → State}

theorem frameOut_keeps (h : Keeps r s) : Keeps r (frameOut id s) := by
  unfold frameOut
  split
  · exact h
  · exact .ite (endSession_keeps h) (h.upd rfl)
theorem reply_keeps (h : Keeps r s) : Keeps r (reply id seq r' s) :=
  onlyIf_keeps (frameOut_keeps (send_keeps h)) fun _ h1 => h1.upd rfl
theorem writeSelect_keeps (h : Keeps r s) : Keeps r (writeSelect id key v s).2 := by
  unfold writeSelect
  split
  · exact .iteSnd (.iteSnd (h.upd rfl) h) (.iteSnd (h.upd rfl) (h.upd rfl))
  · exact h
theorem doWrite_keeps (h : Keeps r s) : Keeps r (doWrite x key v len stage s).2 := by
  unfold doWrite
  split
  · exact h
  · exact .iteSnd (h.upd rfl) ((Keeps.iteSnd (writeSelect_keeps h) (commitObj_keeps h)).upd rfl)
theorem commitStaged_keeps (h : Keeps r s) : Keeps r (commitStaged a a' s).2 := by
  induction a generalizing a' s with
  | nil => exact h
  | cons w l ih =>
    unfold commitStaged
    split
    · split
      · exact ih h
      · exact ih (settle_keeps (commitPortConfigs_keeps h))
    · exact ih (commitObj_keeps h)
theorem doCommit_keeps (h : Keeps r s) : Keeps r (doCommit x s).2 := by
  unfold doCommit
  exact .iteSnd h ((commitStaged_keeps h).upd rfl)
theorem doDiscard_keeps (h : Keeps r s) : Keeps r (doDiscard x s).2 := by
  unfold doDiscard
  exact .iteSnd h (h.upd rfl)
theorem doBlockOpen_keeps (h : Keeps r s) : Keeps r (doBlockOpen x key write total s).2 := by
  unfold doBlockOpen
  split
  · exact h
  · exact h.upd rfl
theorem doBlockData_keeps (h : Keeps r s) : Keeps r (doBlockData x off data s).2 := by
  unfold doBlockData
  split
  · exact h
  · exact .iteSnd (.iteSnd (h.upd rfl) (h.upd rfl)) (.iteSnd (h.upd rfl) (h.upd rfl))
theorem applyBlock_keeps (h : Keeps r s) : Keeps r (applyBlock x b s).2 := by
  unfold applyBlock
  exact .iteSnd (writeImage_keeps h) (.iteSnd (writeSelect_keeps h) (commitObj_keeps h))
theorem doBlockClose_keeps (h : Keeps r s) : Keeps r (doBlockClose x crc s).2 := by
  unfold doBlockClose
  split
  · exact h
  · exact .iteSnd (h.upd rfl) (.iteSnd (h.upd rfl) ((applyBlock_keeps (h.upd rfl)).upd rfl))
theorem blockTimeout_keeps (h : Keeps r s) : Keeps r (blockTimeout id s) := by
  unfold blockTimeout
  split
  · exact h.upd rfl
  · exact h
theorem doSubscribe_keeps (h : Keeps r s) : Keeps r (doSubscribe x key mode period last s).2 := by
  unfold doSubscribe
  split
  · exact h
  split
  · exact h
  · exact h
  · exact h.upd rfl
theorem doUnsubscribe_keeps (h : Keeps r s) : Keeps r (doUnsubscribe x handle s).2 := by
  unfold doUnsubscribe
  exact .iteSnd (h.upd rfl) h
theorem notify_keeps (h : Keeps r s) : Keeps r (notify id u s) := by
  unfold notify
  exact frameOut_keeps (send_keeps (h.upd rfl))
theorem notifyChange_keeps (h : Keeps r s) : Keeps r (notifyChange id handle s) := by
  unfold notifyChange
  split
  · exact .ite (notify_keeps (h.upd rfl)) h
  · exact h
theorem notifyPeriod_keeps (h : Keeps r s) : Keeps r (notifyPeriod id handle s) := by
  unfold notifyPeriod
  split
  · exact .ite (notify_keeps (h.upd rfl)) h
  · exact h
theorem lostEvents_keeps (h : Keeps r s) : Keeps r (lostEvents id s) := by
  unfold lostEvents
  split
  · exact h
  · exact .ite h (frameOut_keeps (send_keeps (h.upd rfl)))
theorem ackEvents_keeps (h : Keeps r s) : Keeps r (ackEvents id seq s) := lostEvents_keeps (h.upd rfl)
theorem resendEvents_keeps (h : Keeps r s) : Keeps r (resendEvents id s) := by
  unfold resendEvents
  split
  · exact h
  · exact .ite h (each_keeps (h.upd rfl) fun _ _ h1 => frameOut_keeps (send_keeps h1))
theorem runService_keeps (h : Keeps r s) : Keeps r (runService x q s).2 := by
  unfold runService
  split
  · exact .iteSnd h (spdmRun_keeps h)
  · exact doWrite_keeps h
  · exact doCommit_keeps h
  · exact doDiscard_keeps h
  · exact doBlockOpen_keeps h
  · exact doBlockData_keeps h
  · exact doBlockClose_keeps h
  · exact doSubscribe_keeps h
  · exact doUnsubscribe_keeps h
  · exact h
theorem executeReq_keeps (h : Keeps r s) : Keeps r (executeReq id n q s) := by
  unfold executeReq
  split
  · exact h
  · exact .cut (reply_keeps ((runService_keeps h).upd rfl)) fun h1 => .ite (endSession_keeps h1) h1
theorem drainHeld_keeps {a : Nat} (h : Keeps r s) : Keeps r (drainHeld id a s) := by
  induction a generalizing s with
  | zero => exact h
  | succ n ih =>
    unfold drainHeld
    split
    · exact h
    · split
      · exact h
      · exact ih (executeReq_keeps (h.upd rfl))
theorem orderReq_keeps (h : Keeps r s) : Keeps r (orderReq x n q s) := by
  unfold orderReq
  extract_lets
  split
  · exact drainHeld_keeps (executeReq_keeps h)
  split
  · exact .ite h (.ite (reply_keeps h) (h.upd rfl))
  split
  · exact reply_keeps (h.upd rfl)
  · exact reply_keeps h
theorem sessionZero_keeps (h : Keeps r s) : Keeps r (sessionZero rq q s) := by
  unfold sessionZero
  split
  · exact reply_keeps h
  split
  · exact reply_keeps (spdmRun_keeps h)
  · exact reply_keeps h
theorem sealed_keeps (h : Keeps r s) (hk : ∀ a0 s, Keeps r s → Keeps r (k a0 s)) : Keeps r (sealed rq k s) := by
  unfold sealed
  split
  · exact reply_keeps h
  extract_lets _ s₁ s₂
  have h1 : Keeps r s₁ := h.upd rfl
  have h2 : Keeps r s₂ := by
    unfold s₂
    split
    · exact hk _ _ h1
    · exact h1
  exact .ite (h.upd rfl) (.ite (endSession_keeps h2) h2)
theorem receive_keeps (h : Keeps r s) : Keeps r (receive rq q s) :=
  .ite h (.ite (sessionZero_keeps h) (sealed_keeps h fun _ _ h1 => .ite (orderReq_keeps h1) (reply_keeps h1)))
theorem receiveAck_keeps (h : Keeps r s) : Keeps r (receiveAck rq s) :=
  .ite h (.ite (reply_keeps h) (sealed_keeps h fun _ _ h1 => .ite (ackEvents_keeps h1) (reply_keeps h1)))
theorem receiveFinish_keeps (h : Keeps r s) : Keeps r (receiveFinish rq msg sig modulus exponent s) := by
  unfold receiveFinish
  split
  · exact h
  split
  · exact reply_keeps h
  extract_lets
  split
  · exact h.upd rfl
  split
  · exact reply_keeps h
  split
  · exact reply_keeps (h.upd rfl)
  split
  · exact reply_keeps (h.upd rfl)
  · exact .ite (reply_keeps (h.upd rfl)) (reply_keeps (openSession_keeps (h.upd rfl)))
theorem gapTimeout_keeps (h : Keeps r s) : Keeps r (gapTimeout id s) := by
  unfold gapTimeout
  split
  · exact h.upd rfl
  · exact h
theorem idleTimeout_keeps (h : Keeps r s) : Keeps r (idleTimeout id s) := by
  unfold idleTimeout
  split
  · exact endSession_keeps (h.upd rfl)
  · exact h

end

/-! ### Every command

A command's row answers a next state, and that state keeps what every change keeps. -/

section

variable {r s : State}

/-- A row goes on to a state that keeps what r's does. -/
def ResKeeps (r : State) (o : Res) : Prop := ∃ t, o = .next t ∧ Keeps r t
theorem ResKeeps.next {t : State} (h : Keeps r t) : ResKeeps r (.next t) := ⟨t, rfl, h⟩
theorem ResKeeps.keeps {o : Res} {t : State} (h : ResKeeps r o) (ht : o = .next t) : Keeps r t := by
  obtain ⟨u, hu, k⟩ := h
  cases hu.symm.trans ht
  exact k
theorem writeRow_next {rq : Req} {key v : Nat} (h : Keeps r s) : ResKeeps r (writeRow rq key v s) :=
  .next (receive_keeps h)
theorem requestRow_next {h' : Hdr} {k : TxKind} (h : Keeps r s) : ResKeeps r (requestRow h' k s) :=
  .next (tablesLost_keeps (settle_keeps (request_keeps h)))
theorem henRow_next {h' : Nat} {f : Hen → Except Trap Hen} (h : Keeps r s) : ResKeeps r (henRow h' f s) :=
  .next (henDo_keeps h fun _ h1 => henInsn_keeps h1)
theorem loadRow_next {oc : Nat} {sub : Nat → Bool} {adm : Desc → State → Adm} {post : Nat → State → State} {q : Nat}
    (hp : ∀ i s, Keeps r s → Keeps r (post i s)) (h : Keeps r s) : ResKeeps r (loadRow oc sub adm post q s) := by
  unfold loadRow
  split
  · exact .next h
  next d _ =>
    split
    · exact .next h
    have ha : Keeps r (admitDesc d (adm d s) s).2 := admitDesc_keeps h
    split
    next heq => exact .next (settle_keeps (ha.pair heq))
    next heq => exact .next (settle_keeps (hp _ _ (ha.pair heq)))
theorem execCancel_next {q : Nat} (h : Keeps r s) : ResKeeps r (execCancel q s) := by
  unfold execCancel
  split
  · exact .next h
  · split
    · exact .next (settle_keeps (runCancel_keeps h))
    · exact .next h
theorem execCellTime_next {x : SliceTick} (h : Keeps r s) : ResKeeps r (execCellTime x s) := by
  unfold execCellTime
  extract_lets s₁
  have h1 : Keeps r s₁ := by
    unfold s₁
    split
    · exact settle_keeps (cellBad_keeps h)
    · exact h
  exact .next (.ite (sliceCycle_keeps h1) h1)
/-- Every command answers a next state, and what every change keeps it keeps. -/
theorem exec_keeps {c : Instr} (h : Keeps r s) : ResKeeps r (exec c s) := by
  cases c with
  | jobOpen | jobClose | jobSlots | memberAdd | memberRemove | allocate | revoke | setAcl | aclEntry | keyDestroy
  | atticSize | flush | ownedCreate | ownedDestroy | mirrorPeer | mirrorRelease | mirrorResync | mirrorTakeover
  | queueCreate | queueDestroy | queueRestart | cancelAll | setPriority | jobHens | collCreate | collDestroy
  | portConfig | portEnable | portDisable | portReset | portRelease | tlinkEnable | tlinkDisable | tlinkReset
  | tlinkRelease | portExpect | trackMin | cohWindow | cohPortCaching | twoStage | sheepdog | bucketSlice
  | captureSession | bufferGuaranteeWrite | tcMap | policer | shaper | quantum | gateCommit | portGateList
  | configSave | configClear | homeIndex | keyLoad | roleEntry | debugToken | debugEnd | isoJob | resetCmdWarm
  | resetCmdCold | jobReset | larderReset | larderOut | larderIn | henOutCmd | henIn | ledgerAck | ledgerClear
  | throttleClear | dictWrite => exact writeRow_next h
  | drained => exact .next (settle_keeps (drainedRow_keeps h))
  | drainBoundExpiry => exact .next (settle_keeps (drainBound_keeps h))
  | extentFreed => exact .next (settle_keeps (.ite (freeExt_keeps h) h))
  | placementEpoch => exact .next (settle_keeps (placementEpoch_keeps h))
  | unmappedWritePlaced => exact .next (settle_keeps (unmappedPlaced_keeps h))
  | moveCopyDone => exact .next (settle_keeps (moveCopyDone_keeps h))
  | moveSourceFreed => exact .next (settle_keeps (moveSourceFreed_keeps h))
  | fetchDone => exact .next (settle_keeps (fetchDone_keeps h))
  | vaultReadUncorrectable => exact .next (settle_keeps (vaultUncorrectable_keeps h))
  | tierTimeout => exact .next (settle_keeps (tierTimeout_keeps h))
  | flushDone => exact .next (settle_keeps (flushDone_keeps h))
  | trayResponse => exact .next (settle_keeps (trayAnswered_keeps h))
  | vaultReclaim => exact .next (vaultReclaim_keeps h)
  | vaultStaticMove => exact .next (vaultStaticMove_keeps h)
  | vaultReadRelocate => exact .next (vaultReadRelocate_keeps h)
  | vaultScan => exact .next (vaultScan_keeps h)
  | trayLost => exact .next (settle_keeps (trayLost_keeps h))
  | crateMapRebuilt => exact .next (settle_keeps (mapRebuilt_keeps h))
  | crateSlotRetire => exact .next (settle_keeps (retireSlot_keeps h))
  | regionOpen | regionClose | regionDraft | regionPublish | regionRebase | regionDiscard | give | take | query
  | contrib | read | write | writeMasked | fence | atomicAdd | atomicAnd | atomicOr | atomicXor | atomicSmin
  | atomicSmax | atomicUmin | atomicUmax | atomicSwap | atomicCas => exact requestRow_next h
  | giveRecallDone => exact .next (settle_keeps (giveRecallDone_keeps h))
  | ownReverted => exact .next (settle_keeps (ownReverted_keeps h))
  | mirrorLost => exact .next (settle_keeps (mirrorLost_keeps h))
  | mirrorCopyDone => exact .next (settle_keeps (mirrorCopyDone_keeps h))
  | journal => exact .next (settle_keeps (peerIn_keeps h fun _ h1 => journalIn_keeps h1))
  | journalAck => exact .next (settle_keeps (peerIn_keeps h fun _ h1 => journalAcked_keeps h1))
  | mirrorCtl => exact .next (settle_keeps (peerIn_keeps h fun _ h1 => mirrorCtl_keeps h1))
  | scalarInstruction => exact .next (henDo_keeps (meetLs_keeps h) fun _ h1 => scalarInsn_keeps h1)
  | tzero | tstore | vopAdd | vopSub | vopMul | vopFma | vopMin | vopMax | vopInteger | vsfExp2 | vsfLog2 | vsfRcp
  | vsfRsqrt | vstore | vrowsum | vrowmax | vscalerows | vmove | vcmp | vsel | dmard | dmawait | msgrecv | msgpoll
  | tkinit | tkins | tkread => exact henRow_next h
  | tload | vload | dmawr => exact henRow_next (meetLs_keeps h)
  | tmma => exact .next (henDo_keeps (meetLs_keeps h) fun _ h1 => by
      split <;> [exact tmmaCoded_keeps h1; exact henInsn_keeps h1])
  | codebookFetchDone => exact .next (settle_keeps (codebookFetched_keeps h))
  | dmaRequestDone => exact .next (henDo_keeps h fun _ h1 => returnReq_keeps h1)
  | henMemoryRequest => exact .next (tablesLost_keeps (settle_keeps (issueReq_keeps h)))
  | msgsend => exact .next (henDo_keeps h fun _ h1 => msgSend_keeps h1)
  | messageDelivered => exact .next (msgArrive_keeps h)
  | slvend => exact .next (henDo_keeps h fun _ h1 => slvend_keeps h1)
  | loadingResumed => exact .next (resumeLoading_keeps h)
  | descriptorReadFail => exact .next (settle_keeps (descReadFail_keeps h))
  | nop | run | drop | encode | importTensor | recode | release | decode | filter | arenaInit
  | seqOpen | seqClose | replace | truncate | fork | pageFree | attend | project | indexBuild | indexAppend
  | indexDelete | indexMerge => exact loadRow_next (post := noPost) (fun _ _ h1 => noPost_keeps h1) h
  | cancel => exact execCancel_next h
  | sliverAssign => exact .next (assignOne_keeps h)
  | sliverStart => exact .next (.ite (settle_keeps (startSliver_keeps h)) h)
  | gangStart => exact .next (settle_keeps (gangStart_keeps h))
  | timeLimit => exact .next (settle_keeps (timeLimit_keeps h))
  | sliverLimit => exact .next (.ite (settle_keeps (sliverLimit_keeps (h.upd rfl))) h)
  | jobHensDrained => exact .next (hensDrained_keeps h)
  | install => exact loadRow_next (post := bookPost) (fun _ _ h1 => bookPost_keeps h1) h
  | backgroundRecode => exact .next (settle_keeps (backgroundRecode_keeps h))
  | gather | gatherBags =>
    exact loadRow_next (adm := fun d _ => gatherAdm d) (post := noPost) (fun _ _ h1 => noPost_keeps h1) h
  | reduce | allreduce | reduceUpdate | normSq =>
    exact loadRow_next (post := pendRound) (fun _ _ h1 => pendRound_keeps h1) h
  | roundOpen => exact .next (settle_keeps (openRound_keeps h))
  | memberTimerExpiry => exact .next (settle_keeps (memberTimer_keeps h))
  | response => exact .next (settle_keeps (deliverAnswer_keeps h))
  | deliverTimeout => exact .next (settle_keeps (deliverTimeout_keeps h))
  | normPartial => exact .next (settle_keeps (peerIn_keeps h fun _ h1 => normArrives_keeps h1))
  | normTimeout => exact .next (settle_keeps (normTimeout_keeps h))
  | engineSliverDone => exact .next (settle_keeps (engineSliver_keeps h))
  | searchIvf | searchGraph => exact loadRow_next (post := takeHeld) (fun _ _ h1 => takeHeld_keeps h1) h
  | searchPartial => exact .next (settle_keeps (peerIn_keeps h fun _ h1 => partialArrives_keeps h1))
  | searchAck => exact .next (settle_keeps (peerIn_keeps h fun _ h1 => ackArrives_keeps h1))
  | searchPartialTimeout => exact .next (settle_keeps (partialTimeout_keeps h))
  | searchAckTimeout => exact .next (settle_keeps (ackTimeout_keeps h))
  | partialHoldExpiry => exact .next (holdExpiry_keeps h)
  | detectDone => exact .next (settle_keeps (inPhase_keeps h fun _ h1 => linkRetrain_keeps h1 fun _ h2 => h2.upd rfl))
  | equaliseDone | fecLockDone => exact .next (inPhase_keeps h fun _ h1 => h1.upd rfl)
  | orderDone => exact .next (inPhase_keeps h fun _ h1 => orderDone_keeps h1)
  | linkupPhaseTimeout => exact .next (settle_keeps (phaseTimeout_keeps h))
  | param => exact .next (settle_keeps (inPhase_keeps h fun _ h1 => paramIn_keeps h1))
  | identNonce => exact .next (nonceIn_keeps h)
  | ident => exact .next (settle_keeps (identIn_keeps h))
  | identResult => exact .next (settle_keeps (identVerdict_keeps h))
  | identTimeout => exact .next (settle_keeps (identTimeout_keeps h))
  | dataFlit => exact .next (settle_keeps (sequencedIn_keeps h fun _ h1 => dataIn_keeps h1))
  | creditFlit => exact .next (settle_keeps (sequencedIn_keeps h fun _ h1 => h1.upd rfl))
  | idleFlit => exact .next (settle_keeps (bareIn_keeps h fun _ h1 => payCredits_keeps h1))
  | nak => exact .next (settle_keeps (bareIn_keeps h fun _ h1 => replay_keeps h1))
  | replayTimeout => exact .next (settle_keeps (replayTimeout_keeps h))
  | lossOfLock => exact .next (settle_keeps (lossOfLock_keeps h))
  | ts1Received => exact .next (settle_keeps (enterRecovery_keeps h))
  | recoveryDone => exact .next (settle_keeps (recoveryDone_keeps h))
  | recoveryTimeout => exact .next (settle_keeps (recoveryTimeout_keeps h))
  | holdTimerExpiry => exact .next (holdExpired_keeps h)
  | holdCountReset => exact .next (holdReset_keeps h)
  | fenceDone => exact .next (settle_keeps (fenceDone_keeps h))
  | releaseStoreExecute => exact .next (settle_keeps (releaseRun_keeps h))
  | batchWriteout => exact .next (settle_keeps (batchDue_keeps h))
  | trackEntryFreed => exact .next (tablesLost_keeps (settle_keeps (trackFreed_keeps h)))
  | epochDrained => exact .next (settle_keeps (tryBind_keeps (epochDrained_keeps h)))
  | peerAck => exact .next (peerAcked_keeps h)
  | snpRsp => exact .next (cohSettle_keeps (cohFrame_keeps h fun _ h1 => snpRsp_keeps h1))
  | evict => exact .next (cohSettle_keeps (cohFrame_keeps h fun _ h1 => evictIn_keeps h1))
  | migAck => exact .next (cohSettle_keeps (cohFrame_keeps h fun _ h1 => migAck_keeps h1))
  | coherenceProtocolError => exact .next (cohSettle_keeps (cohFrame_keeps h fun _ h1 => cohError_keeps h1))
  | snoopTimeout => exact .next (cohSettle_keeps (snoopTimeout_keeps h))
  | filterScanDone => exact .next (cohSettle_keeps (scanDone_keeps h))
  | filterWayFreed => exact .next (wayFreed_keeps h)
  | sheepdogFault => exact .next (.ite (sheepdogFault_keeps h) h)
  | sheepdogReturn => exact .next (.ite (sheepdogReturn_keeps h) h)
  | rebalanceCheck => exact .next (rebalance_keeps h)
  | bucketDrained => exact .next (bucketDrained_keeps h)
  | readmit => exact .next (readmit_keeps h)
  | warmReached => exact .next (warmReached_keeps h)
  | joiningDone => exact .next (joiningDone_keeps h)
  | gooseSweep => exact .next (.ite (gooseSweep_keeps h) h)
  | redRemeter => exact .next (redRemeter_keeps h)
  | gateSwitch => exact .next (gateSwitch_keeps h)
  | gateEntryEnd => exact .next (gateEntryEnd_keeps h)
  | discover => exact .next (discoverIn_keeps h)
  | ringFrameForward => exact .next (ringForward_keeps h)
  | ringPortFailed => exact .next (ringPortFailed_keeps h)
  | ringPortRestored => exact .next (ringPortRestored_keeps h)
  | heal => exact .next (healIn_keeps h)
  | commit | serviceDiscard | blockOpen | blockData | blockClose | subscribe | unsubscribe | sessionEnd | getVersion
  | getCapabilities | negotiateAlgorithms | getDigests | getCertificate | challenge | getMeasurements | keyExchange =>
    exact .next (receive_keeps h)
  | blockTransferTimeout => exact .next (blockTimeout_keeps h)
  | eventAck => exact .next (receiveAck_keeps h)
  | requestGapTimeout => exact .next (gapTimeout_keeps h)
  | sessionIdleTimeout => exact .next (idleTimeout_keeps h)
  | notifyOnChange => exact .next (notifyChange_keeps h)
  | notifyPeriodic => exact .next (notifyPeriod_keeps h)
  | eventResend => exact .next (resendEvents_keeps h)
  | configWriteDone => exact .next (configWriteDone_keeps h)
  | sync => exact .next (syncIn_keeps h)
  | followUp => exact .next (followUpIn_keeps h)
  | announce => exact .next (announceIn_keeps h)
  | pdelayReq => exact .next (pdelayReq_keeps h)
  | pdelayResp => exact .next (pdelayResp_keeps h)
  | pdelayTimer => exact .next (pdelayTimer_keeps h)
  | syncLoss => exact .next (syncLoss_keeps h)
  | ppsIn => exact .next (ppsIn_keeps h)
  | ppsLost => exact .next (ppsLost_keeps h)
  | ppsOut => exact .next (ppsOut_keeps h)
  | finish => exact .next (receiveFinish_keeps h)
  | handshakeTimeout => exact .next (handshakeTimeout_keeps h)
  | debugTokenExpiry => exact .next (debugExpiry_keeps h)
  | isoResponseRelease => exact .next (isoRelease_keeps h)
  | coldRstAssert | pwrOkLow => exact .next (beginCold_keeps (setRst_keeps h))
  | coldRstRelease => exact .next (coldRelease_keeps h)
  | warmRstAssert => exact .next (beginWarm_keeps (setRst_keeps h))
  | warmRstRelease => exact .next (setRst_keeps h)
  | resetBegin => exact .next (resetBegin_keeps h)
  | quiesceDone => exact .next (quiesceDone_keeps h)
  | quiesceTimeout => exact .next (quiesceTimeout_keeps h)
  | firmwareStart => exact .next (firmwareStart_keeps h)
  | sheepdogSelfTestDone => exact .next (sheepdogTested_keeps h)
  | stackTrainingDone => exact .next (stacksTrained_keeps h)
  | henSelfTestDone => exact .next (tryReady_keeps (henTested_keeps h))
  | vaultJournalScanDone => exact .next (vaultScanned_keeps h)
  | identityDerived => exact .next (identityDerived_keeps h)
  | jobResetDone => exact .next (jobResetOver_keeps h)
  | larderResetDone => exact .next (larderResetOver_keeps h)
  | watchdogExpiry => exact .next (watchdog_keeps h)
  | fatalError => exact .next (.ite (fatal_keeps (onlyIf_keeps h fun _ h1 => setRst_keeps h1)) h)
  | vcoreAdjust => exact .next (vcoreAdjust_keeps h)
  | marginLow => exact .next (marginLow_keeps h)
  | regulatorPoll => exact .next (regulatorPoll_keeps h)
  | vrbAlert => exact .next (vrbAlert_keeps h)
  | powerSample => exact .next (powerSample_keeps h)
  | powerBoundary => exact .next (powerBoundary_keeps h)
  | thermalRead => exact .next (thermalRead_keeps h)
  | thermalTrip120c => exact .next (thermalTrip_keeps h)
  | refClkLost => exact .next (refClkLost_keeps h)
  | throttleNEdge => exact .next (throttleEdge_keeps h)
  | throttleDwellEnd => exact .next (dwellEnd_keeps h)
  | throttleStuck => exact .next (throttleStuck_keeps h)
  | cellTime => exact execCellTime_next h
  | completionRecordApplied => exact .next (settle_keeps (applyRec_keeps h))
  | larderFault => exact .next (.ite (beginLarderReset_keeps h) h)
  | vauxRemoved => exact .next (setRst_keeps (coldState_keeps h))
  | vauxApplied => exact .next (.ite h (setRst_keeps h))
  | pinGlitch => exact .next (.ite (h.upd rfl) h)

end

/-- A step keeps memory's canonical form: its command does, and time alone changes no memory. -/
theorem step_memInv {s t : State} (hs : MemInv s) (ht : step s = .next t) : MemInv t := by
  unfold step at ht
  split at ht
  · cases ht
    exact hs
  · exact ((exec_keeps (Keeps.refl _)).keeps ht).mem hs

/-- Settles O3: whatever a step's command changes, memory is changed only by writes and clearings that keep its form. -/
theorem memoryFormKept : Obligations.MemoryFormKept := by
  unfold Obligations.MemoryFormKept
  exact fun _ _ => step_memInv

end Sys2Proof.Machine

/-!
## The job and member objects (R18 to R22)
-/
namespace Sys2Proof.Machine

/-! ### JOB_OPEN, JOB_CLOSE, JOB_SLOTS, MEMBER_ADD and MEMBER_REMOVE (Table 2.2) -/

section

variable {s : State} {v job m p slot : Nat} {j : Job}

theorem jobOpenStatus_done (hr : rget kStartState s = 2) (hd : rget kDebugState s = 0) (hh : homeIndex s ≤ 15)
    (hj : jobOf (fld v 255 240) s = none) (hf : freeKey s.pool.jobs 4096 = some slot) : jobOpenStatus v s = .done := by
  simp [jobOpenStatus, hr, hd, Nat.not_lt.mpr hh, hj, hf, startReady, jobsMax]

theorem commitJobOpen_done (h : jobOpenStatus v s = .done) (hf : freeKey s.pool.jobs 4096 = some slot) :
    commitJobOpen v s = (.done, post16 kJobResult .done (setJob slot (jobOfRecord v) s)) := by
  simp [commitJobOpen, h, hf, jobsMax]

theorem commitJobClose_active (h : isActive v s = true) :
    commitJobClose v s = (.done, post16 kJobResult .done (closeJob v s)) := if_pos h

theorem commitJobSlots_ok (h : jobSlotsOk (fld v 31 16) (fld v 15 0) s = true) :
    commitJobSlots v s =
      (.done, post16 kJobResult .done (modJob (fld v 31 16) (fun j => { j with slots := fld v 15 0 }) s)) := if_pos h

theorem commitMemberAdd_ok (h : memberAddOk (fld v 63 48) (fld v 47 40) (fld v 35 24) s = true) :
    commitMemberAdd v s = (.done, journalAny jMember 0 0 0 (fld v 63 48 * 2 ^ 16 + fld v 47 40) (fld v 35 24) []
      (modJob (fld v 63 48) (fun j => { j with members := j.members ++ [(fld v 47 40, fld v 35 24)] }) s)) := if_pos h

theorem commitMemberRemove_member (hj : activeJob (fld v 31 16) s = some (slot, j))
    (hm : (partnerOf j (fld v 15 8)).isSome = true) :
    commitMemberRemove v s = (.done, removeMember (fld v 31 16) (fld v 15 8) s) := by
  simp [commitMemberRemove, hj, hm]

end

/-- Settles O8: in the state that has heard the request each rule's conditions stand as before, and its object's commit
is the rule. -/
theorem jobAndMemberWritesTakeEffect : Obligations.JobAndMemberWritesTakeEffect := by
  unfold Obligations.JobAndMemberWritesTakeEffect
  intro rq x s v slot j t
  refine ⟨fun hw hr hd hh hj hf => ?_, fun hw ha => ?_, fun hw hs => ?_, fun hw hm => ?_, fun hw hj hm => ?_⟩
  · exact writeRow_takes hw rfl (by decide) (commitJobOpen_done (jobOpenStatus_done hr hd hh hj hf) hf)
  · exact writeRow_takes hw rfl (by decide) (commitJobClose_active ha)
  · exact writeRow_takes hw rfl (by decide) (commitJobSlots_ok hs)
  · exact writeRow_takes hw rfl (by decide) (commitMemberAdd_ok hm)
  · exact writeRow_takes hw rfl (by decide) (commitMemberRemove_member hj hm)

end Sys2Proof.Machine

/-!
## Access lists, keys and roles (R35, R37, R532, R537 to R539)
-/
namespace Sys2Proof.Machine

/-! ### Peer messages and the journal leave the pool and memory as they are (Table 4.9) -/

/-- The pool's tables and memory are as they were. -/
def PoolStands (s t : State) : Prop := t.pool = s.pool ∧ t.mem = s.mem

section

variable {s t : State}

theorem PoolStands.refl (s : State) : PoolStands s s := ⟨rfl, rfl⟩
theorem PoolStands.trans {r : State} (h : PoolStands r s) (k : PoolStands s t) : PoolStands r t :=
  ⟨k.1.trans h.1, k.2.trans h.2⟩

theorem partialBytes_poolStands (res : List PartialQ) (x : List Byte × State) (h : PoolStands s x.2) :
    PoolStands s (res.foldl (fun x q => partialBytes q x) x).2 := by
  induction res generalizing x with
  | nil => exact h
  | cons q res ih => exact ih _ h

theorem peerBody_poolStands (kind : Nat) (recs : List JRec) (res : List PartialQ) (num : Nat) (s : State) :
    PoolStands s (peerBody kind recs res num s).2 := by
  unfold peerBody
  split
  · exact .refl s
  split
  · exact .refl s
  split
  · exact partialBytes_poolStands res ([], s) (.refl s)
  · split <;> exact .refl s

theorem sendPeer_poolStands (home kind key job : Nat) (recs : List JRec) (res : List PartialQ) (num : Nat) (s : State) :
    PoolStands s (sendPeer home kind key job recs res num s) := by
  unfold sendPeer
  split
  · exact .refl s
  · exact peerBody_poolStands kind recs res num s

theorem journalAny_poolStands (typ slot ext gen arg0 arg1 : Nat) (data : List Byte) (s : State) :
    PoolStands s (journalAny typ slot ext gen arg0 arg1 data s) := by
  unfold journalAny
  split
  · exact sendPeer_poolStands ..
  · exact sendPeer_poolStands ..
  · exact .refl s
  · exact .refl s

theorem journalExtAs_poolStands (ext st : Nat) (s : State) : PoolStands s (journalExtAs ext st s) := by
  unfold journalExtAs
  split
  · exact .refl s
  · split
    · exact .refl s
    · exact journalAny_poolStands ..

theorem journalExt_poolStands (ext : Nat) (s : State) : PoolStands s (journalExt ext s) := by
  unfold journalExt
  split
  · exact .refl s
  · exact journalExtAs_poolStands ..

end

/-! ### ACL_ENTRY, KEY_LOAD, KEY_DESTROY and ROLE_ENTRY (Tables 2.9, 17.3, 17.4) -/

section

variable {s : State} {v i : Nat}

theorem queueScan_pool (x : Scan) (s : State) : (queueScan x s).pool = s.pool := by
  unfold queueScan
  split <;> rfl

/-- A list reads what was written; the recalls that follow leave it. -/
theorem aclOf_writeAcl (l v : Nat) (s : State) : aclOf l (writeAcl l v s) = (v % 2 ^ 256, v / 2 ^ 256 % 2 ^ 256) := by
  unfold writeAcl
  extract_lets old r _ s₁ s₂
  have h1 : aclOf l s₁ = (v % 2 ^ 256, v / 2 ^ 256 % 2 ^ 256) := by simp [aclOf, s₁, tgetD_tput, r]
  have h2 : s₂.pool = s₁.pool := (journalAny_poolStands ..).1
  suffices h : ∀ t : State, t.pool = s₂.pool → aclOf l t = (v % 2 ^ 256, v / 2 ^ 256 % 2 ^ 256) from
    h _ (each_induct (P := fun t => t.pool = s₂.pool) (fun m t ht => by
      split
      · rw [queueScan_pool, ht]
      · exact ht) _ _ rfl)
  intro t ht
  rw [← h1]
  simp only [aclOf, ht, h2]

theorem commitAcl_ok (h : aclWriteOk i v s = true) : commitAcl i v s = (.done, writeAcl i v s) := if_pos h

theorem keyLoadStatus_done (hd : rget kDebugState s = 0) (hs : fld v 767 756 ≠ 0) (hf : keyOf (fld v 767 756) s = none)
    (hk : (keyOfRecord v).key1 ≠ (keyOfRecord v).key2)
    (ho : (keyOfRecord v).host = true ∨ isActive (keyOfRecord v).owner s = true) : keyLoadStatus v s = .done := by
  have ho' : (!(keyOfRecord v).host && !isActive (keyOfRecord v).owner s) = false := by
    rcases ho with ho | ho <;> simp [ho]
  simp [keyLoadStatus, hd, hs, hf, hk, ho']

theorem commitKeyLoad_done (h : keyLoadStatus v s = .done) :
    commitKeyLoad v s = (.done,
      rset kKeyLoadResult (pack [(statusCode .done, 248), (fld v 767 756, 128), (keyCheck (keyOfRecord v), 0)])
        { s with pool := { s.pool with keys := tput s.pool.keys (fld v 767 756) (keyOfRecord v) } }) := by
  simp only [commitKeyLoad, h]

theorem commitKeyDestroy_unused (h0 : v ≠ 0) (hv : v < 4096) (hu : keyUsers v s = 0) :
    commitKeyDestroy v s = (.done, destroyKey v s) := by
  simp [commitKeyDestroy, h0, Nat.not_le.mpr hv, hu]

theorem commitRoleEntry_ok (hr : recRole v ≤ 3) (hm : hasManager (tput s.sec.flash.roles i v) = true) :
    commitRoleEntry i v s = (.done, post16 kRoleResult .done (setSec (fun z =>
      { z with flash := { z.flash with roles := tput s.sec.flash.roles i v } }) s)) := by
  simp [commitRoleEntry, Nat.not_lt.mpr hr, hm]

end

/-- Settles O10: each object's commit is its rule, and a list's two maps are the record's halves. -/
theorem listKeyAndRoleWritesTakeEffect : Obligations.ListKeyAndRoleWritesTakeEffect := by
  unfold Obligations.ListKeyAndRoleWritesTakeEffect
  intro rq x s v t i k
  refine ⟨fun hw ha => ⟨?_, ?_⟩, fun hw hd hs hf hk ho => ?_, fun hw h0 hv hu => ?_, fun hw hr hm => ?_⟩
  · exact writeRow_takes hw rfl (by decide) (commitAcl_ok ha)
  · have hv : v < 2 ^ 256 * 2 ^ 256 := hw.fits
    rw [aclOf_writeAcl, Nat.mod_eq_of_lt (Nat.div_lt_of_lt_mul hv)]
  · exact writeRow_takes hw rfl (by decide) (commitKeyLoad_done (keyLoadStatus_done hd hs hf hk ho))
  · exact writeRow_takes hw rfl (by decide) (commitKeyDestroy_unused h0 hv hu)
  · exact writeRow_takes hw rfl (by decide) (commitRoleEntry_ok hr hm)

end Sys2Proof.Machine

/-!
## The extent commands (R28, R34, R52)
-/
namespace Sys2Proof.Machine

/-! ### ALLOCATE, REVOKE and SET_ACL (Tables 2.6 to 2.8) -/

/-- The field just set reads what was set. -/
theorem fld_setFld_self {hi lo : Nat} (h : lo ≤ hi) (v x : Nat) :
    fld (setFld v hi lo x) hi lo = x % 2 ^ (hi + 1 - lo) := by
  have hp : 2 ^ (hi + 1) = 2 ^ lo * 2 ^ (hi + 1 - lo) := by rw [← Nat.pow_add]; congr 1; omega
  have hv : setFld v hi lo x =
      2 ^ lo * (v / 2 ^ (hi + 1) * 2 ^ (hi + 1 - lo) + x % 2 ^ (hi + 1 - lo)) + v % 2 ^ lo := by
    rw [setFld, hp]
    ring
  have hlt : v % 2 ^ lo < 2 ^ lo := Nat.mod_lt _ (Nat.two_pow_pos lo)
  rw [fld, hv, Nat.mul_add_div (Nat.two_pow_pos lo), Nat.div_eq_of_lt hlt, Nat.add_zero, Nat.mul_add_mod_self_right,
    Nat.mod_mod]

theorem ecOp_setFld (v : Nat) {op : Nat} (h : op < 256) : ecOp (setFld v 255 248 op) = op := by
  rw [ecOp, fld_setFld_self (by decide)]
  exact Nat.mod_eq_of_lt h

/-- A free key is the lowest one that the table does not have. -/
theorem freeKey_eq_some {α : Type} {t : Tbl α} {n k : Nat} (h : freeKey t n = some k) :
    tget t k = none ∧ ∀ y < k, tget t y ≠ none := by
  rw [freeKey, List.head?_filter, List.find?_range_eq_some] at h
  obtain ⟨hk, _, hy⟩ := h
  refine ⟨by simpa [thas] using hk, fun y hlt => ?_⟩
  have := hy y hlt
  simpa [thas, Option.ne_none_iff_isSome] using this

section

variable {s : State} {v ext : Nat} {e : Extent}

theorem allocate_done (hd : allocStatus (newExtent v 0) s = .done) (hf : freeKey s.pool.extents 65536 = some ext) :
    allocate v s = extentResult .done (ecSeq v) ext (nextGen ext s)
      (journalExt ext (makeExtent ext (newExtent v 0) s)) := by
  simp [allocate, hd, hf]

theorem commitExtent_allocate (hq : s.vers.mirror.waiting = []) (ho : ecOp v = 1)
    (hm : fMirror (newExtent v 0) = false) (hd : allocStatus (newExtent v 0) s = .done)
    (hf : freeKey s.pool.extents 65536 = some ext) :
    commitExtent v s = (.done, extentResult .done (ecSeq v) ext (nextGen ext s)
      (journalExt ext (makeExtent ext (newExtent v 0) s))) := by
  simp [commitExtent, hq, runExtents, ho, hm, allocate_done hd hf]

theorem commitExtent_revoke (hq : s.vers.mirror.waiting = []) (ho : ecOp v = 2) (he : extOf (ecExt v) s = some e)
    (ha : e.st = .active) :
    commitExtent v s = (.done, extentResult .done (ecSeq v) (ecExt v) (tgetD s.pool.gens (ecExt v) 0)
      (revokeExt (ecExt v) s)) := by
  simp [commitExtent, hq, runExtents, ho, revoke, he, ha]

theorem commitExtent_setAcl (hq : s.vers.mirror.waiting = []) (ho : ecOp v = 3) (he : extOf (ecExt v) s = some e)
    (ha : e.st = .active) (hl : aclSuits e (ecAcl v) s = true) :
    commitExtent v s = (.done, extentResult .done (ecSeq v) (ecExt v) (tgetD s.pool.gens (ecExt v) 0)
      (journalExt (ecExt v) (setExt (ecExt v) { e with acl := ecAcl v } s))) := by
  simp [commitExtent, hq, runExtents, ho, setAcl, he, ha, hl]

/-- Making an extent puts it into the table under its raised generation. -/
theorem makeExtent_extents (ext : Nat) (e : Extent) (s : State) :
    (makeExtent ext e s).pool.extents = tput s.pool.extents ext { e with gen := nextGen ext s } := by
  unfold makeExtent
  extract_lets gen _ _ s₂
  have h2 : s₂.pool.extents = tput s.pool.extents ext { e with gen := gen } := by
    unfold s₂
    split <;> rfl
  split
  · exact h2
  · split <;> exact h2

theorem extOf_allocate (hd : allocStatus (newExtent v 0) s = .done) (hf : freeKey s.pool.extents 65536 = some ext)
    (y : Nat) : extOf y (allocate v s) = if ext = y then some (newExtent v (nextGen ext s)) else extOf y s := by
  have hp : (allocate v s).pool.extents = tput s.pool.extents ext (newExtent v (nextGen ext s)) := by
    rw [allocate_done hd hf, ← show _ = tput s.pool.extents ext (newExtent v (nextGen ext s)) from
      makeExtent_extents ext (newExtent v 0) s]
    exact congrArg Pool.extents (journalExt_poolStands ..).1
  rw [extOf, hp, tget_tput]
  rfl

end

/-- Settles O9: with no command waiting for the mirror a command runs at once; the ID is the lowest that the table does
not have, and nothing of an ALLOCATE's writes the table but under it. -/
theorem extentWritesTakeEffect : Obligations.ExtentWritesTakeEffect := by
  unfold Obligations.ExtentWritesTakeEffect
  refine ⟨?_, fun v ext s hd hf => ⟨(freeKey_eq_some hf).1, ?_, fun y hy => ?_, (freeKey_eq_some hf).2⟩⟩
  · intro rq x s v ext e t a r c hq
    refine ⟨fun hw hm hd hf => ?_, fun hw he ha => ?_, fun hw he ha hl => ?_⟩
    · exact writeRow_takes hw rfl (by decide) (commitExtent_allocate (s := t) hq (ecOp_setFld v (by decide)) hm hd hf)
    · exact writeRow_takes hw rfl (by decide) (commitExtent_revoke (s := t) hq (ecOp_setFld v (by decide)) he ha)
    · exact writeRow_takes hw rfl (by decide) (commitExtent_setAcl (s := t) hq (ecOp_setFld v (by decide)) he ha hl)
  · exact (extOf_allocate hd hf ext).trans (if_pos rfl)
  · exact (extOf_allocate hd hf y).trans (if_neg (Ne.symm hy))

end Sys2Proof.Machine

/-!
## The end of an extent (R48 to R50, R52)
-/
namespace Sys2Proof.Machine

/-! ### Draining, its bound, and the freeing of an extent (Table 2.8) -/

/-- The table of extents and memory are as they were. -/
def ExtentsStand (s t : State) : Prop := t.pool.extents = s.pool.extents ∧ t.mem = s.mem

section

variable {s t : State} {ext : Nat} {e : Extent}

theorem ExtentsStand.trans {r : State} (h : ExtentsStand r s) (k : ExtentsStand s t) : ExtentsStand r t :=
  ⟨k.1.trans h.1, k.2.trans h.2⟩

theorem PoolStands.extents (h : PoolStands s t) : ExtentsStand s t := ⟨congrArg Pool.extents h.1, h.2⟩

theorem raise_extentsStand (src num plen payload : Nat) (s : State) :
    ExtentsStand s (raise src num plen payload s) := by
  obtain ⟨hm, _, _, hp, _⟩ := raise_frame src num plen payload s
  exact ⟨congrArg Pool.extents hp, hm⟩

theorem each_extentsStand {α : Type} (l : List α) {f : α → State → State} (hf : ∀ a s, ExtentsStand s (f a s))
    (s : State) : ExtentsStand s (each l f s) :=
  each_induct (P := ExtentsStand s) (fun a t h => h.trans (hf a t)) l s ⟨rfl, rfl⟩

/-- A job that goes with its last extent takes its keys with it, and no extent. -/
theorem jobFreed_extentsStand (job : Nat) (s : State) : ExtentsStand s (jobFreed job s) := by
  unfold jobFreed
  split
  · exact ⟨rfl, rfl⟩
  extract_lets windows keys s₁
  split
  · exact ⟨rfl, rfl⟩
  · have h1 : ExtentsStand s s₁ := each_extentsStand _ (fun _ _ => (journalAny_poolStands ..).extents) s
    exact ExtentsStand.trans (s := { s₁ with pool := { s₁.pool with jobs := _ } }) h1
      (each_extentsStand keys (f := destroyKey) (fun _ _ => ⟨rfl, rfl⟩) _)

/-- The freed extent is out of the table and its memory is cleared; the table and memory otherwise stand. -/
theorem freeExt_frees (he : extOf ext s = some e) :
    (freeExt ext s).pool.extents = tdel s.pool.extents ext ∧
    (freeExt ext s).mem = memClear s.mem (ext * 2 ^ 96) ((ext + 1) * 2 ^ 96) := by
  unfold freeExt
  split
  next hn => cases hn.symm.trans he
  next x hx =>
    cases hx.symm.trans he
    extract_lets _ s₁ s₂ s₃
    have h1 : ExtentsStand s s₁ := by
      unfold s₁
      split <;> exact ⟨rfl, rfl⟩
    obtain ⟨hp, hm⟩ : ExtentsStand s s₃ := h1.trans ((raise_extentsStand _ _ _ _ (cleanExt ext s₁)).trans
      (journalExtAs_poolStands ..).extents)
    rw [← hp, ← hm]
    exact jobFreed_extentsStand ..

theorem drainedRow_drained (he : extOf ext s = some e) (hd : e.st = .draining) (hi : inflight ext s = 0) :
    drainedRow ext s = drainedExt ext false 0 s := by
  simp [drainedRow, he, hd, hi]

theorem drainBound_busy (he : extOf ext s = some e) (hd : e.st = .draining) (hi : inflight ext s ≠ 0) :
    drainBound ext s = forceDrain ext (timeTo (e.drainAt + rget kTierTimeout s * nsMs) s) := by
  simp [drainBound, he, hd, hi]

end

/-- Settles O41: a row runs its rule where the extent's state and what is in flight ask for it; what is freed is the
extent's entry and its range of memory. -/
theorem extentEventsComplete : Obligations.ExtentEventsComplete := by
  unfold Obligations.ExtentEventsComplete
  intro s ext e he
  refine ⟨fun hd hi => ?_, fun hd hi => ?_, fun hs hm => ?_⟩
  · rw [← drainedRow_drained he hd hi]
    rfl
  · rw [← drainBound_busy he hd hi]
    rfl
  · obtain ⟨hx, hu⟩ := freeExt_frees he
    refine ⟨freeExt ext s, ?_, ?_, fun y hy => ?_, fun a h1 h2 => ?_, fun a ha => ?_⟩
    · exact congrArg (fun u => Host.Outcome.next (settle u)) (if_pos hs)
    · rw [extOf, hx, tget_tdel, if_pos rfl]
    · rw [extOf, hx, tget_tdel, if_neg (Ne.symm hy), extOf]
    · rw [hu, memGet_memClear _ _ _ hm, if_pos ⟨h1, h2⟩]
    · rw [hu, memGet_memClear _ _ _ hm, if_neg (by omega)]

end Sys2Proof.Machine

/-!
## The mirror (R51, R125 to R132)
-/
namespace Sys2Proof.Machine

/-! ### The relation with the mirror (R125, R126) -/

section

variable {s : State}

theorem mirrorLost_dead (hr : s.vers.mirror.rel = .sync) (hd : (peerPort (mirrorPeer s) s).isNone = true) :
    mirrorLost s = relationLost s := by
  simp [mirrorLost, hr, hd]

theorem mirrorLost_unanswered (hr : s.vers.mirror.rel = .sync) (hd : (peerPort (mirrorPeer s) s).isNone = false)
    (hu : s.vers.mirror.unacked ≠ []) :
    mirrorLost s = relationLost
      (timeTo ((s.vers.mirror.unacked.map (·.2)).foldl min s.now + rget kMirrorTimeout s * nsUs) s) := by
  obtain ⟨x, u, hx⟩ := List.exists_cons_of_ne_nil hu
  simp [mirrorLost, hr, hd, hx]

theorem mirrorCopyDone_unrefused {refused : List Nat} (hc : s.vers.mirror.copying = true)
    (hr : s.vers.mirror.rel = .sync) (hx : ∀ x ∈ refused, x ∉ mirrorExts s) :
    mirrorCopyDone refused s = modMirror (fun m => { m with copying := false }) (copyMarked s) := by
  have hn : refused.filter (fun x => (mirrorExts s).contains x) = [] := by
    simpa [List.filter_eq_nil_iff] using hx
  simp only [mirrorCopyDone, hc, hr, hn, each_nil]
  rfl

end

/-! ### Messages of a peer (Table 4.9) -/

section

variable {s : State} {ph : PeerHdr}

/-- The last frame of a message hands it on in the state that has heard it. -/
theorem peerIn_last (hp : PeerSends ph s) (k : State → State) : peerIn ph k s = k (peerHeard ph s) := by
  have hl := hp.last _ rfl
  unfold peerIn
  rw [hp.live, hp.peer]
  extract_lets t mine had got rest
  have hg : ph.frags ≤ got.length := by
    have hh : had = ((t.txn.frags.find? mine).map (fun f => f.2.2)).getD [] := by
      unfold had
      cases t.txn.frags.find? mine <;> rfl
    simp only [got, hh]
    exact hl
  exact (if_neg (by decide)).trans (if_pos hg)

variable {p seq ext gen n st entry kcv : Nat} {recs : List JRec} {h : Shadow}

/-- The sequence of the last record applied to a primary's shadow. -/
def lastApplied (p : Nat) (s : State) : Nat := match shadowFor p s with | some h => h.lastSeq | none => 0

theorem journalIn_shadowed (hs : shadowFor p s = some h) (ht : h.takenOver = false) :
    journalIn p recs s =
      sendPeer p 0x02 0 0 [] [] (lastApplied p (applyRecords p recs s))
        (rset kJournalSeq (lastApplied p (applyRecords p recs s)) (applyRecords p recs s)) := by
  simp only [journalIn, hs, ht]
  rfl

/-- The records up to an acknowledgement's sequence are no longer kept. -/
def ackedDropped (seq : Nat) (s : State) : State :=
  modMirror (fun m => { m with unacked := m.unacked.filter (fun r => decide (seq < r.1.seq)) }) s

theorem journalAcked_inSync (hm : p = mirrorPeer s) (hr : s.vers.mirror.rel = .sync)
    (hq : seq < s.vers.mirror.nextSeq) :
    journalAcked p seq s =
      acknowledged seq (rset kJournalSeq (max seq (rget kJournalSeq (ackedDropped seq s))) (ackedDropped seq s)) := by
  simp [journalAcked, hm, hr, Nat.not_le.mpr hq, ackedDropped]

theorem mirrorCtl_revoke (hs : shadowFor p s = some h) (ht : h.takenOver = false) (hn : localExt h ext gen = some n) :
    mirrorCtl p (.revoke ext gen) s = revokeExt n s := by
  simp [mirrorCtl, hs, ht, hn]

theorem mirrorCtl_shadow (hs : ∀ h, shadowFor p s = some h → h.takenOver = false) :
    mirrorCtl p (.shadow entry kcv) s = sendCtl p mcAnswer
      (pack [(statusCode (shadowMade p entry kcv s).1, 16), (fld entry 271 256, 0)]) (shadowMade p entry kcv s).2 := by
  cases hf : shadowFor p s with
  | none => simp [mirrorCtl, hf]
  | some h => simp [mirrorCtl, hf, hs h hf]

theorem mirrorCtl_shadowAnswer (hm : p = mirrorPeer s) :
    mirrorCtl p (.shadowAnswer ext st) s = shadowAnswered ext st s := by
  simp only [mirrorCtl, if_pos hm]

theorem mirrorCtl_takeoverRefused (hm : p = mirrorPeer s) (hr : s.vers.mirror.rel = .sync) :
    mirrorCtl p .takeoverRefused s = relationLost s := by
  simp [mirrorCtl, onlyIf, hm, hr]

theorem exec_journal (hp : PeerSends ph s) :
    exec (.journal ph recs) s = .next (settle (journalIn ph.src recs (peerHeard ph s))) := by
  rw [← peerIn_last hp (journalIn ph.src recs)]
  rfl

theorem exec_journalAck (hp : PeerSends ph s) :
    exec (.journalAck ph seq) s = .next (settle (journalAcked ph.src seq (peerHeard ph s))) := by
  rw [← peerIn_last hp (journalAcked ph.src seq)]
  rfl

theorem exec_mirrorCtl (hp : PeerSends ph s) (m : MirrorMsg) :
    exec (.mirrorCtl ph m) s = .next (settle (mirrorCtl ph.src m (peerHeard ph s))) := by
  rw [← peerIn_last hp (mirrorCtl ph.src m)]
  rfl

end

/-- Settles O47: a row's conditions choose the branch of its rule, and a peer's message runs in the state that has heard
its last frame, where the mirror's state is as before. -/
theorem mirrorEventsComplete : Obligations.MirrorEventsComplete := by
  unfold Obligations.MirrorEventsComplete
  intro s ph seq ext gen st recs refused h m v
  refine ⟨fun hr hd => ?_, fun hr hd hu => ?_, fun hc hr hx => ?_, fun hp hs ht => ?_, fun hp hm hr hq => ?_,
    fun hp => ?_, fun hp hm => ?_, fun hp hs ht n hn => ?_, fun hp hm hr => ?_, fun hp hs entry kcv => ?_⟩
  · rw [← mirrorLost_dead hr hd]
    rfl
  · rw [← mirrorLost_unanswered hr hd hu]
    rfl
  · rw [← mirrorCopyDone_unrefused hc hr hx]
    rfl
  · rw [exec_journal hp, journalIn_shadowed hs ht]
    rfl
  · rw [exec_journalAck hp, journalAcked_inSync (s := v) hm hr hq]
    rfl
  · exact exec_mirrorCtl hp .release
  · rw [exec_mirrorCtl hp, mirrorCtl_shadowAnswer (s := v) hm]
  · rw [exec_mirrorCtl hp, mirrorCtl_revoke hs ht hn]
  · rw [exec_mirrorCtl hp, mirrorCtl_takeoverRefused (s := v) hm hr]
  · rw [exec_mirrorCtl hp, mirrorCtl_shadow hs]

end Sys2Proof.Machine

/-!
## The attic, the flush, owned objects and the mirror as they are written (R55, R72, R74, R117, R129 to R132)
-/
namespace Sys2Proof.Machine

/-! ### ATTIC_SIZE, FLUSH_CMD and OWNED_CMD (Tables 3.11, 4.4) -/

section

variable {s : State} {v : Nat} {e : Extent} {o : OwnObj}

theorem commitAtticSize_ok (hv : v ≤ 512) (h32 : v % 32 = 0) : commitAtticSize v s = (.done, rset kAtticSize v s) := by
  simp [commitAtticSize, Nat.not_lt.mpr hv, h32]

/-- The FLUSH that a write of FLUSH_CMD queues: of a VERSIONED extent it writes the version that is current then (R115). -/
def newFlush (v : Nat) (s : State) : FlushJob :=
  { ext := fld v 31 16, seq := fld v 15 8, stage := 0, left := [],
    version := (regionOfExt (fld v 31 16) s).map (fun r => r.2.cur) }

theorem commitFlush_durable (he : extOf (fld v 31 16) s = some e) (ha : e.st = .active) (hd : fDurable e = true) :
    commitFlush v s =
      let u := writeBatchesOf (fun lk => lkExt lk == fld v 31 16) s
      (.done, startFlushes { u with tiers := { u.tiers with flushes := u.tiers.flushes ++ [newFlush v u] } }) := by
  simp only [commitFlush, he, ha, hd]
  rfl

theorem commitOwned_create (ho : fld v 511 504 = 1) (hc : ownedCreateOk (fld v 493 480) (ownedOfCmd v) s = true) :
    commitOwned v s =
      let m := journalOwn (fld v 493 480) (setOwn (fld v 493 480) (ownedOfCmd v) s)
      (.done, ownedPost m.1 (ownedWord .done v) m.2) := by
  simp only [commitOwned, ho, hc, if_true]

theorem commitOwned_destroy (hd : fld v 511 504 = 2) (ho : ownOf (ownKeyOf (fld v 493 480) s) s = some o)
    (ht : o.transit = false) :
    commitOwned v s =
      let k := ownKeyOf (fld v 493 480) s
      let m := journalGone k s
      (.done, ownedPost m.1 (ownedWord .done v) (delOwn k m.2)) := by
  simp [commitOwned, hd, ho, ht]

theorem ownedOp_setFld (v : Nat) {op : Nat} (h : op < 256) : fld (setFld v 511 504 op) 511 504 = op := by
  rw [fld_setFld_self (by decide)]
  exact Nat.mod_eq_of_lt h

end

/-! ### MIRROR_PEER, MIRROR_RELEASE, MIRROR_RESYNC and MIRROR_TAKEOVER (Table 4.9) -/

section

variable {s : State} {v old : Nat} {h : Shadow}

theorem commitMirrorPeer_none (hp : mirrorPeer s = old) (ho : old ≠ 0xFF) :
    commitMirrorPeer 0xFF s =
      let u := rset kMirrorPeer 0xFF (forgetRecords (endWaiting .portDown (sendCtl old mcRelease 0 s)))
      (.done, { u with vers := { u.vers with mirror := { u.vers.mirror with rel := .none, copying := false } } }) := by
  simp only [commitMirrorPeer, hp, if_neg ho, if_neg (Ne.symm ho)]
  rfl

theorem commitMirrorRelease_lost (hr : s.vers.mirror.rel = .lost) :
    commitMirrorRelease s = (.done, forgetRecords (modMirror (fun m =>
      { m with
        rel := .degraded, copying := false,
        missed := m.missed ++ (s.vers.mirror.unacked.map (·.1)).filter (fun r =>
          r.typ == jExtent || r.typ == jMember || r.typ == jAcl || r.typ == jOwn),
        marked := (s.vers.mirror.unacked.flatMap (fun r => recCrates r.1)).foldl ladd m.marked }) s)) := by
  simp [commitMirrorRelease, hr]

theorem commitMirrorResync_degraded (hr : s.vers.mirror.rel = .degraded) (hp : (peerPort (mirrorPeer s) s).isSome = true) :
    commitMirrorResync s =
      (.done, copyMarked (journalAll (modMirror (fun m => { m with rel := .sync, copying := true }) s))) := by
  rw [Option.isSome_iff_ne_none] at hp
  simp [commitMirrorResync, hr, hp]

theorem commitTakeover_shadowed (hs : shadowFor v s = some h) (ht : h.takenOver = false) :
    commitTakeover v s = (.done, takeOver h s) := by
  simp [commitTakeover, hs, ht]

end

/-- Settles O11: each object's commit is its rule, and the state that has heard the request meets the rule's conditions
as before. -/
theorem ownershipAndMirrorWritesTakeEffect : Obligations.OwnershipAndMirrorWritesTakeEffect := by
  unfold Obligations.OwnershipAndMirrorWritesTakeEffect
  refine ⟨?_, ?_⟩
  · intro rq x s v e o t ext u c d
    refine ⟨fun hw hv h32 => ?_, fun hw he ha hd => ?_, fun hw hc => ?_, fun hw ho ht => ?_⟩
    · exact writeRow_takes hw rfl (by decide) (commitAtticSize_ok hv h32)
    · exact writeRow_takes hw rfl (by decide) (commitFlush_durable (s := t) he ha hd)
    · exact writeRow_takes hw rfl (by decide) (commitOwned_create (s := t) (ownedOp_setFld v (by decide)) hc)
    · exact writeRow_takes hw rfl (by decide) (commitOwned_destroy (s := t) (ownedOp_setFld v (by decide)) ho ht)
  · intro rq x s v old h t
    refine ⟨fun hw hp ho => ?_, fun hw hr => ?_, fun hw hr hp => ?_, fun hw hs ht => ?_⟩
    · exact writeRow_takes hw rfl (by decide) (commitMirrorPeer_none (s := t) hp ho)
    · exact writeRow_takes hw rfl (by decide) (commitMirrorRelease_lost (s := t) hr)
    · exact writeRow_takes hw rfl (by decide) (commitMirrorResync_degraded (s := t) hr hp)
    · exact writeRow_takes hw rfl (by decide) (commitTakeover_shadowed (s := t) hs ht)

end Sys2Proof.Machine

/-!
## What leaves the tiers as they are

Events, the ledger, batches and the ends of held requests; and what follows a command of the tiers within its step.
-/
namespace Sys2Proof.Machine

/-- A command whose rule leaves u completes in what settles from u. -/
theorem next_settle_congr {t u : State} (h : t = u) : (.next (settle t) : Res) = .next (settle u) := by rw [h]

/-! ### Iteration, conditions, events and the fault ledger -/

/-- What leaves the tiers as they are at each step leaves them so over a list. -/
theorem each_tiers {α : Type} {f : α → State → State} (hf : ∀ a s, (f a s).tiers = s.tiers) (l : List α)
    (s : State) :
    (each l f s).tiers = s.tiers :=
  each_induct (P := fun t => t.tiers = s.tiers) (fun a t h => (hf a t).trans h) l s rfl

theorem onlyIf_tiers {b : Bool} {f : State → State} (hf : ∀ s, (f s).tiers = s.tiers) (s : State) :
    (onlyIf b f s).tiers = s.tiers := by
  cases b
  · rfl
  · exact hf s

@[simp] theorem queueEvent_tiers (e : Event) (i : Nat) (s : State) : (queueEvent e i s).tiers = s.tiers := by
  unfold queueEvent
  split
  · rfl
  split
  · rfl
  · split <;> rfl

@[simp] theorem raise_tiers (src num plen payload : Nat) (s : State) : (raise src num plen payload s).tiers = s.tiers :=
  each_induct (P := fun t => t.tiers = s.tiers) (fun i t h => (queueEvent_tiers _ i t).trans h) _ _ rfl

@[simp] theorem ledger_tiers (src kind cls body : Nat) (s : State) : (ledger src kind cls body s).tiers = s.tiers := by
  unfold ledger onlyIf
  extract_lets
  split <;> rfl

theorem fatalRecord_tiers (unitN detail : Nat) (s : State) : (fatalRecord unitN detail s).tiers = s.tiers := by
  rw [fatalRecord, raise_tiers]
  exact ledger_tiers ..

theorem republish_tiers (key v : Nat) (s : State) : (republish key v s).tiers = s.tiers := by
  unfold republish
  split <;> rfl

/-! ### Batches, and the end of a request of an engine or a built-in sliver -/

theorem writeBatch_tiers (lk : Nat) (s : State) : (writeBatch lk s).tiers = s.tiers := by
  unfold writeBatch
  split <;> rfl

theorem writeBatchesOf_tiers (p : Nat → Bool) (s : State) : (writeBatchesOf p s).tiers = s.tiers :=
  each_tiers writeBatch_tiers _ s

theorem modItem_tiers (i : Nat) (f : Item → Item) (s : State) : (modItem i f s).tiers = s.tiers := by
  unfold modItem
  split <;> rfl

theorem itemSliverEnd_tiers (i sliver : Nat) (st : Status) (s : State) : (itemSliverEnd i sliver st s).tiers = s.tiers := by
  unfold itemSliverEnd
  extract_lets s₁
  split
  · exact modItem_tiers ..
  · exact (modItem_tiers ..).trans (modItem_tiers ..)

theorem endSliver_tiers (h : Nat) (st : Status) (s : State) : (endSliver h st s).tiers = s.tiers := by
  unfold endSliver
  extract_lets x s₁ next more y s₂
  have h1 : s₁.tiers = s.tiers := itemSliverEnd_tiers ..
  split
  · exact h1
  split
  · exact (modItem_tiers ..).trans h1
  · exact h1

theorem endHeld_tiers (h : Held) (st : Status) (s : State) : (endHeld h st s).tiers = s.tiers := by
  unfold endHeld
  split
  · exact onlyIf_tiers (endSliver_tiers _ st) _
  · split
    · exact itemSliverEnd_tiers ..
    · rfl
  · rfl

end Sys2Proof.Machine

/-!
## The end of a placement epoch (R60, R70)
-/
namespace Sys2Proof.Machine

theorem settleIso_tiers (s : State) : (settleIso s).tiers = s.tiers :=
  each_tiers (fun e t => by
    dsimp only
    split
    · rfl
    · exact raise_tiers ..) _ s

theorem settleBooks_tiers (s : State) : (settleBooks s).tiers = s.tiers :=
  each_tiers (fun cb t => by
    dsimp only
    split
    · rfl
    · rw [each_tiers (fun _ _ => raise_tiers ..)]
      split
      · rfl
      · split <;> rfl) _ s

/-- Settles O42: the epoch's rule is the plan, its first moves and what is left of the budget; isolation's and the
codebooks' ends, which follow the tick, leave the tiers as the tick has set them. -/
theorem placementEpochEnds : Obligations.PlacementEpochEnds := by
  unfold Obligations.PlacementEpochEnds
  intro s budget p begun carried coded u
  have hu : u.tiers = (epochTick (s.tiers.epoch + 1) coded).tiers := (settleBooks_tiers _).trans (settleIso_tiers _)
  refine ⟨?_, congrArg Tiers.epoch hu, congrArg Tiers.crates hu⟩
  change Host.Outcome.next (settle (placementEpoch budget s)) = _
  dsimp only [placementEpoch, u, coded, carried, begun, p]

end Sys2Proof.Machine

/-!
## Moves, fetches, placed writes and flushes (R61 to R66, R73, R115)
-/
namespace Sys2Proof.Machine

/-! ### The copies of moves and fetches (R62 to R66) -/

section

variable {s : State} {ck : Nat} {m : Move} {f : Fetch}

/-- A crate whose move is over: it moves no more, and that a store disturbed the copy is forgotten. -/
def moveOver (ck : Nat) (s : State) : State :=
  dropMove ck (modCrate ck (fun c => { c with moving := false, redirty := false }) s)

/-- What the end of a move's copy makes of the crate's place, before what waited for it goes on. -/
def copyLanded (ck : Nat) (m : Move) (s : State) : State :=
  let c := crateOf ck s
  let still := moveOver ck s
  if m.tier = tierVault then
    let copied := setCopy ck m.loc (!c.redirty) still
    if m.why = .flush then flushed ck copied
    else if c.redirty then bump kMoveAbandoned copied
    else leaveLoc ck c.tier c.loc (bump kMovesDone (modCrate ck (fun c => { c with tier := tierVault, loc := 0 }) copied))
  else if c.redirty then bump kMoveAbandoned still
  else
    leaveLoc ck c.tier c.loc (bump kMovesDone (modCrate ck (fun c => { c with tier := m.tier, loc := m.loc, agen := m.gen })
      (if m.tier = tierAttic then putAttic ck (locClass m.loc) m.gen still else dropAttic ck still)))

/-- A move whose commands are answered ends, and what waits for its place goes on. -/
theorem moveCopyDone_answered (hm : s.tiers.moves.find? (fun m => m.crate == ck) = some m) (hb : moveBusy ck s = false) :
    moveCopyDone ck s = startFlushes (startRetires (retryFetches (regroup ck (copyLanded ck m s)))) := by
  simp only [moveCopyDone, copyLanded, moveOver, hm, hb, Bool.false_eq_true, if_false]

theorem copyLanded_moved (hv : m.tier ≠ tierVault) (hr : (crateOf ck s).redirty = false) :
    copyLanded ck m s = leaveLoc ck (crateOf ck s).tier (crateOf ck s).loc (bump kMovesDone
      (modCrate ck (fun c => { c with tier := m.tier, loc := m.loc, agen := m.gen })
        (if m.tier = tierAttic then putAttic ck (locClass m.loc) m.gen (moveOver ck s)
         else dropAttic ck (moveOver ck s)))) := by
  simp only [copyLanded, if_neg hv, hr]
  rfl

theorem copyLanded_disturbed (hv : m.tier ≠ tierVault) (hr : (crateOf ck s).redirty = true) :
    copyLanded ck m s = bump kMoveAbandoned (moveOver ck s) := by
  simp only [copyLanded, if_neg hv, hr, if_true]

theorem copyLanded_flush (hv : m.tier = tierVault) (hw : m.why = .flush) :
    copyLanded ck m s = flushed ck (setCopy ck m.loc (!(crateOf ck s).redirty) (moveOver ck s)) := by
  simp only [copyLanded, if_pos hv, if_pos hw]

theorem copyLanded_vault (hv : m.tier = tierVault) (hw : m.why ≠ .flush) (hr : (crateOf ck s).redirty = false) :
    copyLanded ck m s = leaveLoc ck (crateOf ck s).tier (crateOf ck s).loc (bump kMovesDone
      (modCrate ck (fun c => { c with tier := tierVault, loc := 0 })
        (setCopy ck m.loc (!(crateOf ck s).redirty) (moveOver ck s)))) := by
  simp only [copyLanded, if_pos hv, if_neg hw, hr]
  rfl

theorem copyLanded_vaultDisturbed (hv : m.tier = tierVault) (hw : m.why ≠ .flush) (hr : (crateOf ck s).redirty = true) :
    copyLanded ck m s = bump kMoveAbandoned (setCopy ck m.loc (!(crateOf ck s).redirty) (moveOver ck s)) := by
  simp only [copyLanded, if_pos hv, if_neg hw, hr, if_true]

theorem exec_moveCopyDone (hm : s.tiers.moves.find? (fun m => m.crate == ck) = some m) (hb : moveBusy ck s = false) :
    exec (.moveCopyDone ck) s =
      .next (settle (startFlushes (startRetires (retryFetches (regroup ck (copyLanded ck m s)))))) :=
  next_settle_congr (moveCopyDone_answered hm hb)

theorem fetchDone_answered (hf : s.tiers.fetches.find? (fun f => f.crate == ck) = some f) (h0 : f.tier ≠ 0)
    (hb : fetchBusy ck s = false) :
    fetchDone ck s =
      let c := crateOf ck s
      let u := regroup ck (modCrate ck (fun c => { c with tier := f.tier, loc := f.loc })
        { s with tiers := { s.tiers with fetches := s.tiers.fetches.filter (fun x => x.crate != ck) } })
      startFlushes (startRetires (if c.tier = tierAttic then dropAttic ck (leaveLoc ck tierAttic c.loc u) else u)) := by
  simp only [fetchDone, hf, if_neg h0, hb]
  rfl

end

/-- Settles O43: a copy without an unanswered command lands as the move's goal, its cause and the stores meanwhile say;
a fetch's copy and an unread source run their rules. -/
theorem movesAndFetchesComplete : Obligations.MovesAndFetchesComplete := by
  unfold Obligations.MovesAndFetchesComplete
  intro s ck m f c onward still attic unread
  refine ⟨fun hm hb hv => ?_, fun hm hb hv => ?_, fun hf h0 hb => ?_, fun hu => ?_⟩
  · rw [exec_moveCopyDone hm hb]
    refine ⟨fun hr => ?_, fun hr => ?_⟩
    · rw [copyLanded_moved hv hr]
      rfl
    · rw [copyLanded_disturbed hv hr]
      rfl
  · rw [exec_moveCopyDone hm hb]
    refine ⟨fun hw => ?_, fun hw hr => ?_, fun hw hr => ?_⟩
    · rw [copyLanded_flush hv hw]
      rfl
    · rw [copyLanded_vault hv hw hr]
      rfl
    · rw [copyLanded_vaultDisturbed hv hw hr]
      rfl
  · exact next_settle_congr (fetchDone_answered hf h0 hb)
  · exact next_settle_congr (if_pos hu)

/-! ### A store's new crate (R61) and the end of a FLUSH (R73, R115) -/

section

variable {s : State} {ck l : Nat} {j : FlushJob} {rest : List FlushJob} {bad : Bool}

/-- The DIRTY crates that a running FLUSH has still to write. -/
def flushLeft (j : FlushJob) (s : State) : List Nat :=
  j.left.filter (fun ck => (crateOf ck s).dirty && (crateOf ck s).tier != 0)

theorem placeNew_shelf (hl : pickShelf ck s = some l) : placeNew ck s = putCrate ck tierShelf l s := by
  rw [placeNew, hl]
  rfl

/-- A store that waits for its UNMAPPED crate has it placed where the shelf has a slot, whatever moves are under way. -/
theorem unmappedPlaced_shelf
    (hw : s.txn.txs.any (fun t => t.wait == .space && t.parts.any (fun p => lkCrate p.line == ck && p.res.isNone)) = true)
    (ht : (crateOf ck s).tier = 0) (hl : pickShelf ck s = some l) :
    unmappedPlaced ck s = (putCrate ck tierShelf l s).2 := by
  simp [unmappedPlaced, hw, ht, hl, placeNew_shelf hl]

/-- A FLUSH's result and its leaving the queue concern no region. -/
theorem regionOfExt_flushEnded (x : Nat) (st : Status) (seq ext left : Nat) (t : Tiers) (s : State) :
    regionOfExt x (flushResult st seq ext left { s with tiers := t }) = regionOfExt x s := rfl

theorem flushDone_written (hf : s.tiers.flushes = j :: rest) (h2 : j.stage = 2) (hr : regionOfExt j.ext s = none)
    (hl : flushLeft j s = []) :
    flushDone bad s =
      startFlushes (flushResult .done j.seq j.ext 0 { s with tiers := { s.tiers with flushes := rest } }) := by
  rw [flushLeft] at hl
  simp [flushDone, hf, h2, hl, regionOfExt_flushEnded, hr]

theorem flushDone_fault (hf : s.tiers.flushes = j :: rest) (h2 : j.stage = 2) (hr : regionOfExt j.ext s = none)
    (hl : flushLeft j s ≠ []) :
    flushDone true s = startFlushes (flushResult .part j.seq j.ext (flushLeft j s).length
      { s with tiers := { s.tiers with flushes := rest } }) := by
  have he : (flushLeft j s).isEmpty = false := by simpa using hl
  rw [flushLeft] at he ⊢
  simp [flushDone, hf, h2, he, regionOfExt_flushEnded, hr]

end

/-- Settles O44: the slot that the shelf has is the crate's; with its extent in no region a FLUSH that ends holds no
version, and leaves its result and its turn. -/
theorem placedWritesAndFlushesComplete : Obligations.PlacedWritesAndFlushesComplete := by
  unfold Obligations.PlacedWritesAndFlushesComplete
  intro s ck l j rest bad
  refine ⟨fun hw ht hl => ?_, fun hf h2 hr => ⟨fun hl => ?_, fun hl => ?_⟩⟩
  · exact next_settle_congr (unmappedPlaced_shelf hw ht hl)
  · exact next_settle_congr (flushDone_written hf h2 hr hl)
  · exact next_settle_congr (flushDone_fault hf h2 hr hl)

end Sys2Proof.Machine

/-!
## Trays, failing slots and the Vault's maintenance (R77, R79, R83 to R85, R87, R91, R92)
-/
namespace Sys2Proof.Machine

/-! ### Poison, batches, tray commands and moves touch no fetch and no slot's retirement -/

/-- The fetches under way and the lists of retired and retiring slots are as they were. -/
structure SlotsStand (s t : State) : Prop where
  fetches : t.tiers.fetches = s.tiers.fetches
  retired : t.tiers.retired = s.tiers.retired
  retiring : t.tiers.retiring = s.tiers.retiring

section

variable {s t : State}

theorem SlotsStand.refl (s : State) : SlotsStand s s := ⟨rfl, rfl, rfl⟩
theorem SlotsStand.trans {r : State} (h : SlotsStand r s) (k : SlotsStand s t) : SlotsStand r t :=
  ⟨k.fetches.trans h.fetches, k.retired.trans h.retired, k.retiring.trans h.retiring⟩
theorem SlotsStand.ofTiers (h : t.tiers = s.tiers) : SlotsStand s t := by
  constructor <;> rw [h]
theorem SlotsStand.each {α : Type} (l : List α) {f : α → State → State} (hf : ∀ a s, SlotsStand s (f a s))
    (s : State) :
    SlotsStand s (each l f s) :=
  each_induct (P := SlotsStand s) (fun a t h => h.trans (hf a t)) l s (.refl s)

theorem poisonLine_slotsStand (lk cause : Nat) (s : State) : SlotsStand s (poisonLine lk cause s) := by
  unfold poisonLine
  split
  · exact .refl s
  extract_lets e job gen body crates _ _ _ s₁
  split
  · split
    · exact .refl s
    · exact .ofTiers ((raise_tiers ..).trans (fatalRecord_tiers ..))
  · exact .trans (s := s₁) ⟨rfl, rfl, rfl⟩ (.ofTiers (ledger_tiers ..))

theorem poisonCrate_slotsStand (ck cause : Nat) (s : State) : SlotsStand s (poisonCrate ck cause s) :=
  .each _ (fun lk t => poisonLine_slotsStand lk cause t) s

theorem meetLine_slotsStand (lk : Nat) (s : State) : SlotsStand s (meetLine lk s) := by
  unfold meetLine noteSlotErr
  split
  · refine .trans ?_ (poisonLine_slotsStand ..)
    dsimp only
    split <;> exact ⟨rfl, rfl, rfl⟩
  · exact .refl s

theorem trayCmd_slotsStand (n op flags count addr : Nat) (data : List Byte) (why : TrayWhy) (s : State) :
    SlotsStand s (trayCmd n op flags count addr data why s) := by
  unfold trayCmd onlyIf
  extract_lets
  split <;> exact ⟨rfl, rfl, rfl⟩

theorem moveCmds_slotsStand (ck tier loc : Nat) (s : State) : SlotsStand s (moveCmds ck tier loc s) := by
  have hif : ∀ (b : Bool) (n op flags count addr : Nat) (data : List Byte) (why : TrayWhy) (s : State),
      SlotsStand s (onlyIf b (trayCmd n op flags count addr data why) s) := by
    intro b n op flags count addr data why s
    cases b
    · exact .refl s
    · exact trayCmd_slotsStand ..
  unfold moveCmds
  extract_lets
  split
  · split
    · exact trayCmd_slotsStand ..
    · exact (hif ..).trans (trayCmd_slotsStand ..)
  · exact (hif ..).trans (hif ..)

theorem startMoveTo_slotsStand (ck tier loc gen : Nat) (why : MoveWhy) (s : State) :
    SlotsStand s (startMoveTo ck tier loc gen why s) := by
  unfold startMoveTo meetCrate
  extract_lets s₁ s₂
  have h1 : SlotsStand s s₁ := .trans (.ofTiers (writeBatchesOf_tiers ..)) (.each _ meetLine_slotsStand _)
  exact (h1.trans (moveCmds_slotsStand ..)).trans ⟨rfl, rfl, rfl⟩

theorem startMove_slotsStand (ck tier loc : Nat) (why : MoveWhy) (s : State) :
    SlotsStand s (startMove ck tier loc why s) := startMoveTo_slotsStand ck tier loc 0 why s

/-- Where a group of the crate map lies, and a free value drawn for it, is all that keeping it changes. -/
theorem regroup_eq (ck : Nat) (s : State) :
    ∃ g n, regroup ck s = { s with freeCtr := n, tiers := { s.tiers with groupTray := g } } := by
  unfold regroup
  extract_lets g cs deep ts
  split
  · exact ⟨_, _, rfl⟩
  split
  · exact ⟨_, _, rfl⟩
  · dsimp only [draw_eq]
    split <;> exact ⟨_, _, rfl⟩

theorem regroup_slotsStand (ck : Nat) (s : State) : SlotsStand s (regroup ck s) := by
  obtain ⟨g, n, h⟩ := regroup_eq ck s
  rw [h]
  exact ⟨rfl, rfl, rfl⟩

theorem leaveLoc_slotsStand (ck tier loc : Nat) (s : State) : SlotsStand s (leaveLoc ck tier loc s) := by
  unfold leaveLoc
  extract_lets
  split <;> exact ⟨rfl, rfl, rfl⟩

theorem vaultLoc_slotsStand (n : Nat) (s : State) : SlotsStand s (vaultLoc n s).2 := by
  unfold vaultLoc
  extract_lets x k
  split
  · exact .refl s
  dsimp only [draw_eq]
  split
  · split
    · exact ⟨rfl, rfl, rfl⟩
    · split <;> exact ⟨rfl, rfl, rfl⟩
  · split <;> exact ⟨rfl, rfl, rfl⟩

theorem moveTo_slotsStand (ck tier : Nat) (why : MoveWhy) (s : State) : SlotsStand s (moveTo ck tier why s).2 := by
  unfold moveTo
  extract_lets c s₁
  split
  · exact .refl s
  split
  · split
    · have h1 : SlotsStand s s₁ := .trans (.ofTiers (writeBatchesOf_tiers ..)) (leaveLoc_slotsStand ..)
      clear_value s₁
      refine SlotsStand.trans ?_ (regroup_slotsStand ck _)
      exact h1.trans ⟨rfl, rfl, rfl⟩
    · split
      · exact .refl s
      next u _ =>
        have hv := vaultLoc_slotsStand u s
        split
        next hs => rwa [hs] at hv
        next v w hs =>
          rw [hs] at hv
          exact hv.trans (startMove_slotsStand ck tierVault v why w)
  split
  · split
    · exact .refl s
    · exact startMove_slotsStand ..
  split
  · split
    · exact .refl s
    · exact startMove_slotsStand ..
  · exact .refl s

end

/-! ### Failing slots (R92) -/

/-- Retirement only goes forward: a retired slot stays so, and a retiring one is so still or is retired. -/
structure RetiresOn (s t : State) : Prop where
  retired : ∀ x ∈ s.tiers.retired, x ∈ t.tiers.retired
  retiring : ∀ x ∈ s.tiers.retiring, x ∈ t.tiers.retired ∨ x ∈ t.tiers.retiring

section

variable {s t : State} {tier loc : Nat} {bad : List Nat}

theorem RetiresOn.trans {r : State} (h : RetiresOn r s) (k : RetiresOn s t) : RetiresOn r t :=
  ⟨fun x hx => k.retired x (h.retired x hx),
   fun x hx => (h.retiring x hx).elim (fun h => .inl (k.retired x h)) (k.retiring x)⟩
theorem SlotsStand.retiresOn (h : SlotsStand s t) : RetiresOn s t :=
  ⟨fun x hx => by rwa [h.retired], fun x hx => .inr (by rwa [h.retiring])⟩

theorem slotRetired_tiers (tier loc : Nat) (s : State) :
    (slotRetired tier loc s).tiers = { s.tiers with
      retiring := s.tiers.retiring.filter (fun r => r != (tier, loc)), retired := s.tiers.retired ++ [(tier, loc)] } := by
  unfold slotRetired
  exact iteInduction (motive := fun t : State => t.tiers = _) (fun _ => rfl)
    (fun _ => (onlyIf_tiers (raise_tiers _ _ _ _) _).trans (republish_tiers ..))

theorem slotRetired_retiresOn (tier loc : Nat) (s : State) : RetiresOn s (slotRetired tier loc s) := by
  constructor <;> intro x hx <;> rw [slotRetired_tiers]
  · exact List.mem_append_left _ hx
  · by_cases h : x = (tier, loc)
    · exact .inl (by simp [h])
    · exact .inr (by simp [hx, h])

/-- Every slot of a list is retired, and none that was comes back. -/
theorem each_slotRetired : ∀ (l : List (Nat × Nat)) (s : State),
    RetiresOn s (each l (fun r => slotRetired r.1 r.2) s) ∧
    ∀ r ∈ l, r ∈ (each l (fun r => slotRetired r.1 r.2) s).tiers.retired
  | [], s => ⟨(SlotsStand.refl s).retiresOn, by simp⟩
  | a :: l, s => by
    obtain ⟨hon, hall⟩ := each_slotRetired l (slotRetired a.1 a.2 s)
    rw [each_cons]
    refine ⟨(slotRetired_retiresOn ..).trans hon, List.forall_mem_cons.mpr ⟨hon.retired a ?_, hall⟩⟩
    rw [slotRetired_tiers]
    simp

/-- The moves out of retiring slots retire none; those that hold nothing are retired before. -/
theorem startRetires_finish (s : State) : SlotsStand (finishRetires s) (startRetires s) := by
  unfold startRetires
  extract_lets s₁ stuck
  refine .each _ (fun c t => ?_) s₁
  dsimp only
  split
  · split
    · exact moveTo_slotsStand ..
    · exact (moveTo_slotsStand ..).trans (moveTo_slotsStand ..)
  split
  · split
    · exact moveTo_slotsStand ..
    · exact (moveTo_slotsStand ..).trans (moveTo_slotsStand ..)
  · exact .refl t

theorem startRetires_retiresOn (s : State) : RetiresOn s (startRetires s) :=
  (each_slotRetired _ s).1.trans (startRetires_finish s).retiresOn

theorem startRetires_retires {r : Nat × Nat} (hr : r ∈ s.tiers.retiring) (hu : (usedLocs r.1 s).contains r.2 = false) :
    r ∈ (startRetires s).tiers.retired := by
  rw [(startRetires_finish s).retired]
  exact (each_slotRetired _ s).2 r (List.mem_filter.mpr ⟨hr, by rw [hu]; rfl⟩)

/-- The uncorrected lines of the crate that a slot holds are poisoned. -/
def slotPoisoned (tier loc : Nat) (bad : List Nat) (s : State) : State :=
  match s.tiers.crates.find? (fun c => c.2.tier == tier && c.2.loc == loc) with
  | none => s
  | some c => each bad (fun i => poisonLine (c.1 * 512 + i) causeCode) s
/-- A slot leaves placement, and the errors noted of it are done with. -/
def slotLeaves (tier loc : Nat) (s : State) : State :=
  { s with tiers := { s.tiers with
      retiring := s.tiers.retiring ++ [(tier, loc)],
      slotErrs := s.tiers.slotErrs.filter (fun e => !(e.tier == tier && e.loc == loc)) } }

theorem retireSlot_failing (hr : s.tiers.retired.contains (tier, loc) = false)
    (hg : s.tiers.retiring.contains (tier, loc) = false) (ht : tier = tierShelf ∨ tier = tierCellar)
    (hf : slotFails tier loc s = true ∨ ∃ i ∈ bad, i < 512) :
    retireSlot tier loc bad s =
      startRetires (slotLeaves tier loc (slotPoisoned tier loc (bad.filter (fun i => decide (i < 512))) s)) := by
  have ht' : (tier != tierShelf && tier != tierCellar) = false := by
    rcases ht with rfl | rfl <;> rfl
  have hf' : ((bad.filter (fun i => decide (i < 512))).isEmpty && !slotFails tier loc s) = false := by
    rcases hf with hf | ⟨i, hi, hlt⟩
    · simp [hf]
    · have hm : i ∈ bad.filter (fun i => decide (i < 512)) := by simp [hi, hlt]
      simp [List.ne_nil_of_mem hm, -List.filter_eq_nil_iff]
  simp only [retireSlot, hr, hg, ht', hf', Bool.or_self, Bool.false_eq_true, if_false]
  rfl

theorem slotPoisoned_slotsStand (tier loc : Nat) (bad : List Nat) (s : State) :
    SlotsStand s (slotPoisoned tier loc bad s) := by
  unfold slotPoisoned
  split
  · exact .refl s
  · exact .each _ (fun _ _ => poisonLine_slotsStand ..) s

/-- A slot that no location in use names holds no crate, so nothing is poisoned. -/
theorem slotPoisoned_unused (hu : (usedLocs tier s).contains loc = false) : slotPoisoned tier loc bad s = s := by
  have hn : s.tiers.crates.find? (fun c => c.2.tier == tier && c.2.loc == loc) = none := by
    rw [List.find?_eq_none]
    intro c hc hp
    obtain ⟨h1, h2⟩ : c.2.tier = tier ∧ c.2.loc = loc := by simpa using hp
    have hm : loc ∈ usedLocs tier s := by
      simp only [usedLocs, List.append_assoc]
      exact List.mem_append_left _ (List.mem_filterMap.mpr ⟨c, hc, by simp [h1, h2]⟩)
    simp [hm] at hu
  rw [slotPoisoned, hn]

theorem retireSlot_retires (hr : s.tiers.retired.contains (tier, loc) = false)
    (hg : s.tiers.retiring.contains (tier, loc) = false) (ht : tier = tierShelf ∨ tier = tierCellar)
    (hf : slotFails tier loc s = true ∨ ∃ i ∈ bad, i < 512) :
    ((tier, loc) ∈ (retireSlot tier loc bad s).tiers.retired ∨ (tier, loc) ∈ (retireSlot tier loc bad s).tiers.retiring) ∧
    ((usedLocs tier s).contains loc = false → (tier, loc) ∈ (retireSlot tier loc bad s).tiers.retired) ∧
    ∀ x ∈ s.tiers.retired, x ∈ (retireSlot tier loc bad s).tiers.retired := by
  rw [retireSlot_failing hr hg ht hf]
  generalize bad.filter (fun i => decide (i < 512)) = lines
  have hl : ∀ t, (tier, loc) ∈ (slotLeaves tier loc t).tiers.retiring := fun t =>
    List.mem_append_right _ (List.mem_singleton_self _)
  have hp := (slotPoisoned_slotsStand tier loc lines s).retiresOn
  have hon := startRetires_retiresOn (slotLeaves tier loc (slotPoisoned tier loc lines s))
  refine ⟨hon.retiring _ (hl _), fun hu => ?_, fun x hx => hon.retired x (hp.retired x hx)⟩
  rw [slotPoisoned_unused hu]
  exact startRetires_retires (hl s) hu

end

/-! ### The tier timeout (R77), the loss of a tray (R91) and its answers (R79) -/

section

variable {s : State} {tray tx : Nat} {t : Tx} {w : Held} {r : TrayRsp} {c : TrayCmd}

theorem tierTimeout_request (ht : txOf tx s = some t) (hh : tierHeld t s = true) (hw : t.wait ≠ .mirror) :
    tierTimeout tx s =
      let v := bump kTierTimeouts (timeTo (t.since + rget kTierTimeout s * nsMs) s)
      completeTx t .tierTimeout [] (match t.src with | .port p => onlyIf t.ans.isNone (countExec p t.seq) v | _ => v) := by
  simp only [tierTimeout, ht, hh, if_neg hw]
  rfl

/-- What an engine or a built-in sliver holds ends with TIER_TIMEOUT; only a gang's home then goes on to its start. -/
theorem tierTimeout_held (ht : txOf tx s = none) (hf : s.txn.held.find? (fun h => h.id == tx) = some w)
    (hw : tierWaits w.wait = true) (hr : w.res = none) (hn : ∀ i, w.who ≠ .home i) :
    tierTimeout tx s = endHeld w .tierTimeout (bump kTierTimeouts (timeTo (w.since + rget kTierTimeout s * nsMs) s)) := by
  have hg : (w.who == Holder.home w.item) = false := beq_eq_false_iff_ne.mpr (hn w.item)
  simp only [tierTimeout, ht, hf, hw, hr, hg, onlyIf_false]
  rfl

theorem trayLost_serving (h : trayServes tray s = true) :
    trayLost tray s = loseTray tray (if (linkOf (trayLink tray) s).st = .active then s
      else timeTo ((linkOf (trayLink tray) s).downAt + nsS) s) :=
  if_neg (by simp [h])

/-- A tray's answer to its one command without an answer is taken as that command's. -/
theorem trayAnswered_only (hc : s.tiers.cmds = [c]) (ht : c.tray = r.link - 192) (hg : c.tag = r.tag) (ho : c.op = r.op)
    (hl : 192 ≤ r.link) (hm : r.more = false) (ha : (linkOf r.link s).st = .active) :
    trayAnswered r s = trayDone c (statusOf r.status == .done) r.corrected (c.got ++ r.data)
      { s with tiers := { s.tiers with cmds := [] } } := by
  have hi : ((linkOf r.link s).st == .ident) = false := by rw [ha]; rfl
  simp only [trayAnswered, hi, Bool.false_and, Bool.false_eq_true, if_false]
  simp [trayResponse, hc, ht, hg, ho, hm, Nat.not_lt.mpr hl]

/-! ### The map of a lost tray (R91) -/

/-- Moving entries of a table about, key by key, keeps what each entry's change keeps of it. -/
theorem tgetD_map {α β : Type} (p : α → β) {f : Nat × α → Nat × α} (hf : ∀ e, (f e).1 = e.1 ∧ p (f e).2 = p e.2)
    (k : Nat) (d : α) : ∀ t : Tbl α, p (tgetD (t.map f) k d) = p (tgetD t k d)
  | [] => rfl
  | (a, v) :: t => by
    obtain ⟨hk, hp⟩ := hf (a, v)
    have ih := tgetD_map p hf k d t
    rw [List.map_cons, show f (a, v) = (a, (f (a, v)).2) from Prod.ext hk rfl]
    simp only [tgetD, tget] at ih ⊢
    split
    · exact hp
    · exact ih

theorem each_regroup_stands (gs : List Nat) (s : State) :
    (each gs (fun g => regroup (g * 32)) s).mem = s.mem ∧
    (each gs (fun g => regroup (g * 32)) s).tiers.trays = s.tiers.trays ∧
    (each gs (fun g => regroup (g * 32)) s).tiers.crates = s.tiers.crates :=
  each_induct (P := fun t => t.mem = s.mem ∧ t.tiers.trays = s.tiers.trays ∧ t.tiers.crates = s.tiers.crates)
    (fun g t h => by
      obtain ⟨_, _, hr⟩ := regroup_eq (g * 32) t
      rw [hr]
      exact h) gs s ⟨rfl, rfl, rfl⟩

/-- A vault crate of a lost group whose vault address its journal record gives. -/
def mapBack (t : Nat) (s : State) (c : Nat × Crate) : Nat × Crate :=
  match tget s.tiers.journals c.1 with
  | some (u, a) =>
    if ((s.tiers.groupTray.filter (fun g => g.2 == t)).map (·.1)).contains (groupOf c.1) && c.2.tier == tierVault then
      (c.1, { c.2 with vtray := u, vloc := a })
    else c
  | none => c

theorem mapBack_keeps (t : Nat) (s : State) (c : Nat × Crate) :
    (mapBack t s c).1 = c.1 ∧ (mapBack t s c).2.tier = c.2.tier := by
  unfold mapBack
  split
  · split <;> exact ⟨rfl, rfl⟩
  · exact ⟨rfl, rfl⟩

theorem mapRebuilt_rebuilds (h : (trayOf tray s).rebuilding = true) :
    (trayOf tray (mapRebuilt tray s)).rebuilding = false ∧ (mapRebuilt tray s).mem = s.mem ∧
    ∀ ck, (crateOf ck (mapRebuilt tray s)).tier = (crateOf ck s).tier := by
  unfold mapRebuilt
  rw [h]
  extract_lets gs back s₁ x s₂
  obtain ⟨hm, ht, hc⟩ := each_regroup_stands gs s₂
  refine ⟨?_, hm, fun ck => ?_⟩
  · change (tgetD (each gs (fun g => regroup (g * 32)) s₂).tiers.trays tray trayDflt).rebuilding = false
    rw [ht]
    exact congrArg Tray.rebuilding ((trayOf_setTray tray tray _ s).trans (if_pos rfl))
  · change (tgetD (each gs (fun g => regroup (g * 32)) s₂).tiers.crates ck crateDflt).tier = _
    rw [hc]
    exact tgetD_map Crate.tier (mapBack_keeps tray s) ck crateDflt s.tiers.crates

end

/-- Settles O45: a row runs its rule where its conditions stand; a rebuilt map moves vault addresses alone; a failing slot
joins the retiring ones, and is retired at once where no location in use names it. -/
theorem trayEventsComplete : Obligations.TrayEventsComplete := by
  unfold Obligations.TrayEventsComplete
  intro s tray tier loc tx bad t w r c
  refine ⟨fun ht hh hw => ?_, fun ht hf hw hr hn => ?_, fun h => ?_, fun h => ?_, fun hr hg ht hf => ?_,
    fun hc ht hg ho hl hm ha => ?_⟩
  · exact next_settle_congr (tierTimeout_request ht hh hw)
  · exact next_settle_congr (tierTimeout_held ht hf hw hr hn)
  · exact next_settle_congr (trayLost_serving h)
  · exact ⟨mapRebuilt tray s, rfl, mapRebuilt_rebuilds h⟩
  · exact ⟨retireSlot tier loc bad s, rfl, retireSlot_retires hr hg ht hf⟩
  · exact next_settle_congr (trayAnswered_only hc ht hg ho hl hm ha)

end Sys2Proof.Machine

/-!
## The Vault's maintenance (R83 to R85, R87)
-/
namespace Sys2Proof.Machine

/-! ### Reclamation, static data, reads, scans and the uncorrectable page -/

section

variable {s : State} {ck tray id : Nat} {f : Fetch} {b : Block}

theorem uncorrected_slotsStand (ck : Nat) (s : State) :
    SlotsStand s (poisonCrate ck causeVault (bump kVaultUncorrected (regroup ck s))) := by
  have hb : SlotsStand (regroup ck s) (bump kVaultUncorrected (regroup ck s)) := ⟨rfl, rfl, rfl⟩
  exact ((regroup_slotsStand ck s).trans hb).trans (poisonCrate_slotsStand ck causeVault _)

/-- The crate that becomes a poisoned one of the Cellar keeps no fetch; every other fetch goes on. -/
theorem vaultUncorrectable_fetches (hf : s.tiers.fetches.find? (fun f => f.crate == ck) = some f)
    (ht : f.tier = tierCellar) (hc : (crateOf ck s).tier = tierVault) :
    (vaultUncorrectable ck s).tiers.fetches = s.tiers.fetches.filter (fun x => x.crate != ck) := by
  unfold vaultUncorrectable
  rw [hf]
  dsimp only
  rw [if_neg (by simp [ht, hc]), each_tiers (fun h t => endHeld_tiers h .poisoned t)]
  dsimp only
  rw [(uncorrected_slotsStand ck _).fetches]
  rfl

theorem vaultReclaim_due (hn : freeBlocks tray s * 100 < (trayOf tray s).blocksAll * 3)
    (hb : minBy (fun b => b.valid.length) ((trayBlocks tray s).filter (fun b => b.written && !b.bad && !b.reclaim &&
      !s.tiers.logs.any (fun l => l.1 == tray * 256 + b.id / 2 ^ 36 && l.2.1 == b.id % 2 ^ 36))) = some b) :
    vaultReclaim tray s = eraseEmpty (each b.valid (relocateCopy false) (setBlock { b with reclaim := true } s)) := by
  simp only [vaultReclaim, if_neg (Nat.not_le.mpr hn), hb]

theorem vaultStaticMove_due (hd : 512 < eraseSpread tray s)
    (hb : minBy (fun b => b.erases) ((trayBlocks tray s).filter (fun b => b.written && !b.bad && !b.valid.isEmpty)) =
      some b) :
    vaultStaticMove tray s = each b.valid (relocateCopy true) s := by
  simp only [vaultStaticMove, if_neg (Nat.not_le.mpr hd), hb]

theorem vaultReadRelocate_due (hr : 80000 ≤ (blockOfTray tray id s).reads) :
    vaultReadRelocate tray id s = each (blockOfTray tray id s).valid (relocateCopy true) s :=
  if_neg (Nat.not_lt.mpr hr)

theorem vaultScan_written (hb : blockOfTray tray id s = b) (hw : b.written = true) (hg : b.bad = false) :
    vaultScan tray id s =
      let u := timeTo (b.scannedAt + 7 * day24) s
      each b.valid (fun ck => scanRead ck tray id 0) (setBlock { b with scannedAt := u.now } u) := by
  subst hb
  exact if_neg (by simp [hw, hg])

end

/-- Settles O46: each row's rule finds the block that is due; what an uncorrectable page does after the fetch is dropped,
poison and the ends of held requests, begins no fetch. -/
theorem vaultEventsComplete : Obligations.VaultEventsComplete := by
  unfold Obligations.VaultEventsComplete
  intro s ck tray id lun blk f b
  refine ⟨fun hf ht hc => ⟨rfl, vaultUncorrectable_fetches hf ht hc⟩, fun hn hb => ?_, fun hd hb => ?_, fun hr => ?_,
    fun hb hw hg => ?_⟩
  · exact congrArg Host.Outcome.next (vaultReclaim_due hn hb)
  · exact congrArg Host.Outcome.next (vaultStaticMove_due hd hb)
  · exact congrArg Host.Outcome.next (vaultReadRelocate_due hr)
  · exact congrArg Host.Outcome.next (vaultScan_written hb hw hg)

end Sys2Proof.Machine

/-!
## A hen's instructions (R142 to R171)

An instruction of a running hen answers a hen, and that hen alone is changed; a trap ends its sliver. The rules for both,
and for the registers and stores that the instructions write.
-/
namespace Sys2Proof.Machine

/-! ### One hen of the table of hens -/

section

variable {s : State} {hen : Nat} {x y : Hen}

theorem tdel_tdel {α : Type} (t : Tbl α) (k : Nat) : tdel (tdel t k) k = tdel t k := by
  induction t with
  | nil => rfl
  | cons e t ih =>
    obtain ⟨q, v⟩ := e
    by_cases hq : q = k
    · simp [tdel, hq, ih]
    · simp [tdel, hq, ih]

theorem tput_tput {α : Type} (t : Tbl α) (k : Nat) (v w : α) : tput (tput t k v) k w = tput t k w := by
  simp [tput, tdel, tdel_tdel]

/-- The later of two changes of one hen stands. -/
@[simp] theorem setHen_setHen (hen : Nat) (x y : Hen) (s : State) : setHen hen y (setHen hen x s) = setHen hen y s := by
  simp only [setHen, tput_tput]

@[simp] theorem henOf_setHen_self (hen : Nat) (x : Hen) (s : State) : henOf hen (setHen hen x s) = x :=
  (henOf_setHen hen hen x s).trans (if_pos rfl)

theorem running_iff : running hen s = true ↔ (henOf hen s).st = .running := beq_iff_eq

@[simp] theorem running_setHen_self (hen : Nat) (x : Hen) (s : State) : running hen (setHen hen x s) = (x.st == .running) := by
  simp only [running, henOf_setHen_self]

theorem meetLs_running (hr : running hen s = true) (e : LsErr) :
    meetLs hen e s = setHen hen (lsMet e (henOf hen s)) s := by
  simp [meetLs, hr, modHen]

end

/-! ### An instruction that executes (R171) -/

/-- The hen after an instruction of four bytes that has made z of it. -/
def retired4 (z : Hen) : Hen := { z with pc := z.pc + 4, instret := z.instret + 1, retired := z.retired + 1 }

theorem retired_retired4 (z : Hen) : Retired (retired4 z) z := rfl

section

variable {s : State} {hen : Nat} {x z : Hen} {f : Hen → Except Trap Hen} {c : Instr} {e : LsErr}

/-- What leaves its hen running ends no sliver. -/
theorem henDo_setHen {g : State → State} {y : Hen} {u : State} (hr : running hen s = true) (hg : g s = setHen hen y u)
    (hy : y.st = .running) : henDo hen g s = setHen hen y u := by
  simp [henDo, hr, hg, hy]

/-- The same for what runs on the hen that has met the errors of the words it reads. -/
theorem henDo_meetLs {g : State → State} {y : Hen} {u : State} (hr : running hen s = true)
    (hg : g (setHen hen (lsMet e (henOf hen s)) s) = setHen hen y u) (hy : y.st = .running) :
    henDo hen g (meetLs hen e s) = setHen hen y u := by
  rw [meetLs_running hr]
  refine henDo_setHen ?_ hg hy
  rw [running_setHen_self]
  exact hr

theorem henInsn_ok (hr : running hen s = true) (hf : f (henOf hen s) = .ok z) :
    henInsn hen f s = setHen hen (retired4 z) s := by
  simp only [henInsn, hr, hf]
  rfl

/-- An instruction that executes leaves its hen running: nothing else follows. -/
theorem henRow_ok (hr : running hen s = true) (hf : f (henOf hen s) = .ok z) (hz : z.st = (henOf hen s).st) :
    henRow hen f s = .next (setHen hen (retired4 z) s) :=
  congrArg Host.Outcome.next (henDo_setHen hr (henInsn_ok hr hf) (hz.trans (running_iff.mp hr)))

/-- The same where words that it reads show errors first (R146). -/
theorem henRow_meetLs_ok (hr : running hen s = true) (hf : f (lsMet e (henOf hen s)) = .ok z)
    (hz : z.st = (henOf hen s).st) :
    henRow hen f (meetLs hen e s) = .next (setHen hen (retired4 z) s) := by
  refine congrArg Host.Outcome.next (henDo_meetLs hr ?_ (hz.trans (running_iff.mp hr)))
  rw [henInsn_ok (z := z), setHen_setHen]
  · rw [running_setHen_self]
    exact hr
  · rw [henOf_setHen_self]
    exact hf

/-- A row that runs an instruction on its hen completes with what the instruction gives. -/
theorem henGoes_retired (he : exec c s = henRow hen f s) (hr : running hen s = true) {Q : Hen → Hen → Prop}
    (hf : f (henOf hen s) = .ok z) (hz : z.st = (henOf hen s).st) (hq : Q (henOf hen s) (retired4 z)) :
    HenGoes c hen s Q :=
  ⟨retired4 z, he.trans (henRow_ok hr hf hz), hq⟩

theorem henGoes_meetLs (he : exec c s = henRow hen f (meetLs hen e s)) (hr : running hen s = true)
    {Q : Hen → Hen → Prop} (hf : f (lsMet e (henOf hen s)) = .ok z) (hz : z.st = (henOf hen s).st)
    (hq : Q (henOf hen s) (retired4 z)) : HenGoes c hen s Q :=
  ⟨retired4 z, he.trans (henRow_meetLs_ok hr hf hz), hq⟩

end

/-! ### Lanes of V registers (R152) -/

section

variable {s : State} {hen vd : Nat} {x : Hen}

theorem vLane_vSetLane (x : Hen) {r i q j : Nat} (w : W32) (hi : i < 32) (hj : j < 32) :
    vLane (vSetLane x r i w) q j = if q = r ∧ j = i then w else vLane x q j := by
  have hk : r * 32 + i = q * 32 + j ↔ q = r ∧ j = i := by omega
  simp only [vLane, vSetLane, tgetD_tput, hk]

/-- Writing the lanes of a register in order changes them and no other. -/
theorem vLane_setLanes (x : Hen) (r : Nat) (f : Nat → W32) {n : Nat} (hn : n ≤ 32) {q j : Nat} (hj : j < 32) :
    vLane ((List.range n).foldl (fun x i => vSetLane x r i (f i)) x) q j = if q = r ∧ j < n then f j else vLane x q j := by
  induction n with
  | zero => simp
  | succ n ih =>
    rw [List.range_succ, List.foldl_append, List.foldl_cons, List.foldl_nil, vLane_vSetLane _ _ (by omega) hj, ih (by omega)]
    by_cases hq : q = r
    · by_cases hjn : j = n
      · simp [hq, hjn]
      · have : j < n + 1 ↔ j < n := by omega
        simp [hq, hjn, this]
    · simp [hq]

theorem vSet_eq (x : Hen) (r : Nat) (ws : List W32) : vSet x r ws = { x with v := (vSet x r ws).v } := by
  unfold vSet
  induction ws.length with
  | zero => rfl
  | succ n ih =>
    rw [List.range_succ, List.foldl_append, ih]
    rfl

/-- A register that is set reads its new lanes; lanes that it is given no value for, and other registers, stand. -/
theorem vLane_vSet (x : Hen) (r : Nat) {ws : List W32} (hw : ws.length ≤ 32) {q j : Nat} (hj : j < 32) :
    vLane (vSet x r ws) q j = if q = r ∧ j < ws.length then ws[j]?.getD 0 else vLane x q j :=
  vLane_setLanes x r (fun i => ws[i]?.getD 0) hw hj

theorem lanesAre_vSet (x : Hen) (vd : Nat) (lane : Nat → W32) :
    LanesAre x (vSet x vd ((List.range 32).map lane)) vd lane := by
  intro r i hi
  rw [vLane_vSet x vd (by simp) hi]
  simp [hi]

/-- An instruction that changes V registers alone, as it retires. -/
theorem lanesAre_retired4 {lane : Nat → W32} {y : Hen} (hl : LanesAre x y vd lane) (hy : y = { x with v := y.v }) :
    LanesAre x (retired4 y) vd lane ∧ Retired (retired4 y) { x with v := (retired4 y).v } :=
  ⟨hl, congrArg retired4 hy⟩

theorem zipWith_vLanes (f : W32 → W32 → W32) (x : Hen) (v1 v2 : Nat) :
    List.zipWith f (vLanes x v1) (vLanes x v2) = (List.range 32).map (fun i => f (vLane x v1 i) (vLane x v2 i)) := by
  rw [vLanes, vLanes, List.zipWith_map, List.zipWith_self]

end

/-- A vector instruction of a running hen that gives one register its lanes. -/
theorem henGoes_v {s : State} {hen vd : Nat} {c : Instr} {f : Hen → Except Trap Hen} {lane : Nat → W32} {y : Hen}
    (he : exec c s = henRow hen f s) (hr : running hen s = true) (hf : f (henOf hen s) = .ok y)
    (hl : LanesAre (henOf hen s) y vd lane) (hy : y = { henOf hen s with v := y.v }) :
    HenGoes c hen s (fun x y => LanesAre x y vd lane ∧ Retired y { x with v := y.v }) :=
  henGoes_retired he hr hf (by rw [hy]) (lanesAre_retired4 hl hy)

theorem henGoes_lanes {s : State} {hen vd : Nat} {c : Instr} {f : Hen → Except Trap Hen} (lane : Nat → W32)
    (he : exec c s = henRow hen f s) (hr : running hen s = true)
    (hf : f (henOf hen s) = .ok (vSet (henOf hen s) vd ((List.range 32).map lane))) :
    HenGoes c hen s (fun x y => LanesAre x y vd lane ∧ Retired y { x with v := y.v }) :=
  henGoes_v he hr hf (lanesAre_vSet _ vd lane) (vSet_eq ..)

theorem vMap2_ok (vd v1 v2 : Nat) (f : W32 → W32 → W32) (x : Hen) :
    vMap2 vd v1 v2 f x = .ok (vSet x vd ((List.range 32).map (fun i => f (vLane x v1 i) (vLane x v2 i)))) := by
  rw [vMap2, zipWith_vLanes]

theorem vMap1_ok (vd v1 : Nat) (f : W32 → W32) (x : Hen) :
    vMap1 vd v1 f x = .ok (vSet x vd ((List.range 32).map (fun i => f (vLane x v1 i)))) := by
  rw [vMap1, vLanes, List.map_map]
  rfl

/-- Settles O19: an operation of one, two or three registers sets its destination's 32 lanes, each from the lanes of
that number. -/
theorem vectorOperationsActLaneByLane : Obligations.VectorOperationsActLaneByLane := by
  unfold Obligations.VectorOperationsActLaneByLane
  intro s hen vd v1 v2 vm iop cop hr
  simp only [List.forall_mem_cons]
  refine ⟨?_, ?_, ?_, ?_, ?_, ?_, ?_, ?_, ?_, ?_, ?_, ?_, ?_, by simp⟩
  · exact henGoes_lanes _ rfl hr (vMap2_ok ..)
  · exact henGoes_lanes _ rfl hr (vMap2_ok ..)
  · exact henGoes_lanes _ rfl hr (vMap2_ok ..)
  · exact henGoes_lanes _ rfl hr rfl
  · exact henGoes_lanes _ rfl hr (vMap2_ok ..)
  · exact henGoes_lanes _ rfl hr (vMap2_ok ..)
  · exact henGoes_lanes _ rfl hr rfl
  · exact henGoes_lanes _ rfl hr (vMap2_ok ..)
  · exact henGoes_lanes _ rfl hr rfl
  · exact henGoes_lanes _ rfl hr (vMap1_ok ..)
  · exact henGoes_lanes _ rfl hr (vMap1_ok ..)
  · exact henGoes_lanes _ rfl hr (vMap1_ok ..)
  · exact henGoes_lanes _ rfl hr (vMap1_ok ..)

end Sys2Proof.Machine

/-!
## Rows, tiles, vector memory and the matrix unit (R145 to R151, R155, R156, R159 to R161)
-/
namespace Sys2Proof.Machine

/-! ### x registers -/

section

variable {x : Hen} {r q v : Nat}

theorem xSet_eq (x : Hen) (r v : Nat) : xSet x r v = { x with x := (xSet x r v).x } := by
  unfold xSet
  split <;> rfl

/-- x0 reads zero whatever is written; another register reads what was written, of 64 bits. -/
theorem xGet_xSet (x : Hen) (r v q : Nat) :
    xGet (xSet x r v) q = if q = r ∧ r ≠ 0 then v % 2 ^ 64 else xGet x q := by
  by_cases hr : r = 0
  · simp [xSet, hr]
  · by_cases hq : q = r
    · subst hq
      simp [xGet, xSet, hr, tgetD_tput]
    · simp [xGet, xSet, hr, hq, tgetD_tput, Ne.symm hq]

end

/-! ### Tile and row instructions (Table 5.7) -/

theorem accSet_st (x : Hen) (t : Nat) (ws : List W32) : (accSet x t ws).st = x.st := rfl

section

variable {x : Hen} {t ts vd rs1 row : Nat}

theorem lanesAre_vrow (f : W32 → W32 → W32) (x : Hen) (vd ts : Nat) :
    LanesAre x (vSet x vd ((accRows x ts).map (foldTree f 5))) vd (fun i =>
      if i < 16 then foldTree f 5 ((List.range 32).map (fun j => accGet x ts i j)) else vLane x vd i) := by
  intro r i hi
  rw [vLane_vSet x vd (by simp [accRows]) hi]
  by_cases hr : r = vd
  · by_cases h16 : i < 16
    · simp [accRows, hr, h16]
    · simp [accRows, hr, h16]
  · simp [hr]

theorem vrowI_ok (h : ts < 8) (f : W32 → W32 → W32) :
    vrowI vd ts f x = .ok (vSet x vd ((accRows x ts).map (foldTree f 5))) := if_neg (Nat.not_le.mpr h)

theorem rowToV_ok (h : ts < 8) (hr : row < 16) :
    vmoveI (.rowToV ts row vd) x = .ok (vSet x vd ((List.range 32).map (accGet x ts row))) := by
  simp [vmoveI, Nat.not_le.mpr h, Nat.not_le.mpr hr]

theorem xToLanes_ok (rs : Nat) :
    vmoveI (.xToLanes rs vd) x = .ok (vSet x vd ((List.range 32).map (fun _ => BitVec.ofNat 32 (xGet x rs)))) := by
  rw [List.map_const', List.length_range]
  rfl

theorem laneToX_ok {lane : Nat} (h : lane < 32) (vs rd : Nat) :
    vmoveI (.laneToX vs lane rd) x =
      .ok (xSet x rd ((Config.laneUpper (vLane x vs lane)).toNat * 2 ^ 32 + (vLane x vs lane).toNat)) :=
  if_neg (Nat.not_le.mpr h)

theorem vToRow_ok (h : t < 8) (hr : row < 16) (vs : Nat) :
    vmoveI (.vToRow vs t row) x = .ok { x with
      tiles := memWrite x.tiles (t * 4096 + row * 128) ((vLanes x vs).flatMap (fun w => bytesOf 4 w.toNat)) } := by
  simp [vmoveI, Nat.not_le.mpr h, Nat.not_le.mpr hr]

theorem tzeroI_ok (h : t < 8) :
    tzeroI t x = .ok { x with tiles := memClear x.tiles (t * 4096) (t * 4096 + 4096) } := if_neg (Nat.not_le.mpr h)

theorem tloadI_ok (h : t < 8) (hc : lsCheck x (xGet x rs1) 2176 true = none) :
    tloadI t rs1 x = .ok { x with tiles := memWrite x.tiles (t * 4096) (memRead x.ls (xGet x rs1) 2176) } := by
  simp only [tloadI, if_neg (Nat.not_le.mpr h), hc]
  rfl

theorem tstoreI_ok (h : t < 8) (hf : fmtValid (fmtOut x) = true)
    (hc : lsCheck x (xGet x rs1) (tileOut x t).length false = none) :
    tstoreI t rs1 x = .ok (lsWrite x (xGet x rs1) (tileOut x t)) := by
  simp [tstoreI, Nat.not_le.mpr h, hf, hc]

theorem vscalerowsI_ok (h : t < 8) (vs : Nat) :
    vscalerowsI t vs x = .ok (accSet x t ((List.range 16).flatMap (fun i =>
      (List.range 32).map (fun j => fmul32 (accGet x t i j) (vLane x vs i))))) := if_neg (Nat.not_le.mpr h)

end

/-- A lane below its register's upper half is its low half. -/
theorem upper_add_lane_mod (u w : W32) : (u.toNat * 2 ^ 32 + w.toNat) % 2 ^ 64 % 2 ^ 32 = w.toNat := by
  have := u.isLt
  have := w.isLt
  omega

/-- Settles O20: each instruction's own equation says what it makes of the hen, and with numbers in range and a clear
local-store range it is no trap. -/
theorem rowAndTileInstructionsComplete : Obligations.RowAndTileInstructionsComplete := by
  unfold Obligations.RowAndTileInstructionsComplete
  refine ⟨fun s hen vd ts row vs lane rd rs hr ht hw hl => ⟨?_, ?_, ?_, ?_, ?_⟩,
    fun s hen t rs1 vs row ls hr ht hw => ⟨?_, fun hc => ?_, fun hf hc => ?_, ?_, ?_⟩⟩
  · exact henGoes_v rfl hr (vrowI_ok ht _) (lanesAre_vrow _ _ vd ts) (vSet_eq ..)
  · exact henGoes_v rfl hr (vrowI_ok ht _) (lanesAre_vrow _ _ vd ts) (vSet_eq ..)
  · exact henGoes_lanes _ rfl hr (rowToV_ok ht hw)
  · exact henGoes_lanes _ rfl hr (xToLanes_ok rs)
  · refine henGoes_retired rfl hr (laneToX_ok hl vs rd) (by rw [xSet_eq]) ⟨congrArg retired4 (xSet_eq ..), rfl, fun h0 => ?_,
      fun r hrd => ?_⟩
    · refine Eq.trans ?_ (upper_add_lane_mod (Config.laneUpper (vLane (henOf hen s) vs lane)) _)
      exact congrArg (· % 2 ^ 32) ((xGet_xSet ..).trans (if_pos ⟨rfl, h0⟩))
    · exact (xGet_xSet ..).trans (if_neg fun h => hrd h.1)
  · exact henGoes_retired rfl hr (tzeroI_ok ht) rfl (retired_retired4 _)
  · exact henGoes_meetLs rfl hr (tloadI_ok ht hc) rfl (retired_retired4 _)
  · exact henGoes_retired rfl hr (tstoreI_ok ht hf hc) rfl (retired_retired4 _)
  · exact henGoes_retired rfl hr (vscalerowsI_ok ht vs) (accSet_st ..) (retired_retired4 _)
  · exact henGoes_retired rfl hr (vToRow_ok ht hw vs) rfl (retired_retired4 _)

/-! ### Vector loads and stores, and TMMA (R148 to R151, R159, R160, R234, R235) -/

section

variable {x : Hen} {tc ta vd rs1 : Nat}

theorem vloadI_ok (hf : fmtValid (fmtA x) = true) (hc : lsCheck x (xGet x rs1) (blockBytes (fmtA x)) true = none) :
    vloadI vd rs1 x =
      .ok (vSet x vd (widenBlock (fmtA x) (memRead x.ls (xGet x rs1) (blockBytes (fmtA x))))) := by
  simp only [vloadI, hf, hc]
  rfl

theorem lanesAre_vSet_widen (x : Hen) (vd code : Nat) (bs : List Byte) :
    LanesAre x (vSet x vd (widenBlock code bs)) vd (fun i => ((widenBlock code bs)[i]?).getD 0) := by
  have hn : (widenBlock code bs).length = 32 := by simp [widenBlock]
  intro r i hi
  rw [vLane_vSet x vd hn.le hi]
  simp [hn, hi]

theorem vstoreI_ok (hf : fmtValid (fmtOut x) = true) (hc : lsCheck x (xGet x rs1) (blockBytes (fmtOut x)) false = none) :
    vstoreI vd rs1 x = .ok (lsWrite x (xGet x rs1) (narrowBlock (fmtOut x) (satOut x) (vLanes x vd))) := by
  simp only [vstoreI, hf, hc]
  rfl

theorem tmmaI_ok (hc : tc < 8) (ha : ta < 8) (hs : sameClass (fmtA x) (fmtB x) = true)
    (hl : lsCheck x (xGet x rs1) (bBytes (fmtB x)) true = none) :
    tmmaI tc ta rs1 x =
      .ok (tmmaApply tc ta (bCols (fmtB x) (secItems (elemBits (fmtB x)) (32 * classK (fmtB x))
          (natOf ((memRead x.ls (xGet x rs1) (bBytes (fmtB x))).take (bData (fmtB x)))))
          ((memRead x.ls (xGet x rs1) (bBytes (fmtB x))).drop (bData (fmtB x)))) x) := by
  have hg : ¬ (8 ≤ tc || 8 ≤ ta || !sameClass (fmtA x) (fmtB x)) = true := by simp [hs]; omega
  simp only [tmmaI, if_neg hg, hl]
  rfl

end

theorem tmmaApply_st (tc ta : Nat) (cols : List OpVec) (x : Hen) : (tmmaApply tc ta cols x).st = x.st :=
  accSet_st ..

/-! ### A coded B operand -/

theorem bumpN_setHen (key n hen : Nat) (x : Hen) (s : State) :
    bumpN key n (setHen hen x s) = setHen hen x (bumpN key n s) := rfl

/-- Where every block decodes, no test that only an error meets finds one. -/
theorem filter_decoded {dec : List (Except BlockErr (List Nat × List Byte))} (h : ∀ d ∈ dec, ∃ r, d = .ok r)
    {p : Except BlockErr (List Nat × List Byte) → Bool} (hp : ∀ r, p (.ok r) = false) : dec.filter p = [] := by
  rw [List.filter_eq_nil_iff]
  intro d hd
  obtain ⟨r, rfl⟩ := h d hd
  simp [hp]

theorem any_decoded {dec : List (Except BlockErr (List Nat × List Byte))} (h : ∀ d ∈ dec, ∃ r, d = .ok r)
    {p : Except BlockErr (List Nat × List Byte) → Bool} (hp : ∀ r, p (.ok r) = false) : dec.any p = false := by
  rw [List.any_eq_false]
  exact List.filter_eq_nil_iff.mp (filter_decoded h hp)

/-- A TMMA of a coded operand all of whose generations stand in the slots executes. -/
theorem tmmaCoded_ok {s : State} {hen tc ta rs1 : Nat} {x : Hen} (hx : henOf hen s = x) (hr : running hen s = true)
    {bs : List (Nat × List Byte)} (hbs : bs = inlineBlocks x (32 * classK (fmtB x)) 8 (xGet x rs1))
    {dec : List (Except BlockErr (List Nat × List Byte))}
    (hdec : dec = bs.map (fun b => decodeBlock b.1 (entriesFor x.job b.1 s) b.2))
    (hc : tc < 8) (ha : ta < 8) (hs : sameClass (fmtA x) (fmtB x) = true)
    (hl : lsCheck x (xGet x rs1) (lsum (bs.map (fun b => 16 + cdiv b.2.length 16 * 16))) true = none)
    (hf : ∀ b ∈ bs, bFmt b.1 = fmtB x) (hg : (blocksGens bs).length ≤ 2)
    (ht : lsum (bs.map (fun b => bTuples b.1 * bTuple b.1)) = 32 * classK (fmtB x)) (hsl : ∀ g ∈ blocksGens bs, g ∈ x.slots)
    (hd : ∀ d ∈ dec, ∃ r, d = .ok r) :
    tmmaCoded hen tc ta rs1 s = setHen hen (retired4 (tmmaApply tc ta (bCols (fmtB x)
        ((List.zip bs dec).flatMap (fun p => match p.2 with | .ok (ts, _) => elemsOf (fmtB x) (bTuple p.1.1) ts | .error _ => []))
        ((List.zip bs dec).flatMap (fun p => match p.2 with | .ok (_, c) => c | .error _ => []))) { x with cbWait := none }))
      (bumpN kStallExpand (expandCycles bs - 128) (bumpN kCheckFails 0 s)) := by
  have h1 : ¬ (8 ≤ tc || 8 ≤ ta || !sameClass (fmtA x) (fmtB x)) = true := by simp [hs]; omega
  have h2 : ¬ (!bs.all (fun b => bFmt b.1 == fmtB x) || decide (2 < (blocksGens bs).length) ||
      lsum (bs.map (fun b => bTuples b.1 * bTuple b.1)) != 32 * classK (fmtB x)) = true := by
    simp [ht, List.all_eq_true.mpr fun b hb => beq_iff_eq.mpr (hf b hb)]
    omega
  have h3 : (blocksGens bs).find? (fun g => !x.slots.contains g) = none := by
    simpa [List.find?_eq_none] using hsl
  unfold tmmaCoded
  simp only [hx, hr, ← hbs, ← hdec, if_neg h1, hl, if_neg h2, h3]
  rw [filter_decoded hd fun _ => rfl, any_decoded hd fun _ => rfl]
  have parts {β : Type} {f g : (Nat × List Byte) × Except BlockErr (List Nat × List Byte) → List β}
      (hfg : ∀ a d, f (a, d) = g (a, d)) : (List.zip bs dec).flatMap f = (List.zip bs dec).flatMap g :=
    List.flatMap_congr fun p _ => hfg p.1 p.2
  refine congrArg₂ (setHen hen) (congrArg (fun c => retired4 (tmmaApply tc ta c { x with cbWait := none })) ?_) rfl
  exact congrArg₂ (bCols (fmtB x)) (parts fun _ d => by cases d <;> rfl) (parts fun _ d => by cases d <;> rfl)

/-- Settles O21: loads, stores and raw operands are the instructions' own equations; a coded operand is decoded on the state
that has met the errors, in which the codebooks stand as before. -/
theorem vectorMemoryAndMatrix : Obligations.VectorMemoryAndMatrix := by
  unfold Obligations.VectorMemoryAndMatrix
  intro s hen vd rs1 tc ta ls hr
  refine ⟨fun hf hc => ?_, fun hf hc => ?_, fun hc ha hs hl => ?_, ?_⟩
  · refine henGoes_meetLs rfl hr (vloadI_ok hf hc) (by rw [vSet_eq]; rfl) ?_
    exact lanesAre_retired4 (lanesAre_vSet_widen _ vd _ _) (vSet_eq ..)
  · exact henGoes_retired rfl hr (vstoreI_ok hf hc) rfl (retired_retired4 _)
  · exact henGoes_meetLs rfl hr (tmmaI_ok hc ha hs hl) (tmmaApply_st ..) ⟨_, retired_retired4 _, rfl⟩
  · intro f bs dec parts cols hc ha hs hl hf hg ht hsl hd
    have hrun : running hen (setHen hen (lsMet ls (henOf hen s)) s) = true := by
      rw [running_setHen_self]
      exact hr
    have hok := tmmaCoded_ok (henOf_setHen_self hen _ s) hrun (bs := bs) rfl (dec := dec) rfl hc ha hs hl hf hg ht hsl hd
    rw [bumpN_setHen, bumpN_setHen, setHen_setHen] at hok
    exact ⟨_, congrArg Host.Outcome.next (henDo_meetLs hr hok (running_iff.mp hr)), retired_retired4 _⟩

end Sys2Proof.Machine

/-!
## The top-k unit (R163 to R165)

R163's order of candidates is the order of a key: NaN last, then the value in the unit's direction, then the ID, then the
bits. The key tells candidates apart, so the order is total and insertions commute.
-/
namespace Sys2Proof.Machine

/-! ### The order of values -/

/-- A finite value as a rational number; what is no finite value stands for 0. -/
def fvRat : Fv → ℚ
  | .fin neg m e => (if neg then -(m : ℚ) else m) * 2 ^ e
  | _ => 0

/-- The side of an infinity: -1, 0 for what is finite, 1. -/
def fvSide : Fv → ℤ
  | .inf neg => if neg then -1 else 1
  | _ => 0

/-- Where a value stands among values that are no NaN. -/
def fvRank (v : Fv) : ℤ ×ₗ ℚ := toLex (fvSide v, fvRat v)

theorem finInt_rat (neg : Bool) (m : Nat) {e lo : Int} (h : lo ≤ e) :
    ((finInt neg m e lo : Int) : ℚ) = fvRat (.fin neg m e) * 2 ^ (-lo) := by
  have hp : (2 : ℚ) ^ (e - lo).toNat = 2 ^ e * 2 ^ (-lo) := by
    rw [← zpow_natCast, Int.toNat_of_nonneg (by omega), sub_eq_add_neg, zpow_add₀ (by norm_num)]
  cases neg <;> simp [finInt, fvRat, hp] <;> ring

theorem finInt_lt_iff (x y : Bool) (m n : Nat) (e f : Int) :
    finInt x m e (min e f) < finInt y n f (min e f) ↔ fvRat (.fin x m e) < fvRat (.fin y n f) := by
  rw [← Int.cast_lt (R := ℚ), finInt_rat x m (min_le_left e f), finInt_rat y n (min_le_right e f)]
  exact mul_lt_mul_iff_left₀ (zpow_pos (by norm_num) _)

@[simp] theorem isNan_nan : isNan .nan = true := rfl
theorem isNan_of_ne {v : Fv} (h : v ≠ .nan) : isNan v = false := beq_eq_false_iff_ne.mpr h

theorem ltF_iff {a b : Fv} (ha : a ≠ .nan) (hb : b ≠ .nan) : ltF a b = true ↔ fvRank a < fvRank b := by
  simp only [fvRank, Prod.Lex.toLex_lt_toLex]
  cases a with
  | nan => exact absurd rfl ha
  | inf x => cases b with
    | nan => exact absurd rfl hb
    | inf y => cases x <;> cases y <;> simp [ltF, fvSide, fvRat]
    | fin y n f => cases x <;> simp [ltF, fvSide]
  | fin x m e => cases b with
    | nan => exact absurd rfl hb
    | inf y => cases y <;> simp [ltF, fvSide]
    | fin y n f => simp [ltF, fvSide, finInt_lt_iff]

theorem eqF_iff {a b : Fv} (ha : a ≠ .nan) (hb : b ≠ .nan) : eqF a b = true ↔ fvRank a = fvRank b := by
  have he : eqF a b = (!ltF a b && !ltF b a) := by
    unfold eqF
    split
    · exact absurd rfl ha
    · exact absurd rfl hb
    · rfl
  rw [he, Bool.and_eq_true, Bool.not_eq_true', Bool.not_eq_true', ← Bool.not_eq_true, ← Bool.not_eq_true, ltF_iff ha hb,
    ltF_iff hb ha, not_lt, not_lt, le_antisymm_iff]
  exact and_comm

/-! ### The order of candidates (R163, log 88) -/

/-- A value's place in a direction; NaNs share one. -/
def tkValue (largest : Bool) (v : Fv) : ℤ ×ₗ ℚ :=
  if isNan v then toLex (0, 0) else if largest then toLex (-fvSide v, -fvRat v) else fvRank v

/-- What ranks a candidate: the least comes first. -/
def tkKey (largest : Bool) (c : W32 × W64) : ℕ ×ₗ (ℤ ×ₗ ℚ) ×ₗ ℕ ×ₗ ℕ :=
  toLex (b2n (isNan (dec32 c.1)), toLex (tkValue largest (dec32 c.1), toLex (c.2.toNat, c.1.toNat)))

theorem tkKey_injective (largest : Bool) : Function.Injective (tkKey largest) := by
  intro a b h
  simp only [tkKey, EmbeddingLike.apply_eq_iff_eq, Prod.mk.injEq] at h
  exact Prod.ext (BitVec.eq_of_toNat_eq h.2.2.2) (BitVec.eq_of_toNat_eq h.2.2.1)

theorem tkValue_lt_iff (largest : Bool) {a b : Fv} (ha : a ≠ .nan) (hb : b ≠ .nan) :
    tkValue largest a < tkValue largest b ↔ (if largest then ltF b a else ltF a b) = true := by
  cases largest with
  | false => simp [tkValue, isNan_of_ne, ha, hb, ltF_iff ha hb]
  | true => simp [tkValue, isNan_of_ne, ha, hb, ltF_iff hb ha, fvRank, Prod.Lex.toLex_lt_toLex, eq_comm (a := fvSide a)]

theorem tkValue_eq_iff (largest : Bool) {a b : Fv} (ha : a ≠ .nan) (hb : b ≠ .nan) :
    tkValue largest a = tkValue largest b ↔ eqF a b = true := by
  cases largest <;> simp [tkValue, isNan_of_ne, ha, hb, eqF_iff ha hb, fvRank]

theorem tkBefore_iff (largest : Bool) (a b : W32 × W64) :
    tkBefore largest a b = true ↔ tkKey largest a < tkKey largest b := by
  have hid : (decide (a.2.toNat < b.2.toNat) || (a.2 == b.2 && decide (a.1.toNat < b.1.toNat))) = true ↔
      (toLex (a.2.toNat, a.1.toNat) : ℕ ×ₗ ℕ) < toLex (b.2.toNat, b.1.toNat) := by
    simp [Prod.Lex.toLex_lt_toLex, BitVec.toNat_inj]
  rw [tkBefore, tkKey, tkKey, Prod.Lex.toLex_lt_toLex, Prod.Lex.toLex_lt_toLex, ← hid]
  by_cases hx : dec32 a.1 = .nan
  · by_cases hy : dec32 b.1 = .nan
    · simp [hx, hy]
    · simp [hx, isNan_of_ne hy, b2n]
  · by_cases hy : dec32 b.1 = .nan
    · simp [isNan_of_ne hx, hy, b2n]
    · simp only [isNan_of_ne hx, isNan_of_ne hy, lt_self_iff_false, false_or, true_and, tkValue_lt_iff largest hx hy,
        tkValue_eq_iff largest hx hy]
      by_cases he : eqF (dec32 a.1) (dec32 b.1) = true
      · have hv := (tkValue_eq_iff largest hx hy).mpr he
        have hlt := (tkValue_lt_iff largest hx hy).not.mp hv.not_lt
        simp [he, hlt]
      · cases largest <;> simp [he]

/-! ### Insertion -/

/-- The candidate that ranks first stands before the other, whichever comes first into the list. -/
theorem tkInsert_comm_of_before {largest : Bool} {a b : W32 × W64} (h : tkKey largest a < tkKey largest b)
    (l : List (W32 × W64)) : tkInsert largest a (tkInsert largest b l) = tkInsert largest b (tkInsert largest a l) := by
  have hab := (tkBefore_iff largest a b).mpr h
  have hba := (tkBefore_iff largest b a).not.mpr h.asymm
  induction l with
  | nil => simp [tkInsert, hab, hba]
  | cons d l ih =>
    by_cases hb : tkBefore largest b d = true
    · have ha := (tkBefore_iff largest a d).mpr (h.trans ((tkBefore_iff largest b d).mp hb))
      simp [tkInsert, hab, hba, ha, hb]
    · by_cases ha : tkBefore largest a d = true
      · simp [tkInsert, hba, ha, hb]
      · simp [tkInsert, ha, hb, ih]

theorem tkInsert_comm (largest : Bool) (a b : W32 × W64) (l : List (W32 × W64)) :
    tkInsert largest a (tkInsert largest b l) = tkInsert largest b (tkInsert largest a l) := by
  rcases lt_trichotomy (tkKey largest a) (tkKey largest b) with h | h | h
  · exact tkInsert_comm_of_before h l
  · rw [tkKey_injective largest h]
  · exact (tkInsert_comm_of_before h l).symm

theorem tkInsert_length (largest : Bool) (c : W32 × W64) (l : List (W32 × W64)) :
    (tkInsert largest c l).length = l.length + 1 := by
  induction l with
  | nil => rfl
  | cons d l ih =>
    rw [tkInsert]
    split
    · rfl
    · simp [ih]

/-- A candidate dropped changes nothing of the k that come first. -/
theorem take_tkInsert_take (largest : Bool) (c : W32 × W64) (k : Nat) (l : List (W32 × W64)) :
    (tkInsert largest c (l.take k)).take k = (tkInsert largest c l).take k := by
  induction l generalizing k with
  | nil => simp
  | cons d l ih =>
    cases k with
    | zero => simp
    | succ k =>
      rw [List.take_succ_cons, tkInsert, tkInsert]
      split
      · cases k <;> simp [List.take_take]
      · simp [ih]

/-! ### Offers (R164) -/

theorem tkOffer_comm (t : TopK) (a b : W32 × W64) : tkOffer (tkOffer t a) b = tkOffer (tkOffer t b) a := by
  simp only [tkOffer, take_tkInsert_take, tkInsert_comm _ b a]

/-- The unit holds what has been offered, up to k of it. -/
theorem offers_length (l : List (W32 × W64)) {t : TopK} (h : t.cands.length ≤ t.k) :
    (l.foldl tkOffer t).cands.length = min t.k (t.cands.length + l.length) := by
  induction l generalizing t with
  | nil => simp [h]
  | cons c l ih =>
    rw [List.foldl_cons, ih] <;> simp only [tkOffer, List.length_take, tkInsert_length, List.length_cons] <;> omega

/-- Settles O23: two offers may change places, so any order of them gives one list; each offer adds one candidate and
keeps at most k. -/
theorem topKKeepsTheBest : Obligations.TopKKeepsTheBest := by
  unfold Obligations.TopKKeepsTheBest
  refine ⟨fun k largest l m h => ?_, fun k largest l => ?_⟩
  · have : RightCommutative tkOffer := ⟨tkOffer_comm⟩
    exact h.foldl_eq _
  · rw [offers_length l (Nat.zero_le _)]
    simp

/-! ### TKINIT, TKINS and TKREAD (Table 5.7) -/

theorem candidates_length (l : List (W32 × W64)) :
    (l.flatMap (fun c => bytesOf 4 c.1.toNat ++ bytesOf 4 0 ++ bytesOf 8 c.2.toNat)).length = 16 * l.length := by
  induction l with
  | nil => rfl
  | cons c l ih => rw [List.flatMap_cons, List.length_append, ih, List.length_cons, Nat.mul_succ, Nat.add_comm]; rfl

theorem tkinitI_ok {k : Nat} (h1 : 1 ≤ k) (h2 : k ≤ 1024) (largest : Bool) (x : Hen) :
    tkinitI k largest x = .ok { x with topk := { k := k, largest := largest, cands := [] } } := by
  have hk : ¬ (k = 0 || 1024 < k) = true := by simp; omega
  exact if_neg hk

theorem tkreadI_ok {x : Hen} {rs1 : Nat} (h : lsCheck x (xGet x rs1) (16 * x.topk.cands.length) false = none) :
    tkreadI rs1 x = .ok (lsWrite x (xGet x rs1)
      (x.topk.cands.flatMap (fun c => bytesOf 4 c.1.toNat ++ bytesOf 4 0 ++ bytesOf 8 c.2.toNat))) := by
  simp only [tkreadI, candidates_length, h]

/-- Settles O22: TKREAD's range is 16 bytes for each candidate held; the others touch no store. -/
theorem topKInstructionsComplete : Obligations.TopKInstructionsComplete := by
  unfold Obligations.TopKInstructionsComplete
  intro s hen k vk vlo vhi rs1 largest hr
  refine ⟨fun h1 h2 => ?_, ?_, fun hc => ?_⟩
  · exact henGoes_retired rfl hr (tkinitI_ok h1 h2 largest _) rfl (retired_retired4 _)
  · exact henGoes_retired (f := tkinsI vk vlo vhi) rfl hr rfl rfl (retired_retired4 _)
  · exact henGoes_retired rfl hr (tkreadI_ok hc) rfl (retired_retired4 _)

end Sys2Proof.Machine

/-!
## The control pipe and the local store (R142 to R146)
-/
namespace Sys2Proof.Machine

/-! ### What a local-store access meets (R143, R145, R146) -/

section

variable {x : Hen} {a n : Nat} {read : Bool}

theorem dmaHits_iff : dmaHits x a n = true ↔ ∃ d ∈ x.dma, a < d.loc + d.bytes ∧ d.loc < a + n := by
  simp [dmaHits]

theorem lsCheck_access (h : lsBytes < a + n) : lsCheck x a n read = some (.access a) := if_pos h

theorem lsCheck_inside (h : ¬ lsBytes < a + n) :
    lsCheck x a n read = if dmaHits x a n then some .wait
      else if read && x.badWords.any (fun w => decide (a < w * 8 + 8) && decide (w * 8 < a + n)) then some (.bad a)
      else none := if_neg h

theorem lsCheck_access_iff : lsCheck x a n read = some (.access a) ↔ 262144 < a + n := by
  by_cases h : lsBytes < a + n
  · exact iff_of_true (lsCheck_access h) h
  · refine iff_of_false ?_ h
    rw [lsCheck_inside h]
    split
    · simp
    · split <;> simp

theorem lsCheck_wait_iff :
    lsCheck x a n read = some .wait ↔ a + n ≤ 262144 ∧ ∃ d ∈ x.dma, a < d.loc + d.bytes ∧ d.loc < a + n := by
  rw [← dmaHits_iff]
  by_cases h : lsBytes < a + n
  · exact iff_of_false (by simp [lsCheck_access h]) fun hc => absurd hc.1 (Nat.not_le.mpr h)
  · rw [lsCheck_inside h, and_iff_right (Nat.not_lt.mp h)]
    split
    · next hd => simp [hd]
    · next hd => split <;> simp [hd]

theorem lsCheck_none_iff :
    lsCheck x a n read = none ↔ a + n ≤ 262144 ∧ (∀ d ∈ x.dma, d.loc + d.bytes ≤ a ∨ a + n ≤ d.loc) ∧
      (read = true → ∀ w ∈ x.badWords, w * 8 + 8 ≤ a ∨ a + n ≤ w * 8) := by
  have hdma : (∀ d ∈ x.dma, d.loc + d.bytes ≤ a ∨ a + n ≤ d.loc) ↔ ¬ dmaHits x a n = true := by
    simp only [dmaHits_iff, not_exists, not_and_or, Nat.not_lt, ← imp_iff_not_or]
  have hbad : (read = true → ∀ w ∈ x.badWords, w * 8 + 8 ≤ a ∨ a + n ≤ w * 8) ↔
      ¬ (read && x.badWords.any (fun w => decide (a < w * 8 + 8) && decide (w * 8 < a + n))) = true := by
    simp only [Bool.and_eq_true, List.any_eq_true, decide_eq_true_eq, not_and, not_exists]
    exact forall_congr' fun _ => forall₂_congr fun w _ => or_iff_not_imp_left.trans (by rw [Nat.not_le, Nat.not_lt])
  rw [hdma, hbad]
  by_cases h : lsBytes < a + n
  · exact iff_of_false (by simp [lsCheck_access h]) fun hc => absurd hc.1 (Nat.not_le.mpr h)
  · rw [lsCheck_inside h, and_iff_right (Nat.not_lt.mp h)]
    split
    · next hd => simp [hd]
    · next hd => split <;> simp_all

/-- With no DMA open and no word in error every range within the store goes on. -/
theorem lsCheck_free (h : a + n ≤ 262144) (hd : x.dma = []) (hb : x.badWords = []) : lsCheck x a n read = none :=
  lsCheck_none_iff.mpr ⟨h, by simp [hd], by simp [hb]⟩

end

/-! ### Values of n bits -/

theorem natOf_lt (l : List Byte) : natOf l < 256 ^ l.length := by
  induction l with
  | nil => exact Nat.one_pos
  | cons b l ih =>
    have := b.isLt
    rw [natOf, List.length_cons, Nat.pow_succ]
    omega

theorem memRead_length (m : List Host.Cell) (a n : Nat) : (memRead m a n).length = n := by
  induction n generalizing a with
  | zero => rfl
  | succ n ih => rw [memRead, List.length_cons, ih]

theorem toS_modEq (n v : Nat) : toS n v % 2 ^ n = (v : Int) % 2 ^ n := by
  unfold toS
  split
  · exact Int.sub_emod_right ..
  · rfl

/-- Sign extension leaves the low bits as they are. -/
theorem sext_mod {n : Nat} (hn : n ≤ 64) (v : Nat) : sext n v % 2 ^ n = v % 2 ^ n := by
  have hd : (2 : Int) ^ n ∣ 2 ^ 64 := pow_dvd_pow 2 hn
  have h0 : 0 ≤ toS n (v % 2 ^ n) % 2 ^ 64 := Int.emod_nonneg _ (by norm_num)
  zify
  rw [sext, ofS, Int.toNat_of_nonneg h0, Int.emod_emod_of_dvd _ hd, toS_modEq]
  push_cast
  exact Int.emod_emod_of_dvd _ dvd_rfl

/-! ### Loads and stores (R143) -/

section

variable {x : Hen} {f3 rd a v : Nat}

theorem scalarLoad_access (hf : f3 ≤ 3) (h : 262144 < a + 2 ^ f3) : scalarLoad f3 rd a x = .error (.access a) := by
  simp only [scalarLoad, if_neg (show ¬ f3 = 7 by omega), Nat.mod_eq_of_lt (show f3 < 4 by omega), lsCheck_access h]

theorem scalarStore_access (hf : f3 ≤ 3) (h : 262144 < a + 2 ^ f3) : scalarStore f3 a v x = .error (.access a) := by
  simp only [scalarStore, if_neg (Nat.not_lt.mpr hf), lsCheck_access h]

theorem scalarLoad_ok (hf : f3 ≤ 3) (hm : a % 2 ^ f3 = 0) (hc : lsCheck x a (2 ^ f3) true = none) :
    scalarLoad f3 rd a x = .ok (xSet x rd (sext (8 * 2 ^ f3) (natOf (memRead x.ls a (2 ^ f3))))) := by
  have h4 : f3 < 4 := by omega
  simp [scalarLoad, if_neg (show ¬ f3 = 7 by omega), Nat.mod_eq_of_lt h4, hc, hm, h4, lsRead]

theorem scalarStore_ok (hf : f3 ≤ 3) (hm : a % 2 ^ f3 = 0) (hc : lsCheck x a (2 ^ f3) false = none) :
    scalarStore f3 a v x = .ok (lsWrite x a (bytesOf (2 ^ f3) v)) := by
  simp [scalarStore, if_neg (Nat.not_lt.mpr hf), hc, hm]

/-- What a load of n bytes puts into its register has those bytes lowest. -/
theorem sext_load (hf : f3 ≤ 3) :
    sext (8 * 2 ^ f3) (natOf (memRead x.ls a (2 ^ f3))) % 256 ^ 2 ^ f3 = natOf (memRead x.ls a (2 ^ f3)) := by
  have h8 : 8 * 2 ^ f3 ≤ 64 := by
    have : 2 ^ f3 ≤ 2 ^ 3 := Nat.pow_le_pow_right (by decide) hf
    omega
  have hp : 256 ^ 2 ^ f3 = 2 ^ (8 * 2 ^ f3) := by rw [Nat.pow_mul]
  have hlt := natOf_lt (memRead x.ls a (2 ^ f3))
  rw [memRead_length] at hlt
  rw [hp, sext_mod h8, ← hp, Nat.mod_eq_of_lt hlt]

theorem lsWrite_clean (hb : x.badWords = []) (bs : List Byte) :
    lsWrite x a bs = { x with ls := memWrite x.ls a bs } := by
  simp [lsWrite, hb]

end

/-- Settles O26: a range past the store is an access fault before alignment is looked at; within it the check is decided
by the DMA ranges, then by the words in error. -/
theorem localStoreAccessesStayInside : Obligations.LocalStoreAccessesStayInside := by
  unfold Obligations.LocalStoreAccessesStayInside
  refine ⟨fun x f3 rd a v hf => ⟨fun h => ⟨scalarLoad_access hf h, scalarStore_access hf h⟩, fun h hm hd hb => ⟨?_, ?_⟩⟩,
    fun x a n read => ⟨lsCheck_access_iff, lsCheck_wait_iff, lsCheck_none_iff⟩⟩
  · exact ⟨_, scalarLoad_ok hf hm (lsCheck_free h hd hb), sext_load hf⟩
  · rw [scalarStore_ok hf hm (lsCheck_free h hd hb), lsWrite_clean hb]

/-! ### A scalar instruction leaves its hen running (R142) -/

/-- If an instruction executes, the hen is in the state it was in. -/
structure KeepsSt (x : Hen) (r : Except Trap Hen) : Prop where
  st : ∀ z, r = .ok z → z.st = x.st

section

variable {x y : Hen} {r r' : Except Trap Hen} {t : Trap}

theorem KeepsSt.ok (h : y.st = x.st) : KeepsSt x (.ok y) := by
  constructor
  rintro z ⟨⟩
  exact h

theorem KeepsSt.error : KeepsSt x (.error t) := by
  constructor
  rintro z ⟨⟩

theorem KeepsSt.ite {c : Prop} [Decidable c] (h : KeepsSt x r) (h' : KeepsSt x r') : KeepsSt x (if c then r else r') := by
  split <;> assumption

theorem KeepsSt.map {g : Hen → Hen} (hg : ∀ y, (g y).st = y.st) (h : KeepsSt x r) : KeepsSt x (r.map g) := by
  cases r with
  | error t => exact .error
  | ok y => exact .ok ((hg y).trans (h.st y rfl))

@[simp] theorem xSet_st (x : Hen) (r v : Nat) : (xSet x r v).st = x.st := by rw [xSet_eq]

theorem scalarLoad_keepsSt (f3 rd a : Nat) (x : Hen) : KeepsSt x (scalarLoad f3 rd a x) := by
  unfold scalarLoad
  extract_lets n
  refine .ite .error ?_
  split
  · exact .error
  · refine .ite .error ?_
    split
    · exact .error
    · exact .ok (xSet_st ..)

theorem scalarStore_keepsSt (f3 a v : Nat) (x : Hen) : KeepsSt x (scalarStore f3 a v x) := by
  unfold scalarStore
  extract_lets n
  refine .ite .error ?_
  split
  · exact .error
  · refine .ite .error ?_
    split
    · exact .error
    · exact .ok rfl

theorem csrInsn_keepsSt (h now tb w : Nat) (x : Hen) : KeepsSt x (csrInsn h now tb w x) := by
  unfold csrInsn
  extract_lets csr f3 rs rd src writes
  split
  · exact .error
  · extract_lets new y
    refine .ite .error (.ite .error (.ok ((xSet_st ..).trans ?_)))
    unfold y
    split <;> rfl

theorem scalar32_keepsSt (h now tb n w : Nat) (x : Hen) : KeepsSt x (scalar32 h now tb n w x) := by
  unfold scalar32
  extract_lets rd f3 a b f7 imm next jump k₁ k₂ v
  have hnext (y : Hen) : (next y).st = y.st := rfl
  have hset (r v : Nat) : KeepsSt x (.ok (next (xSet x r v))) := .ok (xSet_st ..)
  split
  · exact hset ..
  · exact hset ..
  · exact .ok (xSet_st ..)
  · exact .ite (.ok (xSet_st ..)) .error
  · split
    · exact .error
    · exact .ok rfl
    · exact .ok rfl
  · exact .map hnext (scalarLoad_keepsSt ..)
  · exact .map hnext (scalarStore_keepsSt ..)
  · exact .ite (.ite (hset ..) .error) (.ite (.ite (hset ..) .error) (hset ..))
  · refine .ite (hset ..) (.ite ?_ .error)
    split
    · exact hset ..
    · exact .error
  · exact .ite (hset ..) (.ite (hset ..) .error)
  · clear_value v
    split
    · exact hset ..
    · exact .error
  · exact .ite (.ok rfl) .error
  · exact .ite .error (.map hnext (csrInsn_keepsSt ..))
  · exact .error

end

theorem scalarInsn_ok {s : State} {hen n w : Nat} {x z : Hen} (hx : henOf hen s = x) (hr : running hen s = true)
    (hf : fetchInsn x = .ok (n, w)) (hc : (n = 4 && customOk w) = false)
    (hz : scalar32 hen s.now (timebase s) n w x = .ok z) :
    scalarInsn hen s = setHen hen { z with instret := z.instret + 1, retired := z.retired + 1 } s := by
  simp only [scalarInsn, hr, hx, hf, hc, hz]
  rfl

/-- ECALL, EBREAK, MRET and WFI are no instructions of a hen. -/
theorem scalar32_system (h now tb : Nat) (x : Hen) {w : Nat} (ho : fld w 6 0 = 0x73) (hf : fld w 14 12 = 0) :
    scalar32 h now tb 4 w x = .error .illegal := by
  simp only [scalar32, ho, hf, if_true]

/-- Settles O25: the instruction at the pc runs on the hen that has met the errors shown, and no scalar instruction takes
its hen out of its sliver. -/
theorem scalarInstructionsComplete : Obligations.ScalarInstructionsComplete := by
  unfold Obligations.ScalarInstructionsComplete
  refine ⟨fun s hen n w ls z hr hf hc hz => ?_, fun h now tb x => ?_⟩
  · have hrun : running hen (setHen hen (lsMet ls (henOf hen s)) s) = true := by
      rw [running_setHen_self]
      exact hr
    have hok := scalarInsn_ok (henOf_setHen_self hen _ s) hrun hf hc hz
    have hst : z.st = .running := ((scalar32_keepsSt ..).st z hz).trans (running_iff.mp hr)
    rw [setHen_setHen] at hok
    exact ⟨_, congrArg Host.Outcome.next (henDo_meetLs hr hok hst), rfl, rfl⟩
  · simp only [List.forall_mem_cons]
    exact ⟨scalar32_system _ _ _ _ (by decide) (by decide), scalar32_system _ _ _ _ (by decide) (by decide),
      scalar32_system _ _ _ _ (by decide) (by decide), scalar32_system _ _ _ _ (by decide) (by decide), by simp⟩

end Sys2Proof.Machine

/-!
## DMA and messages (R140, R145, R166 to R168)
-/
namespace Sys2Proof.Machine

/-! ### A transfer is queued line by line (R166) -/

section

variable {x : Hen} {p : DmaPat} {write : Bool}

/-- The request of a transfer's i-th line. -/
def lineReq (write : Bool) (x : Hen) (i : Nat) (l : Nat × Nat × Nat) : DmaReq :=
  { cmd := x.nextCmd, id := x.nextCmd + i, node := 2, write := write, pool := l.1, loc := l.2.1, bytes := l.2.2,
    data := if write then memRead x.ls l.2.1 l.2.2 else [], issued := false, res := none }

theorem dmaI_ok (hr : p.rows ≤ 4096) (hb : p.rows * p.rowBytes ≤ 65536)
    (hl : ∀ l ∈ patLines p, l.2.1 + l.2.2 ≤ lsBytes) (hc : dmaCount x < dmaCmds) (hw : write = true → x.badWords = []) :
    dmaI write p x = .ok { x with
      dma := x.dma ++ (List.range (patLines p).length).filterMap (fun i => ((patLines p)[i]?).map (lineReq write x i))
      nextCmd := x.nextCmd + (patLines p).length + 1 } := by
  have h1 : ¬ (4096 < p.rows || 65536 < p.rows * p.rowBytes) = true := by simp; omega
  have h2 : (patLines p).find? (fun l => decide (lsBytes < l.2.1 + l.2.2)) = none := by
    rw [List.find?_eq_none]
    intro l hm
    simpa using hl l hm
  have h3 : (patLines p).find? (fun l => write && x.badWords.any (fun w => decide (l.2.1 < w * 8 + 8) &&
      decide (w * 8 < l.2.1 + l.2.2))) = none := by
    rw [List.find?_eq_none]
    intro l _
    cases write <;> simp [hw]
  simp only [dmaI, if_neg h1, h2, if_neg (Nat.not_le.mpr hc), h3]
  rfl

theorem filterMap_range_getElem? {α β : Type} (l : List α) (f : Nat → α → β) :
    (List.range l.length).filterMap (fun i => (l[i]?).map (f i)) = l.mapIdx f := by
  induction l using List.reverseRecOn with
  | nil => rfl
  | append_singleton l a ih =>
    have hl : (List.range l.length).filterMap (fun i => ((l ++ [a])[i]?).map (f i)) = l.mapIdx f := by
      rw [← ih]
      refine List.filterMap_congr fun i hi => ?_
      rw [List.getElem?_append_left (List.mem_range.mp hi)]
    rw [List.length_append, List.length_singleton, List.range_succ, List.filterMap_append, hl, List.mapIdx_concat]
    simp

end

/-! ### Messages (R167, R168) -/

section

variable {x : Hen} {loc n rd src : Nat} {m : List Byte} {rest : List (Nat × List Byte)}

theorem dmawaitI_ok (h : dmaCount x ≤ n) : dmawaitI n x = .ok x := if_pos h

theorem msgrecvI_ok (hm : x.msgs = (src, m) :: rest) (hc : lsCheck x loc 64 false = none) :
    msgrecvI loc x = .ok (lsWrite { x with msgs := rest } loc m) := by
  simp only [msgrecvI, hm, hc]

/-- Cycles that a MSGSEND has waited for room at its target. -/
def msgWaited (x : Hen) (now : Nat) : Nat := match x.msgWait with | some t => henCycles (now - t) | none => 0

theorem msgSend_ok {s : State} {hen rank dst : Nat} (hx : henOf hen s = x) (hr : rank < x.nranks)
    (hc : lsCheck x loc 64 true = none) (hd : rankHen x.item rank s = some dst) (hl : msgLoad dst s < msgMax) :
    msgSend hen rank loc s = setHen hen
      (retired4 { x with sending := x.sending ++ [(dst, memRead x.ls loc 64)], sent := x.sent + 1, msgWait := none })
      (bumpN kMsgBackpressure (msgWaited x s.now)
        (if henLarder hen = henLarder dst then s else send (.henMessage hen dst) s)) := by
  have hs : onlyIf (henLarder hen != henLarder dst) (send (.henMessage hen dst)) s =
      if henLarder hen = henLarder dst then s else send (.henMessage hen dst) s := by
    by_cases h : henLarder hen = henLarder dst <;> simp [onlyIf, h]
  simp only [msgSend, hx, if_neg (Nat.not_le.mpr hr), hc, hd, if_neg (Nat.not_le.mpr hl), hs]
  rfl

theorem msgArrive_ready {s : State} {hen dst : Nat}
    (hs : (henOf hen s).sending.find? (fun e => e.1 == dst) = some (dst, m)) (hd : dst ≠ hen)
    (hr : henReady (henOf dst s) = true) (hj : (henOf dst s).job = (henOf hen s).job) :
    msgArrive hen dst s = setHen dst { henOf dst s with msgs := (henOf dst s).msgs ++ [(hen, m)] }
      (setHen hen { henOf hen s with sending := (henOf hen s).sending.erase (dst, m) } s) := by
  simp [msgArrive, hs, henOf_setHen, Ne.symm hd, hr, hj]

end

/-! ### Answers of the mesh (R140, R166) -/

section

variable {s : State} {hen req node : Nat} {r : DmaReq}

/-- The requests that stand once one is answered: its command's are gone with the last of them. -/
def dmaLeft (req : Nat) (r : DmaReq) (l : List DmaReq) : List DmaReq :=
  let dma := l.map (fun q => if q.id = req then { q with issued := false } else q)
  if dma.any (fun q => q.cmd == r.cmd && (q.issued || q.res.isNone)) then dma else dma.filter (fun q => q.cmd != r.cmd)

theorem mem_of_mem_dmaLeft {l : List DmaReq} {d : DmaReq} (h : d ∈ dmaLeft req r l) (hd : d.id ≠ req) : d ∈ l := by
  have hm : d ∈ l.map (fun q => if q.id = req then { q with issued := false } else q) := by
    unfold dmaLeft at h
    extract_lets dma at h
    split at h
    · exact h
    · exact List.mem_of_mem_filter h
  obtain ⟨q, hq, rfl⟩ := List.mem_map.mp hm
  split
  · next he => exact absurd (by simp [he]) hd
  · exact hq

theorem returnReq_done (ha : (henOf hen s).answers.find? (fun a => a.2 == req) = some (node, req))
    (hn : ∀ a ∈ (henOf hen s).answers.takeWhile (fun b => b.2 != req), a.1 ≠ node) (hr : henReq hen req s = some r)
    (hd : r.res = some .done) :
    returnReq hen req s = setHen hen { (if r.write then henOf hen s else lsWrite (henOf hen s) r.loc r.data) with
      dma := dmaLeft req r (henOf hen s).dma, answers := (henOf hen s).answers.filter (fun b => b.2 != req) } s := by
  have hf : ¬ ((henOf hen s).answers.takeWhile (fun b => b.2 != req)).any (fun b => b.1 == node) = true := by
    rw [List.any_eq_true]
    rintro ⟨a, hm, he⟩
    exact hn a hm (beq_iff_eq.mp he)
  simp only [returnReq, ha, hr, hd, if_neg hf, modHen, setHen_setHen, henOf_setHen_self]
  cases r.write <;> rfl

end

/-- What dmaI makes of a hen: its pattern's lines stand queued after what stood there, none issued. -/
theorem dmaQueued (write : Bool) (x : Hen) (p : DmaPat) {y : Hen}
    (hy : y = retired4 { x with
      dma := x.dma ++ (List.range (patLines p).length).filterMap (fun i => ((patLines p)[i]?).map (lineReq write x i))
      nextCmd := x.nextCmd + (patLines p).length + 1 }) :
    Retired y { x with dma := y.dma, nextCmd := y.nextCmd } ∧ y.dma.take x.dma.length = x.dma ∧
      (y.dma.drop x.dma.length).map (fun d => (d.pool, d.loc, d.bytes)) = patLines p ∧
      ∀ d ∈ y.dma.drop x.dma.length, d.write = write ∧ d.issued = false ∧ d.res = none ∧ d.cmd = x.nextCmd ∧
        d.data = if write then memRead x.ls d.loc d.bytes else [] := by
  have hdma : y.dma = x.dma ++ (patLines p).mapIdx (lineReq write x) := by
    rw [hy, ← filterMap_range_getElem?]
    rfl
  rw [hdma, List.drop_left, List.take_left]
  refine ⟨by rw [hy, ← filterMap_range_getElem?]; rfl, rfl, ?_, fun d hd => ?_⟩
  · exact List.ext_getElem (by simp) fun i _ _ => by simp [lineReq]
  · obtain ⟨i, hi, rfl⟩ := List.mem_mapIdx.mp hd
    exact ⟨rfl, rfl, rfl, rfl, rfl⟩

/-- Settles O24: each instruction's own equation; a transfer's requests are its pattern's lines in order. -/
theorem dmaAndMessagesComplete : Obligations.DmaAndMessagesComplete := by
  unfold Obligations.DmaAndMessagesComplete
  intro s hen n loc rd rank dst req node p ls m src rest r hr
  refine ⟨fun h1 h2 h3 h4 => ⟨?_, fun hb => ?_⟩, fun hc => ?_, fun hm hc => ?_, ?_, fun hk hc hd hl => ?_,
    fun hs hd hy hj => ?_, fun ha hn hq hd => ?_⟩
  · exact henGoes_retired rfl hr (dmaI_ok h1 h2 h3 h4 (by simp)) rfl (dmaQueued false _ p rfl)
  · exact henGoes_meetLs rfl hr (dmaI_ok h1 h2 h3 h4 fun _ => hb) rfl (dmaQueued true _ p rfl)
  · exact henGoes_retired rfl hr (dmawaitI_ok hc) rfl (retired_retired4 _)
  · exact henGoes_retired rfl hr (msgrecvI_ok hm hc) rfl (retired_retired4 _)
  · exact henGoes_retired (f := msgpollI rd) rfl hr rfl (xSet_st ..) (retired_retired4 _)
  · exact ⟨_, congrArg Host.Outcome.next (henDo_setHen hr (msgSend_ok rfl hk hc hd hl) (running_iff.mp hr)), retired_retired4 _⟩
  · exact congrArg Host.Outcome.next (msgArrive_ready hs hd hy hj)
  · refine ⟨_, congrArg Host.Outcome.next (henDo_setHen hr (returnReq_done ha hn hq hd) ?_), rfl,
      fun d hm hi => mem_of_mem_dmaLeft hm hi⟩
    cases r.write <;> exact running_iff.mp hr

end Sys2Proof.Machine

/-!
## The end of a sliver (R144, R146, R196, R209, R226, R572)
-/
namespace Sys2Proof.Machine

/-! ### Items, as slivers end (R196) -/

section

variable {s : State} {i j h sl : Nat} {it : Item}

theorem tget_tmod {α : Type} (t : Tbl α) (k : Nat) (f : α → α) (q : Nat) :
    tget (tmod t k f) q = if q = k then (tget t q).map f else tget t q := by
  induction t with
  | nil => simp [tmod, tget]
  | cons e t ih =>
    obtain ⟨a, v⟩ := e
    simp only [tmod] at ih
    by_cases ha : a = q
    · by_cases hk : q = k
      · simp [tmod, tget, ha, hk]
      · simp [tmod, tget, ha, hk]
    · by_cases hk : a = k
      · simp [tmod, tget, hk, ih, hk ▸ ha]
      · simp [tmod, tget, hk, ha, ih]

theorem itemOf_modItem (f : Item → Item) (s : State) :
    itemOf i (modItem j f s) = if i = j then (itemOf i s).map f else itemOf i s := by
  unfold modItem
  split
  next x hx =>
    change tget (tmod s.work.items j (fun _ => f x)) i = _
    rw [tget_tmod]
    split
    · next h =>
      subst h
      simp only [itemOf] at hx ⊢
      rw [hx]
      rfl
    · rfl
  next hx =>
    split
    · next h => rw [h, hx]; rfl
    · rfl

theorem itemOf_setHen (i h : Nat) (x : Hen) (s : State) : itemOf i (setHen h x s) = itemOf i s := rfl

/-- An item counts a sliver that has ended DONE. -/
theorem itemOf_sliverDone (hi : itemOf i s = some it) (hf : roundFailed it = false) :
    itemOf i (itemSliverEnd i sl .done s) =
      some { it with running := it.running.filter (fun n => n != sl), doneS := it.doneS ++ [sl] } := by
  have hr : roundFailed { it with running := it.running.filter (fun n => n != sl) } = false := hf
  simp [itemSliverEnd, itemOf_modItem, hi, hr]

/-- What the end of a sliver leaves of its hen is no running hen, whatever comes next for it. -/
theorem running_endSliver (h : Nat) (st : Status) (s : State) : running h (endSliver h st s) = false := by
  unfold endSliver
  extract_lets x t next more y
  split
  · exact running_setHen_self ..
  split
  · exact running_setHen_self ..
  · exact running_setHen_self ..

/-- The end of a sliver counts it with its item; its hen may then be assigned the rank's next. -/
theorem itemOf_endSliver_done (hx : (henOf h s).item = i) (hs : (henOf h s).sliver = sl) (hi : itemOf i s = some it)
    (hf : roundFailed it = false) :
    ∃ it', itemOf i (endSliver h .done s) = some it' ∧ it'.doneS = it.doneS ++ [sl] ∧ it'.ended = it.ended ∧
      it'.stop = it.stop := by
  subst hx hs
  have hd := itemOf_sliverDone (sl := (henOf h s).sliver) (s := dropHeld (.hen h) s) hi hf
  unfold endSliver
  extract_lets x t next more y
  split
  · exact ⟨_, hd, rfl, rfl, rfl⟩
  split
  · refine ⟨{ it with running := it.running.filter (fun n => n != x.sliver) ++ [next], doneS := it.doneS ++ [x.sliver] },
      ?_, rfl, rfl, rfl⟩
    refine (itemOf_setHen ..).trans ((itemOf_modItem ..).trans ((if_pos rfl).trans ?_))
    rw [hd]
    rfl
  · exact ⟨_, hd, rfl, rfl, rfl⟩

end

/-! ### SLVEND (R209) -/

section

variable {s : State} {hen rs1 : Nat} {it : Item}

theorem slRun_pure {α : Type} {who : Holder} (item : Nat) (a : α) (h : heldOf who s = none) :
    slRun who item (slPure a) s = (.ok a, setRunner none (dropHeld who (setRuns [] [] (setRunner (some who) s)))) := by
  simp only [slRun, h]
  rfl

theorem slvend_run (hi : itemOf (henOf hen s).item s = some it) (ho : it.opcode = ocRun) (hd : (henOf hen s).dma = [])
    (hp : rProgress it.body = 0) (hh : heldOf (.hen hen) s = none) :
    slvend hen rs1 s = endSliver hen .done (modHen hen (fun y => { y with retired := y.retired + 1, instret := y.instret + 1 })
      (setRunner none (dropHeld (.hen hen) (setRuns [] [] (setRunner (some (.hen hen)) s))))) := by
  simp only [slvend, hi, ho, hd, progressWrite, hp, if_true, List.isEmpty_nil, slRun_pure _ _ hh]
  rfl

end

/-- Settles O27: a trap's end is its line of henFault; a RUN sliver without a progress area writes nothing as it ends; the
slot freed is the one filled first. -/
theorem sliverEndsComplete : Obligations.SliverEndsComplete := by
  unfold Obligations.SliverEndsComplete
  refine ⟨fun s hen f hr => ?_, fun s hen rs1 cb gen it hr => ⟨fun hi ho hf hd hp hh => ?_, fun hc => ?_⟩⟩
  · have trap {t : Trap} (ht : f (henOf hen s) = .error t) : henInsn hen f s = henFault hen t s := by
      simp only [henInsn, hr, ht]
      rfl
    exact ⟨trap, trap, fun _ => trap, fun _ => trap, fun _ => trap⟩
  · have he := slvend_run (rs1 := rs1) hi ho hd hp hh
    have hn : running hen (slvend hen rs1 s) = false := by rw [he]; exact running_endSliver ..
    have hx : exec (.slvend hen rs1) s = .next (settle (slvend hen rs1 s)) := by
      change Host.Outcome.next (henDo hen (slvend hen rs1) s) = _
      simp [henDo, hr, hn]
    rw [he] at hx hn
    obtain ⟨it', h1, h2, h3, h4⟩ := itemOf_endSliver_done (h := hen) (sl := (henOf hen s).sliver) (i := (henOf hen s).item)
      (s := modHen hen (fun y => { y with retired := y.retired + 1, instret := y.instret + 1 })
        (setRunner none (dropHeld (.hen hen) (setRuns [] [] (setRunner (some (.hen hen)) s)))))
      (by rw [modHen, henOf_setHen_self]; rfl) (by rw [modHen, henOf_setHen_self]; rfl) hi hf
    exact ⟨_, it', hx, hn, h1, h2, h3, h4⟩
  · change Host.Outcome.next (settle (codebookFetched hen cb gen s)) = _
    simp only [codebookFetched, hr, hc]
    simp

end Sys2Proof.Machine

/-!
## A request at its home (R26, R361 to R373)

What the home does for a request beside its own effect, heat, counters, moved bytes and hot lines among it, leaves in place
all that decides how the request is served: `HomeStands`. A request that is the only one open and meets nothing that
holds it, `Serves`, is executed line by line and answered.
-/
namespace Sys2Proof.Machine

/-! ### Lines and crates of an extent's base content -/

section

variable {ext l : Nat}

theorem lkExt_lineKey (h : l < 2 ^ 45) : lkExt (lineKey ext 0 l) = ext := by
  unfold lkExt lineKey
  omega

theorem lkCrate_lineKey (ext l : Nat) : lkCrate (lineKey ext 0 l) = crateKey ext 0 (l / 512) := by
  unfold lkCrate lineKey crateKey
  omega

theorem lineKey_injective (ext : Nat) : Function.Injective (lineKey ext 0) := by
  intro a b h
  unfold lineKey at h
  omega

end

/-! ### What decides how a request is served -/

/-- From s to u, the memory, the tables, the mirror's relation, the coherent lines and what holds a crate are as before. -/
structure HomeStands (s u : State) : Prop where
  mem : u.mem = s.mem
  extents : u.pool.extents = s.pool.extents
  poison : u.tiers.poison = s.tiers.poison
  failing : u.tiers.failing = s.tiers.failing
  metaBad : u.tiers.metaBad = s.tiers.metaBad
  groupTray : u.tiers.groupTray = s.tiers.groupTray
  trays : u.tiers.trays = s.tiers.trays
  links : u.links = s.links
  coh : u.coh = s.coh
  rel : u.vers.mirror.rel = s.vers.mirror.rel
  unmirrored : u.vers.mirror.unmirrored = s.vers.mirror.unmirrored
  copying : u.vers.mirror.copying = s.vers.mirror.copying
  queues : u.work.queues = s.work.queues
  crates : ∀ ck, (crateOf ck u).tier = (crateOf ck s).tier ∧ (crateOf ck u).loc = (crateOf ck s).loc
  larders : ∀ l, (larderOf l u).resetting = (larderOf l s).resetting

section

variable {r s t u : State} {ck lk ext : Nat}

theorem HomeStands.refl (s : State) : HomeStands s s :=
  ⟨rfl, rfl, rfl, rfl, rfl, rfl, rfl, rfl, rfl, rfl, rfl, rfl, rfl, fun _ => ⟨rfl, rfl⟩, fun _ => rfl⟩

theorem HomeStands.trans (h : HomeStands s t) (k : HomeStands t u) : HomeStands s u :=
  ⟨k.mem.trans h.mem, k.extents.trans h.extents, k.poison.trans h.poison, k.failing.trans h.failing,
    k.metaBad.trans h.metaBad, k.groupTray.trans h.groupTray, k.trays.trans h.trays, k.links.trans h.links, k.coh.trans h.coh,
    k.rel.trans h.rel, k.unmirrored.trans h.unmirrored, k.copying.trans h.copying, k.queues.trans h.queues,
    fun ck => ⟨(k.crates ck).1.trans (h.crates ck).1, (k.crates ck).2.trans (h.crates ck).2⟩,
    fun l => (k.larders l).trans (h.larders l)⟩

/-- A change of the other units, and of the hens and items. -/
theorem HomeStands.ofUnits (hm : u.mem = s.mem) (he : u.pool.extents = s.pool.extents) (ht : u.tiers = s.tiers)
    (hl : u.links = s.links) (hc : u.coh = s.coh) (hv : u.vers = s.vers) (hq : u.work.queues = s.work.queues)
    (hh : u.hens.larders = s.hens.larders) : HomeStands s u := by
  refine ⟨hm, he, congrArg (·.poison) ht, congrArg (·.failing) ht, congrArg (·.metaBad) ht, congrArg (·.groupTray) ht,
    congrArg (·.trays) ht, hl, hc, congrArg (·.mirror.rel) hv, congrArg (·.mirror.unmirrored) hv,
    congrArg (·.mirror.copying) hv, hq, fun ck => ?_, fun l => ?_⟩
  · simp only [crateOf, ht, and_self]
  · simp only [larderOf, hh]

theorem HomeStands.tierWait_eq (h : HomeStands s u) (w : Bool) : tierWait ck w u = tierWait ck w s := by
  have hg : groupAway ck u = groupAway ck s := by
    simp only [groupAway, h.groupTray, trayOf, h.trays, trayUp, linkOf, h.links]
  have ht (n : Nat) : trayUp n u = trayUp n s := by simp only [trayUp, linkOf, h.links]
  unfold tierWait
  dsimp only
  rw [hg, (h.crates ck).1, (h.crates ck).2, ht, h.larders]

theorem HomeStands.journalled_eq (h : HomeStands s u) : journalled ext u = journalled ext s := by
  simp only [journalled, extOf, h.extents, h.rel, h.unmirrored, h.copying]

theorem HomeStands.qcbAt_eq (h : HomeStands s u) : qcbAt lk u = qcbAt lk s := by
  simp only [qcbAt, h.queues, addrLine, extAt, h.extents]

/-- A crate's new entry of the same tier and location. -/
theorem HomeStands.setCrate {c : Crate} (ht : c.tier = (crateOf ck s).tier) (hl : c.loc = (crateOf ck s).loc) :
    HomeStands s (setCrate ck c s) := by
  refine ⟨rfl, rfl, rfl, rfl, rfl, rfl, rfl, rfl, rfl, rfl, rfl, rfl, rfl, fun q => ?_, fun _ => rfl⟩
  rw [crateOf_setCrate]
  split
  · next h =>
    subst h
    exact ⟨ht, hl⟩
  · exact ⟨rfl, rfl⟩

theorem HomeStands.setLarder {l : Nat} {x : Larder} (h : x.resetting = (larderOf l s).resetting) :
    HomeStands s (setLarder l x s) := by
  refine ⟨rfl, rfl, rfl, rfl, rfl, rfl, rfl, rfl, rfl, rfl, rfl, rfl, rfl, fun _ => ⟨rfl, rfl⟩, fun q => ?_⟩
  rw [larderOf_setLarder]
  split
  · next hq =>
    subst hq
    exact h
  · rfl

end

/-! ### Requests, batches and hens -/

/-- From s to u, the hens, the open requests and the batches are as before. -/
structure TxStands (s u : State) : Prop extends HomeStands s u where
  hens : u.hens.hens = s.hens.hens
  txs : u.txn.txs = s.txn.txs
  batches : u.txn.batches = s.txn.batches

section

variable {s t u : State}

theorem TxStands.refl (s : State) : TxStands s s := ⟨.refl s, rfl, rfl, rfl⟩

theorem TxStands.trans (h : TxStands s t) (k : TxStands t u) : TxStands s u :=
  ⟨h.toHomeStands.trans k.toHomeStands, k.hens.trans h.hens, k.txs.trans h.txs, k.batches.trans h.batches⟩

/-- An event changes the sessions and counters, and what is sent. -/
theorem raise_eq (src num plen payload : Nat) (s : State) :
    ∃ d o, raise src num plen payload s = { s with dict := d, out := o } := by
  unfold raise
  refine each_induct (P := fun t => ∃ d o, t = { s with dict := d, out := o }) (fun i t ⟨d, o, ht⟩ => ?_) _ _ ⟨_, _, rfl⟩
  subst ht
  unfold queueEvent
  split
  · exact ⟨_, _, rfl⟩
  split
  · exact ⟨_, _, rfl⟩
  split
  · exact ⟨_, _, rfl⟩
  · exact ⟨_, _, rfl⟩

theorem raise_txStands (src num plen payload : Nat) (s : State) : TxStands s (raise src num plen payload s) := by
  obtain ⟨d, o, h⟩ := raise_eq src num plen payload s
  rw [h]
  exact ⟨.ofUnits rfl rfl rfl rfl rfl rfl rfl rfl, rfl, rfl, rfl⟩

theorem heatUp_txStands (ck : Nat) (s : State) : TxStands s (heatUp ck s) := ⟨.setCrate rfl rfl, rfl, rfl, rfl⟩

theorem dirtyCrate_txStands (ck : Nat) (s : State) : TxStands s (dirtyCrate ck s) := by
  unfold dirtyCrate
  split
  · exact .refl s
  · exact ⟨.setCrate rfl rfl, rfl, rfl, rfl⟩

theorem markCrate_txStands (ck : Nat) (s : State) : TxStands s (markCrate ck s) := by
  unfold markCrate
  split
  · exact .refl s
  split
  · exact ⟨⟨rfl, rfl, rfl, rfl, rfl, rfl, rfl, rfl, rfl, rfl, rfl, rfl, rfl, fun _ => ⟨rfl, rfl⟩, fun _ => rfl⟩, rfl, rfl, rfl⟩
  · exact .refl s

theorem countHot_txStands (lk : Nat) (s : State) : TxStands s (countHot lk s) := by
  unfold countHot
  extract_lets h₀ h₁ quiet fire h₂ x v rec
  have hv : TxStands s v := ⟨.ofUnits rfl rfl rfl rfl rfl rfl rfl rfl, rfl, rfl, rfl⟩
  unfold onlyIf
  split
  · have hn : TxStands v (rset kHotLineLast rec (bump kHotLineEvents v)) :=
      ⟨.ofUnits rfl rfl rfl rfl rfl rfl rfl rfl, rfl, rfl, rfl⟩
    exact hv.trans (hn.trans (raise_txStands ..))
  · exact hv

theorem modLarder_txStands (l : Nat) {f : Larder → Larder} (hf : ∀ x, (f x).resetting = x.resetting) (s : State) :
    TxStands s (modLarder l f s) := ⟨.setLarder (hf _), rfl, rfl, rfl⟩

theorem noteMoved_txStands (hen : Option Nat) (c : Crate) (n : Nat) (s : State) : TxStands s (noteMoved hen c n s) := by
  unfold noteMoved
  extract_lets home from_ gate v
  have hg (l : Option Nat) (s : State) : TxStands s (gate l s) := by
    cases l with
    | none => exact .refl s
    | some l =>
      refine modLarder_txStands l ?_ s
      exact fun _ => rfl
  have hv : TxStands s v := by
    unfold v
    cases home with
    | none => exact .refl s
    | some l =>
      refine modLarder_txStands l ?_ s
      exact fun _ => rfl
  split
  · exact hv
  · exact hv.trans ((hg home v).trans (hg from_ _))

theorem noteSlotErr_txStands (lk : Nat) (hard : Bool) (s : State) : TxStands s (noteSlotErr lk hard s) := by
  unfold noteSlotErr
  extract_lets c
  split
  · exact ⟨⟨rfl, rfl, rfl, rfl, rfl, rfl, rfl, rfl, rfl, rfl, rfl, rfl, rfl, fun _ => ⟨rfl, rfl⟩, fun _ => rfl⟩, rfl, rfl, rfl⟩
  · exact .refl s

theorem onlyIf_txStands (b : Bool) {f : State → State} (hf : ∀ s, TxStands s (f s)) (s : State) :
    TxStands s (onlyIf b f s) := by
  cases b with
  | true => exact hf s
  | false => exact .refl s

/-- The line code corrects what a request reads: the corrected lines are noted. -/
theorem meetErrs_txStands {m : MemErr} (hm : ∀ i, m.bad.testBit i = false) (parts : List Part) (s : State) :
    TxStands s (meetErrs m parts s) := by
  refine each_induct (P := TxStands s) (fun e t ht => ht.trans ?_) _ _ (.refl s)
  simp only [hm, onlyIf_false]
  exact onlyIf_txStands _ (fun t => noteSlotErr_txStands ..) t

end

/-! ### What a store puts into a line (R365, R372) -/

section

variable {s u : State} {lk off : Nat} {d : List (Option Byte)}

theorem lineByte_congr (hm : u.mem = s.mem) (hb : u.txn.batches = s.txn.batches) (lk o : Nat) :
    lineByte lk o u = lineByte lk o s := by
  simp only [lineByte, batchOf, hm, hb]

theorem lineRead_congr (hm : u.mem = s.mem) (hb : u.txn.batches = s.txn.batches) (lk off n : Nat) :
    lineRead lk off n u = lineRead lk off n s := by
  simp only [lineRead, lineByte_congr hm hb]

/-- A byte merged stands, and bytes before the merged ones too. -/
theorem tget_mergeBytes_below {t : Tbl Byte} {o k : Nat} (d : List (Option Byte)) (hk : k < o) :
    tget (mergeBytes t o d) k = tget t k := by
  induction d generalizing t o with
  | nil => rfl
  | cons b d ih =>
    cases b with
    | none => exact ih (by omega)
    | some b => exact (ih (by omega)).trans ((tget_tput ..).trans (if_neg (by omega)))

theorem tget_mergeBytes {t : Tbl Byte} {o j : Nat} {d : List (Option Byte)} {b : Byte} (h : d[j]? = some (some b)) :
    tget (mergeBytes t o d) (o + j) = some b := by
  induction d generalizing t o j with
  | nil => simp at h
  | cons c d ih =>
    cases j with
    | zero =>
      obtain rfl : c = some b := by simpa using h
      exact (tget_mergeBytes_below d (by omega)).trans ((tget_tput ..).trans (if_pos rfl))
    | succ j =>
      have hj : d[j]? = some (some b) := by simpa using h
      cases c with
      | none => rw [mergeBytes, show o + (j + 1) = o + 1 + j by omega]; exact ih hj
      | some c => rw [mergeBytes, show o + (j + 1) = o + 1 + j by omega]; exact ih hj

theorem batchOf_line {b : Batch} (h : batchOf lk s = some b) : b.line = lk := by
  simpa using List.find?_some h

/-- Where the entries of a key are changed and keep it, a search for the key finds the one it found, changed. -/
theorem find?_update {α : Type} (key : α → Nat) {k : Nat} {f : α → α} (hf : ∀ x, key x = k → key (f x) = k) (q : Nat)
    (l : List α) : (l.map (fun x => if key x = k then f x else x)).find? (fun x => key x == q) =
      if q = k then (l.find? (fun x => key x == q)).map f else l.find? (fun x => key x == q) := by
  induction l with
  | nil => simp
  | cons a l ih =>
    by_cases ha : key a = k
    · by_cases hq : q = k
      · subst hq
        simp [ha, hf a ha]
      · have hne : (k == q) = false := beq_eq_false_iff_ne.mpr (Ne.symm hq)
        simpa [ha, hf a ha, hq, hne] using ih
    · by_cases hq : key a = q
      · have hk : q ≠ k := hq ▸ ha
        simp [hq, hk]
      · have hne : (key a == q) = false := beq_eq_false_iff_ne.mpr hq
        simpa [ha, hne] using ih

/-- The batch of a line after a store to it: it holds what is merged. -/
theorem batchOf_batchOpen_self (lk off : Nat) (d : List (Option Byte)) (s : State) :
    ∃ b t, batchOf lk (batchOpen lk off d s) = some b ∧ b.bytes = mergeBytes t off d := by
  unfold batchOpen
  split
  next b hb =>
    extract_lets b'
    refine ⟨b', b.bytes, ?_, rfl⟩
    have hl : b'.line = lk := show b.line = lk from batchOf_line hb
    exact (find?_update Batch.line (f := fun _ => b') (fun _ _ => hl) lk _).trans
      ((if_pos rfl).trans (congrArg (Option.map fun _ => b') hb))
  next hb =>
    refine ⟨{ line := lk, at_ := s.now, bytes := mergeBytes [] off d, merged := 1 }, [], ?_, rfl⟩
    unfold batchOf at hb
    simp [batchOf, List.find?_append, hb]

theorem batchOf_batchOpen_other {q : Nat} (hq : q ≠ lk) (off : Nat) (d : List (Option Byte)) (s : State) :
    batchOf q (batchOpen lk off d s) = batchOf q s := by
  unfold batchOpen
  split
  next b hb =>
    extract_lets b'
    have hl : b'.line = lk := show b.line = lk from batchOf_line hb
    exact (find?_update Batch.line (f := fun _ => b') (fun _ _ => hl) q _).trans (if_neg hq)
  next hb => simp [batchOf, List.find?_append, Ne.symm hq]

theorem lineByte_batchStore {j : Nat} {b : Byte} (h : d[j]? = some (some b)) (lk off : Nat) (s : State) :
    lineByte lk (off + j) (batchStore lk off d s) = b := by
  have hs : lineByte lk (off + j) (batchStore lk off d s) = lineByte lk (off + j) (batchOpen lk off d s) :=
    lineByte_congr (by unfold batchStore onlyIf; split <;> rfl) (by unfold batchStore onlyIf; split <;> rfl) ..
  obtain ⟨c, t, hc, hb⟩ := batchOf_batchOpen_self lk off d s
  rw [hs, lineByte, hc]
  simp only [batchByte, hb, tget_mergeBytes h, Option.getD_some]

theorem batchOpen_mem (lk off : Nat) (d : List (Option Byte)) (s : State) : (batchOpen lk off d s).mem = s.mem := by
  unfold batchOpen
  split <;> rfl

theorem lineByte_batchStore_other {q : Nat} (hq : q ≠ lk) (off : Nat) (d : List (Option Byte)) (o : Nat) (s : State) :
    lineByte q o (batchStore lk off d s) = lineByte q o s := by
  have hs : lineByte q o (batchStore lk off d s) = lineByte q o (batchOpen lk off d s) :=
    lineByte_congr (by unfold batchStore onlyIf; split <;> rfl) (by unfold batchStore onlyIf; split <;> rfl) ..
  rw [hs, lineByte, batchOf_batchOpen_other hq, batchOpen_mem]
  rfl

theorem batchStore_stands (lk off : Nat) (d : List (Option Byte)) (s : State) :
    HomeStands s (batchStore lk off d s) ∧ (batchStore lk off d s).hens = s.hens ∧
      (batchStore lk off d s).txn.txs = s.txn.txs := by
  unfold batchStore onlyIf batchOpen
  split <;> split <;> exact ⟨.ofUnits rfl rfl rfl rfl rfl rfl rfl rfl, rfl, rfl⟩

end

/-! ### What holds no line of a request -/

/-- No line of a crate of an extent's base content is coherent, poisoned, in error or a control block, and the crate can be
accessed now. -/
structure Serves (ext idx : Nat) (write : Bool) (s : State) : Prop where
  windows : s.coh.windows = []
  ents : s.coh.ents = []
  ready : tierWait (crateKey ext 0 idx) write s = .none
  unmirrored : journalled ext s = false
  unpoisoned : ∀ l, poisoned (lineKey ext 0 l) s = false
  sound : ∀ l, lineKey ext 0 l ∉ s.tiers.failing
  noQcb : ∀ l, qcbAt (lineKey ext 0 l) s = none

/-- A part of a request that lies in a crate of an extent's base content. -/
structure PartOf (ext idx : Nat) (p : Part) : Prop where
  line : ∃ l, l < 2 ^ 45 ∧ l / 512 = idx ∧ p.line = lineKey ext 0 l

section

variable {s u v : State} {ext idx hen : Nat} {w : Bool} {t : Tx} {p : Part} {k : TxKind}

theorem Serves.stands (h : Serves ext idx w s) (k : HomeStands s u) : Serves ext idx w u where
  windows := by rw [k.coh, h.windows]
  ents := by rw [k.coh, h.ents]
  ready := by rw [k.tierWait_eq, h.ready]
  unmirrored := by rw [k.journalled_eq, h.unmirrored]
  unpoisoned l := by rw [poisoned, k.poison]; exact h.unpoisoned l
  sound l := by rw [k.failing]; exact h.sound l
  noQcb l := by rw [k.qcbAt_eq, h.noQcb]

theorem inWindow_none (h : s.coh.windows = []) (lk : Nat) : inWindow lk s = false := by
  unfold inWindow
  split
  · rfl
  · simp [h]

theorem meetLine_sound {lk : Nat} (h : lk ∉ s.tiers.failing) : meetLine lk s = s := by
  simp [meetLine, h]

theorem cleanLine_sound {lk : Nat} (h : lk ∉ s.tiers.failing) (hp : poisoned lk s = false) : cleanLine lk s = s := by
  have hf : s.tiers.failing.filter (fun x => x != lk) = s.tiers.failing :=
    List.filter_eq_self.mpr fun x hx => bne_iff_ne.mpr fun he => h (he ▸ hx)
  unfold cleanLine
  simp only [hf]
  exact if_neg (by rw [hp]; exact Bool.false_ne_true)

/-- A line of the only open request, of a hen, can be executed at once. -/
theorem lineReady_serves (h : Serves ext idx (isChange t.kind) s) (hp : PartOf ext idx p) (ht : s.txn.txs = [t])
    (hs : portSrc t = none) (ha : t.ans = none) : lineReady t p s = (.none, s) := by
  obtain ⟨l, hl, hi, hk⟩ := hp.line
  have he : earlierOn t p.line s = false := by simp [earlierOn, ht]
  have hr : regionLanding (lkExt p.line) s = false := by simp [regionLanding, ht, ha]
  have hm : mirrorHolds (lkExt p.line) s = false := by simp [mirrorHolds, hk, lkExt_lineKey hl, h.unmirrored]
  have hw : tierWait (lkCrate p.line) (isChange t.kind) s = .none := by rw [hk, lkCrate_lineKey, hi, h.ready]
  have hn : entOf p.line s = none := by simp [entOf, h.ents]
  simp [lineReady, he, hr, hm, hw, hn, hs, inWindow_none h.windows]

/-! ### One line of a hen's request -/

theorem execLine_read (h : Serves ext idx w s) (hp : PartOf ext idx p) (hk : t.kind = .read) (hs : portSrc t = none) :
    execLine t p s = (.done, lineRead p.line p.off p.len s, s) := by
  obtain ⟨l, hl, hi, hl⟩ := hp.line
  have hw : poisoned p.line s = false := by rw [hl, h.unpoisoned]
  simp [execLine, hk, hs, inWindow_none h.windows, meetLine_sound (hl ▸ h.sound l), hw]

theorem execLine_write {m : Bool} {d : List (Option Byte)} (h : Serves ext idx w s) (hp : PartOf ext idx p)
    (hk : t.kind = .write m d) :
    execLine t p s = (.done, [], afterChange t p.line (batchStore p.line p.off p.wdata s)) := by
  obtain ⟨l, hl, hi, hl⟩ := hp.line
  have hw : poisoned p.line s = false := by rw [hl, h.unpoisoned]
  have hf : p.line ∉ s.tiers.failing := hl ▸ h.sound l
  have hm (b : Bool) : onlyIf b (meetLine p.line) s = s := by cases b <;> simp [meetLine_sound hf]
  have hc (b : Bool) : onlyIf b (cleanLine p.line) s = s := by cases b <;> simp [cleanLine_sound hf hw]
  simp [execLine, hk, inWindow_none h.windows, hw, hm, hc]

theorem afterChange_txStands {lk : Nat} (t : Tx) (h : qcbAt lk s = none) : TxStands s (afterChange t lk s) := by
  have hc : TxStands s (countHot lk (dirtyCrate (lkCrate lk) (markCrate (lkCrate lk) s))) :=
    (markCrate_txStands ..).trans ((dirtyCrate_txStands ..).trans (countHot_txStands ..))
  unfold afterChange
  simp only [hc.qcbAt_eq, h]
  exact hc

/-- A request with a line of it done. -/
def partDone (t : Tx) (p : Part) (data : List Byte) : Tx :=
  { t with parts := t.parts.map (fun x =>
      if x.line = p.line then { x with res := some .done, rdata := data, undo := [] } else x) }

theorem setTx_only {t' : Tx} (ht : s.txn.txs = [t]) (hi : t'.id = t.id) : (setTx t' s).txn.txs = [t'] := by
  simp [setTx, ht, hi]

theorem setTx_stands (t : Tx) (s : State) : HomeStands s (setTx t s) := .ofUnits rfl rfl rfl rfl rfl rfl rfl rfl

/-- A line that is executed is noted with its status and data, and its bytes with the larders they pass. -/
theorem runParts_cons {data : List Byte} (r : List Part) (atoms : List Nat) (ht : s.txn.txs = [t]) (hs : t.src = .hen hen)
    (hk : t.kind = .read ∨ ∃ m d, t.kind = .write m d) (hl : lineReady t p s = (.none, s))
    (he : execLine t p s = (.done, data, v)) (hv : v.txn.txs = [t]) (hj : journalled (lkExt p.line) v = false) :
    runParts t.id (p :: r) (atoms, s) = runParts t.id r
      (atoms, setTx (partDone t p data) (noteMoved (some hen) (crateOf (lkCrate p.line) v) p.len v)) := by
  have hn := noteMoved_txStands (some hen) (crateOf (lkCrate p.line) v) p.len v
  have hx : txOf t.id s = some t := by simp [txOf, ht]
  have hjf : joinsFetch t p.line (noteMoved (some hen) (crateOf (lkCrate p.line) v) p.len v) = false := by
    simp [joinsFetch, hn.txs, hv]
  have hjn : journalled (lkExt p.line) (noteMoved (some hen) (crateOf (lkCrate p.line) v) p.len v) = false := by
    rw [hn.journalled_eq, hj]
  rcases hk with hk | ⟨m, d, hk⟩ <;>
    simp [runParts, hx, hl, hk, he, hs, hjf, hjn, onlyIf, partDone]

end

/-! ### All lines of a hen's request -/

/-- A line of a request, executed. -/
def served (dat : Part → List Byte) (p : Part) : Part := { p with res := some .done, rdata := dat p, undo := [] }

section

variable {s u : State} {ext idx hen : Nat} {w : Bool} {t : Tx} {dat : Part → List Byte} {I : List Part → State → Prop}

theorem partDone_served {ps r : List Part} {p : Part} (hps : p.line ∉ ps.map Part.line) (hr : p.line ∉ r.map Part.line) :
    partDone { t with parts := ps.map (served dat) ++ p :: r } p (dat p) =
      { t with parts := (ps ++ [p]).map (served dat) ++ r } := by
  have h₁ : ∀ x ∈ ps, (if x.line = p.line then { served dat x with res := some .done, rdata := dat p, undo := [] }
      else served dat x) = served dat x :=
    fun x hx => if_neg fun (h : x.line = p.line) => hps (h ▸ List.mem_map_of_mem hx)
  have h₂ : ∀ x ∈ r, (if x.line = p.line then { x with res := some .done, rdata := dat p, undo := [] } else x) = x :=
    fun x hx => if_neg fun (h : x.line = p.line) => hr (h ▸ List.mem_map_of_mem hx)
  have e₁ := List.map_congr_left h₁
  have e₂ := (List.map_congr_left h₂).trans (List.map_id' r)
  simp only [partDone, List.map_append, List.map_cons, List.map_map, List.map_nil, Tx.mk.injEq, true_and, and_true,
    List.append_assoc, List.cons_append, List.nil_append, if_true]
  rw [e₂]
  exact congrArg (· ++ served dat p :: r) e₁

/-- What executing a line of a request does: its bytes are dat, and I holds with the line among those done. -/
def LineRule (ext idx : Nat) (w : Bool) (t : Tx) (dat : Part → List Byte) (I : List Part → State → Prop) : Prop :=
  ∀ ps p ts s, Serves ext idx w s → PartOf ext idx p → p.line ∉ ps.map Part.line → I ps s →
    ∃ v, execLine { t with parts := ts } p s = (.done, dat p, v) ∧ HomeStands s v ∧ v.hens.hens = s.hens.hens ∧
      v.txn.txs = s.txn.txs ∧ I (ps ++ [p]) v

/-- The lines of the only open request, of a hen, are executed one after another. -/
theorem runParts_served (hs : t.src = .hen hen) (hk : t.kind = .read ∨ ∃ m d, t.kind = .write m d) (ha : t.ans = none)
    (hI : ∀ ps s u, u.mem = s.mem → u.txn.batches = s.txn.batches → I ps s → I ps u)
    (he : LineRule ext idx (isChange t.kind) t dat I) (atoms : List Nat) (r ps : List Part) (s : State)
    (hr : ∀ p ∈ r, PartOf ext idx p) (hd : ((ps ++ r).map Part.line).Nodup) (hS : Serves ext idx (isChange t.kind) s)
    (hps : I ps s) (ht : s.txn.txs = [{ t with parts := ps.map (served dat) ++ r }]) :
    ∃ v, runParts t.id r (atoms, s) = (atoms, v) ∧ HomeStands s v ∧ v.hens.hens = s.hens.hens ∧
      v.txn.txs = [{ t with parts := (ps ++ r).map (served dat) }] ∧ I (ps ++ r) v := by
  induction r generalizing ps s with
  | nil =>
    rw [List.append_nil] at ht ⊢
    exact ⟨s, rfl, .refl s, rfl, ht, hps⟩
  | cons p r ih =>
    have hp : PartOf ext idx p := hr p (List.mem_cons_self ..)
    obtain ⟨-, ⟨hpr, -⟩, hne⟩ : _ ∧ (p.line ∉ r.map Part.line ∧ _) ∧ _ := by
      simpa only [List.map_append, List.map_cons, List.nodup_append, List.nodup_cons] using hd
    have hpp : p.line ∉ ps.map Part.line := fun h => hne _ h _ (List.mem_cons_self ..) rfl
    let t' : Tx := { t with parts := ps.map (served dat) ++ p :: r }
    obtain ⟨v, hv, hsv, hvh, hvt, hvI⟩ := he ps p t'.parts s hS hp hpp hps
    have hpd := partDone_served (t := t) (dat := dat) hpp hpr
    have hpo : portSrc t' = none := by simp only [portSrc, t', hs]
    have hl : lineReady t' p s = (.none, s) := lineReady_serves hS hp ht hpo ha
    obtain ⟨l, hl45, hli, hll⟩ := hp.line
    have hj : journalled (lkExt p.line) v = false := by
      rw [hll, lkExt_lineKey hl45, hsv.journalled_eq, hS.unmirrored]
    have hn := noteMoved_txStands (some hen) (crateOf (lkCrate p.line) v) p.len v
    have hx := setTx_stands (partDone t' p (dat p)) (noteMoved (some hen) (crateOf (lkCrate p.line) v) p.len v)
    obtain ⟨x, hr', hsx, hxh, hxt, hxI⟩ := ih (ps ++ [p])
      (setTx (partDone t' p (dat p)) (noteMoved (some hen) (crateOf (lkCrate p.line) v) p.len v))
      (fun q hq => hr q (List.mem_cons_of_mem _ hq))
      (by rwa [List.append_assoc])
      (hS.stands (hsv.trans (hn.toHomeStands.trans hx))) (hI _ v _ hn.mem hn.batches hvI)
      ((setTx_only (t' := partDone t' p (dat p)) (hn.txs.trans (hvt.trans ht)) rfl).trans (congrArg (fun x => [x]) hpd))
    refine ⟨x, ?_, hsv.trans (hn.toHomeStands.trans (hx.trans hsx)), hxh.trans (hn.hens.trans hvh), ?_, ?_⟩
    · exact (runParts_cons r atoms ht hs hk hl hv (hvt.trans ht) hj).trans hr'
    · simpa using hxt
    · simpa using hxI

end

section

variable {s : State} {ext idx hen : Nat} {ps : List Part} {t : Tx} {dat : Part → List Byte} {I : List Part → State → Prop}

theorem txResult_served (h : t.parts = ps.map (served dat)) : txResult t = (.done, ps.flatMap dat) := by
  unfold txResult
  split
  next st he =>
    obtain ⟨x, hx, he⟩ := List.exists_of_findSome?_eq_some he
    obtain ⟨p, -, rfl⟩ := List.mem_map.mp (h ▸ hx)
    exact nomatch he
  · rw [h, List.flatMap_map]
    rfl

/-- A hen's request as it starts: nothing of it is held, journalled or answered. -/
structure FreshTx (hen : Nat) (t : Tx) : Prop where
  src : t.src = .hen hen
  ans : t.ans = none
  wait : t.wait = .none
  jlines : t.jlines = []
  jseq : t.jseq = none
  rel : t.rel = false

/-- The only open request, of a hen, all of whose lines can be executed, is answered. -/
theorem runTx_served (hf : FreshTx hen t) (hk : t.kind = .read ∨ ∃ m d, t.kind = .write m d)
    (hI : ∀ ps s u, u.mem = s.mem → u.txn.batches = s.txn.batches → I ps s → I ps u)
    (he : LineRule ext idx (isChange t.kind) t dat I) (hr : ∀ p ∈ t.parts, PartOf ext idx p)
    (hn : ∀ p ∈ t.parts, p.res = none) (hd : (t.parts.map Part.line).Nodup) (hS : Serves ext idx (isChange t.kind) s)
    (h₀ : I [] s) (ht : s.txn.txs = [t]) :
    ∃ v, (runTx t.id ([], s)).2 = answerHen hen t.tag .done (t.parts.flatMap dat) (delTx t.id v) ∧
      v.hens.hens = s.hens.hens ∧ I t.parts v := by
  obtain ⟨v, hv, -, hvh, hvt, hvI⟩ := runParts_served hf.src hk hf.ans hI he [] t.parts [] s hr hd hS h₀ ht
  have hp : t.parts.filter (fun p => p.res.isNone) = t.parts :=
    List.filter_eq_self.mpr fun p hp => Option.isNone_iff_eq_none.mpr (hn p hp)
  have hx : txOf t.id s = some t := by simp [txOf, ht]
  have hy : txOf t.id v = some { t with parts := t.parts.map (served dat) } := by simp [txOf, hvt]
  have hall : (t.parts.map (served dat)).all (fun p => p.res.isSome) = true := by simp [served]
  have hres (x : Tx) := txResult_served (t := x) (ps := t.parts) (dat := dat)
  refine ⟨v, ?_, hvh, hvI⟩
  rcases hk with hk | ⟨m, d, hk⟩ <;>
    simp [runTx, hx, hf.ans, hf.wait, hk, hp, hv, hy, hall, hres, finishTx, completeTx, hf.src,
      hf.jlines, hf.jseq]

end

/-- The memory and the batches are those of a state before. -/
def BytesOf (s₀ s : State) : Prop := s.mem = s₀.mem ∧ s.txn.batches = s₀.txn.batches

/-- The bytes that lines of a request write stand. -/
def BytesStand (ps : List Part) (s : State) : Prop :=
  ∀ p ∈ ps, ∀ j b, p.wdata[j]? = some (some b) → lineByte p.line (p.off + j) s = b

section

variable {s u s₀ : State} {ext idx hen : Nat} {w : Bool} {t : Tx}

theorem lineRule_read (s₀ : State) (hs : t.src = .hen hen) (hk : t.kind = .read) :
    LineRule ext idx w t (fun p => lineRead p.line p.off p.len s₀) (fun _ => BytesOf s₀) := by
  intro ps p ts s hS hp _ ⟨hm, hb⟩
  refine ⟨s, ?_, .refl s, rfl, rfl, hm, hb⟩
  beta_reduce
  rw [← lineRead_congr hm hb]
  exact execLine_read hS hp hk (by simp only [portSrc, hs])

theorem BytesStand.congr {ps : List Part} (hm : u.mem = s.mem) (hb : u.txn.batches = s.txn.batches)
    (h : BytesStand ps s) : BytesStand ps u := by
  intro p hp j b hj
  rw [lineByte_congr hm hb, h p hp j b hj]

theorem lineRule_write {m : Bool} {d : List (Option Byte)} (hk : t.kind = .write m d) :
    LineRule ext idx w t (fun _ => []) BytesStand := by
  intro ps p ts s hS hp hn hI
  obtain ⟨hst, hsh, hsx⟩ := batchStore_stands p.line p.off p.wdata s
  obtain ⟨l, -, -, hl⟩ := hp.line
  have hc : TxStands (batchStore p.line p.off p.wdata s)
      (afterChange { t with parts := ts } p.line (batchStore p.line p.off p.wdata s)) :=
    afterChange_txStands _ (by rw [hst.qcbAt_eq, hl, hS.noQcb])
  refine ⟨_, execLine_write hS hp hk, hst.trans hc.toHomeStands, hc.hens.trans (congrArg _ hsh), hc.txs.trans hsx,
    BytesStand.congr hc.mem hc.batches fun q hq j b hj => ?_⟩
  rcases List.mem_append.mp hq with hq | hq
  · have hne : q.line ≠ p.line := fun h => hn (h ▸ List.mem_map_of_mem hq)
    rw [lineByte_batchStore_other hne, hI q hq j b hj]
  · obtain rfl := List.mem_singleton.mp hq
    exact lineByte_batchStore hj ..

end

/-! ### The lines of a request's bytes -/

section

variable {s : State} {ext off len : Nat} {d : List (Option Byte)} {p : Part}

theorem mem_partsOf (h : 0 < len) : p ∈ partsOf ext 0 off len d ↔
    ∃ i, i < (off + len - 1) / 128 - off / 128 + 1 ∧ p =
      { line := lineKey ext 0 (off / 128 + i), off := max off ((off / 128 + i) * 128) - (off / 128 + i) * 128,
        len := min (off + len) ((off / 128 + i + 1) * 128) - max off ((off / 128 + i) * 128),
        wdata := (d.drop (max off ((off / 128 + i) * 128) - off)).take
          (min (off + len) ((off / 128 + i + 1) * 128) - max off ((off / 128 + i) * 128)),
        res := none, rdata := [], undo := [] } := by
  simp [partsOf, splitLines, Nat.ne_of_gt h, eq_comm]

theorem partsOf_res (hp : p ∈ partsOf ext 0 off len d) (h : 0 < len) : p.res = none := by
  obtain ⟨i, -, rfl⟩ := (mem_partsOf h).mp hp
  rfl

theorem partsOf_partOf (hp : p ∈ partsOf ext 0 off len d) (h : 0 < len) (ho : off < 2 ^ 52)
    (hc : off % crateBytes + len ≤ crateBytes) : PartOf ext (off / crateBytes) p := by
  obtain ⟨i, hi, rfl⟩ := (mem_partsOf h).mp hp
  have hc : off % 65536 + len ≤ 65536 := hc
  exact ⟨off / 128 + i, by omega, show (off / 128 + i) / 512 = off / 65536 by omega, rfl⟩

theorem partsOf_nodup (h : 0 < len) : ((partsOf ext 0 off len d).map Part.line).Nodup := by
  simp only [partsOf, splitLines, Nat.ne_of_gt h, if_false, List.map_map]
  refine List.Nodup.map (fun a b hab => ?_) List.nodup_range
  exact Nat.add_left_cancel (lineKey_injective ext hab)

/-- Each byte that a request writes is in one of its lines. -/
theorem partsOf_byte (h : 0 < len) {i : Nat} (hi : i < len) : ∃ p ∈ partsOf ext 0 off len d, ∃ j,
    p.line = lineKey ext 0 ((off + i) / 128) ∧ p.off + j = (off + i) % 128 ∧ p.wdata[j]? = d[i]? := by
  have hl : off / 128 + ((off + i) / 128 - off / 128) = (off + i) / 128 := by omega
  refine ⟨_, (mem_partsOf h).mpr ⟨(off + i) / 128 - off / 128, by omega, rfl⟩,
    off + i - max off ((off + i) / 128 * 128), ?_⟩
  simp only [hl]
  refine ⟨trivial, by omega, ?_⟩
  rw [List.getElem?_take_of_lt (by omega), List.getElem?_drop]
  congr 1
  omega

/-- The bytes of k lines from an offset's, that lie before an end. -/
theorem flatMap_lines (off stop k : Nat) (hk : off < stop) :
    (List.range k).flatMap (fun i => List.range' (max off ((off / 128 + i) * 128))
      (min stop ((off / 128 + i + 1) * 128) - max off ((off / 128 + i) * 128))) =
      if k = 0 then [] else List.range' off (min stop ((off / 128 + k) * 128) - off) := by
  induction k with
  | zero => rfl
  | succ k ih =>
    rw [List.range_succ, List.flatMap_append, ih, List.flatMap_singleton, if_neg (Nat.succ_ne_zero k)]
    by_cases hz : k = 0
    · subst hz
      rw [if_pos rfl, show max off ((off / 128 + 0) * 128) = off by omega]
      rfl
    · rw [if_neg hz, show max off ((off / 128 + k) * 128) = (off / 128 + k) * 128 by omega]
      rcases Nat.lt_or_ge stop ((off / 128 + k) * 128) with hs | hs
      · have h₁ : min stop ((off / 128 + k + 1) * 128) - (off / 128 + k) * 128 = 0 := by omega
        have h₂ : min stop ((off / 128 + k) * 128) = min stop ((off / 128 + (k + 1)) * 128) := by omega
        rw [h₁, h₂, List.range'_zero, List.append_nil]
      · have h₁ : (off / 128 + k) * 128 = off + (min stop ((off / 128 + k) * 128) - off) := by omega
        have h₂ : min stop ((off / 128 + (k + 1)) * 128) - off = min stop ((off / 128 + k) * 128) - off +
            (min stop ((off / 128 + k + 1) * 128) - (off / 128 + k) * 128) := by omega
        rw [h₂, ← List.range'_append_1, ← h₁]

theorem lineRead_eq_map (ext l a b : Nat) (s : State) (ha : l * 128 ≤ a) (hb : a + b ≤ (l + 1) * 128) :
    lineRead (lineKey ext 0 l) (a - l * 128) b s = (List.range' a b).map (fun i => extByte ext i s) := by
  rw [List.range'_eq_map_range, List.map_map]
  refine List.map_congr_left fun i hi => ?_
  have hi : i < b := List.mem_range.mp hi
  simp only [Function.comp_apply, extByte]
  rw [show (a + i) / 128 = l by omega, show (a + i) % 128 = a - l * 128 + i by omega]

/-- What the lines of a request read is its bytes. -/
theorem partsOf_read (h : 0 < len) (s : State) :
    (partsOf ext 0 off len d).flatMap (fun p => lineRead p.line p.off p.len s) =
      (List.range len).map (fun i => extByte ext (off + i) s) := by
  have hk : (off + len - 1) / 128 - off / 128 + 1 ≠ 0 := Nat.succ_ne_zero _
  have hr : List.range' off len = (List.range len).map (off + ·) := List.range'_eq_map_range ..
  have hf := flatMap_lines off (off + len) ((off + len - 1) / 128 - off / 128 + 1) (by omega)
  rw [if_neg hk, show min (off + len) ((off / 128 + ((off + len - 1) / 128 - off / 128 + 1)) * 128) - off = len by omega] at hf
  calc (partsOf ext 0 off len d).flatMap (fun p => lineRead p.line p.off p.len s)
    _ = ((List.range ((off + len - 1) / 128 - off / 128 + 1)).flatMap (fun i =>
          List.range' (max off ((off / 128 + i) * 128))
            (min (off + len) ((off / 128 + i + 1) * 128) - max off ((off / 128 + i) * 128)))).map
          (fun i => extByte ext i s) := by
      simp only [partsOf, splitLines, Nat.ne_of_gt h, if_false, List.flatMap_map, List.map_flatMap]
      refine List.flatMap_congr fun i hi => ?_
      have hi := List.mem_range.mp hi
      exact lineRead_eq_map _ _ _ _ _ (by omega) (by omega)
    _ = _ := by rw [hf, hr, List.map_map]; rfl

end

/-! ### The start of a hen's request -/

section

variable {s : State} {hen : Nat} {t : Tx} {g : Grant} {m : MemErr} {d : List (Option Byte)}
  {dat : Part → List Byte} {I : List Part → State → Prop}

theorem readTables_sound (gran : Nat) (h : s.tiers.metaBad = []) : readTables gran 0 s = (true, s) := by
  have hr : s.tiers.metaBad.filter (fun m => m.1 != gran) = s.tiers.metaBad := by rw [h]; rfl
  have hn : (List.range 2).filter (fun c => Nat.testBit 0 c || s.tiers.metaBad.contains (gran, c)) = [] := by simp [h]
  simp only [readTables, hr, hn, List.length_nil, OfNat.zero_ne_ofNat, if_false]

theorem addTx_stands (t : Tx) (s : State) : HomeStands s (addTx t s) := .ofUnits rfl rfl rfl rfl rfl rfl rfl rfl

/-- A request outside every region, whose walk and lines meet no error beyond correction, is taken up at once. -/
theorem startAccess_runs (hrel : t.rel = false) (hk : t.kind = .read ∧ d = [] ∨ ∃ m, t.kind = .write m d)
    (bind : Option Binding) (len : Nat) (hr : regionOfExt g.ext s = none) (hm : ∀ i, m.bad.testBit i = false)
    (hc : m.copies = 0) (hb : s.tiers.metaBad = []) :
    ∃ id v, TxStands s v ∧ startAccess t g bind len m s =
      (.ok (), (runTx id ([], addTx { t with id := id, parts := partsOf g.ext 0 g.off len d } v)).2) := by
  have hst : TxStands s (meetErrs m (partsOf g.ext 0 g.off len d) (heatUp (crateKey g.ext 0 (g.off / crateBytes)) s)) :=
    (heatUp_txStands ..).trans (meetErrs_txStands hm ..)
  have ht := readTables_sound (crateKey g.ext 0 (g.off / crateBytes) / 32) (hst.metaBad.trans hb)
  have hi : (heatUp (crateKey g.ext 0 (g.off / crateBytes)) s).txn.nextTx = s.txn.nextTx := rfl
  refine ⟨s.txn.nextTx, _, hst, ?_⟩
  rcases hk with ⟨hk, rfl⟩ | ⟨_, hk⟩ <;>
    simp only [startAccess, hr, hk, hc, ht, hi, hrel, Bool.not_true, Bool.false_and, Bool.false_eq_true, if_false]

/-- The request of a hen that nothing holds is answered at once. -/
theorem startAccess_served (hf : FreshTx hen t) (hk : t.kind = .read ∧ d = [] ∨ ∃ m, t.kind = .write m d)
    (hI : ∀ ps s u, u.mem = s.mem → u.txn.batches = s.txn.batches → I ps s → I ps u)
    (he : ∀ id ps, LineRule g.ext (g.off / crateBytes) (isChange t.kind) { t with id := id, parts := ps } dat I)
    (hS : Serves g.ext (g.off / crateBytes) (isChange t.kind) s) (h₀ : I [] s) (hx : s.txn.txs = [])
    (bind : Option Binding) {len : Nat} (hl : 0 < len) (ho : g.off < 2 ^ 52) (hc : g.off % crateBytes + len ≤ crateBytes)
    (hr : regionOfExt g.ext s = none) (hm : ∀ i, m.bad.testBit i = false) (hcp : m.copies = 0)
    (hb : s.tiers.metaBad = []) :
    ∃ v, startAccess t g bind len m s =
        (.ok (), answerHen hen t.tag .done ((partsOf g.ext 0 g.off len d).flatMap dat) v) ∧
      v.hens.hens = s.hens.hens ∧ I (partsOf g.ext 0 g.off len d) v := by
  obtain ⟨id, v, hv, hrun⟩ := startAccess_runs hf.rel hk bind len hr hm hcp hb
  let t' : Tx := { t with id := id, parts := partsOf g.ext 0 g.off len d }
  have hk' : t'.kind = .read ∨ ∃ m d, t'.kind = .write m d := hk.imp And.left fun ⟨m, h⟩ => ⟨m, d, h⟩
  obtain ⟨u, hu, huh, huI⟩ := runTx_served (t := t') ⟨hf.src, hf.ans, hf.wait, hf.jlines, hf.jseq, hf.rel⟩ hk' hI
    (he id _) (fun p hp => partsOf_partOf hp hl ho hc) (fun p hp => partsOf_res hp hl) (partsOf_nodup hl)
    (hS.stands (hv.toHomeStands.trans (addTx_stands t' v))) (hI _ _ _ hv.mem hv.batches h₀)
    (congrArg (· ++ [t']) (hv.txs.trans hx))
  exact ⟨delTx id u, hrun.trans (congrArg (Prod.mk _) hu), huh.trans hv.hens, hI _ u _ rfl rfl huI⟩

end

/-! ### A hen's request on its way to its home -/

/-- A hen once it has sent a request: it is noted as issued, and is none of those a failed sibling has left behind. -/
def sentReq (hen req : Nat) (r : DmaReq) (s : State) : State :=
  modHen hen (fun y => { y with late := y.late.filter (fun e => e.1.id != req) }) (setReq hen { r with issued := true } s)

/-- A request in the state its home has it in once it has passed the translation caches: sent, its item's extents noted. -/
def reqArrived (hen req : Nat) (r : DmaReq) (a : Asker) (g : Grant) (s : State) : State :=
  let s := onlyIf (r.node == 2) (send (.henRequest hen r.write a.job r.pool r.bytes)) (sentReq hen req r s)
  let s := onlyIf ((henOf hen s).dma.any (fun q => q.id == req)) (modItem (henOf hen s).item (fun x =>
    { x with exts := ladd x.exts g.ext, touch := ((g.ext, g.off / crateBytes, 1) :: x.touch).eraseDups })) s
  translate g.jslot r.pool s

/-- What a hen's request asks of memory. -/
def TxKind.ofReq (r : DmaReq) : TxKind := if r.write then .write false (r.data.map some) else .read

/-- The request that its home executes for a hen's. -/
def henTx (hen req : Nat) (r : DmaReq) (a : Asker) (g : Grant) (s : State) : Tx :=
  { id := s.txn.nextTx, counted := false, src := .hen hen, epoch := 0, seq := 0, tag := req, job := a.job, member := g.member,
    ext := g.ext, addr := r.pool, opcode := opCodeOf (.ofReq r), tc := 0, kind := .ofReq r, rel := false, parts := [],
    wait := .none, since := s.now, acc := s.now, combined := false, jseq := none, jlines := [], ans := none }

section

variable {s : State} {hen req : Nat} {r : DmaReq} {a : Asker} {g : Grant} {m : MemErr}

theorem modItem_eq (i : Nat) (f : Item → Item) (s : State) :
    ∃ is, modItem i f s = { s with work := { s.work with items := is } } := by
  unfold modItem
  split <;> exact ⟨_, rfl⟩

theorem translate_eq (jslot addr : Nat) (s : State) :
    ∃ x d c, translate jslot addr s = { s with pool := { s.pool with xlate := x }, dict := d, freeCtr := c } := by
  unfold translate
  extract_lets
  split
  · exact ⟨_, _, _, rfl⟩
  split <;> exact ⟨_, _, _, rfl⟩

theorem sentReq_eq (hen req : Nat) (r : DmaReq) (o : Out) (s : State) :
    ∃ l, onlyIf (r.node == 2) (send o) (sentReq hen req r s) =
      { s with hens := (sentReq hen req r s).hens, out := l } := by
  unfold onlyIf
  split <;> exact ⟨_, rfl⟩

theorem reqArrived_eq (hen req : Nat) (r : DmaReq) (a : Asker) (g : Grant) (s : State) :
    ∃ l is x d c, reqArrived hen req r a g s =
      { s with hens := (sentReq hen req r s).hens, out := l, work := { s.work with items := is },
               pool := { s.pool with xlate := x }, dict := d, freeCtr := c } := by
  unfold reqArrived
  extract_lets u v
  obtain ⟨l, hl⟩ := sentReq_eq hen req r (.henRequest hen r.write a.job r.pool r.bytes) s
  have hu : u = { s with hens := (sentReq hen req r s).hens, out := l } := hl
  obtain ⟨is, hv⟩ : ∃ is, v = { u with work := { u.work with items := is } } := by
    unfold v onlyIf
    split
    · exact modItem_eq ..
    · exact ⟨_, rfl⟩
  obtain ⟨x, d, c, ht⟩ := translate_eq g.jslot r.pool v
  rw [ht, hv, hu]
  exact ⟨l, is, x, d, c, rfl⟩

/-- A hen's request that passes its checks starts as a request of its home. -/
theorem issueReq_starts {v : State} (hn : nextSent hen req s = some (r, a))
    (ho : ((henOf hen s).dma.filter (fun q => q.issued)).length < dmaOpen) (hh : homeFull (homeOf a.job r.pool s) s = false)
    (hc : checkItem a.job a.member a.partner r.pool r.write s = .ok g) (hr : regionOfExt g.ext s = none)
    (h6 : check6 g (.ofReq r) false s = none)
    (hv : startAccess (henTx hen req r a g (reqArrived hen req r a g s)) g none r.bytes m (reqArrived hen req r a g s) =
      (.ok (), v)) : issueReq hen req m s = v := by
  obtain ⟨l, hl⟩ := sentReq_eq hen req r (.henRequest hen r.write a.job r.pool r.bytes) s
  obtain ⟨l', is, x, d, c, hu⟩ := reqArrived_eq hen req r a g s
  have hc₁ : checkItem a.job a.member a.partner r.pool r.write (onlyIf (r.node == 2)
      (send (.henRequest hen r.write a.job r.pool r.bytes)) (sentReq hen req r s)) = .ok g := by rw [hl]; exact hc
  have hr₁ : regionOfExt g.ext (reqArrived hen req r a g s) = none := by rw [hu]; exact hr
  have h6₁ : check6 g (.ofReq r) false (reqArrived hen req r a g s) = none := by rw [hu]; exact h6
  unfold issueReq
  split
  next hx => exact absurd (hn.symm.trans hx) nofun
  next r' a' hx =>
    obtain ⟨rfl, rfl⟩ : r = r' ∧ a = a' := by simpa using hn.symm.trans hx
    rw [if_neg (by simp [hh, ho])]
    extract_lets s₁ s₂ k
    have hc₂ : checkItem a.job a.member a.partner r.pool r.write s₂ = .ok g := hc₁
    split
    next he => exact absurd (hc₂.symm.trans he) nofun
    next g' he =>
      obtain rfl : g = g' := Except.ok.inj (hc₂.symm.trans he)
      extract_lets s₃ s₄ bind drafting t
      have h₄ : s₄ = reqArrived hen req r a g s := rfl
      have hb : bind = none := by
        unfold bind
        rw [h₄, hr₁]
      have hd : drafting = false := by
        unfold drafting
        rw [hb]
      split
      next st h6' =>
        have h6₂ : check6 g k drafting s₄ = none := by rw [hd]; exact h6₁
        exact absurd (h6₂.symm.trans h6') nofun
      · have hv' : startAccess t g bind r.bytes m s₄ = (.ok (), v) := by rw [hb, h₄]; exact hv
        rw [hv']

end

/-! ### The hen's side of a request -/

/-- A hen whose request has been answered: the answer is on its way from the request's node. -/
def answeredHen (req : Nat) (r : DmaReq) (st : Status) (data : List Byte) (x : Hen) : Hen :=
  { x with answers := x.answers ++ [(r.node, req)],
           dma := x.dma.map (fun q => if q.id = req then
             { q with res := some st, data := if r.write then r.data else data } else q) }

section

variable {s u v : State} {hen req : Nat} {r old : DmaReq} {a : Asker} {st : Status} {data : List Byte}

theorem nextSent_id (h : nextSent hen req s = some (r, a)) : r.id = req := by
  unfold nextSent at h
  split at h
  · exact nomatch h
  next e he =>
    have hid : e.1.id = req := by simpa using List.find?_some he
    extract_lets node at h
    split at h
    · exact nomatch h
    · obtain ⟨rfl, -⟩ : { e.1 with node := node } = r ∧ e.2 = a := by simpa using h
      exact hid

theorem henOf_congr (h : u.hens.hens = s.hens.hens) (hen : Nat) : henOf hen u = henOf hen s := by
  simp only [henOf, h]

theorem henReq_congr (h : u.hens.hens = s.hens.hens) (hen req : Nat) : henReq hen req u = henReq hen req s := by
  simp only [henReq, henOf_congr h]

theorem henOf_sentReq (hen req : Nat) (r : DmaReq) (s : State) :
    henOf hen (sentReq hen req r s) =
      { henOf hen s with
        dma := (henOf hen s).dma.map (fun q => if q.id = r.id then { r with issued := true } else q),
        late := (henOf hen s).late.filter (fun e => e.1.id != req) } := by
  simp only [sentReq, setReq, modHen, henOf_setHen_self]

theorem henReq_sentReq (hr : r.id = req) (ho : henReq hen req s = some old) :
    henReq hen req (sentReq hen req r s) = some { r with issued := true } := by
  have hf := find?_update DmaReq.id (k := r.id) (f := fun _ => { r with issued := true }) (fun _ _ => rfl) req
    (henOf hen s).dma
  have ho : (henOf hen s).dma.find? (fun q => q.id == req) = some old := ho
  rw [if_pos hr.symm, ho] at hf
  rw [henReq, henOf_sentReq]
  exact hf

theorem answerHen_eq (h : henReq hen req s = some r) (st : Status) (data : List Byte) :
    ∃ o, answerHen hen req st data s = { setHen hen (answeredHen req r st data (henOf hen s)) s with out := o } := by
  have h : (henOf hen s).dma.find? (fun q => q.id == req) = some r := h
  unfold answerHen
  simp only [h]
  unfold onlyIf
  split <;> exact ⟨_, rfl⟩

theorem henOf_answerHen (h : henReq hen req s = some r) (st : Status) (data : List Byte) :
    henOf hen (answerHen hen req st data s) = answeredHen req r st data (henOf hen s) := by
  obtain ⟨o, ho⟩ := answerHen_eq h st data
  exact (henOf_congr (congrArg (fun u : State => u.hens.hens) ho) hen).trans (henOf_setHen_self ..)

theorem henReq_answerHen (h : henReq hen req s = some r) (st : Status) (data : List Byte) :
    henReq hen req (answerHen hen req st data s) =
      some { r with res := some st, data := if r.write then r.data else data } := by
  have hd : (henOf hen s).dma.find? (fun q => q.id == req) = some r := h
  have hf := find?_update DmaReq.id (k := req)
    (f := fun q => { q with res := some st, data := if r.write then r.data else data }) (fun _ hq => hq) req (henOf hen s).dma
  rw [if_pos rfl, hd] at hf
  rw [henReq, henOf_answerHen h]
  exact hf

theorem answerHen_memory (h : henReq hen req s = some r) (st : Status) (data : List Byte) :
    (answerHen hen req st data s).mem = s.mem ∧ (answerHen hen req st data s).txn.batches = s.txn.batches := by
  obtain ⟨o, ho⟩ := answerHen_eq h st data
  rw [ho]
  exact ⟨rfl, rfl⟩

end

/-! ### A hen's request, from the hen to its answer -/

/-- The next request of a hen toward its node has room at its home, may be made, and meets nothing that holds it. -/
structure Asks (hen req : Nat) (r old : DmaReq) (a : Asker) (m : MemErr) (g : Grant) (s : State) : Prop where
  next : nextSent hen req s = some (r, a)
  held : henReq hen req s = some old
  room : ((henOf hen s).dma.filter (fun q => q.issued)).length < dmaOpen
  home : homeFull (homeOf a.job r.pool s) s = false
  granted : checkItem a.job a.member a.partner r.pool r.write s = .ok g
  region : regionOfExt g.ext s = none
  alone : s.txn.txs = []
  serves : Serves g.ext (g.off / crateBytes) r.write s
  fixed : ∀ i, m.bad.testBit i = false
  copies : m.copies = 0
  tables : s.tiers.metaBad = []
  bytes : 0 < r.bytes
  crate : g.off % crateBytes + r.bytes ≤ crateBytes

section

variable {s : State} {hen req : Nat} {r old : DmaReq} {a : Asker} {m : MemErr} {g : Grant} {d : List (Option Byte)}
  {dat : Part → List Byte} {I : List Part → State → Prop}

theorem extOff_lt (e : Extent) (addr : Nat) : extOff e addr < 2 ^ 52 := by
  have h : fvaGran addr < 2 ^ 24 := by
    unfold fvaGran fld
    exact Nat.mod_lt _ (by decide)
  unfold extOff fvaLow granBytes
  omega

theorem checks25_off {job member partner addr : Nat} {w : Bool} (h : checks25 job member partner addr w s = .ok g) :
    g.off < 2 ^ 52 := by
  unfold checks25 at h
  split at h
  · exact nomatch h
  split at h
  · exact nomatch h
  split at h
  · exact nomatch h
  extract_lets member' at h
  split at h
  · exact nomatch h
  split at h
  · exact nomatch h
  · obtain rfl := Except.ok.inj h
    exact extOff_lt ..

theorem checkItem_off {job member partner addr : Nat} {w : Bool} (h : checkItem job member partner addr w s = .ok g) :
    g.off < 2 ^ 52 := by
  unfold checkItem at h
  split at h
  · exact nomatch h
  split at h
  · exact nomatch h
  split at h
  · exact nomatch h
  · exact checks25_off h

theorem isChange_ofReq (r : DmaReq) : isChange (.ofReq r) = r.write := by
  unfold TxKind.ofReq
  split
  next h => exact h.symm
  next h => exact (Bool.not_eq_true _ ▸ h : r.write = false).symm

theorem reqArrived_stands (hen req : Nat) (r : DmaReq) (a : Asker) (g : Grant) (s : State) :
    HomeStands s (reqArrived hen req r a g s) ∧
      (reqArrived hen req r a g s).hens.hens = (sentReq hen req r s).hens.hens ∧
      (reqArrived hen req r a g s).txn = s.txn ∧ (reqArrived hen req r a g s).vers = s.vers := by
  obtain ⟨l, is, x, e, c, h⟩ := reqArrived_eq hen req r a g s
  rw [h]
  exact ⟨.ofUnits rfl rfl rfl rfl rfl rfl rfl rfl, rfl, rfl, rfl⟩

theorem Asks.served (h : Asks hen req r old a m g s) (h6 : check6 g (.ofReq r) false s = none)
    (hd : TxKind.ofReq r = .read ∧ d = [] ∨ ∃ m, TxKind.ofReq r = .write m d)
    (hI : ∀ ps s u, u.mem = s.mem → u.txn.batches = s.txn.batches → I ps s → I ps u)
    (he : ∀ t : Tx, t.src = .hen hen → t.kind = .ofReq r → LineRule g.ext (g.off / crateBytes) r.write t dat I)
    (h₀ : I [] s) :
    ∃ v, issueReq hen req m s = answerHen hen req .done ((partsOf g.ext 0 g.off r.bytes d).flatMap dat) v ∧
      v.hens.hens = (sentReq hen req r s).hens.hens ∧ I (partsOf g.ext 0 g.off r.bytes d) v := by
  obtain ⟨hs, hh, hx, hv⟩ := reqArrived_stands hen req r a g s
  let u := reqArrived hen req r a g s
  have hw : isChange (henTx hen req r a g u).kind = r.write := isChange_ofReq r
  obtain ⟨v, hv, hvh, hvI⟩ := startAccess_served (s := u) (t := henTx hen req r a g u) (g := g) (d := d) (dat := dat) (I := I)
    (m := m) ⟨rfl, rfl, rfl, rfl, rfl, rfl⟩ hd hI (fun id ps => hw ▸ he _ rfl rfl) (hw ▸ h.serves.stands hs)
    (hI _ s _ hs.mem (congrArg Txn.batches hx) h₀) ((congrArg Txn.txs hx).trans h.alone) none h.bytes
    (checkItem_off h.granted) h.crate (by rw [regionOfExt, hv]; exact h.region) h.fixed h.copies (hs.metaBad.trans h.tables)
  exact ⟨v, issueReq_starts h.next h.room h.home h.granted h.region h6 hv, hvh.trans hh, hvI⟩

/-- What the hen has once its request is answered. -/
theorem Asks.answered {v : State} {data : List Byte} (h : Asks hen req r old a m g s)
    (hv : v.hens.hens = (sentReq hen req r s).hens.hens) :
    (henOf hen (answerHen hen req .done data v)).answers = (henOf hen s).answers ++ [(r.node, req)] ∧
    henReq hen req (answerHen hen req .done data v) =
      some { r with issued := true, res := some .done, data := if r.write then r.data else data } ∧
    (answerHen hen req .done data v).mem = v.mem ∧ (answerHen hen req .done data v).txn.batches = v.txn.batches := by
  have hr : henReq hen req v = some { r with issued := true } :=
    (henReq_congr hv hen req).trans (henReq_sentReq (nextSent_id h.next) h.held)
  refine ⟨?_, henReq_answerHen hr .done data, answerHen_memory hr .done data⟩
  rw [henOf_answerHen hr, henOf_congr hv, henOf_sentReq]
  rfl

/-- A hen's read of memory is answered with its bytes. -/
theorem Asks.reads (h : Asks hen req r old a m g s) (hw : r.write = false) (h6 : check6 g .read false s = none) :
    (henOf hen (issueReq hen req m s)).answers = (henOf hen s).answers ++ [(r.node, req)] ∧
    henReq hen req (issueReq hen req m s) = some
      { r with issued := true, res := some .done, data := (List.range r.bytes).map (fun i => extByte g.ext (g.off + i) s) } := by
  have hk : TxKind.ofReq r = .read := if_neg (by simp [hw])
  obtain ⟨v, hv, hvh, -⟩ := h.served (hk ▸ h6) (.inl ⟨hk, rfl⟩)
    (fun _ _ _ hm hb hI => ⟨hm.trans hI.1, hb.trans hI.2⟩) (fun t ht hkt => lineRule_read s ht (hkt.trans hk)) ⟨rfl, rfl⟩
  rw [partsOf_read h.bytes] at hv
  obtain ⟨ha, hq, -⟩ := h.answered (data := (List.range r.bytes).map (fun i => extByte g.ext (g.off + i) s)) hvh
  rw [hv]
  exact ⟨ha, by simpa [hw] using hq⟩

/-- The bytes of a hen's write stand in memory, and it is answered. -/
theorem Asks.writes (h : Asks hen req r old a m g s) (hw : r.write = true)
    (h6 : check6 g (.write false (r.data.map some)) false s = none) (hl : r.data.length = r.bytes) :
    (henOf hen (issueReq hen req m s)).answers = (henOf hen s).answers ++ [(r.node, req)] ∧
    henReq hen req (issueReq hen req m s) = some { r with issued := true, res := some .done } ∧
    ∀ i, i < r.bytes → some (extByte g.ext (g.off + i) (issueReq hen req m s)) = r.data[i]? := by
  have hk : TxKind.ofReq r = .write false (r.data.map some) := if_pos hw
  obtain ⟨v, hv, hvh, hvI⟩ := h.served (hk ▸ h6) (.inr ⟨false, hk⟩) (I := BytesStand) (fun _ _ _ => BytesStand.congr)
    (fun t _ hkt => lineRule_write (hkt.trans hk)) (fun _ hp => absurd hp List.not_mem_nil)
  rw [hv]
  obtain ⟨ha, hq, hm, hb⟩ := h.answered (data := (partsOf g.ext 0 g.off r.bytes (r.data.map some)).flatMap fun _ => []) hvh
  rw [if_pos hw] at hq
  refine ⟨ha, hq, fun i hi => ?_⟩
  obtain ⟨p, hp, j, hpl, hpo, hpd⟩ := partsOf_byte (ext := g.ext) (off := g.off) (d := r.data.map some) h.bytes hi
  have hx : r.data[i]? = some (r.data[i]'(hl ▸ hi)) := List.getElem?_eq_getElem _
  have hb' := hvI p hp j (r.data[i]'(hl ▸ hi)) (by rw [hpd, List.getElem?_map, hx]; rfl)
  rw [hx, extByte, ← hpl, ← hpo, lineByte_congr hm hb, hb']

end

/-- Settles O40: the request's lines meet nothing that holds them and are executed one after another; a read collects their
bytes, a write's bytes stand in their batches, and the home answers the hen. -/
theorem henMemoryRequestsComplete : Obligations.HenMemoryRequestsComplete := by
  intro s hen req r old a m g hn hold hroom hhome hc hr hx ht hwin hent _ hj hcp hmb hi hq hb hcr
  have h : Asks hen req r old a m g s :=
    { next := hn, held := hold, room := hroom, home := hhome, granted := hc, region := hr, alone := hx
      serves := { windows := hwin, ents := hent, ready := ht, unmirrored := hj, unpoisoned := fun l => (hi 0 l).1,
                  sound := fun l => (hi 0 l).2.1, noQcb := hq }
      fixed := fun i => (hi i 0).2.2, copies := hcp, tables := hmb, bytes := hb, crate := hcr }
  exact ⟨fun hw h6 => ⟨_, rfl, h.reads hw h6⟩, fun hw h6 hl => ⟨_, rfl, h.writes hw h6 hl⟩⟩

end Sys2Proof.Machine

/-!
## QUEUE_CMD, JOB_HENS and COLL_CMD as they are written (R179 to R181, R188, R198, R199, R242)
-/
namespace Sys2Proof.Machine

section

variable {s u : State} {v : Nat} {q : Queue} {k : Coll}

/-! ### QUEUE_CMD (Table 6.1, Table 6.3) -/

theorem qcOp_setFld (v : Nat) {op : Nat} (h : op < 256) : qcOp (setFld v 255 248 op) = op := ecOp_setFld v h

/-- QUEUE_RESULT after a queue command that is DONE. -/
def queueResult (v : Nat) (s : State) : State :=
  rset kQueueResult (pack [(statusCode .done, 56), (qcSeq v, 48), (qcQueue v, 0)]) s

theorem commitQueue_done (h : runQueueCmd v s = (.done, u)) : commitQueue v s = (.done, queueResult v u) := by
  simp only [commitQueue, h, queueResult]

theorem runQueueCmd_create (ho : qcOp v = 1) (hc : queueCreateOk v s = true) :
    runQueueCmd v s = (.done, queueCreate v s) := by
  simp [runQueueCmd, ho, hc]

theorem runQueueCmd_destroy (ho : qcOp v = 2) (hq : queueOf (qcQueue v) s = some q) (hd : q.st ≠ .draining) :
    runQueueCmd v s = (.done, queueDestroy (qcQueue v) s) := by
  simp [runQueueCmd, ho, hq, hd]

theorem runQueueCmd_restart (ho : qcOp v = 3) (hq : queueOf (qcQueue v) s = some q) (hd : q.st ≠ .draining)
    (ha : q.st ≠ .active) : runQueueCmd v s = (.done, queueTo (qcQueue v) .active s) := by
  simp [runQueueCmd, ho, hq, hd, ha]

theorem runQueueCmd_cancelAll (ho : qcOp v = 4) (hq : queueOf (qcQueue v) s = some q) (hd : q.st ≠ .draining) :
    runQueueCmd v s = (.done, cancelQueue (qcQueue v) true 0 s) := by
  simp [runQueueCmd, ho, hq, hd]

theorem runQueueCmd_setPriority (ho : qcOp v = 5) (hq : queueOf (qcQueue v) s = some q) (hd : q.st ≠ .draining) :
    runQueueCmd v s = (.done, setQueue (qcQueue v) { q with prio := qcPrio v } s) := by
  simp [runQueueCmd, ho, hq, hd]

/-! ### JOB_HENS (Table 6.10) and COLL_CMD (Table 8.2) -/

/-- A job's new record, and the hens whose slivers it lets finish (R199). -/
def jobHensTaken (v : Nat) (s : State) : State :=
  let u := modJob (fld v 127 112) (fun j => { j with hens := henRecord v }) s
  { u with work := { u.work with drains := u.work.drains.filter (fun d => d.1 != fld v 127 112) ++
      [(fld v 127 112, henDrain (fld v 127 112) (henRecord v) u)] } }

theorem commitJobHens_done (h : jobHensStatus v s = .done) :
    commitJobHens v s = (.done, post16 kJobHensResult .done (jobHensTaken v s)) := by
  simp only [commitJobHens, h]
  rfl

theorem collOp_setFld (v : Nat) {op : Nat} (h : op < 256) : fld (setFld v 511 504 op) 511 504 = op := ownedOp_setFld v h

theorem commitColl_done (h : runCollCmd v s = (.done, u)) : commitColl v s = (.done, collResult .done v u) := by
  simp only [commitColl, h]

/-- The collective that a CREATE makes. -/
def newColl (v : Nat) : Coll :=
  { job := fld v 479 464, peers := fld v 463 448, members := v % 2 ^ 256, next := 0, openR := none, pending := [],
    excluded := 0, removed := 0, waitFrom := none }

theorem runCollCmd_create (ho : fld v 511 504 = 1) (hc : collCreateOk v s = true) :
    runCollCmd v s = (.done, setColl (fld v 495 484) (newColl v) s) := by
  simp only [runCollCmd, ho, hc, if_true]
  rfl

theorem runCollCmd_destroy (ho : fld v 511 504 = 2) (hk : collOf (fld v 495 484) s = some k) (hr : k.openR = none)
    (hp : k.pending = []) :
    runCollCmd v s = (.done, { s with eng := { s.eng with colls := tdel s.eng.colls (fld v 495 484) } }) := by
  simp [runCollCmd, ho, hk, hr, hp]

end

/-- Settles O12: each object's commit is its command's own branch, and the state that has heard the request meets the
command's conditions as before. -/
theorem queueAndCollectiveWritesTakeEffect : Obligations.QueueAndCollectiveWritesTakeEffect := by
  unfold Obligations.QueueAndCollectiveWritesTakeEffect
  intro rq x s v q k t w res c
  have op (n : Nat) (h : n < 256) : qcOp (w n) = n := qcOp_setFld v h
  have cop (n : Nat) (h : n < 256) : fld (c n) 511 504 = n := collOp_setFld v h
  refine ⟨fun hw hc => ?_, fun hw hq hd => ?_, fun hw hq hd ha => ?_, fun hw hq hd => ?_, fun hw hq hd => ?_,
    fun hw hs => ?_, fun hw hc => ?_, fun hw hk hr hp => ?_⟩
  · exact writeRow_takes hw rfl (by decide) (commitQueue_done (runQueueCmd_create (s := t) (op 1 (by decide)) hc))
  · exact writeRow_takes hw rfl (by decide) (commitQueue_done (runQueueCmd_destroy (s := t) (op 2 (by decide)) hq hd))
  · exact writeRow_takes hw rfl (by decide) (commitQueue_done (runQueueCmd_restart (s := t) (op 3 (by decide)) hq hd ha))
  · exact writeRow_takes hw rfl (by decide) (commitQueue_done (runQueueCmd_cancelAll (s := t) (op 4 (by decide)) hq hd))
  · exact writeRow_takes hw rfl (by decide)
      (commitQueue_done (runQueueCmd_setPriority (s := t) (op 5 (by decide)) hq hd))
  · exact writeRow_takes hw rfl (by decide) (commitJobHens_done (s := t) hs)
  · exact writeRow_takes hw rfl (by decide) (commitColl_done (runCollCmd_create (s := t) (cop 1 (by decide)) hc))
  · exact writeRow_takes hw rfl (by decide) (commitColl_done (runCollCmd_destroy (s := t) (cop 2 (by decide)) hk hr hp))

end Sys2Proof.Machine

/-!
## Descriptors admitted and refused (R186, R189, R193, R194)
-/
namespace Sys2Proof.Machine

section

variable {s : State} {d : Desc} {q oc key : Nat} {sub : Nat → Bool} {adm : Desc → State → Adm} {a : Adm}
  {post : Nat → State → State} {st : Status}

theorem nextDesc_queue (h : nextDesc q s = some d) : d.q = q := by
  unfold nextDesc at h
  split at h
  · exact nomatch h
  extract_lets c at h
  split at h
  · exact nomatch h
  split at h
  · rw [← Option.some.inj h]
  · exact nomatch h

/-! ### Admission (Table 6.7) -/

theorem admitDesc_admits (hl : d.qu.late = false) (ha : admitStatus d a s = none) :
    admitDesc d a s = (some s.work.nextItem, admitted d (newItem d a s) s) := by
  simp only [admitDesc, hl, ha]
  rfl

/-- A refused descriptor: CONSUMER passes it, and its refusal is counted and recorded (R193). -/
def refusedDesc (d : Desc) (st : Status) (key : Nat) (s : State) : State :=
  notePause d.q (refuseDesc d st (countCheck key (consumed d s)))

theorem admitDesc_refuses (hl : d.qu.late = false) (ha : admitStatus d a s = some (st, key)) :
    admitDesc d a s = (none, refusedDesc d st key s) := by
  simp only [admitDesc, hl, ha]
  rfl

theorem admitDesc_late (hl : d.qu.late = true) : admitDesc d a s = (none, lateDesc d s) := by
  simp only [admitDesc, hl, if_true]

/-- What follows admission: the opcode's own part for an item that stands. -/
def afterAdmission (post : Nat → State → State) (r : Option Nat × State) : State :=
  match r.1 with
  | some i => post i r.2
  | none => r.2

/-- A command loads the descriptor of its opcode and operation that its queue has next. -/
theorem loadRow_loads (hn : nextDesc q s = some d) (ho : dOpcode d = oc) (hs : sub (dBody d) = true) :
    loadRow oc sub adm post q s = .next (settle (afterAdmission post (admitDesc d (adm d s) s))) := by
  have hd : (!(descIs d oc && (dOpcode d != oc || sub (dBody d)))) = false := by simp [descIs, ho, hs]
  simp only [loadRow, hn, hd]
  rcases admitDesc d (adm d s) s with ⟨_ | i, t⟩
  · rfl
  · rfl

theorem loadRow_admits (hn : nextDesc q s = some d) (hl : d.qu.late = false) (ho : dOpcode d = oc)
    (hs : sub (dBody d) = true) (ha : admitStatus d (adm d s) s = none) :
    loadRow oc sub adm post q s = .next (settle (post s.work.nextItem (admitted d (newItem d (adm d s) s) s))) := by
  rw [loadRow_loads hn ho hs, admitDesc_admits hl ha]
  rfl

theorem loadRow_refuses (hn : nextDesc q s = some d) (hl : d.qu.late = false) (ho : dOpcode d = oc)
    (hs : sub (dBody d) = true) (ha : admitStatus d (adm d s) s = some (st, key)) :
    loadRow oc sub adm post q s = .next (settle (refusedDesc d st key s)) := by
  rw [loadRow_loads hn ho hs, admitDesc_refuses hl ha]
  rfl

theorem execCancel_cancel (hn : nextDesc q s = some d) (ho : dOpcode d = ocCancel) :
    execCancel q s = .next (settle (runCancel d s)) := by
  simp [execCancel, hn, descIs, ho]

theorem runCancel_refuses (hl : d.qu.late = false) (ha : admitStatus d (cancelAdm d) s = some (st, key)) :
    runCancel d s = refusedDesc d st key s := by
  simp only [runCancel, hl, ha]
  rfl

theorem admitStatus_header (h : dHeaderOk d = false) : admitStatus d a s = some (.refusedFormat, 0) := by
  simp [admitStatus, h]

theorem admitStatus_body (h : a.bodyOk = false) : admitStatus d a s = some (.refusedFormat, 0) := by
  simp [admitStatus, h]

end

/-- Settles O28: a row's opcode and operation are the descriptor's, so the row loads it, and what passes the checks is
admitted. -/
theorem descriptorsAreAdmitted : Obligations.DescriptorsAreAdmitted := by
  unfold Obligations.DescriptorsAreAdmitted
  intro q d s hn hl row
  have admits {c oc sub adm post} (hc : exec c s = loadRow oc sub adm post q s) : row c oc sub (adm d s) post :=
    fun ho hs ha => hc.trans (loadRow_admits hn hl ho hs ha)
  have gathers {c oc sub post} (hc : exec c s = loadRow oc sub (fun d _ => gatherAdm d) post q s) :
      row c oc sub (gatherAdm d) post := admits hc
  exact ⟨admits rfl, admits rfl, admits rfl, admits rfl, admits rfl, admits rfl, admits rfl, admits rfl, admits rfl,
    admits rfl, admits rfl, admits rfl, admits rfl, gathers rfl, gathers rfl, admits rfl, admits rfl, admits rfl,
    admits rfl, admits rfl, admits rfl, admits rfl, admits rfl, admits rfl, admits rfl, admits rfl, admits rfl,
    admits rfl, admits rfl, admits rfl, admits rfl, fun ho _ => execCancel_cancel hn ho⟩

/-- Settles O30: NOP and RUN load the descriptor and admission refuses it, CANCEL refuses it itself; the format is the first
check. -/
theorem descriptorsAreRefused : Obligations.DescriptorsAreRefused := by
  unfold Obligations.DescriptorsAreRefused
  intro q d s st key hn hl u
  have hq : d.q = q := nextDesc_queue hn
  have hu : refusedDesc d st key s = notePause q (refuseDesc d st (countCheck key (consumed d s))) := by
    rw [refusedDesc, hq]
  refine ⟨fun ho ha => ?_, fun ho ha => ?_, fun ho ha => ?_, fun h a => admitStatus_header h,
    fun a _ h => admitStatus_body h, hq⟩
  · exact (loadRow_refuses hn hl ho rfl ha).trans (next_settle_congr hu)
  · exact (loadRow_refuses hn hl ho rfl ha).trans (next_settle_congr hu)
  · exact (execCancel_cancel hn ho).trans (next_settle_congr ((runCancel_refuses hl ha).trans hu))

end Sys2Proof.Machine

/-!
## Completion records (R195, R608)
-/
namespace Sys2Proof.Machine

section

variable {s : State} {q slot p key : Nat} {y : Queue} {r : CRec} {j : Job} {g : Grant} {st : Status}

/-- A record goes to the slot that COMPLETED names when its member may write there and its line is neither poisoned, cached
nor away. -/
theorem applyRec_writes (hq : queueOf q s = some y) (hr : s.work.records.find? (fun r => r.queue == q) = some r)
    (hj : jobOf y.job s = some (slot, j)) (hp : partnerOf j y.member = some p)
    (hc : checks25 y.job y.member p (compAddr y (qcbGet y offCompleted s)) true s = .ok g)
    (hs : poisoned (lineKey g.ext 0 (g.off / 128)) (meetLine (lineKey g.ext 0 (g.off / 128)) s) = false)
    (he : entOf (lineKey g.ext 0 (g.off / 128)) s = none)
    (hw : tierWait (lkCrate (lineKey g.ext 0 (g.off / 128))) true s = .none) :
    applyRec q s =
      let n := qcbGet y offCompleted s
      qcbPut y offCompleted 4 ((n + 1) % 2 ^ 32)
        (ownPut (lineKey g.ext 0 (g.off / 128)) (compAddr y n % 128)
          ((bytesOf 32 (recBits r (decide (n / 2 ^ y.log2 % 2 = 0)))).map some)
          { s with work := { s.work with records := s.work.records.erase r } }) := by
  simp [applyRec, hq, hr, hj, hp, hc, hs, he, hw]

/-- The record of a descriptor that could not be read. -/
def unreadRec (q c : Nat) (st : Status) : CRec :=
  { queue := q, status := st, opcode := 0, cause := 0, limit := false, tag := 0, index := c, pre := 0, doneN := 0,
    total := 0, detail := 0, stopOnFault := true }

theorem loading_active (hl : y.loadTo = some p) (ha : y.st = .active) (hc : qcbGet y offConsumer s ≠ p)
    (hp : y.paused = false) (hw : loadPaused y s = false) : loading y s = true := by
  simp [loading, hl, ha, hc, hp, hw]

theorem descReadFail_unread (hq : queueOf q s = some y) (hl : loading y s = true)
    (hr : queueRead y (descAddr y (qcbGet y offConsumer s)) 128 s = .error (st, key)) :
    descReadFail q s =
      let c := qcbGet y offConsumer s
      let v := countCheck key (consumed { q := q, qu := y, index := c, bits := 0 } s)
      stopOnFault (unreadRec q c st) v.work.nextItem (pushRec (unreadRec q c st) v) := by
  simp only [descReadFail, hq, hl, hr]
  rfl

end

/-- Settles O32: the record meets nothing that keeps it from its slot; a descriptor's failed read passes it with a record of
its own; a late descriptor is not admitted. -/
theorem completionRecordsAreWritten : Obligations.CompletionRecordsAreWritten := by
  unfold Obligations.CompletionRecordsAreWritten
  intro s q slot p y r j g st key hq
  refine ⟨fun hr hj hp hc hs he hw => ?_, fun _ hl ha hn hp hw hr => ?_, fun d hn hl ho => ?_⟩
  · exact next_settle_congr (applyRec_writes hq hr hj hp hc hs he hw)
  · exact next_settle_congr (descReadFail_unread hq (loading_active hl ha hn hp hw) hr)
  · refine (loadRow_loads (adm := nopAdm) (post := noPost) hn ho rfl).trans ?_
    rw [admitDesc_late hl]
    rfl

end Sys2Proof.Machine

/-!
## Events of queues, slivers and gangs, and the time limits (R187, R199, R201 to R203, R206, R207, R210, R237)
-/
namespace Sys2Proof.Machine

/-! ### Hens and items -/

section

variable {s : State} {i : Nat} {x : Item} {st : Status}

theorem henOf_modHen (h g : Nat) (f : Hen → Hen) (s : State) :
    henOf g (modHen h f s) = if h = g then f (henOf h s) else henOf g s := henOf_setHen ..

theorem itemOf_modHen (i h : Nat) (f : Hen → Hen) (s : State) : itemOf i (modHen h f s) = itemOf i s := rfl

theorem modItem_hens (i : Nat) (f : Item → Item) (s : State) : (modItem i f s).hens = s.hens := by
  obtain ⟨is, hs⟩ := modItem_eq i f s
  rw [hs]

theorem henOf_modItem (h i : Nat) (f : Item → Item) (s : State) : henOf h (modItem i f s) = henOf h s :=
  henOf_congr (congrArg (·.hens) (modItem_hens i f s)) h

theorem modItem_now (i : Nat) (f : Item → Item) (s : State) : (modItem i f s).now = s.now := by
  obtain ⟨is, hs⟩ := modItem_eq i f s
  rw [hs]

theorem itemOf_modItem_self {f : Item → Item} (hx : itemOf i s = some x) : itemOf i (modItem i f s) = some (f x) := by
  rw [itemOf_modItem, if_pos rfl, hx]
  rfl

/-- An item after a cause to stop it: what has stopped it before, or the end of its slivers, stands (R197, R205). -/
def stoppedItem (st : Status) (x : Item) : Item :=
  if x.stop.isSome || (decide (0 < x.total) && allEnded x) then x else { x with stop := some st }

theorem stopItem_eq (i : Nat) (st : Status) (s : State) : stopItem i st s = modItem i (stoppedItem st) s := rfl

theorem stoppedItem_of_open (hs : x.stop = none) (he : ¬ (0 < x.total ∧ allEnded x = true)) :
    stoppedItem st x = { x with stop := some st } := by
  have he : (decide (0 < x.total) && allEnded x) = false := by simpa using he
  simp [stoppedItem, hs, he]

end

/-! ### Queues and JOB_HENS (R187, R199) -/

section

variable {s : State} {q job : Nat} {y : Queue}

theorem resumeLoading_resumes (hq : queueOf q s = some y) (hp : y.paused = true) (hl : loadPaused y s = false) :
    resumeLoading q s = setQueue q { y with paused := false } s := by
  simp [resumeLoading, hq, hp, hl]

theorem settleDrains_of_empty (h : ∀ d ∈ s.work.drains, d.2 = []) : settleDrains s = s := by
  have hm : s.work.drains.map (fun d => (d.1, d.2.filter (fun h => henBusy (henOf h s)))) = s.work.drains :=
    (List.map_congr_left fun d hd => by rw [h d hd]; exact Prod.ext rfl (h d hd).symm).trans (List.map_id' _)
  rw [settleDrains, hm]

theorem hensDrained_last (h : s.work.drains = [(job, [])]) :
    hensDrained job s = raise 0x6140 0x01 2 job { s with work := { s.work with drains := [] } } := by
  simp [hensDrained, settleDrains_of_empty (s := s) (by simp [h]), h]

end

/-! ### An idle hen is assigned a sliver (R201, R202) -/

section

variable {s : State} {l p h : Nat} {k : Cand1} {x : Item}

/-- The larder notes the queue that it takes a sliver of, and a stolen sliver is counted. -/
def queueTaken (l p : Nat) (k : Cand1) (s : State) : State :=
  onlyIf (p == 3) (bump kSliversStolen) (setLast l k.prio k.queue s)

theorem queueTaken_hens (l p : Nat) (k : Cand1) (s : State) : (queueTaken l p k s).hens.hens = s.hens.hens := by
  unfold queueTaken onlyIf
  split <;> rfl

theorem itemOf_queueTaken (i l p : Nat) (k : Cand1) (s : State) : itemOf i (queueTaken l p k s) = itemOf i s := by
  unfold queueTaken onlyIf
  split <;> rfl

/-- A hen that a sliver of no gang is assigned to. -/
def assignedTo (x : Item) (k : Cand1) (t : Nat) (y : Hen) : Hen :=
  { y with st := .assigned, job := x.job, item := k.item, sliver := k.sliver, rank := 0, nranks := 0, startAt := t }

theorem assignOne_assigns (hn : nextSliver l s = some (p, k)) (hh : pickHen l k.item k.job s = some h)
    (hx : itemOf k.item s = some x) (hg : isGang x = false) :
    assignOne l s = modItem k.item (fun x => { x with running := x.running ++ [k.sliver] })
      (modHen h (assignedTo x k (queueTaken l p k s).now) (queueTaken l p k s)) := by
  have hx : itemOf k.item (queueTaken l p k s) = some x := (itemOf_queueTaken ..).trans hx
  unfold queueTaken at hx
  simp only [assignOne, hn, hh, hx, hg]
  rfl

end

/-! ### An assigned sliver of a built-in opcode starts (R147, R208) -/

section

variable {s : State} {hen : Nat} {x : Item}

theorem zeroFor_job (job : Nat) (y : Hen) : (zeroFor job y).job = y.job := by
  unfold zeroFor
  split <;> rfl

theorem startSliver_builtIn (hx : itemOf (henOf hen s).item s = some x) (hs : x.stop = none) (ho : x.opcode ≠ ocRun) :
    startSliver hen s = startHen hen (henOf hen s).item x
      (modHen hen (fun y => { y with lastJob := some y.job }) (modHen hen (zeroFor (henOf hen s).job) s)) := by
  simp [startSliver, hx, hs, ho]

/-- The hen of a sliver that starts. -/
def startedHen (x : Item) (t : Nat) (y : Hen) : Hen :=
  { (if x.opcode = ocRun then armRun x y else y) with
    st := .running, startAt := t, instret := 0, dma := [], cbWait := none }

theorem startHen_eq (h i : Nat) (x : Item) (s : State) :
    startHen h i x s = modHen h (startedHen x s.now) (modItem i (fun x => { x with started := true }) s) := by
  rw [← modItem_now i (fun x => { x with started := true }) s]
  rfl

theorem henOf_startHen (g h i : Nat) (x : Item) (s : State) :
    henOf g (startHen h i x s) = if h = g then startedHen x s.now (henOf h s) else henOf g s := by
  rw [startHen_eq, henOf_modHen, henOf_modItem, henOf_modItem]

theorem itemOf_startHen {i : Nat} {y : Item} (hy : itemOf i s = some y) (h : Nat) (x : Item) :
    itemOf i (startHen h i x s) = some { y with started := true } := by
  rw [startHen_eq, itemOf_modHen, itemOf_modItem_self hy]

end

/-! ### A gang starts together (R210) -/

section

variable {s u : State} {i t : Nat} {hs : List Nat} {x : Item}

theorem gang_startHen (h i : Nat) (x : Item) (s : State) : (startHen h i x s).hens.gang = s.hens.gang := by
  rw [startHen_eq]
  exact congrArg (·.gang) (modItem_hens ..)

theorem gang_each_startHen (i : Nat) (x : Item) (hs : List Nat) (s : State) :
    (each hs (fun h s => startHen h i x s) s).hens.gang = s.hens.gang :=
  each_induct (P := fun t => t.hens.gang = s.hens.gang) (fun h t ht => (gang_startHen h i x t).trans ht) hs s rfl

/-- A hen that runs keeps running as others start. -/
theorem running_each_startHen (i : Nat) (x : Item) {n : Nat} (hs : List Nat) (s : State)
    (hn : n ∈ hs ∨ (henOf n s).st = .running) :
    (henOf n (each hs (fun h s => startHen h i x s) s)).st = .running := by
  induction hs generalizing s with
  | nil => exact hn.resolve_left List.not_mem_nil
  | cons h hs ih =>
    refine ih _ ?_
    rw [henOf_startHen]
    by_cases he : h = n
    · exact .inr (by rw [if_pos he]; rfl)
    · rw [if_neg he]
      exact hn.imp_left fun hm => (List.mem_cons.mp hm).resolve_left (Ne.symm he)

/-- A gang's hens as its images are loaded: those of another job are zeroed (R147). -/
def gangHens (hs : List Nat) (s : State) : State :=
  each hs (fun h s => modHen h (fun y => { zeroFor y.job y with lastJob := some y.job }) s) s

/-- Microseconds that a gang's hens have waited for the last of them (GANG_WAIT). -/
def gangWaited (hs : List Nat) (u : State) : Nat := lsum (hs.map (fun h => (u.now - (henOf h u).startAt) / nsUs))

/-- The gang is no longer forming: what its hens waited is counted, and a sliver of each rank runs. -/
def gangFormed (i : Nat) (hs : List Nat) (u : State) : State :=
  modItem i (fun x => { x with running := List.range hs.length })
    (bumpN kGangWait (gangWaited hs u) { u with hens := { u.hens with gang := none } })

theorem gangFormed_gang (i : Nat) (hs : List Nat) (u : State) : (gangFormed i hs u).hens.gang = none :=
  congrArg (·.gang) (modItem_hens ..)

theorem gangStart_loaded (hg : s.hens.gang = some (i, hs, t)) (hx : itemOf i s = some x)
    (hn : hs.length = rRanks x.body) (hp : x.stop = none)
    (hl : slRun (.home i) i (loadGang i x hs) (gangHens hs s) = (.ok (), u)) :
    gangStart i s = each hs (fun h s => startHen h i x s) (gangFormed i hs u) := by
  unfold gangHens at hl
  simp [gangStart, hg, hx, hn, hp, hl, gangFormed, gangWaited]

end

/-! ### Background recoding (R237) and the time limits (R206, R207) -/

section

variable {s : State} {hen item sl : Nat} {b : Nat × Nat × Nat} {rest : List (Nat × Nat × Nat)} {e : Extent} {j : Job}
  {x : Item}

theorem backgroundRecode_recodes (hq : s.coding.recodeQ = b :: rest) (he : extOf b.1 s = some e)
    (hj : jobOf e.job s = some (sl, j)) (hl : j.hens.larders.testBit (henLarder hen) = true)
    (hs : henServes hen s = true) (hi : (henOf hen s).st = .idle) (hn : nextSliver (henLarder hen) s = none) :
    backgroundRecode hen s = recodeBlock b s := by
  simp [backgroundRecode, hq, he, hj, hl, hs, hi, hn]

theorem timeLimit_stops (hx : itemOf item s = some x) (hl : x.limitUs ≠ 0) (hs : x.stop = none)
    (he : ¬ (0 < x.total ∧ allEnded x = true)) :
    timeLimit item s = modItem item (fun x => { x with limit := true })
      (stopItem item .cancelled (timeTo (x.at_ + x.limitUs * nsUs) s)) := by
  have he : (decide (0 < x.total) && allEnded x) = false := by simpa using he
  simp [timeLimit, hx, hl, hs, he]

end

/-- Settles O31: each event's condition chooses its branch; what an assignment, a start or a limit leaves is read hen by hen
and item by item. -/
theorem queueEventsAndLimitsComplete : Obligations.QueueEventsAndLimitsComplete := by
  unfold Obligations.QueueEventsAndLimitsComplete
  refine ⟨fun s q larder hen item job p h sl k x y b rest e j => ⟨fun hq hp hl => ?resume, fun hn hh hx hg => ?assign,
    fun ha hx hs ho => ?start, fun hi hx hr hs => ?gang, fun hd => ?drain, fun hq he hj hl hs hi hn => ?recode⟩,
    fun s item hen x => ⟨fun hx hl hs he => ?limit, fun hr => ?sliverLimit⟩⟩
  case resume =>
    exact congrArg Host.Outcome.next (resumeLoading_resumes hq hp hl)
  case assign =>
    refine ⟨_, rfl, ?_⟩
    rw [assignOne_assigns hn hh hx hg]
    simp only [henOf_modItem, henOf_modHen, if_true]
    refine ⟨rfl, rfl, rfl, rfl, ?_, fun g hg => ?_⟩
    · exact itemOf_modItem_self ((itemOf_queueTaken ..).trans hx)
    · exact (if_neg (Ne.symm hg)).trans (henOf_congr (queueTaken_hens ..) g)
  case start =>
    refine ⟨startSliver hen s, congrArg Host.Outcome.next (if_pos ha), ?_⟩
    rw [startSliver_builtIn hx hs ho]
    simp only [henOf_startHen, henOf_modHen, if_true]
    refine ⟨rfl, rfl, ?_, ?_, fun g hg => ?_⟩
    · simp [startedHen, ho, zeroFor_job]
    · refine itemOf_startHen ?_ hen x
      exact hx
    · simp only [if_neg (Ne.symm hg)]
  case gang =>
    refine ⟨rfl, fun g hs' t u hg hl => ?_⟩
    rw [hg] at hi hr
    obtain rfl : g = item := Option.some.inj hi
    rw [gangStart_loaded hg hx (Option.some.inj hr) hs hl]
    exact ⟨(gang_each_startHen ..).trans (gangFormed_gang ..), fun n hn => running_each_startHen _ _ _ _ (.inl hn)⟩
  case drain =>
    exact congrArg Host.Outcome.next (hensDrained_last hd)
  case recode =>
    exact next_settle_congr (backgroundRecode_recodes hq he hj hl hs hi hn)
  case limit =>
    refine ⟨timeLimit item s, rfl, ?_⟩
    rw [timeLimit_stops hx hl hs he, stopItem_eq]
    refine ⟨(modItem_now ..).trans (modItem_now ..), ?_⟩
    have hx' : itemOf item (timeTo (x.at_ + x.limitUs * nsUs) s) = some x := hx
    rw [itemOf_modItem_self (itemOf_modItem_self hx'), stoppedItem_of_open hs he]
  case sliverLimit =>
    exact congrArg Host.Outcome.next (if_pos hr)

end Sys2Proof.Machine

/-!
## What admission changes (R186, R193)

Over canonical memory the write of CONSUMER changes CONSUMER's bytes alone. The statement of the frame takes every state,
though, and over a list of bytes that is not canonical it fails.
-/
namespace Sys2Proof.Machine

/-! ### The 2448's own write to a line whose crate can be written at once -/

section

variable {s : State} {lk off q o : Nat} {d : List (Option Byte)}

theorem tget_mergeBytes_outside {t : Tbl Byte} {k : Nat} (h : k < off ∨ off + d.length ≤ k) :
    tget (mergeBytes t off d) k = tget t k := by
  induction d generalizing t off with
  | nil => rfl
  | cons b d ih =>
    rw [List.length_cons] at h
    cases b with
    | none => exact ih (by omega)
    | some b => exact (ih (by omega)).trans ((tget_tput ..).trans (if_neg (by omega)))

theorem poke_eq (lk off : Nat) (d : List (Option Byte)) (s : State) :
    ∃ m bs, poke lk off d s = { s with mem := m, txn := { s.txn with batches := bs } } := by
  unfold poke
  split <;> exact ⟨_, _, rfl⟩

/-- The 2448's own write changes no byte of a line but those it writes. -/
theorem lineByte_poke_outside (hm : MemInv s) (ho : o < 128) (hd : off + d.length ≤ 128)
    (h : q = lk → o < off ∨ off + d.length ≤ o) : lineByte q o (poke lk off d s) = lineByte q o s := by
  unfold poke
  split
  next b hb =>
    have hl : b.line = lk := batchOf_line hb
    have hu := find?_update Batch.line (k := lk) (f := fun _ => { b with bytes := mergeBytes b.bytes off d })
      (fun _ _ => hl) q s.txn.batches
    by_cases hq : q = lk
    · subst hq
      rw [if_pos rfl, ← batchOf, hb] at hu
      simp only [lineByte, batchOf] at hb ⊢
      rw [hu, hb]
      simp only [Option.map_some, batchByte, tget_mergeBytes_outside (h rfl)]
    · rw [if_neg hq] at hu
      simp only [lineByte, batchOf]
      rw [hu]
  · have ha : memGet (memWriteSome s.mem (lk * 128 + off) d) (q * 128 + o) = memGet s.mem (q * 128 + o) := by
      refine memGet_memWriteSome_out _ _ d hm ?_
      by_cases hq : q = lk
      · have := h hq
        omega
      · omega
    simp only [lineByte, batchOf, ha]

theorem dirtyCrate_eq (ck : Nat) (s : State) : ∃ v, dirtyCrate ck s = { s with tiers := v } := by
  unfold dirtyCrate
  split <;> exact ⟨_, rfl⟩

theorem markCrate_eq (ck : Nat) (s : State) : ∃ v, markCrate ck s = { s with vers := v } := by
  unfold markCrate
  split
  · exact ⟨_, rfl⟩
  · split <;> exact ⟨_, rfl⟩

/-- A line that the 2448 can write at once, and that no mirror hears of. -/
structure WritesAtOnce (lk : Nat) (s : State) : Prop where
  placed : (crateOf (lkCrate lk) s).tier ≠ 0
  ready : tierWait (lkCrate lk) true s = .none
  unmirrored : journalled (lkExt lk) s = false

theorem ownPut_atOnce (h : WritesAtOnce lk s) (off : Nat) (d : List (Option Byte)) :
    ∃ v w, ownPut lk off d s = { poke lk off d s with tiers := v, vers := w } := by
  have hl : ownLine lk off d s = poke lk off d s := by simp [ownLine, h.placed, h.ready]
  have hj : journalled (lkExt lk) (poke lk off d s) = false := by
    obtain ⟨m, bs, hp⟩ := poke_eq lk off d s
    rw [hp, ← h.unmirrored]
    rfl
  have ht := (dirtyCrate_txStands (lkCrate lk) (poke lk off d s)).trans (markCrate_txStands (lkCrate lk) _)
  have ho : ownPut lk off d s = markCrate (lkCrate lk) (dirtyCrate (lkCrate lk) (poke lk off d s)) := by
    simp [ownPut, ownChanged, hl, ht.journalled_eq, hj]
  obtain ⟨v, hv⟩ := dirtyCrate_eq (lkCrate lk) (poke lk off d s)
  obtain ⟨w, hw⟩ := markCrate_eq (lkCrate lk) { poke lk off d s with tiers := v }
  exact ⟨v, w, by rw [ho, hv, hw]⟩

end

/-! ### CONSUMER passes a descriptor, and its item joins the admitted items -/

section

variable {s : State} {d : Desc}

theorem bytesOf_length (n v : Nat) : (bytesOf n v).length = n := by
  induction n generalizing v with
  | zero => rfl
  | succ n ih => simp [bytesOf, ih]

/-- The next index of a descriptor's queue. -/
def nextIndex (d : Desc) : Nat := (d.index + 1) % 2 ^ 32

/-- A queue past its descriptor: loading ends at PRODUCER (R186). -/
def passedQueue (d : Desc) : Queue :=
  { d.qu with loadTo := if d.qu.loadTo == some (nextIndex d) then none else d.qu.loadTo, late := false }

theorem consumed_eq (d : Desc) (s : State) :
    consumed d s = setQueue d.q (passedQueue d) (qcbPut d.qu offConsumer 4 (nextIndex d) s) := rfl

/-- Beside its queue, and what keeps account of the crate, CONSUMER's pass changes CONSUMER's four bytes alone. -/
theorem consumed_atOnce (hm : MemInv s) (hw : ∀ k, qcbLine d.qu s = some k → WritesAtOnce k s) :
    (∃ m x v w qs, consumed d s =
      { s with mem := m, txn := x, tiers := v, vers := w, work := { s.work with queues := qs } }) ∧
    ∀ k b, b < 128 → ¬ (qcbLine d.qu s = some k ∧ offConsumer ≤ b ∧ b < offConsumer + 4) →
      lineByte k b (consumed d s) = lineByte k b s := by
  rw [consumed_eq]
  unfold qcbPut
  cases hk : qcbLine d.qu s with
  | none => exact ⟨⟨_, _, _, _, _, rfl⟩, fun k b _ _ => rfl⟩
  | some lk =>
    let put := (bytesOf 4 (nextIndex d)).map some
    obtain ⟨v, w, hp⟩ := ownPut_atOnce (hw lk hk) offConsumer put
    obtain ⟨m, bs, hq⟩ := poke_eq lk offConsumer put s
    have hn : put.length = 4 := (List.length_map _).trans (bytesOf_length ..)
    dsimp only
    refine ⟨⟨m, { s.txn with batches := bs }, v, w, tput s.work.queues d.q (passedQueue d), ?_⟩, fun k b hb hne => ?_⟩
    · rw [hp, hq]
      rfl
    · have hout : lineByte k b (poke lk offConsumer put s) = lineByte k b s := by
        refine lineByte_poke_outside hm hb (by rw [hn]; decide) fun hkl => ?_
        subst hkl
        rw [hn]
        by_contra hin
        exact hne ⟨rfl, by omega, by omega⟩
      rw [hp, ← hout]
      rfl

theorem notePause_eq (q : Nat) (s : State) :
    ∃ qs r, notePause q s = { s with work := { s.work with queues := qs }, dict := r } := by
  unfold notePause
  split
  · exact ⟨_, _, rfl⟩
  · split <;> exact ⟨_, _, rfl⟩

theorem tget_append {α : Type} (t u : Tbl α) (k : Nat) : tget (t ++ u) k = (tget t k).or (tget u k) := by
  induction t with
  | nil => rfl
  | cons e t ih =>
    obtain ⟨a, v⟩ := e
    by_cases h : a = k
    · simp [tget, h]
    · simp [tget, h, ih]

/-- Over canonical memory, with a control block that can be written at once, admission adds the item under its number and
changes no other item, no hen, no extent, no record, and no byte but CONSUMER's. -/
theorem admitted_frame (x : Item) (hm : MemInv s) (hi : itemOf s.work.nextItem s = none)
    (hw : ∀ k, qcbLine d.qu s = some k → WritesAtOnce k s) :
    let t := admitted d x s
    itemOf s.work.nextItem t = some x ∧ t.work.nextItem = s.work.nextItem + 1 ∧
    (∀ i, i ≠ s.work.nextItem → itemOf i t = itemOf i s) ∧ t.hens = s.hens ∧ t.pool.extents = s.pool.extents ∧
    t.work.records = s.work.records ∧
    (∀ k b, b < 128 → ¬ (qcbLine d.qu s = some k ∧ offConsumer ≤ b ∧ b < offConsumer + 4) →
      lineByte k b t = lineByte k b s) := by
  intro t
  obtain ⟨⟨m, y, v, w, qs, hc⟩, hb⟩ := consumed_atOnce hm hw
  obtain ⟨qs', r, ht⟩ : ∃ qs' r, t = { consumed d s with
      dict := r
      work := { (consumed d s).work with
        queues := qs', items := (consumed d s).work.items ++ [(s.work.nextItem, x)], nextItem := s.work.nextItem + 1 } } :=
    notePause_eq ..
  have hitems (i : Nat) : itemOf i t = (itemOf i s).or (tget [(s.work.nextItem, x)] i) := by
    rw [ht, hc]
    exact tget_append ..
  refine ⟨?_, ?_, fun i hne => ?_, ?_, ?_, ?_, fun k b h128 hne => ?_⟩
  · rw [hitems, hi]
    exact if_pos rfl
  · rw [ht]
  · rw [hitems]
    simp [tget, Ne.symm hne]
  · rw [ht, hc]
  · rw [ht, hc]
  · rw [ht, hc]
  · rw [← hb k b h128 hne, ht]
    rfl

end

/-! ### Over memory that is not canonical -/

/-- A queue of job 0 whose control block is the first line of the job's slot 0. -/
def lowQueue : Queue :=
  { job := 0, member := 0, log2 := 6, prio := 0, qcb := 0, desc := 0, comp := 0, st := .active, loadTo := none,
    paused := false, late := false, lostExt := false }

/-- Its descriptor of index 255, a NOP: the next CONSUMER is 256, whose lowest byte is zero. -/
def lowDesc : Desc := { q := 0, qu := lowQueue, index := 255, bits := 2 ^ 16 }

/-- The control block's extent, its first crate on the shelf, over a list of bytes whose addresses do not rise: byte 0,
listed behind CONSUMER's, reads zero. -/
def unsorted : State :=
  setCrate 0 { crateDflt with tier := tierShelf }
    (setExt 0 { job := 0, base := 0, len := 1, acl := 0, key := 0, st := .active, slot := 0, flags := 0, mirrorHome := 0,
                gen := 0, drainAt := 0, origin := none }
      { State.reset with mem := [(offConsumer, 1), (0, 1)] })

theorem qcbLine_lowQueue : qcbLine lowQueue unsorted = some 0 := by decide +kernel

theorem unsorted_writesAtOnce : WritesAtOnce 0 unsorted :=
  ⟨by decide +kernel, by decide +kernel, by decide +kernel⟩

/-- CONSUMER's lowest byte becomes zero and leaves the list, and the byte behind it shows. -/
theorem lineByte_admitted_unsorted :
    lineByte 0 0 unsorted = 0 ∧ lineByte 0 0 (admitted lowDesc (newItem lowDesc admBase unsorted) unsorted) = 1 := by
  decide +kernel

/-- Refutes O29: the statement takes every state, and in one whose list of bytes is not canonical the write of CONSUMER
changes byte 0 of the control block's line. Its first half lacks MemInv, which holds at reset and is kept by every step:
with it, that half is admitted_frame. -/
theorem not_admissionAndCancelFrames : ¬ Obligations.AdmissionAndCancelFrames := by
  unfold Obligations.AdmissionAndCancelFrames
  intro h
  obtain ⟨-, -, -, -, -, -, hbytes⟩ := h.1 lowDesc (newItem lowDesc admBase unsorted) unsorted rfl fun k hk => by
    obtain rfl : 0 = k := Option.some.inj (qcbLine_lowQueue.symm.trans hk)
    obtain ⟨hplaced, hready, hfree⟩ := unsorted_writesAtOnce
    exact ⟨hplaced, hready, hfree⟩
  obtain ⟨hbefore, hafter⟩ := lineByte_admitted_unsorted
  have hsame := hbytes 0 0 (by decide) (by decide)
  rw [hbefore, hafter] at hsame
  exact absurd hsame (by decide)

end Sys2Proof.Machine

/-!
## Rounds, member timers, deliveries and the engines' slivers (R244, R247, R253 to R255, R260)
-/
namespace Sys2Proof.Machine

/-! ### A round opens (R244) -/

section

variable {s : State} {c i : Nat} {k : Coll} {r : Round} {x : Item}

theorem collOf_modItem (c i : Nat) (f : Item → Item) (s : State) : collOf c (modItem i f s) = collOf c s := by
  obtain ⟨is, hs⟩ := modItem_eq i f s
  rw [hs]
  rfl

/-- Where no member is missing, none is excluded and no round fails. -/
theorem missing_nil (c : Nat) (s : State) : missing c [] s = s := by
  unfold missing
  split
  · rfl
  split
  · rfl
  split <;> rfl

theorem bitsOf_zero (n : Nat) : bitsOf 0 n = [] := by simp [bitsOf]

/-- A round that opens at time t: no chunk has arrived and no member is excluded yet. -/
def freshRound (i : Nat) (x : Item) (t : Nat) : Round :=
  { item := i, round := cRound x.body, low := if x.opcode = ocUpdate then 0 else 16 * x.resume, chunks := [], timer := t,
    excluded := 0, complete := [], normAt := 0 }

/-- A collective whose oldest pending item has its round open. -/
def openedColl (k : Coll) (r : Round) : Coll :=
  { k with openR := some r, pending := k.pending.drop 1, excluded := 0, waitFrom := none }

/-- What a collective has waited for chunk slots (RSTORE_WAIT). -/
def slotsWaited (k : Coll) (s : State) : Nat := match k.waitFrom with | some t => s.now - t | none => 0

/-- The round of item i is open, and the item is started. -/
def roundOpened (c i : Nat) (k : Coll) (x : Item) (s : State) : State :=
  modItem i (fun x => { setPhase 1 x with started := true })
    (bumpN kRstoreWait (slotsWaited k s) (setColl c (openedColl k (freshRound i x s.now)) s))

theorem collOf_roundOpened :
    collOf c (roundOpened c i k x s) = some (openedColl k (freshRound i x s.now)) := by
  refine (collOf_modItem ..).trans ?_
  exact (collOf_setColl c c (openedColl k (freshRound i x s.now)) s).trans (if_pos rfl)

theorem itemOf_roundOpened (hx : itemOf i s = some x) :
    itemOf i (roundOpened c i k x s) = some { setPhase 1 x with started := true } :=
  itemOf_modItem_self (by exact hx)

theorem headReady_item (h : headReady k s = some (i, x)) : itemOf i s = some x := by
  unfold headReady at h
  split at h
  next j rest _ _ =>
    split at h
    next y hy =>
      split at h
      · obtain ⟨rfl, rfl⟩ := Prod.mk.inj (Option.some.inj h)
        exact hy
      · cases h
    · cases h
  · cases h

/-- The only collective opens its oldest item's round where the slots are free; no member is removed from its job. -/
theorem openRound_opens (hk : collOf c s = some k) (hh : headReady k s = some (i, x)) (hf : roundFits x s = true)
    (hr : k.removed = 0) (hc : ∀ e ∈ s.eng.colls, e.1 = c) : openRound c s = roundOpened c i k x s := by
  have hm : bitsOf k.removed 256 = [] := hr ▸ bitsOf_zero 256
  simp only [openRound, hk, hh]
  rw [if_neg ?first, hm, missing_nil]
  case first =>
    rw [List.any_eq_false.mpr fun e he => by simp [hc e he], hf]
    decide
  rfl

end

/-! ### The member timer, the norm timer and deliveries (R253, R254, R260) -/

section

variable {s : State} {c port tag : Nat} {k : Coll} {r : Round} {x : Item} {d : Deliver}

/-- Members that a chunk of an open round has heard from. -/
def chunkGot (r : Round) (c : Nat) : Nat := match r.chunks.find? (fun q => q.chunk == c) with | some q => q.got | none => 0

theorem memberTimer_expires (hk : collOf c s = some k) (hr : k.openR = some r) (hx : itemOf r.item s = some x)
    (hp : collPhase x = 1) (ho : x.opcode ≠ ocNormSq) (hl : r.low < cChunks x) :
    memberTimer c s = missing c ((roundMembers k r).filter (fun m => !(chunkGot r r.low).testBit m))
      (timeTo (r.timer + cTimeout x.opcode x.body) s) := by
  simp only [memberTimer, hk, hr, hx]
  exact if_neg (by simp [hp, ho, hl])

/-- Slivers of an item that have ended as its norm exchange is given up: a REDUCE_UPDATE has its one unit end so. -/
def lateEnds (x : Item) : List (Nat × Status) :=
  if x.opcode = ocUpdate then x.ended ++ [(0, Status.memberTimeout)] else x.ended

theorem normTimeout_ends (hk : collOf c s = some k) (hr : k.openR = some r) (hx : itemOf r.item s = some x)
    (hp : collPhase x = 2) (hs : x.stop = none) :
    normTimeout c s = modItem r.item (fun y => { y with stop := some .memberTimeout, ended := lateEnds x })
      (timeTo (r.normAt + cTimeout x.opcode x.body) s) := by
  simp only [normTimeout, hk, hr, hx]
  exact if_neg (by simp [hp, hs])

theorem deliverAnswer_done (hp : portLive port s = true) :
    deliverAnswer port tag 0 s =
      { s with eng := { s.eng with delivers := s.eng.delivers.filter (fun d => !(d.port == port && d.tag == tag)) } } := by
  have h0 : (statusOf 0 == .done) = true := by decide
  rw [deliverAnswer, hp, h0]
  rfl

theorem deliverTimeout_loses (hd : s.eng.delivers.find? (fun d => d.port == port && d.tag == tag) = some d)
    (hx : itemOf d.item s = some x) :
    deliverTimeout port tag s = loseDelivery d.item d.member (timeTo (d.sent + cTimeout x.opcode x.body) s) := by
  simp only [deliverTimeout, hd, hx]

end

/-! ### A slice engine's sliver (R247) -/

section

variable {s v : State} {i sl : Nat} {x : Item} {u : Unit}

/-- What an engine does for a sliver; the chunks of a REDUCE or ALLREDUCE are complete already. -/
def engineWork (i sl : Nat) (x : Item) : Sl Unit :=
  if x.opcode = ocGather then gatherSliver i sl x
  else if x.opcode = ocGatherBags then bagsSliver i sl x
  else if x.opcode = ocFilter then filterSliver i sl x
  else if x.opcode = ocNormSq then normSliver i sl x
  else slPure ()

theorem engineWork_reduce (h : x.opcode = ocReduce ∨ x.opcode = ocAllreduce) : engineWork i sl x = slPure () := by
  obtain h | h := h <;> simp [engineWork, h]

theorem engineWork_gather (h : x.opcode = ocGather) : engineWork i sl x = gatherSliver i sl x := if_pos h

theorem engineWork_gatherBags (h : x.opcode = ocGatherBags) : engineWork i sl x = bagsSliver i sl x := by
  simp [engineWork, h]

theorem engineWork_filter (h : x.opcode = ocFilter) : engineWork i sl x = filterSliver i sl x := by
  simp [engineWork, h]

theorem engineWork_normSq (h : x.opcode = ocNormSq) : engineWork i sl x = normSliver i sl x := by
  simp [engineWork, h]

/-- A sliver whose work comes to its end, with nothing to wait for, ends DONE. -/
theorem engineSliver_done (hx : itemOf i s = some x) (he : onEngine x.opcode = true) (ht : engineTurn i sl x s = true)
    (hr : slRun (.engine i sl) i (engineWork i sl x) (modItem i (fun x => { x with started := true }) s) = (.ok u, v)) :
    engineSliver i sl s = itemSliverEnd i sl .done v := by
  unfold engineWork at hr
  simp [engineSliver, hx, he, ht, hr]

theorem exec_engineSliverDone {m : Sl Unit} (hx : itemOf i s = some x) (ht : engineTurn i sl x s = true)
    (he : onEngine x.opcode = true) (hm : engineWork i sl x = m)
    (hr : slRun (.engine i sl) i m (modItem i (fun x => { x with started := true }) s) = (.ok u, v)) :
    exec (.engineSliverDone i sl) s = .next (settle (itemSliverEnd i sl .done v)) :=
  next_settle_congr (engineSliver_done hx he ht (hm ▸ hr))

end

/-- Settles O33: each event's condition chooses its branch; what an opened round and an ended exchange leave is read off the
collective and the item, and each opcode of the engines has its own work. -/
theorem collectiveEventsComplete : Obligations.CollectiveEventsComplete := by
  unfold Obligations.CollectiveEventsComplete
  intro s c i port tag k r x d
  refine ⟨fun hk hh hf hr hc => ?opens, fun hk hr hx hp ho hl => ?timer, fun hk hr hx hp hs => ?norm, fun hp => ?answer,
    fun hd hx => ?late, fun u v sl hx ht => ⟨fun ho => ?reduce, fun ho => ?gather, fun ho => ?bags, fun ho => ?filter,
    fun ho => ?normSq⟩⟩
  case opens =>
    refine ⟨roundOpened c i k x s, next_settle_congr (openRound_opens hk hh hf hr hc), _, _, collOf_roundOpened, rfl, ?_⟩
    exact ⟨rfl, rfl, rfl, rfl, itemOf_roundOpened (headReady_item hh)⟩
  case timer =>
    exact next_settle_congr (memberTimer_expires hk hr hx hp ho hl)
  case norm =>
    refine ⟨_, next_settle_congr (normTimeout_ends hk hr hx hp hs), modItem_now .., _, itemOf_modItem_self (by exact hx), rfl⟩
  case answer =>
    exact next_settle_congr (deliverAnswer_done hp)
  case late =>
    exact next_settle_congr (deliverTimeout_loses hd hx)
  case reduce =>
    have he : onEngine x.opcode = true := by obtain ho | ho := ho <;> rw [ho] <;> rfl
    exact exec_engineSliverDone hx ht he (engineWork_reduce ho)
  case gather => exact exec_engineSliverDone hx ht (by rw [ho]; rfl) (engineWork_gather ho)
  case bags => exact exec_engineSliverDone hx ht (by rw [ho]; rfl) (engineWork_gatherBags ho)
  case filter => exact exec_engineSliverDone hx ht (by rw [ho]; rfl) (engineWork_filter ho)
  case normSq => exact exec_engineSliverDone hx ht (by rw [ho]; rfl) (engineWork_normSq ho)

end Sys2Proof.Machine

/-!
## Peer messages of norms and sharded searches, and their timers (R259, R321 to R323, R388)
-/
namespace Sys2Proof.Machine

/-! ### What a peer's message does once it is whole -/

section

variable {s : State} {ph : PeerHdr} {src c round acc fl job tag i : Nat} {z : SumSq} {k : Coll} {rs : List PartialQ}
  {x : Item} {y : SearchX}

/-- A peer's partial of a round is held, in place of one that the same home sent before (R259). -/
def normHeld (src c round : Nat) (z : SumSq) (s : State) : State :=
  { s with eng := { s.eng with
      heldNorms := s.eng.heldNorms.filter (fun e => !(e.1 == src && e.2.1 == c && e.2.2.1 == round)) ++
        [(src, c, round, z)] } }

/-- A collective without a round takes a peer's partial of a round that is not older than its next. -/
theorem normArrives_held (hk : collOf c s = some k) (hp : k.peers.testBit src = true) (hh : src ≠ homeIndex s)
    (hl : liveRounds k s = []) (ho : roundOlder round k.next = false) :
    normArrives src c round z s = normHeld src c round z s := by
  simp [normArrives, normHeld, hk, hp, hh, hl, ho]

/-- A partial without an item to take it, the first of its home, is held with the time of its arrival. -/
theorem partialArrives_held (hc : coordItem job tag s = none)
    (hn : ∀ f ∈ s.search.held, f.1 ≠ job ∨ f.2.1 ≠ tag ∨ f.2.2.1 ≠ src) :
    partialArrives job tag src rs s =
      { s with search := { s.search with held := s.search.held ++ [(job, tag, src, rs, s.now)] } } := by
  have ha : s.search.held.any (fun e => e.1 == job && e.2.1 == tag && e.2.2.1 == src) = false := by
    refine List.any_eq_false.mpr fun f hf => ?_
    have := hn f hf
    simp only [Bool.and_eq_true, beq_iff_eq]
    tauto
  simp only [partialArrives, hc, ha]
  rfl

/-- An ACK ends the search that has sent its partial under the tag (R321). -/
theorem ackArrives_closes (hi : s.work.items = [(i, x)]) (hy : searchOf x = some y) (hj : x.job = job)
    (ht : qTag x.body = tag) (hs : y.sent = true) (hc : y.closed = false) (hn : x.stop = none) :
    ackArrives job tag s = searchCount x y (modSearch i (fun z => { z with closed := true }) s) := by
  simp [ackArrives, hi, hy, hj, ht, hs, hc, hn]

theorem exec_normPartial (hp : PeerSends ph s) :
    exec (.normPartial ph c round acc fl) s =
      .next (settle (normArrives ph.src c round (ssOf acc fl) (peerHeard ph s))) :=
  next_settle_congr (peerIn_last hp _)

theorem exec_searchPartial (hp : PeerSends ph s) :
    exec (.searchPartial ph tag rs) s = .next (settle (partialArrives ph.job tag ph.src rs (peerHeard ph s))) :=
  next_settle_congr (peerIn_last hp _)

theorem exec_searchAck (hp : PeerSends ph s) :
    exec (.searchAck ph tag) s = .next (settle (ackArrives ph.job tag (peerHeard ph s))) :=
  next_settle_congr (peerIn_last hp _)

end

/-! ### The timers of a sharded search (R323) -/

section

variable {s : State} {i job tag src : Nat} {x : Item} {z : SearchX} {e : Nat × Nat × Nat × List PartialQ × Nat}

theorem partialTimeout_late (hx : itemOf i s = some x) (hz : searchOf x = some z) (hc : z.closed = false)
    (hs : x.stop = none) (hp : qPeers x.body ≠ 0) (ho : isCoord x.body s = true) (hl : z.late = false) :
    partialTimeout i s = modSearch i (fun z => { z with late := true }) (timeTo (x.at_ + qTimeout x.body) s) := by
  simp [partialTimeout, hx, hz, hc, hs, hp, ho, hl]

theorem ackTimeout_ends (hx : itemOf i s = some x) (hz : searchOf x = some z) (hc : z.closed = false)
    (hs : x.stop = none) (ho : isCoord x.body s = false) :
    ackTimeout i s =
      modItem i (fun x => { x with stop := some .memberTimeout }) (timeTo (x.at_ + qTimeout x.body) s) := by
  simp [ackTimeout, hx, hz, hc, hs, ho]

theorem holdExpiry_discards (he : s.search.held.find? (fun e => e.1 == job && e.2.1 == tag && e.2.2.1 == src) = some e) :
    holdExpiry job tag src s = bump kShardPartialsDiscarded
      { timeTo (e.2.2.2.2 + holdNs) s with search := { s.search with held := s.search.held.erase e } } := by
  simp only [holdExpiry, he]

end

/-- Settles O34: a message runs in the state that has heard its last frame, where collectives, items and held partials are as
before; a timer's conditions choose its branch. -/
theorem peerMessagesOfEnginesComplete : Obligations.PeerMessagesOfEnginesComplete := by
  unfold Obligations.PeerMessagesOfEnginesComplete
  intro s ph c round acc fl tag i job src k rs x z e
  refine ⟨fun hp hk _ _ ht hh hl ho => ?norm, fun hp hc hn => ?shard, fun hp hi hz hj ht hs hc hn => ?ack,
    fun hx hz hc hs => ⟨fun hp ho hl => ?late, fun ho => ?timeout⟩, fun he => ?expiry⟩
  case norm =>
    exact (exec_normPartial hp).trans (next_settle_congr (normArrives_held (s := peerHeard ph s) hk ht hh hl ho))
  case shard =>
    exact (exec_searchPartial hp).trans (next_settle_congr (partialArrives_held (s := peerHeard ph s) hc hn))
  case ack =>
    exact (exec_searchAck hp).trans (next_settle_congr (ackArrives_closes (s := peerHeard ph s) hi hz hj ht hs hc hn))
  case late =>
    exact next_settle_congr (partialTimeout_late hx hz hc hs hp ho hl)
  case timeout =>
    exact next_settle_congr (ackTimeout_ends hx hz hc hs ho)
  case expiry =>
    exact congrArg Host.Outcome.next (holdExpiry_discards he)

end Sys2Proof.Machine

/-!
## Ports and tray links as they are written (R325 to R327, R346, R352, R353, R355, Table 11.9)
-/
namespace Sys2Proof.Machine

section

variable {s : State} {p i v : Nat}

/-! ### PORT_CMD and TLINK_CMD (Table 11.9) -/

theorem commitPortCmd_enable (hd : (linkOf p s).st = .disabled) (hp : isPort p s = true) :
    commitPortCmd p 1 s = (.done, startLinkup p s) := by
  simp [commitPortCmd, hd, hp]

theorem commitPortCmd_disable (hd : (linkOf p s).st ≠ .disabled) :
    commitPortCmd p 2 s = (.done, settle (endPortReset p (portLeaves p .disabled clsInfo s))) := by
  simp [commitPortCmd, hd]

theorem commitPortCmd_reset (ha : (linkOf p s).st = .active) :
    commitPortCmd p 3 s = (.done, queueReset .port p s) := by
  simp [commitPortCmd, ha]

theorem commitPortCmd_release (hh : (linkOf p s).st = .held) : commitPortCmd p 4 s = (.done, startLinkup p s) := by
  simp [commitPortCmd, hh]

/-! ### PORT_CONFIG (R325, R326) -/

/-- What a PORT_CONFIG that is taken leaves: its value, and a changed octet starts anew. -/
def portConfigTaken (i v : Nat) (s : State) : State :=
  let u := rseti kPortConfig i v s
  if (octetCfg (i / 4) (fun q => rgeti kPortConfig q s)).map cfgW =
      (octetCfg (i / 4) (fun q => rgeti kPortConfig q u)).map cfgW then u
  else reshape (i / 4) u

theorem commitPortConfigs_one (hu : unreserved kPortConfig v = v) (hr : roleOk v = true)
    (ho : octetValid (octetCfg (i / 4) (fun q => if i == q then v else rgeti kPortConfig q s)) = true)
    (hg : guaranteedTotal (rseti kPortConfig i v s) ≤ guaranteeMax) :
    commitPortConfigs [(i, v)] s = ([.done], portConfigTaken i v s) := by
  unfold commitPortConfigs
  extract_lets ws good next bad fits u quota st octets
  have hws : ws = [(i, v)] := by simp [ws, hu]
  have hgood : good = [(i, v)] := by simp [good, hws, hr]
  have hnext : next = fun q => if i == q then v else rgeti kPortConfig q s := by
    funext q
    by_cases h : i = q <;> simp [next, hgood, h]
  have hbad : bad (i / 4) = false := by simp only [bad, hnext, ho, Bool.not_true]
  have hfits : fits = [(i, v)] := by simp [fits, hgood, hbad]
  have hu' : u = rseti kPortConfig i v s := by simp [u, hfits]
  have hquota : ¬ quota := by
    unfold quota
    rw [hu']
    exact Nat.not_lt.mpr hg
  have hst : st (i, v) = .done := by simp [st, hr, hbad, hquota]
  have hone : (fits.map (fun w => w.1 / 4)).eraseDups = [i / 4] := by
    rw [hfits]
    rfl
  rw [if_neg hquota]
  by_cases hw : (octetCfg (i / 4) (fun q => rgeti kPortConfig q s)).map cfgW =
      (octetCfg (i / 4) (fun q => rgeti kPortConfig q (rseti kPortConfig i v s))).map cfgW
  · have ho : octets = [] := by simp [octets, hone, hu', hw]
    simp only [hws, ho, hu', List.map_cons, List.map_nil, hst, portConfigTaken, if_pos hw, each_nil]
  · have ho : octets = [i / 4] := by simp [octets, hone, hu', hw]
    simp only [hws, ho, hu', List.map_cons, List.map_nil, hst, portConfigTaken, if_neg hw, each_cons, each_nil]

theorem commitPortConfig_fits (hu : unreserved kPortConfig v = v) (hr : roleOk v = true)
    (ho : octetValid (octetCfg (i / 4) (fun q => if i == q then v else rgeti kPortConfig q s)) = true)
    (hg : guaranteedTotal (rseti kPortConfig i v s) ≤ guaranteeMax) :
    commitPortConfig i v s = (.done, settle (portConfigTaken i v s)) :=
  commitPortConfig_eq (commitPortConfigs_one hu hr ho hg)

end

/-- Settles O13: each object's commit is its command's own branch; one PORT_CONFIG is judged alone, and its octet is the
only one whose shape it may change. -/
theorem linkWritesTakeEffect : Obligations.LinkWritesTakeEffect := by
  unfold Obligations.LinkWritesTakeEffect
  intro rq x s v t p l i u ws
  refine ⟨fun hw hr ho hg => ?_, fun hw hd hp => ?_, fun hw hd => ?_, fun hw ha => ?_, fun hw hh => ?_,
    fun hw hd hp => ?_, fun hw hd => ?_, fun hw ha => ?_, fun hw hh => ?_, fun hw => ?_⟩
  · exact writeRow_takes hw rfl (by decide) (commitPortConfig_fits (s := t) hw.clear hr ho hg)
  · exact writeRow_takes hw rfl (by decide) (commitPortCmd_enable (s := t) hd hp)
  · exact writeRow_takes hw rfl (by decide) (commitPortCmd_disable (s := t) hd)
  · exact writeRow_takes hw rfl (by decide) (commitPortCmd_reset (s := t) ha)
  · exact writeRow_takes hw rfl (by decide) (commitPortCmd_release (s := t) hh)
  · exact writeRow_takes hw rfl (by decide) (commitPortCmd_enable (s := t) hd hp)
  · exact writeRow_takes hw rfl (by decide) (commitPortCmd_disable (s := t) hd)
  · exact writeRow_takes hw rfl (by decide) (commitPortCmd_reset (s := t) ha)
  · exact writeRow_takes hw rfl (by decide) (commitPortCmd_release (s := t) hh)
  · exact writeRow_takes hw rfl (by decide) rfl

end Sys2Proof.Machine

/-!
## Link-up, recovery and holds (R326, R343, R344, R348 to R353, Tables 11.4 and 11.5)
-/
namespace Sys2Proof.Machine

section

variable {s : State} {p lane role width depth : Nat} {lanes credits : List Nat} {ph : Phase}

/-! ### A link after its change -/

theorem linkOf_modLink (p q : Nat) (f : Link → Link) (s : State) :
    linkOf q (modLink p f s) = if p = q then f (linkOf p s) else linkOf q s := linkOf_setLink ..

theorem linkOf_modLink_self (p : Nat) (f : Link → Link) (s : State) : linkOf p (modLink p f s) = f (linkOf p s) := by
  rw [linkOf_modLink, if_pos rfl]

/-! ### Link-up phase by phase (Tables 11.4 and 11.5) -/

theorem inPhase_of (k : State → State) (hd : (linkOf p s).st = .down) (hp : (linkOf p s).phase = ph) :
    inPhase p ph k s = k s := by
  simp [inPhase, hd, hp]

/-- A link in a phase goes on to the next: its timer starts now, and no other link changes. -/
theorem inPhase_toPhase (nxt : Phase) (hd : (linkOf p s).st = .down) (hp : (linkOf p s).phase = ph) :
    linkOf p (inPhase p ph (toPhase p nxt) s) = { linkOf p s with phase := nxt, phaseAt := s.now } ∧
      ∀ q, q ≠ p → linkOf q (inPhase p ph (toPhase p nxt) s) = linkOf q s := by
  rw [inPhase_of _ hd hp]
  refine ⟨linkOf_modLink_self .., fun q hq => ?_⟩
  rw [toPhase, linkOf_modLink, if_neg (Ne.symm hq)]

/-- The lanes that ORDER found, of the link's configured width. -/
def orderedLanes (p : Nat) (lanes : List Nat) (s : State) : List Nat :=
  (lanes.filter (fun l => decide (l < cfgWidth p s))).eraseDups

theorem orderDone_enough (h : minWidth p s ≤ (orderedLanes p lanes s).length) :
    orderDone p lanes s = startParam p (orderedLanes p lanes s) s := if_neg (Nat.not_lt.mpr h)

theorem orderDone_tooFew (h : (orderedLanes p lanes s).length < minWidth p s) : orderDone p lanes s = linkFail p s :=
  if_pos h

/-- The link that a PARAM that fits leaves: the lesser width, the far side's depth and credits, and what comes into force
with link-up. -/
def paramTaken (p width depth : Nat) (credits : List Nat) (s : State) : Link :=
  let l := linkOf p s
  let w := min l.lanes.length width
  { l with
    width := w, lanes := l.lanes.take w, peerDepth := min 2048 depth, credits := credits,
    caching := !isTray p && bit (rgeti kCohPortCaching p s) 0, tcMap := rgeti kTcMap p s }

theorem paramIn_fits (hr : role = (if isTray p then 2 else b2n (portRolePeer p s))) (hc : creditsOk p credits s = true)
    (hw : 0 < min (linkOf p s).lanes.length width) :
    paramIn p 1 role width depth credits s =
      startIdent p (trafficLinkUp p (setLink p (paramTaken p width depth credits s) s)) :=
  if_neg (by simp only [← hr, hc, Nat.ne_of_gt hw, bne_self_eq_false]; decide)

theorem phaseTimeout_detect (hd : (linkOf p s).st = .down) (hp : (linkOf p s).phase = .detect) :
    phaseTimeout p s = toPhase p .detect (timeTo ((linkOf p s).phaseAt + 100000000) s) := by
  simp [phaseTimeout, hd, hp, phaseBound, nsMs]

theorem phaseTimeout_fails (hd : (linkOf p s).st = .down) (hp : (linkOf p s).phase ≠ .detect) :
    phaseTimeout p s = linkFail p (timeTo ((linkOf p s).phaseAt + phaseBound (linkOf p s).phase) s) := by
  simp [phaseTimeout, hd, hp]

/-! ### Recovery and holds (R348 to R353) -/

theorem enterRecovery_active (ha : (linkOf p s).st = .active) :
    enterRecovery p s = linkRetrain p (modLink p (fun l => { l with st := .recovery, recoveryAt := s.now })) s := by
  simp [enterRecovery, ha]

theorem lossOfLock_inUse (hl : lane ∈ (linkOf p s).lanes) : lossOfLock p lane s = enterRecovery p s :=
  if_pos (List.contains_iff_mem.mpr hl)

theorem holdReset_active (ha : (linkOf p s).st = .active) (hn : (linkOf p s).holdN ≠ 0) :
    holdReset p s = modLink p (fun l => { l with holdN := 0 }) (timeTo ((linkOf p s).activeAt + 64 * nsS) s) := by
  simp [holdReset, ha, hn]

/-- The lanes that recovery leaves of a link. -/
def recoveredLanes (p : Nat) (lanes : List Nat) (s : State) : List Nat :=
  (linkOf p s).lanes.filter (fun x => lanes.contains x)

theorem recoveryDone_enough (hr : (linkOf p s).st = .recovery) (hl : minWidth p s ≤ (recoveredLanes p lanes s).length) :
    recoveryDone p lanes s =
      replay p (onlyIf (decide ((recoveredLanes p lanes s).length < (linkOf p s).width)) (linkEvent 0x03 p)
        (modLink p (fun l => { l with
          st := .active, lanes := recoveredLanes p lanes s, width := (recoveredLanes p lanes s).length,
          activeAt := s.now, fecTimes := [] }) s)) := by
  unfold recoveryDone
  rw [if_neg (by simp [hr])]
  exact if_neg (Nat.not_lt.mpr hl)

theorem recoveryDone_tooFew (hr : (linkOf p s).st = .recovery) (hl : (recoveredLanes p lanes s).length < minWidth p s) :
    recoveryDone p lanes s = portLeaves p .down clsUnit s := by
  unfold recoveryDone
  rw [if_neg (by simp [hr])]
  exact if_pos hl

theorem recoveryTimeout_down (hr : (linkOf p s).st = .recovery) :
    recoveryTimeout p s = portLeaves p .down clsUnit (timeTo ((linkOf p s).recoveryAt + 10 * nsMs) s) :=
  if_neg (by simp [hr])

theorem holdExpired_held (hh : (linkOf p s).st = .held) :
    holdExpired p s = startLinkup p (timeTo (linkOf p s).holdUntil s) := if_neg (by simp [hh])

end

/-- Settles O48: the link's state and phase choose each event's branch; the lanes that are left decide ORDER and the end of
RECOVERY. -/
theorem linkUpAndRecoveryComplete : Obligations.LinkUpAndRecoveryComplete := by
  unfold Obligations.LinkUpAndRecoveryComplete
  refine ⟨?linkUp, ?recovery⟩
  case linkUp =>
    intro s p lanes role width depth credits l ls moved hd
    refine ⟨fun hp => ?detect, fun hp => ?equalise, fun hp => ?fecLock,
      fun hp => ⟨fun hn => ?enough, fun hn => ?tooFew⟩, fun hp hr hc hw => ?param, fun hp => ?detectOverrun, fun hp => ?overrun⟩
    case detect => exact next_settle_congr (inPhase_of _ hd hp)
    case equalise => exact ⟨_, rfl, inPhase_toPhase _ hd hp⟩
    case fecLock => exact ⟨_, rfl, inPhase_toPhase _ hd hp⟩
    case enough => exact congrArg Host.Outcome.next ((inPhase_of _ hd hp).trans (orderDone_enough hn))
    case tooFew => exact congrArg Host.Outcome.next ((inPhase_of _ hd hp).trans (orderDone_tooFew hn))
    case param => exact next_settle_congr ((inPhase_of _ hd hp).trans (paramIn_fits hr hc hw))
    case detectOverrun => exact next_settle_congr (phaseTimeout_detect hd hp)
    case overrun => exact next_settle_congr (phaseTimeout_fails hd hp)
  case recovery =>
    intro s p lane lanes l ls re
    refine ⟨fun ha => ⟨fun hl => ?lostLock, ?ts1, fun hn => ?forget⟩,
      fun hr => ⟨fun hn => ?recovered, fun hn => ?notRecovered, ?late⟩, fun hh => ?held⟩
    case lostLock => exact next_settle_congr ((lossOfLock_inUse hl).trans (enterRecovery_active ha))
    case ts1 => exact next_settle_congr (enterRecovery_active ha)
    case forget => exact congrArg Host.Outcome.next (holdReset_active ha hn)
    case recovered => exact next_settle_congr (recoveryDone_enough hr hn)
    case notRecovered => exact next_settle_congr (recoveryDone_tooFew hr hn)
    case late => exact next_settle_congr (recoveryTimeout_down hr)
    case held => exact congrArg Host.Outcome.next (holdExpired_held hh)

end Sys2Proof.Machine

/-!
## The identity exchange (R345, R346, R384, R550)
-/
namespace Sys2Proof.Machine

/-! ### What leaves a port's binding as it is -/

/-- From s to t, a port's state, its bound partner and the ports' epochs are as before. -/
structure BindingStands (p : Nat) (s t : State) : Prop where
  st : (linkOf p t).st = (linkOf p s).st
  bound : (linkOf p t).bound = (linkOf p s).bound
  ports : t.txn.ports = s.txn.ports

section

variable {r s t : State} {p : Nat}

theorem BindingStands.refl (s : State) : BindingStands p s s := ⟨rfl, rfl, rfl⟩

theorem BindingStands.trans (h : BindingStands p r s) (k : BindingStands p s t) : BindingStands p r t :=
  ⟨k.st.trans h.st, k.bound.trans h.bound, k.ports.trans h.ports⟩

/-- A change of other units. -/
theorem BindingStands.ofUnits (hl : t.links = s.links) (hp : t.txn.ports = s.txn.ports) : BindingStands p s t := by
  refine ⟨?_, ?_, hp⟩ <;> rw [linkOf, hl, ← linkOf]

theorem setLink_bindingStands {l : Link} (hs : l.st = (linkOf p s).st) (hb : l.bound = (linkOf p s).bound) :
    BindingStands p s (setLink p l s) :=
  ⟨by rw [linkOf_setLink, if_pos rfl, hs], by rw [linkOf_setLink, if_pos rfl, hb], rfl⟩

theorem newFlit_bindingStands (typ vc : Nat) (payload : List Byte) (s : State) :
    BindingStands p s (newFlit p typ vc payload s) := by
  unfold newFlit
  extract_lets l f l'
  have h : BindingStands p s (setLink p l' s) := setLink_bindingStands rfl rfl
  exact h.trans (.ofUnits rfl rfl)

theorem sendFrame_bindingStands (vc : Nat) (content : List Byte) (s : State) :
    BindingStands p s (sendFrame p vc content s) := by
  unfold sendFrame
  exact each_induct (fun _ _ h => h.trans (newFlit_bindingStands ..)) _ _ (setLink_bindingStands rfl rfl)

theorem sendMgmt_bindingStands (op n body : Nat) (s : State) : BindingStands p s (sendMgmt p op n body s) := by
  have h : BindingStands p s (send (.linkFrame p op body) s) := .ofUnits rfl rfl
  exact h.trans (sendFrame_bindingStands ..)

theorem raise_bindingStands (src num plen payload : Nat) (s : State) :
    BindingStands p s (raise src num plen payload s) := by
  obtain ⟨d, o, h⟩ := raise_eq src num plen payload s
  rw [h]
  exact .ofUnits rfl rfl

theorem ledger_bindingStands (src kind cls body : Nat) (s : State) : BindingStands p s (ledger src kind cls body s) := by
  unfold ledger onlyIf
  extract_lets
  split <;> exact .ofUnits rfl rfl

theorem rset_bindingStands (key v : Nat) (s : State) : BindingStands p s (rset key v s) := .ofUnits rfl rfl

theorem resetRecord_bindingStands (x : ResetRec) (ended unrecorded : Nat) (s : State) :
    BindingStands p s (resetRecord x ended unrecorded s) := by
  unfold resetRecord
  exact (ledger_bindingStands ..).trans ((rset_bindingStands ..).trans (raise_bindingStands ..))

theorem endPortReset_bindingStands (s : State) : BindingStands p s (endPortReset p s) := by
  unfold endPortReset
  split
  · exact .refl s
  · next x _ =>
    have h : BindingStands p s { s with rst := { s.rst with inProgress := s.rst.inProgress.erase x } } :=
      .ofUnits rfl rfl
    exact h.trans (resetRecord_bindingStands ..)

theorem rejoin_bindingStands (a : Nat) (s : State) : BindingStands p s (rejoin a s) := .ofUnits rfl rfl

theorem linkEvent_bindingStands (n : Nat) (s : State) : BindingStands p s (linkEvent n p s) := raise_bindingStands ..

end

/-! ### A port is bound (R345, R384, Table 14.6) -/

section

variable {s : State} {p claim d : Nat}

/-- The link that its partner's identity is accepted on. -/
def boundLink (claim d now : Nat) (l : Link) : Link :=
  { l with
    st := .active, activeAt := now, bound := some claim, evidence := none,
    identRec := identRecord claim (statusCode .done) d }

/-- The port's new epoch begins, before anything is sent. -/
def boundIn (p claim d : Nat) (s : State) : State :=
  modPortTx p (fun x => { portTxDflt with epoch := x.epoch + 1 }) (modLink p (boundLink claim d s.now) s)

theorem linkOf_boundIn (p claim d : Nat) (s : State) :
    linkOf p (boundIn p claim d s) = boundLink claim d s.now (linkOf p s) :=
  linkOf_modLink_self p (boundLink claim d s.now) s

theorem portTx_boundIn (p claim d : Nat) (s : State) :
    portTx p (boundIn p claim d s) = { portTxDflt with epoch := (portTx p s).epoch + 1 } := by
  rw [boundIn, modPortTx, portTx_setPortTx, if_pos rfl]
  rfl

/-- What follows the binding leaves the port's state, its partner and its epoch. -/
theorem bindPort_bindingStands (p claim d : Nat) (s : State) :
    BindingStands p (boundIn p claim d s) (bindPort p claim d s) := by
  have h : BindingStands p (boundIn p claim d s) (sendMgmt p 0xF3 8 (statusCode .done) (boundIn p claim d s)) :=
    sendMgmt_bindingStands ..
  exact h.trans (((endPortReset_bindingStands _).trans (linkEvent_bindingStands ..)).trans (rejoin_bindingStands ..))

theorem bindPort_binds (p claim d : Nat) (s : State) :
    (linkOf p (bindPort p claim d s)).st = .active ∧ (linkOf p (bindPort p claim d s)).bound = some claim ∧
      (portTx p (bindPort p claim d s)).epoch = (portTx p s).epoch + 1 := by
  obtain ⟨hs, hb, hp⟩ := bindPort_bindingStands p claim d s
  refine ⟨?_, ?_, ?_⟩
  · rw [hs, linkOf_boundIn, boundLink]
  · rw [hb, linkOf_boundIn, boundLink]
  · rw [portTx, hp, ← portTx, portTx_boundIn]

/-! ### The judgement of the evidence (R346) -/

theorem tryBind_binds (hs : (linkOf p s).st = .ident) (he : (linkOf p s).evidence = some (claim, d, true))
    (hb : identBarred p s = false) (hx : expectId p s = claim) (hc : claim ≠ 0xFFF) (hd : expectDigest p s = d)
    (hi : isoAll (modLink p (fun l => { l with bound := some claim }) s) = true) (hm : mayEnter p s = true) :
    tryBind p s = bindPort p claim d s := by
  simp [tryBind, hs, he, hb, hx, hc, hd, hi, hm]

theorem tryBind_denies {ok : Bool} (hs : (linkOf p s).st = .ident)
    (he : (linkOf p s).evidence = some (claim, d, ok)) (hb : identBarred p s = false) (hx : expectId p s ≠ 0xFFF)
    (hw : ok = false ∨ expectId p s ≠ claim ∨ expectDigest p s ≠ d) : tryBind p s = identDenied p claim d s := by
  have h : (!ok || expectId p s != claim || expectDigest p s != d) = true := by
    simpa [or_assoc] using hw
  simp only [tryBind, hs, he, hb, hx, h, Bool.false_eq_true, if_true, if_false]

/-- The evidence of an IDENT is held, for the port's expectation to be judged against. -/
def identHeld (p claim d : Nat) (ok : Bool) (s : State) : State :=
  modLink p (fun l => { l with
    evidence := some (claim, d, ok), identRec := identRecord claim (statusCode .retry) d }) s

theorem linkOf_identHeld (p claim d : Nat) (ok : Bool) (s : State) :
    linkOf p (identHeld p claim d ok s) = { linkOf p s with
      evidence := some (claim, d, ok), identRec := identRecord claim (statusCode .retry) d } := linkOf_modLink_self ..

theorem portRolePeer_identHeld (p claim d : Nat) (ok : Bool) (s : State) :
    portRolePeer p (identHeld p claim d ok s) = portRolePeer p s := by
  simp only [portRolePeer, portCfg, linkOf_identHeld]
  rfl

theorem identBarred_identHeld (p claim d : Nat) (ok : Bool) (s : State) :
    identBarred p (identHeld p claim d ok s) = identBarred p s := by
  simp only [identBarred, portRolePeer_identHeld]
  rfl

theorem mayEnter_identHeld (p claim d : Nat) (ok : Bool) (s : State) :
    mayEnter p (identHeld p claim d ok s) = mayEnter p s := by
  simp only [mayEnter, portRolePeer_identHeld]
  rfl

end

/-! ### The exchange's frames and its bound (R345, R346, R550) -/

section

variable {s : State} {p claim e m sig nonce tag status : Nat}

/-- Whether an IDENT answers the port's nonce and is signed by the key it shows. -/
def identGenuine (p claim e m sig nonce : Nat) (s : State) : Bool :=
  nonce == (linkOf p s).nonce && Config.rsaVerify m e (identMsg nonce (s.sec.flash.idTag % 2 ^ 64) p claim) sig

/-- The first IDENT of an exchange is held, and judged at once where there is an expectation. -/
theorem identIn_holds (ht : isTray p = false) (hs : (linkOf p s).st = .ident) (he : (linkOf p s).evidence = none)
    (hb : identBarred p s = false) :
    identIn p claim e m sig nonce s =
      let t := identHeld p claim (keyDigest m e) (identGenuine p claim e m sig nonce s) s
      if expectId p s = 0xFFF then linkEvent 0x05 p t else tryBind p t := by
  unfold identIn
  rw [if_neg (by simp [ht, hs, he]), if_neg (by simp [hb])]
  rfl

theorem identIn_unexpected (ht : isTray p = false) (hs : (linkOf p s).st = .ident) (he : (linkOf p s).evidence = none)
    (hb : identBarred p s = false) (hx : expectId p s = 0xFFF) :
    identIn p claim e m sig nonce s =
      linkEvent 0x05 p (identHeld p claim (keyDigest m e) (identGenuine p claim e m sig nonce s) s) :=
  (identIn_holds ht hs he hb).trans (if_pos hx)

theorem identIn_expected (ht : isTray p = false) (hs : (linkOf p s).st = .ident) (he : (linkOf p s).evidence = none)
    (hb : identBarred p s = false) (hx : expectId p s ≠ 0xFFF) :
    identIn p claim e m sig nonce s =
      tryBind p (identHeld p claim (keyDigest m e) (identGenuine p claim e m sig nonce s) s) :=
  (identIn_holds ht hs he hb).trans (if_neg hx)

theorem nonceIn_answers (hp : portRolePeer p s = true) (ht : isTray p = false) (hi : s.sec.identityDone = true)
    (hs : (linkOf p s).st = .ident) (hb : identBarred p s = false) :
    nonceIn p nonce tag s = sendMgmt p 0xF2 1064
      (pack [(homeIndex s % 16, 8500), (65537, 8448), (Config.identityModulus (identityKey s) % 2 ^ 4096, 4352),
        (Config.rsaSign (identityKey s) (identMsg (nonce % 2 ^ 256) (tag % 2 ^ 64) p (homeIndex s)) % 2 ^ 4096, 256),
        (nonce % 2 ^ 256, 0)]) s := by
  unfold nonceIn
  rw [if_neg (by simp [hp, ht, hi, hs]), if_neg (by simp [hb])]

theorem identVerdict_refused (hs : (linkOf p s).st = .ident) (hp : portRolePeer p s = true)
    (hr : statusOf status ≠ .done) : identVerdict p status s = linkFail p s :=
  if_pos (by simp [hs, hp, hr])

theorem identVerdict_done (hr : statusOf status = .done) : identVerdict p status s = tryBind p s :=
  if_neg (by simp [hr])

theorem identTimeout_partner (hs : (linkOf p s).st = .ident) (hp : portRolePeer p s = false)
    (he : (linkOf p s).evidence = none) :
    identTimeout p s = linkFail p (timeTo ((linkOf p s).phaseAt + 60 * nsS) s) := by
  unfold identTimeout
  rw [if_neg (by simp [hs, hp])]
  simp [hp, he, phaseBound]

end

/-- Settles O49: the first IDENT's evidence is held and then judged; holding it changes none of what the judgement asks, and
what is sent and recorded of a binding leaves the port bound in its new epoch. -/
theorem identityBindingCompletes : Obligations.IdentityBindingCompletes := by
  unfold Obligations.IdentityBindingCompletes
  intro s p claim e m sig nonce tag status l d msg ok held ht hs hb
  have hs' : (linkOf p held).st = .ident := (congrArg Link.st (linkOf_identHeld p claim d ok s)).trans hs
  have he' : (linkOf p held).evidence = some (claim, d, ok) := congrArg Link.evidence (linkOf_identHeld p claim d ok s)
  have hb' : identBarred p held = false := (identBarred_identHeld p claim d ok s).trans hb
  refine ⟨fun he => ⟨fun hx => ?unexpected, fun hok hx hc hd hi hm => ?bound, fun hx hw => ?denied⟩,
    bindPort_binds p claim d held, fun hp hi => ?nonce, fun hp hr => ?refused, fun hr => ?accepted, fun hp he => ?late⟩
  case unexpected => exact next_settle_congr (identIn_unexpected ht hs he hb hx)
  case bound =>
    exact next_settle_congr ((identIn_expected ht hs he hb (hx ▸ hc)).trans
      (tryBind_binds hs' (hok ▸ he') hb' hx hc hd hi ((mayEnter_identHeld p claim d ok s).trans hm)))
  case denied =>
    exact next_settle_congr ((identIn_expected ht hs he hb hx).trans (tryBind_denies hs' he' hb' hx hw))
  case nonce => exact congrArg Host.Outcome.next (nonceIn_answers hp ht hi hs hb)
  case refused => exact next_settle_congr (identVerdict_refused hs hp hr)
  case accepted => exact next_settle_congr (identVerdict_done hr)
  case late => exact next_settle_congr (identTimeout_partner hs hp he)

end Sys2Proof.Machine

/-!
## Flits in sequence, failing flits, and replay (R328, R329, R333 to R337)
-/
namespace Sys2Proof.Machine

section

variable {s : State} {p : Nat} {f : FlitHdr} {payload : List Byte} {k : State → State}

/-! ### Codewords corrected (R328) -/

theorem linkOf_fecFixed (p : Nat) (f : FlitHdr) (s : State) :
    linkOf p (fecFixed p f s) =
      { linkOf p s with fecCorrected := min (2 ^ 64 - 1) ((linkOf p s).fecCorrected + f.fixed) } :=
  linkOf_modLink_self p (fun l => { l with fecCorrected := min (2 ^ 64 - 1) (l.fecCorrected + f.fixed) }) s

theorem linkRuns_fecFixed (p : Nat) (f : FlitHdr) (s : State) :
    linkRuns (linkOf p (fecFixed p f s)) = linkRuns (linkOf p s) := by
  rw [linkOf_fecFixed]
  rfl

/-! ### Sequenced flits (R333, R334, R337) -/

/-- A flit in sequence is acknowledged and counted; what it carries is taken, and the link answers while it runs. -/
def flitTaken (p : Nat) (f : FlitHdr) (k : State → State) (s : State) : State :=
  let a := ackIn p (f.ack % 4096) (fecFixed p f s)
  let g := k (modLink p (fun x => { x with rxSeq := ((linkOf p a).rxSeq + 1) % 4096, nakPending := false }) a)
  if linkRuns (linkOf p g) then sendBare p ftIdle (payCredits p g) else g

theorem sequencedIn_next (hr : linkRuns (linkOf p s) = true) (hg : flitGood f payload none = true)
    (hs : f.seq % 4096 = (linkOf p s).rxSeq) (hc : f.ccnt % 128 = 0) :
    sequencedIn p f payload none k s = flitTaken p f k s := by
  have hgap : (f.seq % 4096 + 4096 - (linkOf p (fecFixed p f s)).rxSeq) % 4096 = 0 := by
    rw [linkOf_fecFixed, hs]
    simp
  unfold sequencedIn
  simp only [linkRuns_fecFixed, hr, hg, hgap, hc, Bool.not_true, Bool.false_eq_true, if_false, if_true]
  rfl

/-- A flit that fails, with no codeword at fault, is counted. -/
def crcCounted (p : Nat) (s : State) : State := modLink p (fun l => { l with crcErrors := cnt64 l.crcErrors }) s

theorem linkRuns_crcCounted (p : Nat) (s : State) : linkRuns (linkOf p (crcCounted p s)) = linkRuns (linkOf p s) := by
  rw [crcCounted, linkOf_modLink_self]
  rfl

theorem flitBad_running (hr : linkRuns (linkOf p s) = true) : flitBad p none s = nakOut p (crcCounted p s) :=
  if_pos ((linkRuns_crcCounted p s).trans hr)

theorem sequencedIn_failing (hr : linkRuns (linkOf p s) = true) (hg : flitGood f payload none = false) :
    sequencedIn p f payload none k s = nakOut p (crcCounted p (fecFixed p f s)) := by
  have hz : linkRuns (linkOf p (fecFixed p f s)) = true := (linkRuns_fecFixed p f s).trans hr
  unfold sequencedIn
  simp only [hz, hg, Bool.not_true, Bool.not_false, Bool.false_eq_true, if_false, if_true, flitBad_running hz]

/-! ### IDLE and NAK flits, and the replay timer (R334 to R336) -/

theorem bareIn_good (hr : linkRuns (linkOf p s) = true) (hg : flitGood f (List.replicate flitBytes 0) none = true) :
    bareIn p f none k s = k (ackIn p (f.ack % 4096) (fecFixed p f s)) := by
  unfold bareIn
  simp only [linkRuns_fecFixed, hr, hg, Bool.not_true, Bool.false_eq_true, if_false]

theorem replayTimeout_replays (hr : linkRuns (linkOf p s) = true) (hu : (linkOf p s).unacked ≠ []) :
    replayTimeout p s = replay p (timeTo ((linkOf p s).ackAt + rget kReplayTimeout s) s) :=
  if_neg (by simp [hr, hu])

end

/-- Settles O50: counting corrected codewords leaves a running link running and its sequence number, so the header and the
CRC alone choose what a flit does. -/
theorem flitsComplete : Obligations.FlitsComplete := by
  unfold Obligations.FlitsComplete
  intro s p f payload returns z l d c taken hr
  refine ⟨fun hg hs hc => ?data, fun hg => ?failing, fun hg hs hc => ?credit, fun hg => ?idle, fun hg => ?nak,
    fun hu => ?timer, linkOf_fecFixed p f s⟩
  case data => exact next_settle_congr (sequencedIn_next (f := d) hr hg hs hc)
  case failing => exact next_settle_congr (sequencedIn_failing (f := d) hr hg)
  case credit => exact next_settle_congr (sequencedIn_next (f := c) hr hg hs hc)
  case idle => exact next_settle_congr (bareIn_good hr hg)
  case nak => exact next_settle_congr (bareIn_good hr hg)
  case timer => exact next_settle_congr (replayTimeout_replays hr hu)

end Sys2Proof.Machine

/-!
## The tracker, coherent windows, slices, buckets, capture sessions and buffer guarantees as they are written (R387, R392,
R393, R395, R435, R436, R449, R452)
-/
namespace Sys2Proof.Machine

section

variable {s : State} {i v sub key : Nat}

theorem commitTrackMin_fits (hv : v ≤ 2048) (hs : trackMinSum s - trackMinOf i s + v ≤ trackerSize) :
    commitTrackMin i v s = (.done, rseti kTrackMin i v s) := by
  rw [commitTrackMin, if_neg (Nat.not_lt.mpr hv), if_neg (Nat.not_lt.mpr hs)]

theorem commitCohWindow_keeping (hr : s.coh.removing = []) (ho : windowOk i v s = true)
    (hk : windowKeeps (tgetD s.coh.windows i 0) v = true) :
    commitCohWindow i v s = (.done, post16 kCohWindowResult .done (putWindow i v s)) := by
  simp [commitCohWindow, hr, ho, hk]

theorem commitBucketSlice_still (hv : v ≤ 3) (hm : ∀ m ∈ s.sw.moving, m.1 ≠ i) :
    commitBucketSlice i v s = (.done, startRepin i v s) := by
  have hn : s.sw.moving.any (fun m => m.1 == i) = false := List.any_eq_false.mpr fun m h => by simpa using hm m h
  simp only [commitBucketSlice, if_neg (Nat.not_lt.mpr hv), hn, Bool.false_eq_true, if_false]

theorem commitCapture_ok (h : captureOk v s = true) :
    commitCapture i v s =
      let u := capFlush i s
      (.done, post16 kCaptureResult .done
        (setCapture i { captureOf i u with pendingDrop := 0, seen := 0 } (rseti kCaptureSession i v u))) := if_pos h

theorem commitGuarantee_fits (hk : guaranteeKey sub = some key) (hr : guaranteeRange sub v = true)
    (hg : guaranteedTotal (rset key v s) ≤ guaranteeMax) : commitGuarantee sub v s = (.done, rset key v s) := by
  simp [commitGuarantee, hk, hr, Nat.not_lt.mpr hg]

/-- The four guarantees have the sub-indices 1 to 4 of the buffer object. -/
theorem guaranteeKey_eq_some (h : guaranteeKey sub = some key) :
    (sub = 1 ∧ key = kRoundTripNs) ∨ (sub = 2 ∧ key = kGwGuarantee) ∨ (sub = 3 ∧ key = kEngineGuarantee) ∨
      (sub = 4 ∧ key = kHaGuarantee) := by
  unfold guaranteeKey at h
  split at h <;> simp_all

end

/-- Settles O14: each object's commit is its own branch, and the state that has heard the request meets the branch's
conditions as before. -/
theorem fabricWritesTakeEffect : Obligations.FabricWritesTakeEffect := by
  unfold Obligations.FabricWritesTakeEffect
  intro rq x s v t i cap
  refine ⟨fun hw hv hs => ?_, fun hw hr ho hk => ?_, fun hw => ?_, fun hw => ?_, fun hw => ?_, fun hw hv hm => ?_,
    fun hw hc => ?_, fun sub k hk hw hr hg => ?_⟩
  · exact writeRow_takes hw rfl (by decide) (commitTrackMin_fits (s := t) hv hs)
  · exact writeRow_takes hw rfl (by decide) (commitCohWindow_keeping (s := t) hr ho hk)
  · exact writeRow_takes hw rfl (by decide) rfl
  · exact writeRow_takes hw rfl (by decide) rfl
  · exact writeRow_takes hw rfl (by decide) rfl
  · exact writeRow_takes hw rfl (by decide) (commitBucketSlice_still (s := t) hv hm)
  · exact writeRow_takes hw rfl (by decide) (commitCapture_ok (s := t) hc)
  · have hg' := commitGuarantee_fits (s := t) hk hr hg
    rcases guaranteeKey_eq_some hk with ⟨rfl, rfl⟩ | ⟨rfl, rfl⟩ | ⟨rfl, rfl⟩ | ⟨rfl, rfl⟩ <;>
      exact writeRow_takes hw rfl (by decide) hg'

end Sys2Proof.Machine

/-!
## What open requests wait for ends (R119, R122, R358, R366, R367, R372, R384, R386, R388)
-/
namespace Sys2Proof.Machine

/-! ### A batch is written to memory (R372) -/

section

variable {s : State} {b : Batch} {lk : Nat}

theorem memGet_foldl_memPut_out {a x : Nat} (l : List (Nat × Byte)) {m : List Host.Cell} (h : Memory.wf m = true)
    (hx : ∀ e ∈ l, x ≠ a + e.1) : memGet (l.foldl (fun m e => memPut m (a + e.1) e.2) m) x = memGet m x := by
  induction l generalizing m with
  | nil => rfl
  | cons e l ih =>
    rw [List.foldl_cons, ih (memPut_wf _ _ h) (fun f hf => hx f (List.mem_cons_of_mem _ hf)), memGet_memPut _ _ _ h,
      if_neg (hx e (List.mem_cons_self ..))]

/-- Bytes written one by one under offsets that differ read back. -/
theorem memGet_foldl_memPut (a i : Nat) (l : List (Nat × Byte)) {m : List Host.Cell} (h : Memory.wf m = true)
    (hd : (l.map (·.1)).Nodup) :
    memGet (l.foldl (fun m e => memPut m (a + e.1) e.2) m) (a + i) = (tget l i).getD (memGet m (a + i)) := by
  induction l generalizing m with
  | nil => rfl
  | cons e l ih =>
    obtain ⟨k, c⟩ := e
    obtain ⟨hk, hd⟩ := List.nodup_cons.mp hd
    rw [List.foldl_cons, tget]
    by_cases hi : k = i
    · subst hi
      have ho : ∀ e ∈ l, a + k ≠ a + e.1 := fun e he hc =>
        hk (Nat.add_left_cancel hc ▸ List.mem_map_of_mem (f := (·.1)) he)
      rw [memGet_foldl_memPut_out l (memPut_wf _ _ h) ho, memGet_memPut _ _ _ h, if_pos rfl, if_pos rfl, Option.getD_some]
    · rw [ih (memPut_wf _ _ h) hd, memGet_memPut _ _ _ h, if_neg (fun hc => hi (Nat.add_left_cancel hc).symm), if_neg hi]

theorem batchOf_writeBatch_self (lk : Nat) (s : State) : batchOf lk (writeBatch lk s) = none := by
  unfold writeBatch
  split
  next h => exact h
  next =>
    refine List.find?_eq_none.mpr fun x hx => ?_
    have hx : x ∈ s.txn.batches ∧ (x.line != lk) = true := List.mem_filter.mp hx
    simpa using hx.2

theorem batchOf_writeBatch_other {k : Nat} (hk : k ≠ lk) (s : State) : batchOf k (writeBatch lk s) = batchOf k s := by
  unfold writeBatch
  split
  · rfl
  · refine (List.find?_filter ..).trans (List.find?_congr fun x _ => ?_)
    by_cases h : x.line = k <;> simp [h, hk]

theorem writeBatch_mem (h : batchOf lk s = some b) :
    (writeBatch lk s).mem = b.bytes.foldl (fun m e => memPut m (lk * 128 + e.1) e.2) s.mem := by
  simp only [writeBatch, h]
  rfl

/-- Writing a line's batch leaves what every byte reads as. -/
theorem lineByte_writeBatch (h : batchOf lk s = some b) (hm : MemInv s) (hd : (b.bytes.map (·.1)).Nodup)
    (hb : ∀ e ∈ b.bytes, e.1 < 128) (k : Nat) {i : Nat} (hi : i < 128) :
    lineByte k i (writeBatch lk s) = lineByte k i s := by
  by_cases hk : k = lk
  · subst hk
    rw [lineByte, batchOf_writeBatch_self, lineByte, h, writeBatch_mem h]
    exact memGet_foldl_memPut (k * 128) i b.bytes hm hd
  · have ho : ∀ e ∈ b.bytes, k * 128 + i ≠ lk * 128 + e.1 := fun e he hc => hk (by have := hb e he; omega)
    rw [lineByte, batchOf_writeBatch_other hk, lineByte, writeBatch_mem h, memGet_foldl_memPut_out b.bytes hm ho]

end

/-! ### Each event's condition chooses its branch -/

section

variable {s : State} {p tag lk seq obj : Nat} {h : Hdr} {k : TxKind} {t : Tx} {b : Batch} {o : OwnObj} {x : Hdr × TxKind}
  {w : GiveWait}

theorem request_duplicate (hl : portLive h.port s = true) (hp : portRolePeer h.port s = false)
    (ht : tagOpen h.port h.tag s = true) : request h k s = portReset h.port 5 (bump kTagDuplicate s) := by
  simp [request, hl, hp, ht]

theorem fenceDone_done (ht : portTag p tag s = some t) (hk : t.kind = .fence) (ha : t.ans = none)
    (he : earlierStores t s = false) : fenceDone p tag s = finishTx t .done [] s := by
  simp [fenceDone, ht, hk, ha, he]

theorem releaseRun_runs (ht : portTag p tag s = some t) (hw : t.wait = .release) (hk : t.kind ≠ .fence)
    (he : earlierStores t s = false) : releaseRun p tag s = (runTx t.id ([], setTx { t with wait := .none } s)).2 := by
  simp [releaseRun, ht, hw, hk, he]

theorem batchDue_writes (hb : batchOf lk s = some b) (hc : (crateOf (lkCrate lk) s).tier ≠ 0)
    (hw : tierWait (lkCrate lk) true (timeTo (b.at_ + batchNs) s) = .none) :
    batchDue lk s = writeBatch lk (timeTo (b.at_ + batchNs) s) := by
  have hc : (crateOf (lkCrate lk) (timeTo (b.at_ + batchNs) s)).tier ≠ 0 := hc
  simp only [batchDue, hb, if_neg hc, if_pos hw]

theorem writeBatch_now (lk : Nat) (s : State) : (writeBatch lk s).now = s.now := by
  unfold writeBatch
  split <;> rfl

theorem trackFreed_enters (hf : s.txn.stalled.find? (fun x => x.1.port == p) = some x) (ht : x.1.tag = tag)
    (hr : trackerRoom p s = true) :
    trackFreed p tag s = enterHome x.1 x.2 { s with txn := { s.txn with stalled := s.txn.stalled.erase x } } := by
  simp [trackFreed, hf, ht, hr]

theorem epochDrained_drains (ht : ∀ t ∈ s.txn.txs, t.src ≠ .port p) (hl : (portTx p s).lossScan = false)
    (hd : (portTx p s).draining = true) :
    epochDrained p s = modPortTx p (fun x => { x with draining := false }) s := by
  have hn : s.txn.txs.any (fun t => t.src == .port p) = false := List.any_eq_false.mpr fun t h => by simpa using ht t h
  simp [epochDrained, hn, hl, hd]

theorem peerAcked_notes (hl : portLive p s = true) (hp : portRolePeer p s = true) :
    peerAcked p seq s = modPortTx p (fun x => { x with msgAck := max x.msgAck (min seq x.msgTx) }) s := by
  simp [peerAcked, hl, hp]

theorem ownReverted_reverts (ho : ownOf obj s = some o) (ht : o.transit = true) :
    ownReverted obj s = ownRevert obj (timeTo o.expiry s) := by
  simp [ownReverted, ho, ht]

theorem giveRecallDone_runs (hw : s.vers.gives.find? (fun g => g.obj == obj) = some w)
    (ht : s.txn.txs.find? (fun t => t.src == .port w.port && t.tag == w.tag) = some t) :
    giveRecallDone obj s = runOwn true t.id s := by
  simp only [giveRecallDone, hw, ht]

end

/-- Settles O39: each event's conditions choose the branch of its rule; a batch that is written leaves its bytes in memory,
where the line reads them from then on. -/
theorem requestEventsComplete : Obligations.RequestEventsComplete := by
  unfold Obligations.RequestEventsComplete
  intro s port tag line seq obj t b o x w h data
  refine ⟨fun hl hp ht => ?_, fun ht hk ha he => ?_, fun ht hw hk he => ?_, fun hb hc hw => ?_, fun hf ht hr => ?_,
    fun ht hl hd => ?_, fun hl hp => ?_, fun ho ht => ?_, fun hg ht => ?_⟩
  · exact congrArg (fun u => Host.Outcome.next (tablesLost s (settle u))) (request_duplicate hl hp ht)
  · exact next_settle_congr (fenceDone_done ht hk ha he)
  · exact next_settle_congr (releaseRun_runs ht hw hk he)
  · refine ⟨_, next_settle_congr (batchDue_writes hb hc hw), writeBatch_now .., batchOf_writeBatch_self .., ?_⟩
    exact fun hm hd hlt k i hi => lineByte_writeBatch (s := timeTo (b.at_ + 64) s) hb hm hd hlt k hi
  · exact congrArg (fun u => Host.Outcome.next (tablesLost s (settle u))) (trackFreed_enters hf ht hr)
  · exact next_settle_congr (congrArg (tryBind port) (epochDrained_drains ht hl hd))
  · exact congrArg Host.Outcome.next (peerAcked_notes hl hp)
  · exact next_settle_congr (ownReverted_reverts ho ht)
  · exact next_settle_congr (giveRecallDone_runs hg ht)

end Sys2Proof.Machine

/-!
## A partner's request arrives, enters the tracker and is answered (R358, R360, R362, R386)
-/
namespace Sys2Proof.Machine

section

variable {h : Hdr} {k : TxKind} {s u : State} {g : Grant} {t : Tx} {st : Status} {data : List Byte} {m : Nat}

/-! ### Arrival -/

/-- A port's state once a request of it has arrived. -/
def arrived (h : Hdr) (s : State) : State := modPortTx h.port (fun x => { x with highest := h.seq }) s

theorem Arrives.enterTracker (a : Arrives h k s) : request h k s = enterTracker h k (arrived h s) := by
  have hr : trackerRoom h.port (arrived h s) = true := a.room
  have hh : homeFull (homeOf h.job h.addr (arrived h s)) (arrived h s) = false := a.home
  have hs : s.txn.stalled.any (fun x => x.1.port == h.port) = false :=
    List.any_eq_false.mpr fun x hx => by simpa using a.unqueued x (List.mem_append_left _ hx)
  have hj : s.txn.jammed.any (fun x => x.1.port == h.port) = false :=
    List.any_eq_false.mpr fun x hx => by simpa using a.unqueued x (List.mem_append_right _ hx)
  have ha : accept h k s = enterHome h k (arrived h s) := if_neg (by
    change ¬ (!trackerRoom h.port (arrived h s) || s.txn.stalled.any (fun x => x.1.port == h.port)) = true
    simp [hr, hs])
  have he : enterHome h k (arrived h s) = Machine.enterTracker h k (arrived h s) := if_neg (by
    change ¬ (homeFull (homeOf h.job h.addr (arrived h s)) (arrived h s) ||
      s.txn.jammed.any (fun x => x.1.port == h.port)) = true
    simp [hh, hj])
  simp [request, a.live, a.partner, a.fresh, ha, he]

/-- No response to a request of the job is paced (R546). -/
def Unpaced (job : Nat) (s : State) : Prop := ∀ j, activeJob job s = some j → j.2.iso.enable = false

theorem Unpaced.congr {job : Nat} (hu : Unpaced job s) (hj : u.pool.jobs = s.pool.jobs) : Unpaced job u := by
  intro j h
  rw [activeJob, hj] at h
  exact hu j h

/-! ### Answers -/

theorem respond_unpaced {port tag seq job op flags tc acc : Nat} (hu : Unpaced job s) :
    respond port tag seq job op flags tc acc st data s =
      send (.response port tag seq job (statusCode st) op flags tc data) s := by
  unfold respond
  extract_lets
  split
  next slot j h =>
    have hj : j.iso.enable = false := hu _ h
    simp only [hj, Bool.false_eq_true, if_false]
    rfl
  · rfl

/-- A partner's request as it starts: nothing of it is journalled, and it has not been combined with another. -/
structure FreshReq (h : Hdr) (t : Tx) : Prop where
  src : t.src = .port h.port
  tag : t.tag = h.tag
  seq : t.seq = h.seq
  job : t.job = h.job
  tc : t.tc = h.tc
  combined : t.combined = false
  jlines : t.jlines = []
  jseq : t.jseq = none

theorem newTx_fresh (h : Hdr) (k : TxKind) (g : Grant) (ps : List Part) (s : State) : FreshReq h (newTx h k g ps s) :=
  ⟨rfl, rfl, rfl, rfl, rfl, rfl, rfl, rfl⟩

/-- What an answered request leaves: it has left the tracker, its port's epoch has counted it, its response is sent. -/
def sentAnswer (h : Hdr) (op : Nat) (st : Status) (data : List Byte) (id : Nat) (ports : Tbl PortTx) (s : State) : State :=
  { s with
    txn := { s.txn with txs := s.txn.txs.filter (fun x => x.id != id), ports := ports }
    out := s.out ++ [.response h.port h.tag h.seq h.job (statusCode st) op 0 h.tc data] }

theorem sentAnswer_responds (h : Hdr) (op : Nat) (st : Status) (data : List Byte) (id : Nat) (ports : Tbl PortTx)
    (s : State) : Responds h op st data (sentAnswer h op st data id ports s) := by
  simp [Responds, sentAnswer]

theorem FreshReq.finishTx_eq (hf : FreshReq h t) (hu : Unpaced h.job s) (st : Status) (data : List Byte) :
    ∃ ports, finishTx t st data s = sentAnswer h t.opcode st data t.id ports s := by
  have hr : ∀ u : State, u.pool.jobs = s.pool.jobs →
      respond h.port h.tag h.seq h.job t.opcode 0 h.tc t.acc st data u =
        send (.response h.port h.tag h.seq h.job (statusCode st) t.opcode 0 h.tc data) u :=
    fun u hj => respond_unpaced (hu.congr hj)
  simp only [finishTx, completeTx, hf.src, hf.tag, hf.seq, hf.job, hf.tc, hf.combined, hf.jlines, hf.jseq,
    List.isEmpty_nil, Option.isNone_none, Bool.and_self, if_true, b2n, Bool.false_eq_true, if_false]
  rw [hr (delTx t.id (countExec h.port h.seq s)) rfl]
  unfold onlyIf
  split <;> exact ⟨_, rfl⟩

/-! ### Into the tracker -/

theorem Arrives.formatOk_arrived (a : Arrives h k s) : formatOk h k (arrived h s) = true := a.form

/-- A FENCE with no request before it completes at once. -/
theorem Arrives.fence (a : Arrives h .fence s) (hm : portMember h.port h.job s = some m) :
    request h .fence s = finishTx (newTx h .fence { noGrant with member := m } [] (arrived h s)) .done []
      (trackedFor h .fence m s) := by
  have hp : portMember h.port h.job (arrived h s) = some m := hm
  have ht : earlierStores (newTx h .fence { noGrant with member := m } [] (arrived h s))
      (addTx (newTx h .fence { noGrant with member := m } [] (arrived h s)) (arrived h s)) = false := by
    simp [earlierStores, addTx, arrived, modPortTx, setPortTx, a.alone]
  rw [a.enterTracker]
  simp only [Machine.enterTracker, a.formatOk_arrived, hp, ht, Bool.not_true, Bool.false_or, Bool.false_eq_true, if_false]
  rfl

theorem Arrives.contrib {c r ch f : Nat} {d : List Byte} (a : Arrives h (.contrib c r ch f d) s)
    (hm : portMember h.port h.job s = some m) :
    request h (.contrib c r ch f d) s = trackedFor h (.contrib c r ch f d) m s := by
  have hp : portMember h.port h.job (arrived h s) = some m := hm
  rw [a.enterTracker]
  simp only [Machine.enterTracker, a.formatOk_arrived, hp, Bool.not_true, Bool.false_or, Bool.false_eq_true, if_false]
  rfl

theorem Enters.own {op permit obj epoch : Nat} (a : Enters h (.own op permit obj epoch) s g)
    (ho : ownAddrOk h.job h.addr obj s = true) :
    request h (.own op permit obj epoch) s = tracked h (.own op permit obj epoch) g s := by
  have hg : checkPort h.port h.job h.addr (isChange (.own op permit obj epoch)) (arrived h s) = .ok g := a.grant
  have ho : ownAddrOk h.job h.addr obj (arrived h s) = true := ho
  rw [a.enterTracker]
  simp only [Machine.enterTracker, a.formatOk_arrived, hg, ho, Bool.not_true, Bool.and_false, Bool.false_or,
    Bool.false_eq_true, if_false]
  rfl

theorem Enters.region {op version fva : Nat} {current : Bool} (a : Enters h (.region op current version fva) s g) :
    request h (.region op current version fva) s =
      (runTx (arrived h s).txn.nextTx ([], tracked h (.region op current version fva) g s)).2 := by
  have hg : checkPort h.port h.job h.addr (isChange (.region op current version fva)) (arrived h s) = .ok g := a.grant
  have hi : (translate g.jslot h.addr (arrived h s)).txn.nextTx = (arrived h s).txn.nextTx := by
    obtain ⟨x, d, c, ht⟩ := translate_eq g.jslot h.addr (arrived h s)
    rw [ht]
  rw [a.enterTracker, ← hi]
  simp only [Machine.enterTracker, a.formatOk_arrived, hg, Bool.not_true, Bool.false_or, Bool.false_eq_true, if_false]
  rfl

end

end Sys2Proof.Machine

/-!
## What leaves the job table as it is

The tiers' moves, coherence and the version pool change no job.
-/
namespace Sys2Proof.Machine

/-! ### Iteration, poison, batches and the journal -/

section

variable {s : State}

theorem each_jobs {α : Type} {f : α → State → State} (hf : ∀ a s, (f a s).pool.jobs = s.pool.jobs) (l : List α)
    (s : State) : (each l f s).pool.jobs = s.pool.jobs :=
  each_induct (P := fun t => t.pool.jobs = s.pool.jobs) (fun a t h => (hf a t).trans h) l s rfl

theorem onlyIf_jobs {b : Bool} {f : State → State} (hf : (f s).pool.jobs = s.pool.jobs) :
    (onlyIf b f s).pool.jobs = s.pool.jobs := by
  cases b
  · rfl
  · exact hf

@[simp] theorem raise_jobs (src num plen payload : Nat) (s : State) :
    (raise src num plen payload s).pool.jobs = s.pool.jobs := by
  obtain ⟨d, o, h⟩ := raise_eq src num plen payload s
  rw [h]

@[simp] theorem ledger_jobs (src kind cls body : Nat) (s : State) :
    (ledger src kind cls body s).pool.jobs = s.pool.jobs := by
  unfold ledger
  exact onlyIf_jobs rfl

@[simp] theorem fatalRecord_jobs (n d : Nat) (s : State) : (fatalRecord n d s).pool.jobs = s.pool.jobs :=
  (raise_jobs ..).trans (ledger_jobs ..)

@[simp] theorem poisonLine_jobs (lk cause : Nat) (s : State) : (poisonLine lk cause s).pool.jobs = s.pool.jobs := by
  unfold poisonLine
  split
  · rfl
  extract_lets
  split
  · split
    · rfl
    · exact (raise_jobs ..).trans (fatalRecord_jobs ..)
  · exact ledger_jobs ..

theorem noteSlotErr_jobs (lk : Nat) (hard : Bool) (s : State) : (noteSlotErr lk hard s).pool.jobs = s.pool.jobs := by
  unfold noteSlotErr
  extract_lets
  split <;> rfl

@[simp] theorem meetLine_jobs (lk : Nat) (s : State) : (meetLine lk s).pool.jobs = s.pool.jobs := by
  unfold meetLine
  split
  · exact (poisonLine_jobs ..).trans (noteSlotErr_jobs ..)
  · rfl

@[simp] theorem meetCrate_jobs (ck : Nat) (s : State) :
    (meetCrate ck s).pool.jobs = s.pool.jobs := each_jobs meetLine_jobs ..

@[simp] theorem cleanLine_jobs (lk : Nat) (s : State) : (cleanLine lk s).pool.jobs = s.pool.jobs := by
  unfold cleanLine
  extract_lets
  split <;> rfl

@[simp] theorem writeBatch_jobs (lk : Nat) (s : State) : (writeBatch lk s).pool.jobs = s.pool.jobs := by
  unfold writeBatch
  split <;> rfl

@[simp] theorem writeBatchesOf_jobs (p : Nat → Bool) (s : State) : (writeBatchesOf p s).pool.jobs = s.pool.jobs :=
  each_jobs writeBatch_jobs ..

@[simp] theorem poke_jobs (lk off : Nat) (d : List (Option Byte)) (s : State) :
    (poke lk off d s).pool.jobs = s.pool.jobs := by
  unfold poke
  split <;> rfl

@[simp] theorem dirtyCrate_jobs (ck : Nat) (s : State) : (dirtyCrate ck s).pool.jobs = s.pool.jobs := by
  unfold dirtyCrate
  split <;> rfl

@[simp] theorem markCrate_jobs (ck : Nat) (s : State) : (markCrate ck s).pool.jobs = s.pool.jobs := by
  unfold markCrate
  split
  · rfl
  · split <;> rfl

theorem copyCrate_jobs (src dst : Nat) (s : State) : (copyCrate src dst s).pool.jobs = s.pool.jobs :=
  (meetCrate_jobs ..).trans (writeBatchesOf_jobs ..)

theorem journalRec_jobs (typ slot ext gen a b : Nat) (data : List Byte) (s : State) :
    (journalRec typ slot ext gen a b data s).2.pool.jobs = s.pool.jobs := congrArg Pool.jobs (sendPeer_poolStands ..).1

theorem journalLk_jobs (lk : Nat) (s : State) : (journalLk lk s).2.pool.jobs = s.pool.jobs := by
  unfold journalLk
  split
  · rfl
  · exact journalRec_jobs ..

theorem modItem_jobs (i : Nat) (f : Item → Item) (s : State) : (modItem i f s).pool.jobs = s.pool.jobs := by
  unfold modItem
  split <;> rfl

theorem noteMoved_jobs (hen : Option Nat) (c : Crate) (n : Nat) (s : State) :
    (noteMoved hen c n s).pool.jobs = s.pool.jobs := by
  unfold noteMoved
  extract_lets home from_ gate v
  have hg (l : Option Nat) (s : State) : (gate l s).pool.jobs = s.pool.jobs := by cases l <;> rfl
  have hv : v.pool.jobs = s.pool.jobs := by
    unfold v
    cases home <;> rfl
  split
  · exact hv
  · exact (hg ..).trans ((hg ..).trans hv)

/-! ### Moves, placement and fetches -/

@[simp] theorem trayCmd_jobs (n op flags count addr : Nat) (data : List Byte) (why : TrayWhy) (s : State) :
    (trayCmd n op flags count addr data why s).pool.jobs = s.pool.jobs := by
  unfold trayCmd
  exact onlyIf_jobs rfl

theorem moveCmds_jobs (ck tier loc : Nat) (s : State) : (moveCmds ck tier loc s).pool.jobs = s.pool.jobs := by
  have hc (b : Bool) (n op flags count addr : Nat) (data : List Byte) (why : TrayWhy) (s : State) :
      (onlyIf b (trayCmd n op flags count addr data why) s).pool.jobs = s.pool.jobs := 
    onlyIf_jobs (trayCmd_jobs ..)
  unfold moveCmds
  extract_lets
  split
  · split
    · exact trayCmd_jobs ..
    · exact (trayCmd_jobs ..).trans (hc ..)
  · exact (hc ..).trans (hc ..)

theorem startMoveTo_jobs (ck tier loc gen : Nat) (why : MoveWhy) (s : State) :
    (startMoveTo ck tier loc gen why s).pool.jobs = s.pool.jobs :=
  (moveCmds_jobs ..).trans ((meetCrate_jobs ..).trans (writeBatchesOf_jobs ..))

theorem regroup_jobs (ck : Nat) (s : State) : (regroup ck s).pool.jobs = s.pool.jobs := by
  obtain ⟨g, n, h⟩ := regroup_eq ck s
  rw [h]

theorem leaveLoc_jobs (ck tier loc : Nat) (s : State) : (leaveLoc ck tier loc s).pool.jobs = s.pool.jobs := by
  unfold leaveLoc
  extract_lets
  split <;> rfl

theorem vaultLoc_jobs (n : Nat) (s : State) : (vaultLoc n s).2.pool.jobs = s.pool.jobs := by
  unfold vaultLoc
  extract_lets x k
  split
  · rfl
  dsimp only [draw_eq]
  split
  · split
    · rfl
    · split <;> rfl
  · split <;> rfl

theorem moveTo_jobs (ck tier : Nat) (why : MoveWhy) (s : State) : (moveTo ck tier why s).2.pool.jobs = s.pool.jobs := by
  unfold moveTo
  extract_lets c s₁
  split
  · rfl
  split
  · split
    · exact (regroup_jobs ..).trans ((leaveLoc_jobs ..).trans (writeBatchesOf_jobs ..))
    · split
      · rfl
      next u _ =>
        have hv := vaultLoc_jobs u s
        split
        next hs => rwa [hs] at hv
        next v w hs =>
          rw [hs] at hv
          exact (startMoveTo_jobs ..).trans hv
  split
  · split
    · rfl
    · exact startMoveTo_jobs ..
  split
  · split
    · rfl
    · exact startMoveTo_jobs ..
  · rfl

theorem atticTrial_jobs (ck : Nat) (s : State) : (atticTrial ck s).2.2.pool.jobs = s.pool.jobs := by
  unfold atticTrial
  extract_lets job s₁
  split
  · rfl
  extract_lets s₂ _ s₃
  have h₁ : s₁.pool.jobs = s.pool.jobs := writeBatchesOf_jobs ..
  have h₃ : s₃.pool.jobs = s.pool.jobs := by
    unfold s₃
    split <;> exact h₁
  split <;> exact h₃

theorem demote_jobs (ck : Nat) (s : State) : (demote ck s).pool.jobs = s.pool.jobs := by
  have hm (t : State) (ht : t.pool.jobs = s.pool.jobs) : (moveTo ck tierCellar .place t).2.pool.jobs = s.pool.jobs :=
    (moveTo_jobs ..).trans ht
  have ha := atticTrial_jobs ck s
  unfold demote
  extract_lets c
  split
  · split
    next cls gen u hu =>
    have h₁ : u.pool.jobs = s.pool.jobs := by rw [hu] at ha; exact ha
    split
    · exact hm _ h₁
    · split
      · exact (startMoveTo_jobs ..).trans h₁
      · exact hm _ h₁
  · exact hm s rfl

theorem putCrate_jobs (ck tier loc : Nat) (s : State) :
    (putCrate ck tier loc s).2.pool.jobs = s.pool.jobs := regroup_jobs ..

theorem noteMaking_jobs (ck v : Nat) (s : State) : (noteMaking ck v s).pool.jobs = s.pool.jobs := rfl

theorem placeAt_jobs (shelf : Option Nat) (ck : Nat) (s : State) : (placeAt shelf ck s).2.pool.jobs = s.pool.jobs := by
  unfold placeAt
  split
  · exact putCrate_jobs ..
  split
  · split
    · rfl
    · split
      · exact (noteMaking_jobs ..).trans (demote_jobs ..)
      · rfl
  · split
    · exact putCrate_jobs ..
    · split
      · rfl
      · split
        · rfl
        · extract_lets s₁
          have h₁ : s₁.pool.jobs = s.pool.jobs := (noteMaking_jobs ..).trans (moveTo_jobs ..)
          clear_value s₁
          split
          · exact (putCrate_jobs ..).trans h₁
          · exact h₁

theorem placeNew_jobs (ck : Nat) (s : State) : (placeNew ck s).2.pool.jobs = s.pool.jobs := placeAt_jobs ..

theorem vaultDest_jobs (ck : Nat) (s : State) : (vaultDest ck s).2.pool.jobs = s.pool.jobs := by
  unfold vaultDest
  extract_lets c own
  clear_value own
  split
  · rfl
  split
  · rfl
  split
  · rfl
  split
  · rfl
  · exact moveTo_jobs ..

theorem addFetch_jobs (ck tier loc : Nat) (s : State) : (addFetch ck tier loc s).pool.jobs = s.pool.jobs := rfl

theorem fetchVault_jobs (ck : Nat) (s : State) : (fetchVault ck s).pool.jobs = s.pool.jobs := by
  have hv := vaultDest_jobs ck s
  unfold fetchVault
  extract_lets c
  split
  next hu =>
    rw [hu] at hv
    exact (addFetch_jobs ..).trans hv
  next hu =>
    rw [hu] at hv
    exact (addFetch_jobs ..).trans ((trayCmd_jobs ..).trans hv)

theorem fetchAttic_jobs (shelf : Option Nat) (ck : Nat) (s : State) :
    (fetchAttic shelf ck s).pool.jobs = s.pool.jobs := by
  cases shelf <;> rfl

theorem startFetch_jobs (ck : Nat) (s : State) : (startFetch ck s).pool.jobs = s.pool.jobs := by
  unfold startFetch
  split
  · rfl
  split
  · exact fetchAttic_jobs ..
  · exact fetchVault_jobs ..

/-! ### Coherent lines -/

theorem dropHolder_jobs (lk p : Nat) (s : State) : (dropHolder lk p s).pool.jobs = s.pool.jobs := by
  unfold dropHolder
  split
  · rfl
  split
  · rfl
  · extract_lets
    split <;> rfl

theorem loseHolder_jobs (lk p : Nat) (s : State) : (loseHolder lk p s).pool.jobs = s.pool.jobs := by
  unfold loseHolder
  split
  · rfl
  split
  · exact poisonLine_jobs ..
  · exact dropHolder_jobs ..

theorem sendSnoop_jobs (kind : SnpKind) (p lk : Nat) (discard all : Bool) (drainOf : Option Nat) (s : State) :
    (sendSnoop kind p lk discard all drainOf s).pool.jobs = s.pool.jobs := rfl

theorem invalidate_jobs (lk : Nat) (but : Option Nat) (discard : Bool) (drainOf : Option Nat) (s : State) :
    (invalidate lk but discard drainOf s).pool.jobs = s.pool.jobs := by
  unfold invalidate
  split
  · rfl
  extract_lets ports
  split
  next live dead _ =>
  extract_lets s₁ s₂ s₃
  have h₁ : s₁.pool.jobs = s.pool.jobs := each_jobs (fun p => loseHolder_jobs lk p) ..
  have h₂ : s₂.pool.jobs = s.pool.jobs := by
    unfold s₂
    split
    · split
      · exact (dropHolder_jobs ..).trans h₁
      · exact h₁
    · exact h₁
  have h₃ : s₃.pool.jobs = s.pool.jobs := 
    (each_jobs (fun p s => sendSnoop_jobs .inv p lk discard true drainOf s) ..).trans h₂
  split
  · exact h₃
  · exact h₃

theorem findWay_jobs (lk : Nat) (s : State) : (findWay lk s).2.pool.jobs = s.pool.jobs := by
  unfold findWay
  extract_lets
  split
  · rfl
  split
  · rfl
  · exact invalidate_jobs ..

theorem predict_jobs (lk : Nat) (atomicPort src : Option Nat) (s : State) :
    (predict lk atomicPort src s).pool.jobs = s.pool.jobs := by
  unfold predict
  extract_lets
  split
  · split <;> rfl
  · split
    · split
      · rfl
      · split <;> rfl
    · split <;> rfl

theorem cohPrep_jobs (lk : Nat) (src : Option Nat) (a : Access) (s : State) :
    (cohPrep lk src a s).2.pool.jobs = s.pool.jobs := by
  unfold cohPrep
  split
  · rfl
  split
  · split
    · have hw := findWay_jobs lk s
      split <;> (next hu => rw [hu] at hw; exact hw)
    · rfl
  · split
    · split
      · exact loseHolder_jobs ..
      · split
        · exact onlyIf_jobs rfl
        · rfl
    · split
      · extract_lets t
        have ht : t.pool.jobs = s.pool.jobs := invalidate_jobs ..
        split
        · exact ht
        · exact ht
      · rfl

/-! ### Regions and the version pool -/

theorem sweepForms_jobs (rid : Nat) (s : State) : (sweepForms rid s).pool.jobs = s.pool.jobs := by
  unfold sweepForms
  split
  · rfl
  · extract_lets
    refine each_induct (P := fun t => t.pool.jobs = s.pool.jobs) (fun ck t h => ?_) _ s rfl
    exact h

theorem retireVersions_jobs (rid : Nat) (s : State) : (retireVersions rid s).pool.jobs = s.pool.jobs := by
  unfold retireVersions
  split
  · rfl
  · exact sweepForms_jobs ..

theorem regionBind_jobs (judged draft : Bool) (job member rid v : Nat) (s : State) :
    (regionBind judged draft job member rid v s).2.2.pool.jobs = s.pool.jobs := by
  unfold regionBind
  split
  · rfl
  split
  · rfl
  split
  · rfl
  · exact retireVersions_jobs ..

theorem regionPublish_jobs (judged : Bool) (job member rid v : Nat) (b : Binding) (s : State) :
    (regionPublish judged job member rid v b s).2.2.pool.jobs = s.pool.jobs := by
  unfold regionPublish
  split
  · rfl
  split
  · rfl
  split
  · rfl
  split
  · rfl
  extract_lets
  split
  · rfl
  · exact retireVersions_jobs ..

theorem regionRebase_jobs (judged : Bool) (job member rid v : Nat) (b : Binding) (s : State) :
    (regionRebase judged job member rid v b s).2.2.pool.jobs = s.pool.jobs := by
  unfold regionRebase
  split
  · rfl
  split
  · rfl
  split
  · rfl
  · exact (retireVersions_jobs ..).trans (writeBatchesOf_jobs ..)

theorem draftCrate_jobs (rid idx : Nat) (b : Binding) (s : State) :
    (draftCrate rid idx b s).2.pool.jobs = s.pool.jobs := by
  unfold draftCrate
  split
  · rfl
  · rfl
  extract_lets _ f s₁ s₂ s₃ s₄
  split
  · rfl
  · have h₃ : s₃.pool.jobs = s.pool.jobs := copyCrate_jobs ..
    clear_value s₃
    change s₄.pool.jobs = _
    unfold s₄
    split
    · split
      · exact (journalRec_jobs ..).trans h₃
      · exact h₃
    · exact h₃

end

end Sys2Proof.Machine

/-!
## What an item's accesses, a contribution and a region's command leave of the job table
-/
namespace Sys2Proof.Machine

/-! ### An item's own accesses -/

section

variable {α β : Type} {s t : State} {x : Item} {a : Nat}

theorem jobs_of_pair {p : α × State} {b : α} (hp : p.2.pool.jobs = s.pool.jobs) (he : p = (b, t)) :
    t.pool.jobs = s.pool.jobs := by
  subst he
  exact hp

theorem ite_snd_jobs {p : Prop} [Decidable p] {u v : α × State} (hu : u.2.pool.jobs = s.pool.jobs)
    (hv : v.2.pool.jobs = s.pool.jobs) : (if p then u else v).2.pool.jobs = s.pool.jobs := by
  split
  · exact hu
  · exact hv

/-- A computation of an item that changes no job. -/
def SlJobs (m : Sl α) : Prop := ∀ s, (m s).2.pool.jobs = s.pool.jobs

theorem SlJobs.pure (a : α) : SlJobs (slPure a) := fun _ => rfl

theorem SlJobs.bind {m : Sl α} {f : α → Sl β} (hm : SlJobs m) (hf : ∀ a, SlJobs (f a)) : SlJobs (slBind m f) := by
  intro s
  unfold slBind
  have h := hm s
  split
  next he => exact (hf _ _).trans (jobs_of_pair h he)
  next he => exact jobs_of_pair h he
  next he => exact jobs_of_pair h he

theorem SlJobs.map {f : α → Sl β} (hf : ∀ a, SlJobs (f a)) (l : List α) : SlJobs (slMap f l) := by
  induction l with
  | nil => exact .pure _
  | cons a l ih => exact .bind (hf a) fun _ => .bind ih fun _ => .pure _

theorem holdFor_jobs (who : Holder) (item : Nat) (q : Want) (s : State) :
    (holdFor who item q s).pool.jobs = s.pool.jobs := by
  unfold holdFor
  exact onlyIf_jobs rfl

theorem SlJobs.run {m : Sl α} (hm : SlJobs m) (who : Holder) (item : Nat) : SlJobs (slRun who item m) := by
  intro s
  unfold slRun
  extract_lets old passed
  split
  · rfl
  · have h := hm (setRuns passed [] (setRunner (some who) s))
    split
    next q u he => exact (holdFor_jobs who item q u).trans (jobs_of_pair h he)
    next u he => exact (jobs_of_pair h he : u.pool.jobs = s.pool.jobs)
    next u he => exact (jobs_of_pair h he : u.pool.jobs = s.pool.jobs)

theorem countCheck_jobs (key : Nat) (s : State) : (countCheck key s).pool.jobs = s.pool.jobs := by
  unfold countCheck
  split <;> rfl

theorem translate_jobs (slot addr : Nat) (s : State) : (translate slot addr s).pool.jobs = s.pool.jobs := by
  obtain ⟨x, d, c, h⟩ := translate_eq slot addr s
  rw [h]

theorem slGrant_jobs (x : Item) (a : Nat) (write : Bool) (s : State) :
    (slGrant x a write s).2.pool.jobs = s.pool.jobs := by
  unfold slGrant
  split
  · extract_lets s₁
    split <;> rfl
  · split
    · exact countCheck_jobs ..
    · exact translate_jobs ..

theorem slPrepLine_jobs (x : Item) (own : Bool) (a : Nat) (d : List (Option Byte)) : SlJobs (slPrepLine x own a d) := by
  intro s
  have hg := slGrant_jobs x a true s
  unfold slPrepLine
  split
  next he => exact jobs_of_pair hg he
  next u he =>
  have h₁ : u.pool.jobs = s.pool.jobs := jobs_of_pair hg he
  extract_lets fresh idx bind drafting f g'
  clear_value bind drafting
  split
  · exact (onlyIf_jobs rfl).trans h₁
  split
  next form v he =>
  have h₂ : v.pool.jobs = s.pool.jobs := by
    refine jobs_of_pair ?_ he
    split
    · exact h₁
    · exact (draftCrate_jobs ..).trans h₁
    · exact h₁
  split
  · exact h₂
  extract_lets lk ck s₂ wait
  have h₃ : s₂.pool.jobs = s.pool.jobs := (onlyIf_jobs rfl).trans h₂
  clear_value s₂
  split
  next placed w he =>
  have h₄ : w.pool.jobs = s.pool.jobs := by
    refine jobs_of_pair ?_ he
    split
    · exact (placeNew_jobs ..).trans h₃
    · exact h₃
  refine ite_snd_jobs h₄ (ite_snd_jobs ((startFetch_jobs ..).trans h₄) (ite_snd_jobs h₄ (ite_snd_jobs h₄ ?_)))
  split
  next c y he =>
  have h₅ : y.pool.jobs = s.pool.jobs := by
    refine jobs_of_pair ?_ he
    split
    · exact (cohPrep_jobs ..).trans h₄
    · exact h₄
  extract_lets s₃ s₄
  have h₆ : s₄.pool.jobs = s.pool.jobs :=
    (onlyIf_jobs (meetLine_jobs ..)).trans ((onlyIf_jobs (predict_jobs ..)).trans h₅)
  exact ite_snd_jobs h₆ (ite_snd_jobs h₆ h₆)

theorem bump_jobs (key : Nat) (s : State) : (bump key s).pool.jobs = s.pool.jobs := rfl

/-- What the record of a journalled line leaves: its item waits for it (R126). -/
def lineJournalled (x : Item) (lk : Nat) (s : State) : State :=
  if journalled (lkExt lk) s then
    modItem x.order (fun y => { y with jseq := some (journalLk lk s).1 }) (journalLk lk s).2
  else s

theorem lineJournalled_jobs (x : Item) (lk : Nat) (s : State) : (lineJournalled x lk s).pool.jobs = s.pool.jobs := by
  unfold lineJournalled
  split
  · exact (modItem_jobs ..).trans (journalLk_jobs ..)
  · rfl

/-- A line as an item's write stores it. -/
def lineStored (whole : Bool) (lk off : Nat) (d : List (Option Byte)) (s : State) : State :=
  markCrate (lkCrate lk) (dirtyCrate (lkCrate lk) (runMoved lk d.length (poke lk off d (onlyIf whole (cleanLine lk) s))))

theorem lineStored_jobs (whole : Bool) (lk off : Nat) (d : List (Option Byte)) (s : State) :
    (lineStored whole lk off d s).pool.jobs = s.pool.jobs :=
  (markCrate_jobs ..).trans ((dirtyCrate_jobs ..).trans ((noteMoved_jobs ..).trans ((poke_jobs ..).trans
    (onlyIf_jobs (cleanLine_jobs ..)))))

theorem slApply_eq (x : Item) (lk off : Nat) (d : List (Option Byte)) (s : State) :
    slApply x (lk, off, d) s =
      let whole := off == 0 && d.length == 128 && d.all Option.isSome
      let t := lineJournalled x lk (lineStored whole lk off d s)
      onlyIf ((qcbAt lk t).isSome && (d.take (4 - off)).any Option.isSome) (bump kDoorbellUnordered) t := by
  unfold slApply lineJournalled lineStored
  rfl

theorem slApply_jobs (x : Item) (w : Nat × Nat × List (Option Byte)) (s : State) :
    (slApply x w s).pool.jobs = s.pool.jobs := by
  obtain ⟨lk, off, d⟩ := w
  rw [slApply_eq]
  extract_lets whole t
  have ht : t.pool.jobs = s.pool.jobs := (lineJournalled_jobs ..).trans (lineStored_jobs ..)
  clear_value t
  generalize ((qcbAt lk t).isSome && (d.take (4 - off)).any Option.isSome) = late
  exact (onlyIf_jobs (bump_jobs ..)).trans ht

theorem slWrite_jobs (x : Item) (own : Bool) (ws : List SlWrite) : SlJobs (slWrite x own ws) :=
  .bind (.map (fun _ => slPrepLine_jobs _ _ _ _) _) fun _ _ => each_jobs (slApply_jobs x) ..

end

/-! ### A contribution to a round (R245, R253 to R257) -/

section

theorem itemSliverEnd_jobs (i sliver : Nat) (st : Status) (s : State) :
    (itemSliverEnd i sliver st s).pool.jobs = s.pool.jobs := by
  unfold itemSliverEnd
  extract_lets s₁
  have h₁ : s₁.pool.jobs = s.pool.jobs := modItem_jobs ..
  split
  · exact h₁
  · exact (modItem_jobs ..).trans h₁

theorem roundFail_jobs (i unitN : Nat) (st : Status) (s : State) :
    (roundFail i unitN st s).pool.jobs = s.pool.jobs := by
  unfold roundFail
  split
  · rfl
  split
  · exact itemSliverEnd_jobs ..
  split
  · rfl
  · exact modItem_jobs ..

theorem noteExcluded_jobs (i excluded : Nat) (s : State) : (noteExcluded i excluded s).pool.jobs = s.pool.jobs :=
  modItem_jobs ..

theorem loseDelivery_jobs (i m : Nat) (s : State) : (loseDelivery i m s).pool.jobs = s.pool.jobs := by
  unfold loseDelivery
  split
  · rfl
  extract_lets c s₁ s₂
  split
  · rfl
  · exact (noteExcluded_jobs ..).trans (modItem_jobs ..)

theorem deliverTo_jobs (i sliver off : Nat) (es : List Nat) (m : Nat) (s : State) :
    (deliverTo i sliver off es m s).pool.jobs = s.pool.jobs := by
  unfold deliverTo
  split
  · rfl
  split
  · exact loseDelivery_jobs ..
  · rfl

theorem deliverAll_jobs (i c sliver off : Nat) (es : List Nat) (s : State) :
    (deliverAll i c sliver off es s).pool.jobs = s.pool.jobs := by
  unfold deliverAll
  split
  · rfl
  · exact each_jobs (deliverTo_jobs i sliver off es) ..

theorem modRound_jobs (c : Nat) (f : Round → Round) (s : State) : (modRound c f s).pool.jobs = s.pool.jobs := rfl

theorem noteRunning_jobs (c i sl : Nat) (s : State) : (noteRunning c i sl s).pool.jobs = s.pool.jobs := by
  unfold noteRunning
  split
  · split
    · exact onlyIf_jobs (modItem_jobs ..)
    · rfl
  · rfl

theorem finishChunk_jobs (c i : Nat) (k : Chunk) (s : State) : (finishChunk c i k s).pool.jobs = s.pool.jobs := by
  unfold finishChunk
  split
  · rfl
  next x _ =>
  extract_lets b upd n sl f code es w dst ws
  split
  · rfl
  split
  · exact roundFail_jobs ..
  have h := (slWrite_jobs x true ws).run (.engine i (2 ^ 32 + k.chunk)) i s
  split
  next he => exact jobs_of_pair h he
  next he => exact (roundFail_jobs ..).trans (jobs_of_pair h he)
  next u he =>
    extract_lets s₁
    have h₁ : s₁.pool.jobs = s.pool.jobs := (modRound_jobs ..).trans (jobs_of_pair h he)
    clear_value s₁
    split
    · exact (modItem_jobs ..).trans h₁
    · refine (noteRunning_jobs ..).trans ?_
      split
      · exact (deliverAll_jobs ..).trans h₁
      · exact h₁

theorem tryChunks_jobs (c : Nat) (s : State) : (tryChunks c s).pool.jobs = s.pool.jobs := by
  unfold tryChunks
  split
  · rfl
  split
  · rfl
  split
  · rfl
  extract_lets ms
  split
  · rfl
  split
  · exact roundFail_jobs ..
  · exact (modRound_jobs ..).trans (each_jobs (finishChunk_jobs c _) ..)

theorem addChunk_jobs (c m fmt : Nat) (p : Nat × List Nat) (s : State) :
    (addChunk c m fmt p s).pool.jobs = s.pool.jobs := rfl

theorem contribRun_jobs (c round chunk fmt m job : Nat) (coded : Bool) (d : List Byte) (s : State) :
    (contribRun c round chunk fmt m job coded d s).2.pool.jobs = s.pool.jobs := by
  unfold contribRun
  split
  · rfl
  next k _ =>
  split
  · rfl
  extract_lets live
  generalize (!live.contains round && (if live.isEmpty then roundOlder round k.next else
    live.all (fun r => roundOlder round r))) = late
  cases late with
  | true => rfl
  | false =>
    simp only [Bool.false_eq_true, if_false]
    split
    · rfl
    split
    · rfl
    split
    · rfl
    split
    · rfl
    split
    · rfl
    split
    · rfl
    · rfl
    exact ite_snd_jobs rfl (ite_snd_jobs rfl ((tryChunks_jobs ..).trans (each_jobs (addChunk_jobs c m fmt) ..)))

end

/-! ### A region's command (Table 4.3) -/

section

variable {s t : State}

theorem jobs_of_triple {p : Status × Nat × State} {st : Status} {n : Nat} (hp : p.2.2.pool.jobs = s.pool.jobs)
    (he : p = (st, n, t)) : t.pool.jobs = s.pool.jobs := by
  subst he
  exact hp

theorem ite_triple_jobs {p : Prop} [Decidable p] {u v : Status × Nat × State} (hu : u.2.2.pool.jobs = s.pool.jobs)
    (hv : v.2.2.pool.jobs = s.pool.jobs) : (if p then u else v).2.2.pool.jobs = s.pool.jobs := by
  split
  · exact hu
  · exact hv

theorem regionCmd_jobs (judged : Bool) (ext job member op : Nat) (current : Bool) (version : Nat) (s : State) :
    (regionCmd judged ext job member op current version s).2.pool.jobs = s.pool.jobs := by
  have hset (rid : Nat) : (retireVersions rid (setBinding job member rid none s)).pool.jobs = s.pool.jobs :=
    retireVersions_jobs ..
  have hbind (draft : Bool) (rid v : Nat) : (regionBind judged draft job member rid v s).2.2.pool.jobs = s.pool.jobs :=
    regionBind_jobs ..
  unfold regionCmd
  split
  · split
    · rfl
    extract_lets b v
    clear_value b v
    split
    next st n t he =>
    refine jobs_of_triple ?_ he
    split
    · exact ite_triple_jobs (hbind ..) (ite_triple_jobs (hbind ..) rfl)
    · split
      · exact ite_triple_jobs (regionPublish_jobs ..) (ite_triple_jobs (regionRebase_jobs ..)
          (ite_triple_jobs (ite_triple_jobs rfl (hset _)) rfl))
      · exact ite_triple_jobs (hbind ..) (ite_triple_jobs (hbind ..) (ite_triple_jobs (hset _) rfl))
  · rfl
  · rfl

end

end Sys2Proof.Machine

/-!
## FENCE, region, owned-object and contribution requests complete (R104 to R112, R119 to R123, R245, R367)
-/
namespace Sys2Proof.Machine

/-! ### The one open request -/

section

variable {h : Hdr} {k : TxKind} {s t u : State} {g : Grant} {x : Tx} {m op permit obj epoch key version fva : Nat}
  {current : Bool} {o n : OwnObj} {st : Status} {data : List Byte}

/-- A partner's fresh request is the one open request, and no response to its job is paced. -/
structure OnlyTx (h : Hdr) (k : TxKind) (x : Tx) (t : State) : Prop where
  txs : t.txn.txs = [x]
  fresh : FreshReq h x
  kind : x.kind = k
  opcode : x.opcode = opCodeOf k
  wait : x.wait = .none
  ans : x.ans = none
  unpaced : Unpaced h.job t

theorem OnlyTx.finishes (ht : OnlyTx h k x t) (hj : u.pool.jobs = t.pool.jobs) (st : Status) (data : List Byte) :
    Responds h (opCodeOf k) st data (finishTx x st data u) ∧ (finishTx x st data u).vers = u.vers := by
  obtain ⟨ports, he⟩ := ht.fresh.finishTx_eq (ht.unpaced.congr hj) st data
  rw [he, ht.opcode]
  exact ⟨sentAnswer_responds .., rfl⟩

theorem OnlyTx.txOf_eq (ht : OnlyTx h k x t) : txOf x.id t = some x := by
  simp [txOf, ht.txs]

theorem OnlyTx.earlierStores_eq (ht : OnlyTx h k x t) : earlierStores x t = false := by
  simp [earlierStores, ht.txs]

theorem OnlyTx.regionAhead_eq (ht : OnlyTx h k x t) : regionAhead x t = false := by
  simp [regionAhead, ht.txs]

theorem OnlyTx.ownLanding_eq (ht : OnlyTx h k x t) : ownLanding x key t = false := by
  simp [ownLanding, ht.txs]

theorem translate_stands (jslot addr : Nat) (s : State) :
    (translate jslot addr s).pool.extents = s.pool.extents ∧ (translate jslot addr s).txn = s.txn ∧
      (translate jslot addr s).now = s.now ∧ (translate jslot addr s).vers = s.vers := by
  obtain ⟨c, d, f, he⟩ := translate_eq jslot addr s
  rw [he]
  exact ⟨rfl, rfl, rfl, rfl⟩

/-- The request as the tracker holds it. -/
def trackedTx (h : Hdr) (k : TxKind) (g : Grant) (s : State) : Tx := newTx h k g [] (translate g.jslot h.addr (arrived h s))

theorem Arrives.onlyTx (a : Arrives h k s) (g : Grant) : OnlyTx h k (trackedTx h k g s) (tracked h k g s) := by
  obtain ⟨-, hn, -, -⟩ := translate_stands g.jslot h.addr (arrived h s)
  have htx : (translate g.jslot h.addr (arrived h s)).txn.txs = [] := (congrArg Txn.txs hn).trans a.alone
  have hj : (tracked h k g s).pool.jobs = s.pool.jobs := translate_jobs ..
  exact ⟨congrArg (· ++ [_]) htx, newTx_fresh .., rfl, rfl, rfl, rfl, (show Unpaced h.job s from a.unpaced).congr hj⟩

theorem Arrives.onlyTxFor (a : Arrives h k s) (m : Nat) :
    OnlyTx h k (newTx h k { noGrant with member := m } [] (arrived h s)) (trackedFor h k m s) :=
  ⟨congrArg (· ++ [_]) a.alone, newTx_fresh .., rfl, rfl, rfl, rfl, (show Unpaced h.job s from a.unpaced).congr rfl⟩

/-! ### A region's command -/

theorem journalled_of_unmirrored {ext : Nat} (hm : ∀ e, extOf ext s = some e → fMirror e = false) :
    journalled ext s = false := by
  unfold journalled
  split
  · rfl
  next e he => rw [hm e he, Bool.false_and, Bool.false_and, Bool.false_and]

theorem runRegion_unjournalled (hj : journalled x.ext t = false) :
    runRegion x op version current t =
      let r := regionCmd true x.ext x.job x.member op current version t
      finishTx x r.1.st (regionData op r.1) r.2 := by
  unfold runRegion
  simp only [hj, Bool.and_false, Bool.false_eq_true, if_false]
  split <;> rfl

theorem OnlyTx.runTx_region (ht : OnlyTx h (.region op current version fva) x t) (hj : journalled x.ext t = false) :
    (runTx x.id ([], t)).2 = runRegion x op version current t := by
  simp [runTx, ht.txOf_eq, ht.ans, ht.wait, ht.kind, ht.earlierStores_eq, ht.regionAhead_eq, mirrorHolds, hj]

theorem Enters.region_answers (a : Enters h (.region op current version fva) s g)
    (hm : ∀ e, extOf g.ext s = some e → fMirror e = false) :
    let t := tracked h (.region op current version fva) g s
    let r := regionCmd true g.ext h.job g.member op current version t
    let u := request h (.region op current version fva) s
    Responds h 0x20 r.1.st (regionData op r.1) u ∧ u.vers = r.2.vers := by
  intro t r u
  have ht : OnlyTx h (.region op current version fva) (trackedTx h _ g s) t := a.onlyTx g
  obtain ⟨hx, hn, -, -⟩ := translate_stands g.jslot h.addr (arrived h s)
  have he : extOf g.ext t = extOf g.ext s := congrArg (tget · g.ext) hx
  have hj : journalled (trackedTx h (.region op current version fva) g s).ext t = false :=
    journalled_of_unmirrored fun e h => hm e (he ▸ h)
  have hid : (trackedTx h (.region op current version fva) g s).id = (arrived h s).txn.nextTx :=
    congrArg Txn.nextTx hn
  have hu : u = finishTx (trackedTx h (.region op current version fva) g s) r.1.st (regionData op r.1) r.2 :=
    calc u = (runTx (arrived h s).txn.nextTx ([], t)).2 := a.region
      _ = _ := by
        rw [← hid, ht.runTx_region hj, runRegion_unjournalled hj]
        rfl
  rw [hu]
  exact ht.finishes (regionCmd_jobs ..) _ _

/-! ### An owned object's command -/

theorem ownExpire_of_standing (ho : ownOf key s = some o) (ht : o.transit = true → s.now ≤ o.expiry) :
    ownExpire key s = s := by
  have hn : (o.transit && decide (o.expiry < s.now)) = false := by
    cases hx : o.transit
    · rfl
    · simpa using ht hx
  simp [ownExpire, ho, hn]

theorem OnlyTx.runOwns_eq (ht : OnlyTx h k x t) : runOwns t = runOwn false x.id t := by
  simp [runOwns, ht.txs, each]

/-- An object's command as it is taken up, its object's transit not past its time. -/
theorem OnlyTx.runOwns_own (ht : OnlyTx h (.own op permit obj epoch) x t) (ho : ownOf (ownKey x.ext obj t) t = some o)
    (hx : o.transit = true → t.now ≤ o.expiry) :
    runOwns t =
      let key := ownKey x.ext obj t
      if op = 1 then runGive x h.port permit key epoch false t
      else if op = 2 then
        let r := takeCmd key x.member epoch t
        let changed := ownOf key r.2 != ownOf key t
        if changed && ownMirrorHolds o t then holdTx x .mirror t
        else ownAnswer x 2 key r.1 (if changed then some r.2 else none) t
      else ownAnswer x 3 key (queryCmd key x.member t) none t := by
  simp [ht.runOwns_eq, runOwn, ht.txOf_eq, ht.kind, ht.fresh.src, ht.ans, ownExpire_of_standing ho hx,
    ht.ownLanding_eq, ho]

theorem ownAnswer_change (ho : ownOf key t = some o) (hn : ownOf key u = some n) (hj : ownJournalled o t = false) :
    ownAnswer x op key st (some u) t = finishTx x st (ownData op key st u) u := by
  simp [ownAnswer, ho, hn, journalOwnAs, hj]

theorem dropGive_of_no_gives {port tag : Nat} (hg : s.vers.gives = []) : dropGive port tag s = s := by
  have hf : s.vers.gives.filter (fun g => !(g.port == port && g.tag == tag)) = s.vers.gives := by
    rw [hg]
    rfl
  unfold dropGive
  rw [hf]

theorem ownOf_setOwn_same (key : Nat) (n : OwnObj) (s : State) : ownOf key (setOwn key n s) = some n := by
  rw [ownOf_setOwn, if_pos rfl]

theorem giveFinish_sets (ho : ownOf key s = some o) : ∃ n, giveFinish key permit s = setOwn key n s := by
  unfold giveFinish
  rw [ho]
  exact ⟨_, rfl⟩

/-- TAKE leaves the object, or ends its transit (Table 4.6). -/
theorem takeCmd_cases (ho : ownOf key s = some o) (m epoch : Nat) :
    (takeCmd key m epoch s).2 = s ∨
      ∃ n, n ≠ o ∧ (takeCmd key m epoch s).2 = setOwn key n s := by
  unfold takeCmd
  rw [ho]
  dsimp only
  split
  next htr =>
    split
    · exact .inl rfl
    split
    · exact .inr ⟨_, fun hn => Bool.false_ne_true ((congrArg OwnObj.transit hn).trans htr), rfl⟩
    split <;> exact .inl rfl
  · split <;> exact .inl rfl

/-- A GIVE that nothing holds is carried out at once (R119, R120). -/
theorem OnlyTx.runGive_eq (ht : OnlyTx h k x t) (ho : ownOf key t = some o)
    (hc : giveCheck key x.member permit epoch (giveBusy o t) t = .done) (hw : ownWindows o t = false)
    (hm : ownMirrorHolds o t = false) (hj : ownJournalled o t = false) (hg : t.vers.gives = []) :
    let v := giveFinish key permit t
    runGive x h.port permit key epoch false t = finishTx x .done (ownData 1 key .done v) v := by
  obtain ⟨n, hn⟩ := giveFinish_sets (permit := permit) ho
  have hv : ownOf key (giveFinish key permit t) = some n := hn ▸ ownOf_setOwn_same key n t
  simp [runGive, ho, hc, ht.earlierStores_eq, hm, hw, dropGive_of_no_gives hg, ownAnswer_change ho hv hj]

theorem OnlyTx.give (ht : OnlyTx h (.own 1 permit obj epoch) x t) (ho : ownOf (ownKey x.ext obj t) t = some o)
    (hx : o.transit = true → t.now ≤ o.expiry)
    (hc : giveCheck (ownKey x.ext obj t) x.member permit epoch (giveBusy o t) t = .done) (hw : ownWindows o t = false)
    (hm : ownMirrorHolds o t = false) (hj : ownJournalled o t = false) (hg : t.vers.gives = []) :
    let v := giveFinish (ownKey x.ext obj t) permit t
    Responds h 0x21 .done (ownData 1 (ownKey x.ext obj t) .done v) (runOwns t) ∧ (runOwns t).vers = v.vers := by
  intro v
  have hv : v.pool.jobs = t.pool.jobs := by
    obtain ⟨n, hn⟩ := giveFinish_sets (permit := permit) ho
    exact (congrArg (fun u : State => u.pool.jobs) hn).trans rfl
  have hr : runOwns t = finishTx x .done (ownData 1 (ownKey x.ext obj t) .done v) v :=
    (ht.runOwns_own ho hx).trans (ht.runGive_eq ho hc hw hm hj hg)
  rw [hr]
  exact ht.finishes hv _ _

theorem OnlyTx.take (ht : OnlyTx h (.own 2 0 obj epoch) x t) (ho : ownOf (ownKey x.ext obj t) t = some o)
    (hx : o.transit = true → t.now ≤ o.expiry) (hm : ownMirrorHolds o t = false) (hj : ownJournalled o t = false) :
    let r := takeCmd (ownKey x.ext obj t) x.member epoch t
    Responds h 0x21 r.1 (ownData 2 (ownKey x.ext obj t) r.1 r.2) (runOwns t) ∧ (runOwns t).vers = r.2.vers := by
  intro r
  have hr : runOwns t = finishTx x r.1 (ownData 2 (ownKey x.ext obj t) r.1 r.2) r.2 := by
    rw [ht.runOwns_own ho hx]
    simp only [hm, Bool.and_false, Bool.false_eq_true, if_false, show ¬ 2 = 1 by decide, if_true]
    rcases takeCmd_cases ho x.member epoch with hs | ⟨n, hn, hs⟩
    · simp [r, hs, ownAnswer]
    · have hv := ownOf_setOwn_same (ownKey x.ext obj t) n t
      rw [← hs] at hv
      have hc : (ownOf (ownKey x.ext obj t) r.2 != ownOf (ownKey x.ext obj t) t) = true := by
        simp [r, hv, ho, hn]
      rw [if_pos hc, ownAnswer_change ho hv hj]
  have hv : r.2.pool.jobs = t.pool.jobs := by
    rcases takeCmd_cases ho x.member epoch with hs | ⟨n, -, hs⟩
    · exact congrArg (fun u : State => u.pool.jobs) hs
    · exact (congrArg (fun u : State => u.pool.jobs) hs).trans rfl
  rw [hr]
  exact ht.finishes hv _ _

theorem OnlyTx.query (ht : OnlyTx h (.own 3 0 obj 0) x t) (ho : ownOf (ownKey x.ext obj t) t = some o)
    (hx : o.transit = true → t.now ≤ o.expiry) :
    let st := queryCmd (ownKey x.ext obj t) x.member t
    Responds h 0x21 st (ownData 3 (ownKey x.ext obj t) st t) (runOwns t) ∧ (runOwns t).vers = t.vers := by
  intro st
  have hr : runOwns t = finishTx x st (ownData 3 (ownKey x.ext obj t) st t) t := ht.runOwns_own ho hx
  rw [hr]
  exact ht.finishes rfl _ _

/-! ### A contribution -/

/-- What runContribs does for one contribution. -/
def contribTaken (c r ch f : Nat) (data : List Byte) (x : Tx) (t : State) : State :=
  let v := bumpN kPortBlocksDecoded (if 16 ≤ f then codedBlocks 4 data else 0) t
  let a := contribRun c r ch (f % 16) x.member x.job (decide (16 ≤ f)) data v
  finishTx x a.1 [] a.2

theorem OnlyTx.runContribs_eq {c r ch f : Nat} (ht : OnlyTx h (.contrib c r ch f data) x t) :
    runContribs t = contribTaken c r ch f data x t := by
  have hf : t.txn.txs.filter (fun t => t.ans.isNone) = [x] := by simp [ht.txs, ht.ans]
  unfold runContribs
  rw [hf, each_cons, each_nil, ht.kind]
  rfl

theorem bumpN_jobs (key n : Nat) (s : State) : (bumpN key n s).pool.jobs = s.pool.jobs := rfl

theorem OnlyTx.contrib {c r ch f : Nat} (ht : OnlyTx h (.contrib c r ch f data) x t) :
    let v := bumpN kPortBlocksDecoded (if 16 ≤ f then codedBlocks 4 data else 0) t
    Responds h 0x28 (contribRun c r ch (f % 16) x.member h.job (decide (16 ≤ f)) data v).1 [] (runContribs t) := by
  intro v
  rw [ht.runContribs_eq, contribTaken, ht.fresh.job]
  exact (ht.finishes ((contribRun_jobs ..).trans (bumpN_jobs ..)) _ _).1

theorem tablesLost_of_no_table (ht : ∀ x ∈ t.txn.txs, x.wait ≠ .table) : tablesLost s t = t := by
  have hf : t.txn.txs.filter (fun x => x.wait == .table && decide (s.txn.nextTx ≤ x.id)) = [] :=
    List.filter_eq_nil_iff.mpr fun x hx => by simp [ht x hx]
  unfold tablesLost
  rw [hf]
  rfl

/-! ### A FENCE with nothing before it -/

theorem Arrives.fence_answers (a : Arrives h .fence s) (hm : portMember h.port h.job s = some m) :
    let u := request h .fence s
    Responds h 0x04 .done [] u ∧ u.txn.txs = [] ∧ u.mem = s.mem := by
  intro u
  have ht := a.onlyTxFor m
  obtain ⟨ports, he⟩ := ht.fresh.finishTx_eq ht.unpaced .done []
  have hu : u = sentAnswer h 0x04 .done [] _ ports (trackedFor h .fence m s) := (a.fence hm).trans he
  rw [hu]
  refine ⟨sentAnswer_responds .., ?_, rfl⟩
  change (trackedFor h .fence m s).txn.txs.filter _ = []
  simp [ht.txs]

/-! ### The statements -/

/-- The region instructions send the requests of Table 4.3. -/
theorem exec_region {c : Instr}
    (hc : (c, op, current, version) ∈
      [(.regionOpen h current version fva, opOpen, current, version), (.regionClose h fva, opClose, false, 0),
       (.regionDraft h current version fva, opDraft, current, version),
       (.regionPublish h version fva, opPublish, false, version),
       (.regionRebase h version fva, opRebase, false, version), (.regionDiscard h fva, opDiscard, false, 0)])
    (s : State) : exec c s = requestRow h (.region op current version fva) s := by
  simp only [List.mem_cons, List.not_mem_nil, or_false, Prod.mk.injEq] at hc
  rcases hc with ⟨rfl, rfl, -, -⟩ | ⟨rfl, rfl, rfl, rfl⟩ | ⟨rfl, rfl, -, -⟩ | ⟨rfl, rfl, rfl, -⟩ | ⟨rfl, rfl, rfl, -⟩ |
    ⟨rfl, rfl, rfl, rfl⟩ <;> rfl

/-- A frame's format as its contribution carries it: plus 16 where it is coded (R238). -/
theorem codedFmt {fmt : Nat} (hf : fmt < 16) (coded : Bool) :
    (fmt + (if coded then 16 else 0)) % 16 = fmt ∧ (16 ≤ fmt + (if coded then 16 else 0) ↔ coded = true) := by
  cases coded
  · simp [hf, Nat.mod_eq_of_lt hf]
  · simp [Nat.mod_eq_of_lt hf]

theorem Arrives.contrib_answers {coll round chunk fmt : Nat}
    (a : Arrives h (.contrib coll round chunk (fmt + (if h.coded then 16 else 0)) data) s) (hf : fmt < 16) :
    let t := trackedFor h (.contrib coll round chunk (fmt + (if h.coded then 16 else 0)) data) m s
    let v := bumpN kPortBlocksDecoded (if h.coded then codedBlocks 4 data else 0) t
    Responds h 0x28 (contribRun coll round chunk fmt m h.job h.coded data v).1 [] (runContribs t) := by
  obtain ⟨hm, hc⟩ := codedFmt hf h.coded
  have ha := (a.onlyTxFor m).contrib
  simp only [hm, hc, Bool.decide_eq_true] at ha
  exact ha

theorem tracked_now (h : Hdr) (k : TxKind) (g : Grant) (s : State) : (tracked h k g s).now = s.now :=
  (translate_stands g.jslot h.addr (arrived h s)).2.2.1

theorem tracked_vers (h : Hdr) (k : TxKind) (g : Grant) (s : State) : (tracked h k g s).vers = s.vers :=
  (translate_stands g.jslot h.addr (arrived h s)).2.2.2

end

/-- Settles O38: a request that arrives is answered by what its operation makes of the state that holds it as the one open
request; the operation changes no job, so the response is not paced. -/
theorem fencesRegionsAndOwnershipComplete : Obligations.FencesRegionsAndOwnershipComplete := by
  unfold Obligations.FencesRegionsAndOwnershipComplete
  intro h s g m op version fva obj permit epoch coll round chunk fmt current data
  refine ⟨fun a hm => ?_, fun c hc a hm => ?_, fun a ho => ?_, fun a ho => ?_, fun a ho => ?_, fun k hk a hm hf => ?_,
    fun t ht => tablesLost_of_no_table ht⟩
  · exact ⟨_, rfl, a.fence_answers hm⟩
  · exact ⟨_, exec_region hc s, a.region_answers hm⟩
  · exact ⟨congrArg (fun u => Host.Outcome.next (tablesLost s (settle u))) (a.own ho), fun o hk hx hc hw hm hj hg =>
      (a.onlyTx g).give hk (fun ht => (tracked_now ..).trans_le (hx ht)) hc hw hm hj
        ((congrArg Vers.gives (tracked_vers ..)).trans hg)⟩
  · exact ⟨congrArg (fun u => Host.Outcome.next (tablesLost s (settle u))) (a.own ho), fun o hk hx =>
      (a.onlyTx g).take hk (fun ht => (tracked_now ..).trans_le (hx ht))⟩
  · exact ⟨congrArg (fun u => Host.Outcome.next (tablesLost s (settle u))) (a.own ho), fun o hk hx =>
      (a.onlyTx g).query hk (fun ht => (tracked_now ..).trans_le (hx ht))⟩
  · subst hk
    exact ⟨congrArg (fun u => Host.Outcome.next (tablesLost s (settle u))) (a.contrib hm), a.contrib_answers hf⟩

end Sys2Proof.Machine

/-!
## The switch core's events: slices, re-pinning, readmission and the goose (R435, R442, R443, R445, R446, R449, R450)
-/
namespace Sys2Proof.Machine

/-! ### What is left of slices and attachments -/

section

variable {s t : State} {slice q a : Nat}

@[simp] theorem raise_sw (src num plen payload : Nat) (s : State) : (raise src num plen payload s).sw = s.sw := by
  obtain ⟨d, o, h⟩ := raise_eq src num plen payload s
  rw [h]

@[simp] theorem ledger_sw (src kind cls body : Nat) (s : State) : (ledger src kind cls body s).sw = s.sw := by
  unfold ledger onlyIf
  extract_lets
  split <;> rfl

theorem sliceOf_congr (h : t.sw = s.sw) (q : Nat) : sliceOf q t = sliceOf q s :=
  congrArg (fun w : Switch => tgetD w.slices q sliceDflt) h

theorem sliceOf_bump (key q : Nat) (s : State) : sliceOf q (bump key s) = sliceOf q s := rfl

theorem sliceOf_modSlice (k q : Nat) (f : Slice → Slice) (s : State) :
    sliceOf q (modSlice k f s) = if k = q then f (sliceOf k s) else sliceOf q s := sliceOf_setSlice ..

theorem sliceOf_modSlice_same (k : Nat) (f : Slice → Slice) (s : State) :
    sliceOf k (modSlice k f s) = f (sliceOf k s) :=
  (sliceOf_modSlice ..).trans (if_pos rfl)

theorem attachOf_modAttach_same (a : Nat) (f : Attach → Attach) (s : State) :
    attachOf a (modAttach a f s) = f (attachOf a s) := (attachOf_setAttach ..).trans (if_pos rfl)

/-! ### A cell time (Table 14.5) -/

/-- A slice's state once frames sent have entered and attachments out of service have left. -/
def cellStart (slice : Nat) (s : State) : State := settleAttach (matchWindow slice (portOut s))

theorem sliceCycle_twoStage (h : (sliceOf slice (cellStart slice s)).mode = .twoStage) :
    sliceCycle slice s = egress slice (cyclicCycle slice 16 16 (heldCells slice (cellStart slice s))) := by
  rw [cellStart] at h ⊢
  simp only [sliceCycle, h]

theorem sliceCycle_joining (h : (sliceOf slice (cellStart slice s)).mode = .joining) :
    let v := cyclicCycle slice 1 16 (sheepdogCycle slice 15 (cellStart slice s))
    sliceCycle slice s =
      egress slice (if lanesEmpty slice v then modSlice slice (fun x => { x with mode := .sheepdog }) v else v) := by
  rw [cellStart] at h ⊢
  simp only [sliceCycle, h, onlyIf]

theorem sliceCycle_sheepdog (h : (sliceOf slice (cellStart slice s)).mode = .sheepdog) :
    let u := cellStart slice s
    sliceCycle slice s = egress slice
      (if anyCyclic u then cyclicCycle slice 1 1 (sheepdogCycle slice 15 u) else sheepdogCycle slice 16 u) := by
  rw [cellStart] at h ⊢
  simp only [sliceCycle, h]

theorem exec_cellTime (h : slice < 4) (s : State) : exec (.cellTime ⟨slice, none⟩) s = .next (sliceCycle slice s) :=
  congrArg Host.Outcome.next (if_pos h)

theorem exec_cellTime_badCell (c : Nat) (s : State) :
    exec (.cellTime ⟨slice, some c⟩) s = exec (.cellTime ⟨slice, none⟩) (settle (cellBad c s)) := rfl

/-! ### A fault of the Sheepdog and the return from it (R449) -/

theorem sliceOf_sheepdogFault (slice q : Nat) (s : State) :
    sliceOf q (sheepdogFault slice s) = if slice = q then
      { sliceOf slice s with
        mode := .twoStage, gptr := [], aptr := [], sptr := 0, faultAt := some s.now, tested := false }
    else sliceOf q s := by
  unfold sheepdogFault
  rw [sliceOf_congr ((raise_sw ..).trans (ledger_sw ..)), sliceOf_bump, sliceOf_modSlice]

theorem exec_sheepdogFault (h : slice < 4) (s : State) :
    exec (.sheepdogFault slice) s = .next (sheepdogFault slice s) := congrArg Host.Outcome.next (if_pos h)

theorem exec_sheepdogReturn (h : slice < 4) (s : State) :
    exec (.sheepdogReturn slice) s = .next (sheepdogReturn slice s) := congrArg Host.Outcome.next (if_pos h)

theorem sheepdogReturn_eq {t : Nat} (h : (sliceOf slice s).faultAt = some t) :
    sheepdogReturn slice s = sliceJoins slice
      (modSlice slice (fun x => { x with faultAt := none, tested := true }) (timeTo (t + 100 * nsUs) s)) := by
  simp only [sheepdogReturn, h]

/-- The self-test stands passed again and no fault remains, so that a two-stage slice joins. -/
theorem sliceOf_sheepdogReturn {t : Nat} (h : (sliceOf slice s).faultAt = some t)
    (hm : (sliceOf slice s).mode = .twoStage) :
    sliceOf slice (sheepdogReturn slice s) =
      { sliceOf slice s with mode := .joining, faultAt := none, tested := true } := by
  rw [sheepdogReturn_eq h, sliceJoins, sliceOf_modSlice_same, sliceOf_modSlice_same,
    sliceOf_congr (s := s) (by simp)]
  simp [hm]

theorem sheepdogReturn_now {t : Nat} (h : (sliceOf slice s).faultAt = some t) :
    (sheepdogReturn slice s).now = max s.now (t + 100 * nsUs) := by
  rw [sheepdogReturn_eq h]
  rfl

/-! ### Re-pinning (R435) -/

theorem bucketDrained_last {b a to_ : Nat} (hm : s.sw.moving.find? (fun m => m.1 == b) = some (b, a, to_))
    (hf : s.sw.frames.any (inBucket b a) = false) (hp : s.sw.planned = []) :
    bucketDrained b s = bump kRepins { s with sw := {
      s.sw with
      frames := s.sw.frames.map (fun f => if inBucket b to_ f then { f with barrier := false } else f)
      moving := s.sw.moving.filter (fun m => m.1 != b) } } := by
  simp only [bucketDrained, hm, hf, Bool.false_eq_true, if_false]
  simp [bump, bumpi, rseti, hp]

/-- Cells that a slice matched in its last whole 100 µs. -/
def matchedLoad (s : State) (i : Nat) : Nat :=
  let x := sliceOf i s
  if x.matchedAt + 100 * nsUs ≤ s.now then x.matched else x.matchedLast

/-- The first slice above the mean of the four by more than a quarter. -/
def hotSlice (s : State) : Option Nat :=
  (List.range 4).find? fun i =>
    5 * (matchedLoad s 0 + matchedLoad s 1 + matchedLoad s 2 + matchedLoad s 3) < 16 * matchedLoad s i

/-- The least loaded slice. -/
def coldSlice (s : State) : Nat :=
  (List.range 4).foldl (fun b i => if matchedLoad s i < matchedLoad s b then i else b) 0

/-- The check's count of cells by bucket begins anew. -/
def clearBusy (s : State) : State := { s with sw := { s.sw with busy := [] } }

theorem rebalance_level (hr : rget kRebalance s ≠ 0) (hh : hotSlice s = none) : rebalance s = clearBusy s := by
  unfold rebalance
  rw [if_neg hr]
  extract_lets _ _ hot _ _ s'
  have hs : s' = s := by
    unfold s'
    rw [show hot = none from hh]
  exact congrArg clearBusy hs

theorem rebalance_hot {h b : Nat} {r : List Nat} (hr : rget kRebalance s ≠ 0) (hh : hotSlice s = some h)
    (hb : busiest h 4 s = b :: r) (hm : s.sw.moving = []) :
    rebalance s = clearBusy (startRepin b (coldSlice s)
      { s with sw := { s.sw with planned := s.sw.planned ++ r.map (fun x => (x, coldSlice s)) } }) := by
  unfold rebalance
  rw [if_neg hr]
  extract_lets _ _ hot _ _ s'
  have hs : s' = startRepin b (coldSlice s)
      { s with sw := { s.sw with planned := s.sw.planned ++ r.map (fun x => (x, coldSlice s)) } } := by
    unfold s'
    rw [show hot = some h from hh]
    simp only [hb, List.map_cons]
    exact if_pos (List.isEmpty_iff.mpr hm)
  exact congrArg clearBusy hs

/-! ### Readmission (Table 14.6) -/

theorem attachOf_rejoin (a : Nat) (s : State) :
    attachOf a (rejoin a s) = { attachOf a s with re := .cyclic, warm := 0, warmAt := s.now } :=
  attachOf_modAttach_same a (fun x => { x with re := .cyclic, warm := 0, warmAt := s.now }) s

theorem readmit_eq_rejoin (ha : a < attachments) (hs : inService a s = true) (hc : isCyclic a s = false) :
    readmit a s = rejoin a s := by
  simp [readmit, ha, hs, hc]

/-- WARM_CELLS has been reached, or time goes on to WARM_US. -/
theorem warmReached_cyclic (h : (attachOf a s).re = .cyclic) :
    warmReached a s = modAttach a (fun x => { x with re := .joining })
      (if rget kWarmCells s ≤ (attachOf a s).warm then s
        else timeTo ((attachOf a s).warmAt + rget kWarmUs s * nsUs) s) := by
  simp [warmReached, h]

theorem attachOf_warmReached (h : (attachOf a s).re = .cyclic) :
    attachOf a (warmReached a s) = { attachOf a s with re := .joining } := by
  rw [warmReached_cyclic h, attachOf_modAttach_same]
  split <;> rfl

theorem warmReached_now (h : (attachOf a s).re = .cyclic) :
    (warmReached a s).now = if rget kWarmCells s ≤ (attachOf a s).warm then s.now
      else max s.now ((attachOf a s).warmAt + rget kWarmUs s * nsUs) := by
  rw [warmReached_cyclic h]
  split <;> rfl

theorem joiningDone_empty (h : (attachOf a s).re = .joining) (hf : ∀ f ∈ s.sw.frames, onPath f = false) :
    joiningDone a s = modAttach a (fun x => { x with re := .normal, warm := 0 }) s := by
  have hn : s.sw.frames.any (fun f => onPath f && (f.ingress == a || f.dest == a)) = false :=
    List.any_eq_false.mpr fun f hm => by simp [hf f hm]
  simp [joiningDone, h, hn]

/-! ### The goose (R450) -/

theorem exec_gooseSweep {bank : Nat} (h : bank < 4) (s : State) :
    exec (.gooseSweep bank) s = .next (gooseSweep bank s) := congrArg Host.Outcome.next (if_pos h)

theorem bumpN_sw (key n : Nat) (s : State) : (bumpN key n s).sw = s.sw := rfl

/-- A bank none of whose cells was ever used has nothing to mend: the sweep counts itself. -/
theorem gooseSweep_unused {bank : Nat} (hf : s.sw.frames = []) (hc : tgetD s.sw.freshCells bank 0 = 0)
    (hl : tgetD s.sw.freeCells bank [] = []) (ha : ∀ x, (attachOf x s).g = 0 ∧ (attachOf x s).s = 0) :
    gooseSweep bank s = bump kGooseSweeps { bumpN kGooseLeaks 0 s with sw := {
      s.sw with
      freeCells := tput s.sw.freeCells bank []
      suspects := tput s.sw.suspects bank [] } } := by
  have hr (x : Nat) : (tgetD s.sw.attach x attachDflt).g = 0 ∧ (tgetD s.sw.attach x attachDflt).s = 0 := ha x
  simp [gooseSweep, attachOf, bumpN_sw, hf, hc, hl, hr, lsum]

/-- GOOSE_SWEEPS is a 64-bit counter. -/
theorem regMax_kGooseSweeps : regMax kGooseSweeps = 2 ^ 64 - 1 := by decide

theorem rget_bumpN (key n key' : Nat) (s : State) :
    rget key' (bumpN key n s) = if key = key' then min (rget key s + n) (regMax key) else rget key' s :=
  rget_rset ..

/-- A sweep of an unused bank counts itself, and no leak. -/
theorem rget_gooseSweep_unused {bank : Nat} (hf : s.sw.frames = []) (hc : tgetD s.sw.freshCells bank 0 = 0)
    (hl : tgetD s.sw.freeCells bank [] = []) (ha : ∀ x, (attachOf x s).g = 0 ∧ (attachOf x s).s = 0) :
    rget kGooseSweeps (gooseSweep bank s) = min (2 ^ 64 - 1) (rget kGooseSweeps s + 1) := by
  have hk : rget kGooseSweeps (bumpN kGooseLeaks 0 s) = rget kGooseSweeps s :=
    (rget_bumpN ..).trans (if_neg (by decide))
  rw [gooseSweep_unused hf hc hl ha, rget_bump, if_pos rfl, regMax_kGooseSweeps, Nat.min_comm, ← hk]
  rfl

end

end Sys2Proof.Machine

/-!
## Policers and gate lists (R466, R471, R475 to R477, Table 15.4)
-/
namespace Sys2Proof.Machine

section

variable {s : State} {p c l : Nat} {f : Frame}

/-! ### A red frame metered again (R466) -/

theorem redRemeter_filled (hf : s.sw.frames.find? (fun f => f.red && f.ingress == p && f.own == c) = some f)
    (ht : f.bytes * 1000 ≤ (meterNow p c s).tp) : redRemeter p c s = remeterAll p c s := by
  simp [redRemeter, hf, Nat.not_lt.mpr ht]

theorem redRemeter_waits (hf : s.sw.frames.find? (fun f => f.red && f.ingress == p && f.own == c) = some f)
    (hp : polOn (polRec p c s) = true) (ht : (meterNow p c s).tp < f.bytes * 1000) (hr : polPir (polRec p c s) ≠ 0) :
    redRemeter p c s = remeterAll p c
      (timeTo (s.now + cdiv (f.bytes * 1000 - (meterNow p c s).tp) (polPir (polRec p c s))) s) := by
  simp [redRemeter, hf, hp, ht, hr]

/-! ### A gate list's time is reached (R475, R476) -/

theorem gateSwitch_pending (hs : (gateOf l s).st = .pending) (hc : (gateOf l s).closing = false) :
    let g := gateOf l s
    gateSwitch l s = gateEnter l 0 g.t
      (gateTo l { g with st := .running, oper := g.pend, pend := 0, closing := false } (timebaseTo g.t s)) := by
  simp [gateSwitch, hs, hc, show (GSt.pending == GSt.swapping) = false from rfl]

theorem gateSwitch_swapping (hs : (gateOf l s).st = .swapping) (hc : (gateOf l s).closing = false) :
    let g := gateOf l s
    let cut := (g.t - gtBase g.oper) % gtCycle g.oper != 0
    gateSwitch l s = gateEnter l 0 g.t
      (gateTo l { g with st := .running, oper := g.pend, pend := 0, closing := false }
        (onlyIf cut (bump kGateTruncated) (bump kGateChanges (timebaseTo g.t s)))) := by
  simp [gateSwitch, hs, hc]

/-! ### An entry of a running list ends (R471) -/

section

variable (hs : (gateOf l s).st = .running) (hn : (gateOf l (timebaseTo (gateOf l s).entryEnd s)).stepped = false)
include hs hn

theorem gateEntryEnd_next (he : (gateOf l s).entry + 1 < gtCount (gateOf l s).oper) :
    let g := gateOf l s
    gateEntryEnd l s = gateEnter l (g.entry + 1) g.entryEnd (timebaseTo g.entryEnd s) := by
  simp [gateEntryEnd, hs, hn, he]

theorem gateEntryEnd_closing (he : gtCount (gateOf l s).oper ≤ (gateOf l s).entry + 1)
    (hc : (gateOf l s).closing = true) :
    gateEntryEnd l s = gateTo l { gateDflt with st := .none } (timebaseTo (gateOf l s).entryEnd s) := by
  simp [gateEntryEnd, hs, hn, Nat.not_lt.mpr he, hc]

theorem gateEntryEnd_cycle (he : gtCount (gateOf l s).oper ≤ (gateOf l s).entry + 1)
    (hc : (gateOf l s).closing = false) :
    let g := gateOf l s
    gateEntryEnd l s = gateEnter l 0 g.entryEnd (timebaseTo g.entryEnd s) := by
  simp [gateEntryEnd, hs, hn, Nat.not_lt.mpr he, hc]

end

end

/-! ### The statement -/

/-- Settles O52: each event's row is its machine's rule, and a clause's hypotheses choose the rule's branch. -/
theorem switchAndTrafficEventsComplete : Obligations.SwitchAndTrafficEventsComplete := by
  unfold Obligations.SwitchAndTrafficEventsComplete
  refine ⟨fun s slice bucket a to_ link bank t c => ⟨fun hs => ⟨?cellTime, exec_cellTime_badCell c s, ?fault,
      fun hf hm => ?returns⟩, fun hm hf hp => ?drained, fun hr => ⟨fun hh => ?level, fun h b r hh hb hm => ?hot⟩,
      fun hl hi hc => ?readmit, fun hc => ?warm, fun hj hf => ?joining, fun hb hf hc hl ha => ?goose⟩,
    fun s p c l f => ⟨fun hf _ ht => ?filled, fun hf hp ht hr => ?waits, fun hs hc => ?pending,
      fun hs hc => ?swapping,
      fun hs hn => ⟨fun he => ?onward, fun he hc => ?closing, fun he hc => ?cycle⟩⟩⟩
  case cellTime =>
    intro u v
    rw [exec_cellTime hs]
    cases hm : (sliceOf slice u).mode with
    | twoStage => exact congrArg Host.Outcome.next (sliceCycle_twoStage hm)
    | joining => exact congrArg Host.Outcome.next (sliceCycle_joining hm)
    | sheepdog => exact congrArg Host.Outcome.next (sliceCycle_sheepdog hm)
  case fault =>
    have hx := (sliceOf_sheepdogFault slice slice s).trans (if_pos rfl)
    exact ⟨_, exec_sheepdogFault hs s, congrArg Slice.mode hx, congrArg Slice.faultAt hx, congrArg Slice.tested hx,
      fun q hq => (sliceOf_sheepdogFault slice q s).trans (if_neg hq.symm)⟩
  case returns =>
    have hx := sliceOf_sheepdogReturn hf hm
    exact ⟨_, exec_sheepdogReturn hs s, congrArg Slice.mode hx, congrArg Slice.faultAt hx, sheepdogReturn_now hf⟩
  case drained => exact congrArg Host.Outcome.next (bucketDrained_last hm hf hp)
  case level => exact congrArg Host.Outcome.next (rebalance_level hr hh)
  case hot => exact congrArg Host.Outcome.next (rebalance_hot hr hh hb hm)
  case readmit =>
    have hx := attachOf_rejoin link s
    exact ⟨_, congrArg Host.Outcome.next (readmit_eq_rejoin hl hi hc), congrArg Attach.re hx, congrArg Attach.warm hx,
      congrArg Attach.warmAt hx⟩
  case warm => exact ⟨_, rfl, attachOf_warmReached hc, warmReached_now hc⟩
  case joining => exact congrArg Host.Outcome.next (joiningDone_empty hj hf)
  case goose =>
    have hg := gooseSweep_unused hf hc hl ha
    refine ⟨_, exec_gooseSweep hb s, rget_gooseSweep_unused hf hc hl ha, ?_, ?_⟩
    · rw [hg]
      exact hf
    · rw [hg]
      rfl
  case filled => exact congrArg Host.Outcome.next (redRemeter_filled hf ht)
  case waits => exact congrArg Host.Outcome.next (redRemeter_waits hf hp ht hr)
  case pending => exact congrArg Host.Outcome.next (gateSwitch_pending hs hc)
  case swapping => exact congrArg Host.Outcome.next (gateSwitch_swapping hs hc)
  case onward => exact congrArg Host.Outcome.next (gateEntryEnd_next hs hn he)
  case closing => exact congrArg Host.Outcome.next (gateEntryEnd_closing hs hn he hc)
  case cycle => exact congrArg Host.Outcome.next (gateEntryEnd_cycle hs hn he hc)

end Sys2Proof.Machine

/-!
## The traffic-class objects as they are written (R458, R463, R468, R470, R472, R475, Table 15.4)
-/
namespace Sys2Proof.Machine

section

variable {s : State} {v i : Nat}

theorem commitTcMap_inRange (h : ∀ c, c < 8 → fld v (2 * c + 1) (2 * c) ≠ 3) :
    commitTcMap v s = (.done, post16 kTcResult .done (rset kTcMap v s)) := by
  have hn : (List.range 8).any (fun c => fld v (2 * c + 1) (2 * c) == 3) = false :=
    List.any_eq_false.mpr fun c hc => by simpa using h c (List.mem_range.mp hc)
  simp only [commitTcMap, hn, Bool.false_eq_true, if_false, tcPost]

theorem commitQuantum_inRange
    (h : ∀ c, c < 8 → 17 ≤ fld v (16 * c + 15) (16 * c) ∧ fld v (16 * c + 15) (16 * c) ≤ 4096) :
    commitQuantum v s = (.done, post16 kTcResult .done (rset kQuantum v s)) := by
  have ha : (List.range 8).all (fun c =>
      decide (17 ≤ fld v (16 * c + 15) (16 * c)) && decide (fld v (16 * c + 15) (16 * c) ≤ 4096)) = true :=
    List.all_eq_true.mpr fun c hc => by simpa using h c (List.mem_range.mp hc)
  simp only [commitQuantum, ha, if_true, tcPost]

theorem commitPolicer_ok (h : policerBad v = false) :
    commitPolicer i v s =
      (.done, post16 kTcResult .done (remeterAll (i / 8) (i % 8) (setMeter (i / 8) (i % 8)
        { meterNow (i / 8) (i % 8) s with tc := polCbs v * 1000, tp := polPbs v * 1000 } (rseti kPolicer i v s)))) :=
  if_neg (Bool.eq_false_iff.mp h)

theorem commitShaper_ok (hv : shaperBad v = false)
    (hi : isoAll (rseti kShaper i v (setShaper (i / 8) (i % 8)
      { shaperNow (i / 8) (i % 8) s with tokens := 0, waitFrom := none } s)) = true) :
    commitShaper i v s = (.done, post16 kTcResult .done (rseti kShaper i v (setShaper (i / 8) (i % 8)
      { shaperNow (i / 8) (i % 8) s with tokens := 0, waitFrom := none } s))) := by
  simp only [commitShaper, hv, hi, Bool.not_true, Bool.or_self, Bool.false_eq_true, if_false, tcPost]

/-- R472: a commit is taken unless the list has entries and is not well formed. -/
theorem gateCommitStatus_status (l : Nat) (s : State) :
    (gateCommitStatus l s).1 =
      if gtCount (rgeti kGateAdmin l s) = 0 ∨ gateRecOk l (rgeti kGateAdmin l s) s = true then .done
      else .refusedFormat := by
  by_cases h0 : gtCount (rgeti kGateAdmin l s) = 0
  · rw [gateCommitStatus, if_pos h0, if_pos (.inl h0)]
    cases (gateOf l s).st <;> rfl
  · cases hr : gateRecOk l (rgeti kGateAdmin l s) s <;> simp [gateCommitStatus, h0, hr]

/-- What a session has heard is nothing that a commit of a gate list asks about. -/
theorem gateCommitStatus_heard (rq : Req) (x : Session) (l : Nat) (s : State) :
    (gateCommitStatus l (heard rq x s)).1 = (gateCommitStatus l s).1 := by
  rw [gateCommitStatus_status, gateCommitStatus_status]
  rfl

theorem commitGate_done (hv : v ≤ 15) (hd : (gateCommitStatus v s).1 = .done) :
    commitGate v s = (.done, post16 kGateResult .done (gateCommitStatus v s).2) := by
  simp only [commitGate, if_pos hv, hd]

/-- 0xFF names no gate list, so a port is freed of its list whatever the lists hold. -/
theorem commitPortGate_none (p : Nat) (s : State) :
    commitPortGate p 0xFF s = (.done, post16 kTcResult .done (rseti kPortGateList p 0xFF
      { s with traf := { s.traf with portGate := tput s.traf.portGate p 0xFF } })) := rfl

end

/-- Settles O15: each object's commit is its own branch, and the state that has heard the request meets the branch's
conditions as before. -/
theorem trafficWritesTakeEffect : Obligations.TrafficWritesTakeEffect := by
  unfold Obligations.TrafficWritesTakeEffect
  intro rq x s v t ip ish ok sh
  refine ⟨fun hw hc => ?tcMap, fun hw hq => ?quantum, fun hw hb => ?policer, fun hw hb hi => ?shaper,
    fun hw hv hd => ?gateCommit, fun hw => ?portGateList⟩
  case tcMap => exact writeRow_takes hw rfl (by decide) (commitTcMap_inRange (s := t) hc)
  case quantum => exact writeRow_takes hw rfl (by decide) (commitQuantum_inRange (s := t) hq)
  case policer => exact writeRow_takes hw rfl (by decide) (commitPolicer_ok (s := t) (i := ip) hb)
  case shaper => exact writeRow_takes hw rfl (by decide) (commitShaper_ok (s := t) (i := ish) hb hi)
  case gateCommit =>
    have hd' := (gateCommitStatus_heard rq x v s).trans hd
    exact writeRow_takes hw rfl (by decide) (commitGate_done (s := t) hv hd')
  case portGateList => exact writeRow_takes hw rfl (by decide) (commitPortGate_none (instFor x kPortGateList) t)

end Sys2Proof.Machine

/-!
## What a session does with a frame it hears, by the frame's place in the order (R488, R490, R491)
-/
namespace Sys2Proof.Machine

/-- A session as it stands once it has heard a request's frame. -/
def hearing (rq : Req) (x : Session) (s : State) : Session := { x with rxSeq := some rq.frameSeq, activeAt := s.now }

section

variable {rq : Req} {x : Session} {s : State} {q : Service} {n : Nat}

/-- The session in the state that has heard the request. -/
theorem sessionOf_heard (hx : sessionOf rq.session s = some x) :
    sessionOf x.id (heard rq x s) = some (hearing rq x s) := by
  have h := sessionOf_modSession (fun y => { y with rxSeq := some rq.frameSeq, activeAt := s.now }) (fun _ => rfl) hx
  rwa [← sessionOf_id hx] at h

/-! ### The seal (R488) -/

theorem sealed_heard (h : HeardIn rq x s) (k : Session → State → State) :
    sealed rq k s = k (hearing rq x s) (heard rq x s) := by
  have hh : modSession x.id (fun y => { y with rxSeq := some rq.frameSeq, activeAt := s.now }) s = heard rq x s := rfl
  unfold sealed
  simp only [h.session, h.genuine, h.notLast, hh, sessionOf_heard h.session]
  cases hx : x.rxSeq with
  | none => simp
  | some f => simp [h.fresh f hx]

/-- A frame that is not genuine, or not above the last one received. -/
theorem sealed_refused {f : Nat} (hx : sessionOf rq.session s = some x)
    (hr : rq.tagOk = false ∨ (x.rxSeq = some f ∧ rq.frameSeq ≤ f)) (k : Session → State → State) :
    sealed rq k s = bump kSealFails s := by
  unfold sealed
  rcases hr with ht | ⟨hf, hle⟩
  · simp [hx, ht]
  · simp [hx, hf, Nat.not_lt.mpr hle]

theorem receive_heard (h : HeardIn rq x s) : receive rq q s = orderReq (hearing rq x s) rq.seq q (heard rq x s) := by
  unfold receive
  rw [if_neg (by simp [h.accepts]), if_neg h.ofSession, sealed_heard h, if_pos h.form]

theorem receiveAck_heard (h : HeardIn rq x s) : receiveAck rq s = ackEvents x.id rq.seq (heard rq x s) := by
  unfold receiveAck
  rw [if_neg (by simp [h.accepts]), if_neg h.ofSession, sealed_heard h, if_pos h.form]
  rfl

theorem receive_refused {f : Nat} (ha : nodeAccepts s = true) (h0 : rq.session ≠ 0)
    (hx : sessionOf rq.session s = some x) (hr : rq.tagOk = false ∨ (x.rxSeq = some f ∧ rq.frameSeq ≤ f)) (q : Service) :
    receive rq q s = bump kSealFails s := by
  unfold receive
  rw [if_neg (by simp [ha]), if_neg h0, sealed_refused hx hr]

theorem receiveAck_refused {f : Nat} (ha : nodeAccepts s = true) (h0 : rq.session ≠ 0)
    (hx : sessionOf rq.session s = some x) (hr : rq.tagOk = false ∨ (x.rxSeq = some f ∧ rq.frameSeq ≤ f)) :
    receiveAck rq s = bump kSealFails s := by
  unfold receiveAck
  rw [if_neg (by simp [ha]), if_neg h0, sealed_refused hx hr]

/-! ### The order (R490, R491) -/

/-- A change of a session that keeps its held requests leaves as many waiting. -/
theorem waitingReqs_modSession (id : Nat) {f : Session → Session} (hf : ∀ y, (f y).heldReqs = y.heldReqs) (s : State) :
    waitingReqs (modSession id f s) = waitingReqs s := by
  simp only [waitingReqs, modSession, setSessions_sets, List.map_map]
  congr 2
  funext y
  simp only [Function.comp_apply]
  split
  · rw [hf]
  · rfl

theorem waitingReqs_heard (rq : Req) (x : Session) (s : State) : waitingReqs (heard rq x s) = waitingReqs s :=
  waitingReqs_modSession x.id (f := fun y => { y with rxSeq := some rq.frameSeq, activeAt := s.now }) (fun _ => rfl) s

theorem orderReq_early (h1 : 1 ≤ (n + 2 ^ 32 - expected x) % 2 ^ 32) (h15 : (n + 2 ^ 32 - expected x) % 2 ^ 32 ≤ 15)
    (hn : ∀ h ∈ x.heldReqs, h.1 ≠ n) (hw : waitingReqs s < 256) :
    orderReq x n q s = modSession x.id (fun y => { y with heldReqs := y.heldReqs ++ [(n, q, s.now)] }) s := by
  have ha : x.heldReqs.any (fun h => h.1 == n) = false := List.any_eq_false.mpr fun h hh => by simpa using hn h hh
  unfold orderReq
  rw [if_neg (by omega), if_pos h15, if_neg (by simp [ha]), if_neg (by omega)]

theorem orderReq_replayed {r : Rsp} (h16 : 16 ≤ (n + 2 ^ 32 - expected x) % 2 ^ 32)
    (hc : x.cache.find? (fun c => c.1 == n) = some (n, r)) :
    orderReq x n q s = reply x.id n r (bump kReplayResponses s) := by
  unfold orderReq
  rw [if_neg (by omega), if_neg (by omega)]
  simp only [hc]

/-- Outside the window and not stored, the request runs nothing: too far ahead, or too old. -/
theorem orderReq_outside (h16 : 16 ≤ (n + 2 ^ 32 - expected x) % 2 ^ 32) (hc : ∀ c ∈ x.cache, c.1 ≠ n) :
    orderReq x n q s = reply x.id n
      (rspAbort (if (n + 2 ^ 32 - expected x) % 2 ^ 32 < 2 ^ 31 then abSeqWindow else abSeqOld)) s := by
  have hf : x.cache.find? (fun c => c.1 == n) = none := List.find?_eq_none.mpr fun c h => by simpa using hc c h
  unfold orderReq
  rw [if_neg (by omega), if_neg (by omega)]
  simp only [hf]

theorem orderReq_ahead (h16 : 16 ≤ (n + 2 ^ 32 - expected x) % 2 ^ 32) (h31 : (n + 2 ^ 32 - expected x) % 2 ^ 32 < 2 ^ 31)
    (hc : ∀ c ∈ x.cache, c.1 ≠ n) : orderReq x n q s = reply x.id n (rspAbort abSeqWindow) s := by
  rw [orderReq_outside h16 hc, if_pos h31]

theorem orderReq_old (h31 : 2 ^ 31 ≤ (n + 2 ^ 32 - expected x) % 2 ^ 32) (hc : ∀ c ∈ x.cache, c.1 ≠ n) :
    orderReq x n q s = reply x.id n (rspAbort abSeqOld) s := by
  rw [orderReq_outside (by omega) hc, if_neg (Nat.not_lt.mpr h31)]

end

/-- Settles O57: a frame that the session hears goes to the order, whose window, stored responses and two sides outside it
are the four clauses; one that the seal refuses meets none of it. -/
theorem requestsRunInOrderOnce : Obligations.RequestsRunInOrderOnce := by
  unfold Obligations.RequestsRunInOrderOnce
  refine ⟨?order, ?unsealed⟩
  case order =>
    intro rq x s r d t hh
    have he : exec (.serviceDiscard rq) s = .next (orderReq (hearing rq x s) rq.seq .discard t) :=
      congrArg Host.Outcome.next (receive_heard hh)
    rw [he]
    refine ⟨fun h1 h15 hn hw => ?early, fun h16 hc => ?replayed, fun h16 h31 hc => ?window, fun h31 hc => ?old⟩
    case early =>
      exact congrArg _ (orderReq_early (x := hearing rq x s) h1 h15 hn ((waitingReqs_heard rq x s).trans_lt hw))
    case replayed => exact congrArg _ (orderReq_replayed (x := hearing rq x s) h16 hc)
    case window => exact congrArg _ (orderReq_ahead (x := hearing rq x s) h16 h31 hc)
    case old => exact congrArg _ (orderReq_old (x := hearing rq x s) h31 hc)
  case unsealed =>
    intro rq x s f v ha h0 hx hr
    have hreq {c : Instr} {q : Service} (he : exec c s = .next (receive rq q s)) : exec c s = .next (bump kSealFails s) :=
      he.trans (congrArg _ (receive_refused ha h0 hx hr q))
    have hack : exec (.eventAck rq) s = .next (bump kSealFails s) := congrArg _ (receiveAck_refused ha h0 hx hr)
    simp only [List.forall_mem_cons]
    exact ⟨hreq rfl, hreq rfl, hreq rfl, hack, hreq rfl, hreq rfl, hreq rfl, hreq rfl, List.forall_mem_nil _⟩

end Sys2Proof.Machine

/-!
## Services in their turn (R496, R500 to R504, R507, R509, Tables 16.3 to 16.7)

Each service is one case of runService; a request in its turn runs it on the session as it stands once it has heard the
request, and its answer is stored and sent.
-/
namespace Sys2Proof.Machine

section

variable {x : Session} {s : State} {b : Block2} {key off crc : Nat} {data : List Byte}

/-! ### What each service answers -/

theorem doCommit_manager (h : x.role = roleManager) :
    doCommit x s =
      (rspOk .done 0 ((commitStaged x.staged none s).1.map (fun st => BitVec.ofNat 8 (statusCode st))),
       bumpN kCommits (commitStaged x.staged none s).1.length
        (modSession x.id (fun y => { y with staged := [] }) (commitStaged x.staged none s).2)) := by
  simp [doCommit, h]

theorem doDiscard_manager (h : x.role = roleManager) :
    doDiscard x s = (rspOk .done 0 [], modSession x.id (fun y => { y with staged := [] }) s) := by
  simp [doDiscard, h]

theorem doWrite_staged {v len : Nat} (h : writeAbort x key len true s = none) :
    doWrite x key v len true s = (rspOk .done 0 [], modSession x.id (fun y => { y with staged := y.staged ++
      [{ key := key, inst := instFor x key, v := v % 256 ^ sizeOf key, len := len }] }) s) := by
  simp [doWrite, h]

/-- A MANAGER may open a block write of an object of the standard range, of fixed size and not read-only. -/
theorem blockAbort_write {o : Obj} (hr : x.role = roleManager) (hb : x.block = none) (ho : obj? key = some o)
    (ha : o.acc ≠ .ro) (hs : o.size ≠ 0) (hv : vendorIndex key = false) : blockAbort x key true o.size s = none := by
  simp [blockAbort, findObj, hr, hb, ho, ha, hs, hv]

theorem doBlockOpen_write {o : Obj} (h : blockAbort x key true o.size s = none) :
    doBlockOpen x key true o.size s = (rspOk .done 0 (bytesOf 8 o.size), modSession x.id (fun y =>
      { y with block := some { key := key, write := true, total := o.size, data := [], at_ := s.now } }) s) := by
  simp [doBlockOpen, h]

/-- The next bytes of a block write. -/
theorem doBlockData_write (hb : x.block = some b) (hw : b.write = true) (ho : off * 1024 = b.data.length)
    (hl : b.data.length + data.length ≤ b.total) :
    doBlockData x off data s = (rspOk .done 0 [], setBlock2 x.id (some { b with at_ := s.now, data := b.data ++ data })
      (setBlock2 x.id (some { b with at_ := s.now }) s)) := by
  simp [doBlockData, hb, hw, ho, Nat.not_lt.mpr hl, setBlock2, modSession]

theorem doBlockData_read (hb : x.block = some b) (hw : b.write = false) (ho : off * 1024 < b.total) :
    doBlockData x off data s = (rspOk .done 0 ((b.data.drop (off * 1024)).take 1024),
      setBlock2 x.id (some { b with at_ := s.now }) s) := by
  simp [doBlockData, hb, hw, Nat.not_le.mpr ho]

theorem doBlockClose_read (hb : x.block = some b) (hw : b.write = false) :
    doBlockClose x crc s = (rspOk .done 0 (bytesOf 4 (crc32c b.data)), setBlock2 x.id none s) := by
  simp [doBlockClose, hb, hw]

/-- A firmware image that arrived whole is written as its block transfer closes. -/
theorem doBlockClose_image (hb : x.block = some b) (hw : b.write = true) (hl : b.data.length = b.total)
    (hk : b.key = kFwImage) :
    doBlockClose x (crc32c b.data) s =
      (rspOk .done 0 [], bump kCommits (writeImage b.data (setBlock2 x.id none s))) := by
  simp [doBlockClose, applyBlock, hb, hw, hl, hk]

theorem doBlockClose_badCrc (hb : x.block = some b) (hw : b.write = true) (hc : crc ≠ crc32c b.data) :
    doBlockClose x crc s = (rspAbort abBlockCheck, setBlock2 x.id none s) := by
  simp [doBlockClose, hb, hw, hc.symm]

theorem doSubscribe_onChange {period last hd : Nat} (ha : subAbort x key 0 last = none) (hf : freeHandle x = some hd) :
    doSubscribe x key 0 period last s = (rspOk .done hd [], modSession x.id (fun y => { y with subs := y.subs ++
      [{ handle := hd, mode := 0, key := key, inst := instFor x key, last := last, period := period, sentAt := s.now,
         seen := readAny key (instFor x key) s }] }) s) := by
  simp [doSubscribe, subRefused, ha, hf]

theorem doUnsubscribe_held {hd : Nat} (h : x.subs.any (fun u => u.handle == hd) = true) :
    doUnsubscribe x hd s =
      (rspOk .done 0 [], modSession x.id (fun y => { y with subs := y.subs.filter (fun u => u.handle != hd) }) s) :=
  if_pos h

/-! ### The end of a session (R496) -/

theorem sessionOf_endSession (id : Nat) (s : State) : sessionOf id (endSession id s) = none := by
  cases h : sessionOf id s with
  | none => simp [endSession, h]
  | some x =>
    simp only [endSession, h, Option.isSome_some, if_true]
    exact List.find?_eq_none.mpr fun y hy => by simpa using (List.mem_filter.mp hy).2

theorem out_endSession (id : Nat) (s : State) : (endSession id s).out = s.out := by
  unfold endSession
  split <;> rfl

theorem out_frameOut (id : Nat) (s : State) : (frameOut id s).out = s.out := by
  cases h : sessionOf id s with
  | none => simp only [frameOut, h]
  | some x =>
    simp only [frameOut, h]
    split
    · exact out_endSession id s
    · rfl

theorem out_reply (id n : Nat) (r : Rsp) (s : State) : (reply id n r s).out = s.out ++ [.service id n r] := by
  unfold reply
  cases r.abort != 0 <;> exact out_frameOut id _

theorem drainHeld_ended {id : Nat} (h : sessionOf id s = none) (n : Nat) : drainHeld id n s = s := by
  cases n with
  | zero => rfl
  | succ n => simp only [drainHeld, h]

/-- SESSION_END is answered, and then its session ends. -/
theorem executeReq_sessionEnd {id n : Nat} (hx : sessionOf id s = some x) :
    ∃ t, executeReq id n .sessionEnd s = endSession id (reply id n (rspOk .done 0 []) t) := by
  simp only [executeReq, hx, runService, if_true]
  exact ⟨_, rfl⟩

end

/-- A service of its own, in its turn: what it answers and leaves is what running it does. -/
theorem exec_inTurn {c : Instr} {rq : Req} {x : Session} {s u : State} {q : Service} {r : Rsp} (h : InTurn rq x s)
    (he : exec c s = .next (receive rq q s)) (hq : q ≠ .sessionEnd)
    (hr : runService (hearing rq x s) q (heard rq x s) = (r, u)) : exec c s = .next (answered rq x r u) :=
  he.trans (congrArg _ (receive_inTurn h hq hr))

theorem exec_sessionEnd {rq : Req} {x : Session} {s : State} (h : InTurn rq x s) :
    ∃ u, exec (.sessionEnd rq) s = .next u ∧ sessionOf x.id u = none ∧ .service x.id rq.seq (rspOk .done 0 []) ∈ u.out := by
  obtain ⟨t, hrun⟩ := executeReq_sessionEnd (n := rq.seq) (sessionOf_heard h.session)
  have hn := sessionOf_endSession x.id (reply x.id rq.seq (rspOk .done 0 []) t)
  refine ⟨_, congrArg Host.Outcome.next (?run : _ = endSession x.id (reply x.id rq.seq (rspOk .done 0 []) t)), hn, ?sent⟩
  case run =>
    have hy : expected (hearing rq x s) = expected x := rfl
    have hd : (rq.seq + 2 ^ 32 - expected (hearing rq x s)) % 2 ^ 32 = 0 := by
      have hturn := h.turn
      omega
    rw [receive_heard h.toHeardIn, orderReq, if_pos hd]
    exact (congrArg (drainHeld x.id 16) hrun).trans (drainHeld_ended hn 16)
  case sent =>
    rw [out_endSession, out_reply]
    exact List.mem_append_right _ (List.mem_singleton.mpr rfl)

/-- Settles O56: what each service answers is said of any session; here it is the session that has heard the request. -/
theorem servicesTakeEffect : Obligations.ServicesTakeEffect := by
  unfold Obligations.ServicesTakeEffect
  intro rq x s index sub v off crc period last hd data o b ht t key now ok put
  have hr : (hearing rq x s).role = roleManager := ht.manager
  refine ⟨?commit, ?discard, fun hs ha => ?write, fun hb ho ha hz hi hsub => ?blockOpen, fun hb => ?block,
    fun ha hf => ?subscribe, fun hu => ?unsubscribe, ?eventAck, fun _ => exec_sessionEnd ht⟩
  case commit => exact exec_inTurn ht rfl (by simp) (doCommit_manager hr)
  case discard => exact exec_inTurn ht rfl (by simp) (doDiscard_manager hr)
  case write =>
    refine exec_inTurn ht rfl (by simp) ?_
    rw [hs]
    exact doWrite_staged (x := hearing rq x s) ha
  case blockOpen =>
    have hv : vendorIndex key = false := decide_eq_false (by omega)
    exact exec_inTurn ht rfl (by simp) (doBlockOpen_write (blockAbort_write hr hb ho ha hz hv))
  case block =>
    have hb' : (hearing rq x s).block = some b := hb
    refine ⟨fun hw ho hl => ?data, fun hw ho => ?read, fun hw => ?closeRead, fun hw hl hc hk => ?closeImage,
      fun hw _ hc => ?badCrc⟩
    case data => exact exec_inTurn ht rfl (by simp) (doBlockData_write hb' hw ho hl)
    case read => exact exec_inTurn ht rfl (by simp) (doBlockData_read hb' hw ho)
    case closeRead => exact exec_inTurn ht rfl (by simp) (doBlockClose_read hb' hw)
    case closeImage => exact exec_inTurn ht rfl (by simp) (hc ▸ doBlockClose_image hb' hw hl hk)
    case badCrc => exact exec_inTurn ht rfl (by simp) (doBlockClose_badCrc hb' hw hc)
  case subscribe => exact exec_inTurn ht rfl (by simp) (doSubscribe_onChange (x := hearing rq x s) ha hf)
  case unsubscribe => exact exec_inTurn ht rfl (by simp) (doUnsubscribe_held (x := hearing rq x s) hu)
  case eventAck => exact congrArg Host.Outcome.next (receiveAck_heard ht.toHeardIn)

end Sys2Proof.Machine

/-!
## The timers of services (R490, R496, R502, R505, R507, R509, R535, R541, R546)

A timer whose object is there moves time to its instant and then does its own.
-/
namespace Sys2Proof.Machine

section

variable {s : State} {id hd : Nat} {x : Session} {u : Sub}

/-! ### Timers of a session -/

theorem blockTimeout_open {b : Block2} (hx : sessionOf id s = some x) (hb : x.block = some b) :
    blockTimeout id s = setBlock2 id none (timeTo (b.at_ + nsS) s) := by
  simp only [blockTimeout, hx, Option.bind_some, hb]

theorem gapTimeout_held {h : Nat × Service × Nat} (hx : sessionOf id s = some x) (hh : x.heldReqs.head? = some h) :
    gapTimeout id s = modSession id (fun y => { y with heldReqs := y.heldReqs.filter (fun g =>
      decide ((timeTo (h.2.2 + 10 * nsMs) s).now < g.2.2 + 10 * nsMs)) }) (timeTo (h.2.2 + 10 * nsMs) s) := by
  simp only [gapTimeout, hx, Option.bind_some, hh]

theorem idleTimeout_session (hx : sessionOf id s = some x) :
    idleTimeout id s = endSession id (timeTo (x.activeAt + rget kSessionIdleMs s * nsMs) s) := by
  simp only [idleTimeout, hx]

theorem now_endSession (id : Nat) (s : State) : (endSession id s).now = s.now := by
  unfold endSession
  split <;> rfl

theorem resendEvents_queued (hx : sessionOf id s = some x) (he : x.events ≠ []) :
    resendEvents id s = each x.events (fun e s => frameOut id (send (.event id e.1 e.2) s))
      (modSession id (fun y => { y with resendAt := (timeTo (x.resendAt + rget kEventResendUs s * nsUs) s).now })
        (timeTo (x.resendAt + rget kEventResendUs s * nsUs) s)) := by
  simp only [resendEvents, hx, List.isEmpty_iff, he, if_false]

theorem notifyChange_changed (hu : subOf id hd s = some u) (hm : u.mode = 0) (hv : readAny u.key u.inst s ≠ u.seen) :
    notifyChange id hd s = notify id u (timeTo (u.sentAt + nsMs) s) := by
  simp [notifyChange, hu, hm, hv]

theorem notifyPeriod_periodic (hu : subOf id hd s = some u) (hm : u.mode = 1) :
    notifyPeriod id hd s = notify id u (timeTo (u.sentAt + u.period * nsMs) s) := by
  simp only [notifyPeriod, hu, if_pos hm]

/-! ### Handshake, debug token, paced response -/

theorem handshakeTimeout_open {k : Nat × Nat × Nat} (hk : s.sec.handshakes.find? (fun h => h.1 == id) = some k) :
    handshakeTimeout id s = dropHandshake id (timeTo (k.2.2 + handshakeNs) s) := by
  simp only [handshakeTimeout, hk]

theorem endToken_inForce (h : rget kDebugState s = debugInForce) :
    endToken s = drawNonce (raise 0xA000 0x03 0 0 (rset kDebugState debugUsed s)) := if_pos h

theorem debugExpiry_inForce (h : rget kDebugState s = debugInForce) :
    debugExpiry s = drawNonce (raise 0xA000 0x03 0 0 (rset kDebugState debugUsed (timeTo s.sec.debugUntil s))) :=
  (if_pos h).trans (endToken_inForce (s := timeTo s.sec.debugUntil s) h)

theorem isoRelease_paced {port tag : Nat} {p : Paced}
    (hp : s.txn.paced.find? (fun p => p.port == port && p.tag == tag) = some p) :
    isoRelease port tag s = send (.response p.port p.tag p.seq p.job p.status p.op p.flags p.tc p.data)
      (timeTo p.due { s with txn := { s.txn with paced := s.txn.paced.erase p } }) := by
  simp only [isoRelease, hp]

/-! ### The configuration store (R505) -/

/-- The generation of the next store write. -/
def nextGeneration (s : State) : Nat := ((newestCopy s).map (fun c => c.1 + 1)).getD 1 % 2 ^ 32

variable {values : List Stored} {due : Nat}

/-- With no copy A, the write makes it. -/
theorem configWriteDone_toA (hs : s.dict.saving = some (values, due)) (ha : s.dict.storeA = none) :
    configWriteDone s = rset kConfigResult (pack [(statusCode .done, 56), (nextGeneration s, 0)])
      { s with dict := { s.dict with saving := none, storeA := some (nextGeneration s, values) } } := by
  simp only [configWriteDone, hs, ha, Bool.false_eq_true, if_false]
  rfl

/-- With copy A the newest, the write goes to copy B. -/
theorem configWriteDone_toB {a : Nat × List Stored} (hs : s.dict.saving = some (values, due))
    (ha : s.dict.storeA = some a) (hb : ∀ b, s.dict.storeB = some b → b.1 ≤ a.1) :
    configWriteDone s = rset kConfigResult (pack [(statusCode .done, 56), (nextGeneration s, 0)])
      { s with dict := { s.dict with saving := none, storeB := some (nextGeneration s, values) } } := by
  cases h : s.dict.storeB with
  | none =>
    simp only [configWriteDone, hs, ha, h, if_true]
    rfl
  | some b =>
    simp only [configWriteDone, hs, ha, h, decide_eq_true (hb b h), if_true]
    rfl

end

/-- Settles O58: each timer whose object is there is its own lemma; an ended session is found no more. -/
theorem serviceTimersComplete : Obligations.ServiceTimersComplete := by
  unfold Obligations.ServiceTimersComplete
  intro s id hd port tag x b h u k p values a due
  refine ⟨fun hx => ⟨fun hb => ?block, fun hh => ?gap, ?idle, fun he => ?resend, fun hu hm hv => ?change,
    fun hu hm => ?periodic⟩, fun hk => ?handshake, fun hd => ?token, fun hp => ?paced, fun hs => ⟨fun ha => ?toA, fun ha hb => ?toB⟩⟩
  case block => exact congrArg Host.Outcome.next (blockTimeout_open hx hb)
  case gap => exact congrArg Host.Outcome.next (gapTimeout_held hx hh)
  case idle =>
    refine ⟨_, congrArg Host.Outcome.next (idleTimeout_session hx), sessionOf_endSession _ _, ?_⟩
    rw [now_endSession]
    rfl
  case resend => exact congrArg Host.Outcome.next (resendEvents_queued hx he)
  case change => exact congrArg Host.Outcome.next (notifyChange_changed hu hm hv)
  case periodic => exact congrArg Host.Outcome.next (notifyPeriod_periodic hu hm)
  case handshake => exact congrArg Host.Outcome.next (handshakeTimeout_open hk)
  case token => exact congrArg Host.Outcome.next (debugExpiry_inForce hd)
  case paced => exact congrArg Host.Outcome.next (isoRelease_paced hp)
  case toA => exact congrArg Host.Outcome.next (configWriteDone_toA hs ha)
  case toB => exact congrArg Host.Outcome.next (configWriteDone_toB hs ha hb)

end Sys2Proof.Machine

/-!
## The ring and the timebase (R479 to R486, R514 to R518, R602, Tables 16.1, 16.11)

An arriving frame is counted at its port and changes nothing else, so what a row asks of the state it asks of the counted
one; each event then is the branch that its conditions choose.
-/
namespace Sys2Proof.Machine

section

variable {s : State} {f : RingFrame} {p : Ptp} {onB : Bool} {map tag cause seqId delay a t : Nat} {g : RPort → RPort}

/-! ### A port's own record -/

@[simp] theorem modRport_node : (modRport onB g s).ring.node = s.ring.node := by cases onB <;> rfl
@[simp] theorem modRport_st : (modRport onB g s).ring.st = s.ring.st := by cases onB <;> rfl
@[simp] theorem modRport_time : (modRport onB g s).time = s.time := by cases onB <;> rfl
@[simp] theorem modRport_now : (modRport onB g s).now = s.now := by cases onB <;> rfl
@[simp] theorem rget_modRport (key : Nat) : rget key (modRport onB g s) = rget key s := by cases onB <;> rfl

@[simp] theorem ringCount_node : (ringCount f s).ring.node = s.ring.node := modRport_node
@[simp] theorem ringCount_time : (ringCount f s).time = s.time := modRport_time
@[simp] theorem ringCount_now : (ringCount f s).now = s.now := modRport_now
@[simp] theorem rget_ringCount (key : Nat) : rget key (ringCount f s) = rget key s := rget_modRport key

/-! ### DISCOVER (R479) -/

theorem discoverIn_passing (h : takes f (ringCount f s) = false) :
    discoverIn f map tag s = forward f (fun b f => Out.discover b f map) (ringCount f s) := by
  simp [discoverIn, h]

/-- A node that has a number, which the map does not hold yet, is added to it. -/
theorem discoverIn_new (h : takes f (ringCount f s) = true) (h0 : s.ring.node ≠ 0) (hm : bit map s.ring.node = false) :
    discoverIn f map tag s = forward f (fun b f => Out.discover b f (mapOf (bitsOf map 32 ++ [s.ring.node])))
      (rset kRingNodes (mapOf (bitsOf map 32 ++ [s.ring.node])) (ringCount f s)) := by
  simp [discoverIn, h, h0, hm]

/-! ### Failure, restoration, heal (R482 to R486, Table 16.1) -/

/-- A port as its failure leaves it. -/
def failPort (cause : Nat) (p : RPort) : RPort :=
  { p with up := false, failed := cnt32 p.failed, restoredAt := none, los := cause == 0,
           fec := if cause = 2 then cnt32 p.fec else p.fec }

theorem ringPortFailed_wraps (hf : ringFailed onB s = false) (hn : s.ring.st = .normal) :
    ringPortFailed onB cause s = raise 0x1040 0x01 1 (b2n onB)
      (bump kRingWraps (ringTo (if onB then .wrappedB else .wrappedA) (modRport onB (failPort cause) s))) := by
  simp only [ringPortFailed, hf, Bool.false_eq_true, if_false, modRport_st, hn]
  rfl

theorem ringPortFailed_isolates (hf : ringFailed onB s = false) (hw : s.ring.st = .wrappedA ∨ s.ring.st = .wrappedB) :
    ringPortFailed onB cause s = ringTo .isolated (modRport onB (failPort cause) s) := by
  rcases hw with hw | hw <;>
  · simp only [ringPortFailed, hf, Bool.false_eq_true, if_false, modRport_st, hw]
    rfl

/-- A port in clean lock, as a HEAL over it finds it. -/
def lockedPort (p : RPort) : RPort := { p with up := true, los := false }

theorem healIn_unwraps (h : s.ring.st = if onB then .wrappedB else .wrappedA) :
    healIn onB s = raise 0x1040 0x02 1 (b2n onB) (ringTo .normal (modRport onB lockedPort s)) := by
  cases onB <;>
  · simp only [Bool.false_eq_true, if_false, if_true] at h
    simp only [healIn, h]
    rfl

theorem healIn_rejoins (h : s.ring.st = .isolated) :
    healIn onB s = raise 0x1040 0x02 1 (b2n onB)
      (ringTo (if onB then .wrappedA else .wrappedB) (modRport onB lockedPort s)) := by
  cases onB <;>
  · simp only [healIn, h]
    rfl

/-! ### SYNC, FOLLOW_UP, ANNOUNCE (R514 to R516) -/

/-- A time frame goes on with its content. -/
def ptpOn (p : Ptp) (s : State) : State := forward p.frame (fun b f => Out.ptp b { p with frame := f }) s

theorem syncIn_accepted (ht : takes p.frame (ringCount p.frame s) = true) (ho : ptpOk p (ringCount p.frame s) = true) :
    syncIn p s = ptpOn p (setTime (fun x => { x with
      syncAt := some (timebase (ringCount p.frame s) - (rport p.frame.onB (ringCount p.frame s)).delay, p.seqId),
      interval := syncNs p.logInterval, lastSync := s.now }) (bump kSyncAccepted (ringCount p.frame s))) := by
  simp only [syncIn, ht, ho, Bool.not_true, Bool.false_eq_true, if_false, ringCount_now]
  rfl

theorem syncIn_rejected (ht : takes p.frame (ringCount p.frame s) = true) (ho : ptpOk p (ringCount p.frame s) = false) :
    syncIn p s = ptpOn p (bump kSyncRejected (ringCount p.frame s)) := by
  simp only [syncIn, ht, ho, Bool.not_true, Bool.not_false, Bool.false_eq_true, if_false, if_true]
  rfl

theorem announceIn_rejected (ht : takes p.frame (ringCount p.frame s) = true)
    (ho : ptpOk p (ringCount p.frame s) = false) : announceIn p s = ptpOn p (bump kSyncRejected (ringCount p.frame s)) := by
  simp only [announceIn, ht, ho, Bool.not_false, Bool.and_self, onlyIf_true]
  rfl

/-- What the servo has moved the timebase by since a Sync's arrival. -/
def servoGain (p : Ptp) (a : Nat) (s : State) : Int :=
  ((timebase (ringCount p.frame s) : Int) - s.now) -
    ((a + (rport p.frame.onB (ringCount p.frame s)).delay : Nat) - s.time.lastSync)

/-- A Sync's note is no part of the timebase. -/
theorem timebase_clearSync : timebase (setTime (fun x => { x with syncAt := none }) s) = timebase s := rfl

/-- The Follow_Up of the Sync accepted last gives the offset of its arrival, carried on to now, to the servo. -/
theorem followUpIn_measures (ht : takes p.frame (ringCount p.frame s) = true)
    (ho : ptpOk p (ringCount p.frame s) = true) (hs : s.time.syncAt = some (a, p.seqId)) (hp : rget kTimeSource s ≠ 1) :
    followUpIn p s =
      (let r := draw (offsetIn ((a : Int) - p.origin) ((a : Int) - p.origin + servoGain p a s)
        (setTime (fun x => { x with syncAt := none }) (ringCount p.frame s)))
       forward p.frame (fun b f => Out.ptp b { p with
         frame := f, origin := p.origin + (((rport p.frame.onB (ringCount p.frame s)).delay + r.1 % 301 : Nat) : Int) }) r.2) := by
  have hp' : (rget kTimeSource (ringCount p.frame s) == 1) = false := by simpa using hp
  simp only [followUpIn, ringCount_time, hs, ht, ho, beq_self_eq_true, Bool.and_self, if_true, hp', Bool.false_and,
    Bool.false_eq_true, if_false, timebase_clearSync, setTime_sets, ringCount_now, servoGain]

/-! ### Holdover, the delay exchange, pulses (R484, R516, R518, R602) -/

theorem syncLoss_synchronised (h : s.time.st = .locking ∨ s.time.st = .locked) :
    syncLoss s = toHoldover (timeTo (s.time.lastSync + rget kSyncLoss s * s.time.interval) s) :=
  if_pos (by simpa using h)

theorem pdelayReq_accepted (ha : nodeAccepts s = true) (hf : ringFailed onB s = false) :
    pdelayReq onB seqId s = send (.pdelay onB true seqId) s := if_pos (by simp [ha, hf])

theorem pdelayResp_last (hf : ringFailed onB s = false) (hq : (rport onB s).pseq = seqId) :
    pdelayResp onB seqId delay s = setRport onB { rport onB s with delay := delay } s := if_pos (by simp [hf, hq])

theorem pdelayTimer_accepted (ha : nodeAccepts s = true) (hf : ringFailed onB s = false) :
    pdelayTimer onB s = send (.pdelay onB false ((rport onB s).pseq + 1)) (setRport onB { rport onB s with
      pseq := (rport onB s).pseq + 1, pdelayAt := (timeTo ((rport onB s).pdelayAt + nsS) s).now }
        (timeTo ((rport onB s).pdelayAt + nsS) s)) :=
  if_neg (by rw [show nodeAccepts (timeTo _ s) = true from ha, show ringFailed onB (timeTo _ s) = false from hf]; simp)

/-- The first pulse is the reference; without TIME_SOURCE 1 it moves no clock. -/
theorem ppsIn_first (ha : s.time.ppsAt = none) (hp : rget kTimeSource s ≠ 1) :
    ppsIn t s = setTime (fun x =>
      { x with ppsAt := some (timeTo t s).now, ppsAcc := timebase (timeTo t s), ppsInterval := 0, ppsLost := false })
      (timeTo t s) := by
  simp only [ppsIn, timeTo_sets, ha]
  exact if_neg hp

/-- An event changes no register but the counts of events raised and dropped. -/
theorem rget_raise {key : Nat} (hr : key ≠ kEventsRaised) (hd : key ≠ kEventsDropped) (src num plen payload : Nat) (s : State) :
    rget key (raise src num plen payload s) = rget key s := by
  unfold raise
  refine each_induct (P := fun u => rget key u = rget key s) (fun i u h => ?_) _ _ ((rget_bump ..).trans (if_neg hr.symm))
  unfold queueEvent
  repeat' split
  · exact h
  · exact h
  · exact h
  · exact ((rget_bump ..).trans (if_neg hd.symm)).trans h

theorem ppsLost_first (ha : s.time.ppsAt = some a) (hl : s.time.ppsLost = false) (hp : rget kTimeSource s ≠ 1) :
    ppsLost s = raise 0xC000 0x04 0 0 (setTime (fun x => { x with ppsLost := true }) (timeTo (a + 3 * nsS / 2) s)) := by
  simp only [ppsLost, ha, hl, Bool.false_eq_true, if_false]
  refine if_neg ?_
  rw [rget_raise (by decide) (by decide), beq_iff_eq]
  exact hp

theorem rget_timebaseTo (key : Nat) : rget key (timebaseTo t s) = rget key s := by
  unfold timebaseTo
  split <;> rfl

/-- The pulse goes out at the timebase's next whole second. -/
theorem ppsOut_edge : ppsOut s =
    let u := timebaseTo ((timebase s / nsS + 1) * nsS) s
    if rget kPpsOutEnable s = 1 then send .pps u else u := by
  simp only [ppsOut, onlyIf, beq_iff_eq, rget_timebaseTo]

end

/-- Settles O60: each event's conditions choose the branch of its rule; what a frame's arrival counts is nothing that they
ask about. -/
theorem ringAndTimeEventsComplete : Obligations.RingAndTimeEventsComplete := by
  unfold Obligations.RingAndTimeEventsComplete
  refine ⟨?ring, ?time⟩
  case ring =>
    intro s f map tag cause onB
    refine ⟨rfl, fun h => ?passing, fun h h0 hm => ?new, fun hf => ⟨fun hn => ?wraps, fun hw => ?isolates⟩, rfl,
      fun h => ?unwraps, fun h => ?rejoins⟩
    case passing => exact congrArg Host.Outcome.next (discoverIn_passing h)
    case new => exact congrArg Host.Outcome.next (discoverIn_new h h0 hm)
    case wraps => exact congrArg Host.Outcome.next (ringPortFailed_wraps hf hn)
    case isolates => exact congrArg Host.Outcome.next (ringPortFailed_isolates hf hw)
    case unwraps => exact congrArg Host.Outcome.next (healIn_unwraps h)
    case rejoins => exact congrArg Host.Outcome.next (healIn_rejoins h)
  case time =>
    intro s p onB seqId delay t a c on
    refine ⟨fun ht ho => ?sync, fun ht ho => ⟨?syncRejected, ?announce⟩, fun ht ho hs hp => ?followUp, fun h => ?syncLoss,
      fun ha hf => ⟨?pdelayReq, fun hq => ?pdelayResp, ?pdelayTimer⟩, fun ha hp => ?ppsIn, fun ha hl hp => ?ppsLost, ?ppsOut⟩
    case sync => exact congrArg Host.Outcome.next (syncIn_accepted ht ho)
    case syncRejected => exact congrArg Host.Outcome.next (syncIn_rejected ht ho)
    case announce => exact congrArg Host.Outcome.next (announceIn_rejected ht ho)
    case followUp => exact congrArg Host.Outcome.next (followUpIn_measures ht ho hs hp)
    case syncLoss => exact congrArg Host.Outcome.next (syncLoss_synchronised h)
    case pdelayReq => exact congrArg Host.Outcome.next (pdelayReq_accepted ha hf)
    case pdelayResp => exact congrArg Host.Outcome.next (pdelayResp_last hf hq)
    case pdelayTimer => exact congrArg Host.Outcome.next (pdelayTimer_accepted ha hf)
    case ppsIn => exact congrArg Host.Outcome.next (ppsIn_first ha hp)
    case ppsLost => exact congrArg Host.Outcome.next (ppsLost_first ha hl hp)
    case ppsOut => exact congrArg Host.Outcome.next ppsOut_edge

end Sys2Proof.Machine

/-!
## The configuration, debug and isolation objects as they are written (R505, R512, R540, R541, R543)
-/
namespace Sys2Proof.Machine

section

variable {s : State} {v slot : Nat} {j : Job} {values : List Stored}

theorem commitStore_free (h : s.dict.saving = none) :
    commitStore values s = (.done, { s with dict := { s.dict with saving := some (values, s.now + 2 * nsS) } }) :=
  if_neg (by simp [h])

theorem commitHomeIndex_inRange (h : v ≤ 15 ∨ v = 0xFF) : commitHomeIndex v s = (.done, rset kHomeIndex v s) :=
  if_pos (by simpa using h)

theorem commitDebugEnd_inForce (h : rget kDebugState s = debugInForce) :
    commitDebugEnd s = (.done, drawNonce (raise 0xA000 0x03 0 0 (rset kDebugState debugUsed s))) :=
  congrArg (Prod.mk Status.done) (endToken_inForce h)

theorem commitDebugToken_accepted (h : tokenStatus v s = .done) :
    commitDebugToken v s = (.done, post16 kDebugResult .done (raise 0xA000 0x02 0 0 (rset kDebugState debugInForce
      (setSec (fun z => { z with debugUntil := s.now + fld (v % 2 ^ 1024) 671 640 * nsS,
                                 debugScope := fld (v % 2 ^ 1024) 639 632,
                                 debugDigest := Config.sha512 (bytesOf 640 v) }) s)))) := by
  simp only [commitDebugToken, h]

theorem commitIsoJob_on (ha : activeJob (fld v 127 112) s = some (slot, j)) (he : bit v 111 = true)
    (hr : isoRecordOk v slot j s = true) :
    commitIsoJob v s = (.done, post16 kIsoResult .done (setJob slot { j with iso :=
      { j.iso with enable := true, latency := fld v 95 64, trays := fld v 63 48, state := 1 } } s)) := by
  simp only [commitIsoJob, ha, he, hr, Bool.not_true, Bool.false_eq_true, if_false, if_true]

end

/-- Settles O16: each object's commit is its own branch, and what a session has heard is nothing that the branches'
conditions ask about. -/
theorem configurationAndDebugWritesTakeEffect : Obligations.ConfigurationAndDebugWritesTakeEffect := by
  unfold Obligations.ConfigurationAndDebugWritesTakeEffect
  intro rq x s v slot j t b
  refine ⟨fun hw hs => ?save, fun hw hs => ?clear, fun hw hv => ?homeIndex, fun hw hf => ?debugEnd, fun hw hs => ?debugToken,
    fun hw ha he hr => ?isoJob⟩
  case save => exact writeRow_takes hw rfl (by decide) (commitStore_free (s := t) hs)
  case clear => exact writeRow_takes hw rfl (by decide) (commitStore_free (s := t) hs)
  case homeIndex => exact writeRow_takes hw rfl (by decide) (commitHomeIndex_inRange (s := t) hv)
  case debugEnd => exact writeRow_takes hw rfl (by decide) (commitDebugEnd_inForce (s := t) hf)
  case debugToken => exact writeRow_takes hw rfl (by decide) (commitDebugToken_accepted (s := t) hs)
  case isoJob => exact writeRow_takes hw rfl (by decide) (commitIsoJob_on (s := t) ha he hr)

end Sys2Proof.Machine

/-!
## What a step does with the queue, the ledger, what was sent and the free values (R569, logs 1, 3, 4 and 11)

All of it follows from exec_keeps: a command goes on, and what it leads to keeps what `Keeps` names of the state with the
queue's rest.
-/
namespace Sys2Proof.Machine

section

variable {c : Instr} {l : List Instr} {s t : State}

theorem step_nil (h : s.pending = []) : step s = .next { s with now := s.now + 1 } := by
  simp only [step, h]

theorem step_cons (h : s.pending = c :: l) : step s = exec c { s with pending := l } := by
  simp only [step, h]

theorem goes_of_resKeeps {r : State} {o : Res} : ResKeeps r o → Goes o
  | ⟨t, ht, _⟩ => ⟨t, ht⟩

/-- A step is from the state with the front command gone, and keeps of it what every command keeps. -/
theorem step_keeps_popped (h : step s = .next t) : Keeps { s with pending := s.pending.tail } t := by
  cases hp : s.pending with
  | nil =>
    rw [step_nil hp] at h
    cases h
    exact ⟨hp, id, id, List.prefix_refl _, Nat.le_refl _⟩
  | cons c l =>
    rw [step_cons hp] at h
    exact (exec_keeps (Keeps.refl _)).keeps h

end

/-- Settles O1: the definition of a step at a queue that is not empty. -/
theorem stepTakesFront : Obligations.StepTakesFront := by
  unfold Obligations.StepTakesFront
  exact fun _ _ _ => step_cons

/-- Settles O2: every command that keeps what `Keeps` names goes on. -/
theorem everyStepGoesOn : Obligations.EveryStepGoesOn := by
  unfold Obligations.EveryStepGoesOn
  exact ⟨fun _ s => goes_of_resKeeps (exec_keeps (Keeps.refl s)), fun _ => step_nil⟩

/-- Settles O4: what a step leads to keeps the bound of the ledger that it found. -/
theorem ledgerBoundKept : Obligations.LedgerBoundKept := by
  unfold Obligations.LedgerBoundKept
  exact fun _ _ hs ht => (step_keeps_popped ht).ledger hs

/-- Settles O5: what a step leads to keeps the queue without its front, what was sent and the values drawn. -/
theorem queueRecordAndFreeValuesKept : Obligations.QueueRecordAndFreeValuesKept := by
  unfold Obligations.QueueRecordAndFreeValuesKept
  intro s t ht
  obtain ⟨hqueue, _, _, hout, hfree⟩ := step_keeps_popped ht
  exact ⟨hqueue, hout, hfree⟩

end Sys2Proof.Machine

/-!
## What follows from a command within its step, with nothing open (chapters 06 and 12)

A pass of settle is a row of stages, each over a list of what is open to it: with that list empty the stage leaves the state
as it is.
-/
namespace Sys2Proof.Machine

section

variable {s : State}

/-! ### Extents, windows, requests and the journal -/

theorem settleOverflow_none (h : s.pool.overflow = []) : settleOverflow s = s := by
  rw [settleOverflow, h]
  exact congrArg (fun l => { s with pool := { s.pool with overflow := l } }) h.symm

theorem settleJournal_none (hj : s.vers.mirror.jpend = []) (ht : s.txn.txs = []) : settleJournal s = s := by
  rw [settleJournal, hj, List.filter_nil, each_nil, completeFree, ht, List.filter_nil, each_nil]

theorem takeJammed_none (h : s.txn.jammed = []) : takeJammed s = s := by
  rw [takeJammed, h, each_nil]

theorem releaseEvicts_none (h : s.coh.evicts = []) : releaseEvicts s = s := by
  rw [releaseEvicts, h]
  exact congrArg (fun l => { s with coh := { s.coh with evicts := l } }) h.symm

theorem pump_none (ht : s.txn.txs = []) (he : s.coh.evicts = []) : pump s = s := by
  rw [pump, ht, releaseEvicts_none he, List.map_nil, List.foldl_nil]

theorem runOwns_none (h : s.txn.txs = []) : runOwns s = s := by
  rw [runOwns, h, List.map_nil, each_nil]

theorem settleWindows_none (h : s.coh.removing = []) : settleWindows s = s := by
  rw [settleWindows, h, each_nil]

/-! ### Collectives and searches -/

theorem runContribs_none (h : s.txn.txs = []) : runContribs s = s := by
  rw [runContribs, h, List.filter_nil, each_nil]

theorem settleDelivers_none (h : s.eng.delivers = []) : settleDelivers s = s := by
  rw [settleDelivers, h]
  exact congrArg (fun l => { s with eng := { s.eng with delivers := l } }) h.symm

theorem settleNorms_none (h : s.work.items = []) : settleNorms s = s := by
  rw [settleNorms, h, List.filter_nil, each_nil]

theorem settleColls_none (ht : s.txn.txs = []) (hd : s.eng.delivers = []) (hi : s.work.items = []) (hc : s.eng.colls = []) :
    settleColls s = s := by
  rw [settleColls, runContribs_none ht, settleDelivers_none hd, settleNorms_none hi, hc, List.map_nil, each_nil]

theorem settleSearch_none (h : s.work.items = []) : settleSearch s = s := by
  rw [settleSearch, h, List.filter_nil, List.map_nil, each_nil]

/-! ### Gangs, hens and items -/

theorem settleGang_none (h : s.hens.gang = none) : settleGang s = s := by
  rw [settleGang, h]

theorem settleAssigned_none (h : ∀ e ∈ s.hens.hens, e.2.st ≠ .assigned) : settleAssigned s = s := by
  unfold settleAssigned
  extract_lets gone
  have hgone : gone = [] := List.filter_eq_nil_iff.mpr fun e he => by simp [h e he]
  rw [hgone, each_nil]

theorem settleFinals_none (h : s.work.items = []) : settleFinals s = s := by
  rw [settleFinals, h, List.filter_nil, each_nil]

theorem completeOver_none (h : s.work.items = []) (n : Nat) : completeOver n s = s := by
  cases n with
  | zero => rfl
  | succ n => simp only [completeOver, h, List.filter_nil, List.foldl_nil]

theorem completeCancels_none (h : s.work.cancels = []) : completeCancels s = s := by
  rw [completeCancels, h]
  exact congrArg (fun l => { s with work := { s.work with cancels := l } }) h.symm

theorem completeAll_none (hi : s.work.items = []) (hc : s.work.cancels = []) (n : Nat) : completeAll n s = s := by
  induction n with
  | zero => rfl
  | succ n ih => rw [completeAll, completeOver_none hi, completeCancels_none hc, ih]

theorem settleItems_none (hi : s.work.items = []) (hc : s.work.cancels = []) (hq : s.work.queues = []) :
    settleItems s = s := by
  rw [settleItems, completeAll_none hi hc, dropQueues, hq, List.filter_nil, each_nil]

/-! ### Pages, codebooks, versions, jobs and queues -/

theorem settleKv_none (h : s.kv.tagged = []) : settleKv s = s := by
  rw [settleKv, h]
  exact congrArg (fun l => { s with kv := { s.kv with tagged := l } }) h.symm

theorem settleBooks_none (h : s.coding.books = []) : settleBooks s = s := by
  rw [settleBooks, h, List.map_nil, each_nil]

theorem settleVersions_none (h : s.vers.regions = []) : settleVersions s = s := by
  rw [settleVersions, h, List.map_nil, each_nil]

theorem settleClosing_none (hj : s.pool.jobs = []) (hc : s.eng.colls = []) : settleClosing s = s := by
  rw [settleClosing, hj, List.filter_nil, List.map_nil, each_nil, hc]
  exact congrArg (fun l => { s with eng := { s.eng with colls := l } }) hc.symm

theorem settleDrains_none (h : s.work.drains = []) : settleDrains s = s := by
  rw [settleDrains, h]
  exact congrArg (fun l => { s with work := { s.work with drains := l } }) h.symm

theorem settlePauses_none (h : s.work.queues = []) : settlePauses s = s := by
  rw [settlePauses, h, List.map_nil, each_nil]

theorem settleReady_none (h : s.work.items = []) : settleReady s = s := by
  rw [settleReady, h]
  exact congrArg (fun l => { s with work := { s.work with items := l } }) h.symm

end

/-- Settles O6: every stage of a pass finds nothing open, and the second pass finds what the first did. -/
theorem quietStateStands : Obligations.QuietStateStands := by
  unfold Obligations.QuietStateStands
  intro s hover htxs hjpend hevicts hremoving hitems hcancels hqueues hdrains hcolls hdelivers hhens hgang hjobs hbooks htagged
    hregions hjammed
  have hpass : settleOnce s = s := by
    simp only [settleOnce, settleOverflow_none hover, settleJournal_none hjpend htxs, takeJammed_none hjammed,
      pump_none htxs hevicts, runOwns_none htxs, settleWindows_none hremoving,
      settleColls_none htxs hdelivers hitems hcolls, settleSearch_none hitems,
      settleGang_none hgang, settleAssigned_none hhens, settleFinals_none hitems,
      settleItems_none hitems hcancels hqueues,
      settleKv_none htagged, settleBooks_none hbooks, settleVersions_none hregions, settleClosing_none hjobs hcolls,
      settleDrains_none hdrains, settlePauses_none hqueues, settleReady_none hitems]
  rw [settle, hpass, hpass]

end Sys2Proof.Machine

/-!
## Resets: the pins, the quiesce, the ends and VAUX (R552 to R559, R586, Table 18.3)
-/
namespace Sys2Proof.Machine

/-! ### What the end of the epochs leaves to a reset -/

/-- From s to t, the ring, the security block and COLD_RST_N's level are as before. -/
structure PartStands (s t : State) : Prop where
  ring : t.ring = s.ring
  sec : t.sec = s.sec
  coldHeld : t.rst.coldHeld = s.rst.coldHeld

section

variable {r s t : State} {src num plen payload kind cls body unitN detail lk p cause : Nat}

theorem PartStands.refl (s : State) : PartStands s s := ⟨rfl, rfl, rfl⟩

/-- A change of other units. -/
theorem PartStands.upd (h : PartStands r s) (hring : t.ring = s.ring) (hsec : t.sec = s.sec)
    (hheld : t.rst.coldHeld = s.rst.coldHeld) : PartStands r t :=
  ⟨hring.trans h.ring, hsec.trans h.sec, hheld.trans h.coldHeld⟩

theorem each_partStands {α : Type} {l : List α} {f : α → State → State} (h : PartStands r s)
    (hf : ∀ a s, PartStands r s → PartStands r (f a s)) : PartStands r (each l f s) :=
  each_induct (P := PartStands r) hf l s h

theorem raise_partStands (h : PartStands r s) : PartStands r (raise src num plen payload s) := by
  obtain ⟨d, o, he⟩ := raise_eq src num plen payload s
  rw [he]
  exact h.upd rfl rfl rfl

theorem ledger_partStands (h : PartStands r s) : PartStands r (ledger src kind cls body s) := by
  unfold ledger onlyIf
  extract_lets
  split <;> exact h.upd rfl rfl rfl

theorem fatalRecord_partStands (h : PartStands r s) : PartStands r (fatalRecord unitN detail s) :=
  raise_partStands ((ledger_partStands h).upd rfl rfl rfl)

theorem poisonLine_partStands (h : PartStands r s) : PartStands r (poisonLine lk cause s) := by
  unfold poisonLine
  split
  · exact h
  extract_lets
  split
  · split
    · exact h
    · exact raise_partStands ((fatalRecord_partStands h).upd rfl rfl rfl)
  · exact ledger_partStands (h.upd rfl rfl rfl)

theorem dropHolder_partStands (h : PartStands r s) : PartStands r (dropHolder lk p s) := by
  unfold dropHolder
  split
  · exact h
  split
  · exact h
  · extract_lets
    split <;> exact h.upd rfl rfl rfl

theorem loseHolder_partStands (h : PartStands r s) : PartStands r (loseHolder lk p s) := by
  unfold loseHolder
  split
  · exact h
  split
  · have hdropped : PartStands r (dropEnt lk s) := h.upd rfl rfl rfl
    have hlost : PartStands r (poisonLine lk causeHolder (dropEnt lk s)) := poisonLine_partStands hdropped
    exact hlost.upd rfl rfl rfl
  · exact dropHolder_partStands h

theorem loseSnoop_partStands {x : Snoop} (h : PartStands r s) : PartStands r (loseSnoop x s) := by
  have hlost : PartStands r (loseHolder x.line x.port s) := loseHolder_partStands h
  unfold loseSnoop onlyIf
  extract_lets
  split
  · exact hlost.upd rfl rfl rfl
  · exact hlost

theorem queueScan_partStands {x : Scan} (h : PartStands r s) : PartStands r (queueScan x s) := by
  unfold queueScan
  split <;> exact h.upd rfl rfl rfl

theorem endEpoch_partStands (h : PartStands r s) : PartStands r (endEpoch p cls s) := by
  unfold endEpoch
  extract_lets mine lost low port x caching keep txn kept counted recorded fresh drained snoops coh forgotten
  have hcounted : PartStands r counted := h.upd rfl rfl rfl
  have hrecorded : PartStands r recorded := ledger_partStands hcounted
  have hdrained : PartStands r drained := hrecorded.upd rfl rfl rfl
  have hforgotten : PartStands r forgotten := hdrained.upd rfl rfl rfl
  split
  · exact queueScan_partStands (each_partStands hforgotten fun _ _ hu => loseSnoop_partStands hu)
  · exact hdrained

theorem endEpochs_partStands (h : PartStands r s) : PartStands r (endEpochs cls s) :=
  each_partStands h fun _ _ hu => endEpoch_partStands hu

end

/-! ### Cold and warm resets begin (R552, R554, R557, Table 18.3) -/

section

variable {s : State} {cause nodeId bootSel : Nat} {r : ResetRec} {rest : List ResetRec}

/-- A cold reset that is not absorbed leaves nothing of the pool, the items and the sessions; the node's number, the boot
flash, the pin and the queue stand. -/
theorem beginCold_starts (ha : absorbed .cold 0 s = false) :
    (beginCold cause s).mem = [] ∧ (beginCold cause s).pool.extents = [] ∧ (beginCold cause s).pool.jobs = [] ∧
    (beginCold cause s).work.items = [] ∧ (beginCold cause s).dict.sessions = [] ∧
    (beginCold cause s).rst.coldHeld = s.rst.coldHeld ∧ (beginCold cause s).ring.node = s.ring.node ∧
    (beginCold cause s).sec.flash = s.sec.flash ∧ (beginCold cause s).pending = s.pending := by
  have hstands := endEpochs_partStands (cls := epochClass cause) (.refl s)
  have hqueue : (beginCold cause s).pending = s.pending := (beginCold_keeps (Keeps.refl s)).queue
  have he : beginCold cause s = startReset .cold 0 cause 0 (coldState true (endEpochs (epochClass cause) s)) :=
    if_neg (by simp [ha])
  rw [he] at hqueue ⊢
  exact ⟨rfl, rfl, rfl, rfl, rfl, hstands.coldHeld, congrArg (·.node) hstands.ring, congrArg (·.flash) hstands.sec, hqueue⟩

theorem beginCold_absorbed (ha : absorbed .cold 0 s = true) : beginCold cause s = bump kResetsAbsorbed s := if_pos ha

/-- A reset of a scope in progress is not asked of the pins' levels. -/
theorem absorbed_setRst {f : Resets → Resets} (hf : (f s.rst).inProgress = s.rst.inProgress) (sc : Scope) (target : Nat) :
    absorbed sc target (setRst f s) = absorbed sc target s := by
  simp only [absorbed, setRst_sets, hf]

theorem beginWarm_absorbed (ha : absorbed .warm 0 s = true) (hq : s.rst.quiesce = none) :
    beginWarm cause s = bump kResetsAbsorbed s := by
  unfold beginWarm
  rw [if_pos ha]
  extract_lets u
  have hu : u.rst.quiesce = none := hq
  split
  · rw [hu]
    rfl
  · rfl

/-- A warm reset that is not absorbed is the one in progress, from now on. -/
theorem beginWarm_starts (ha : absorbed .warm 0 s = false) :
    ∃ r, (beginWarm cause s).rst.inProgress = [r] ∧ r.scope = .warm ∧ r.cause = cause ∧ r.at_ = s.now := by
  unfold beginWarm
  rw [if_neg (by simp [ha])]
  exact ⟨_, rfl, rfl, rfl, rfl⟩

theorem coldRelease_held (h0 : rget kStartState s = 0) (hh : s.rst.halted = false)
    (hw : ∀ r ∈ s.rst.inProgress, r.scope ≠ .warm) :
    coldRelease nodeId bootSel s =
      setRst (fun x => { x with coldHeld := false, startAt := s.now }) (setSec (fun z => { z with bootSel := bootSel % 4 })
        { s with ring := { s.ring with node := nodeId % 32,
                                       st := if nodeId % 32 = 0 then .forwardOnly else s.ring.st } }) := by
  have hany : s.rst.inProgress.any (fun r => r.scope == .warm) = false :=
    List.any_eq_false.mpr fun r hr => by simpa using hw r hr
  exact if_neg (by simp [h0, hh, hany])

/-! ### What is under way ends (R554 to R558) -/

theorem resetBegin_queued (h : s.rst.pendingR = r :: rest) :
    resetBegin s = beginReset r (timeTo r.at_ (setRst (fun x => { x with pendingR := rest }) s)) := by
  rw [resetBegin, h]

theorem quiesceDone_quiet (hr : warmRec s = some r) (hq : quiesced s = true) : quiesceDone s = warmUnits r s := by
  simp only [quiesceDone, hr, hq, if_true]

theorem quiesceTimeout_bound {t : Nat} (hr : warmRec s = some r) (ht : s.rst.quiesce = some t) :
    quiesceTimeout s = cutQuiesce r (timeTo (t + rget kQuiesceUs s * nsUs) s) := by
  simp only [quiesceTimeout, hr, ht]

theorem jobResetOver_done {job : Nat} (hr : s.rst.inProgress.find? (fun r => r.scope == .job && r.target == job) = some r)
    (hd : workDone (fun j => j == job) s = true) :
    jobResetOver job s = jobResetPost .done job (raise 0xB040 0x01 2 job (finishReset r
      { s with work := { s.work with jobResets := s.work.jobResets.erase job } })) := by
  simp only [jobResetOver, hr, hd, if_true]

theorem larderResetOver_inProgress {l : Nat}
    (hr : s.rst.inProgress.find? (fun r => r.scope == .larder && r.target == l) = some r) :
    larderResetOver l s =
      settle (finishReset r (rejoin (attGw l) (modLarder l (fun x => { x with resetting := false }) s))) := by
  simp only [larderResetOver, hr]

end

/-- Settles O53: each pin's edge is its own rule's branch; a cold reset keeps what the end of the epochs leaves of the part. -/
theorem resetEventsComplete : Obligations.ResetEventsComplete := by
  unfold Obligations.ResetEventsComplete
  intro s nodeId bootSel l job r rest
  have hcold : absorbed .cold 0 (setRst (fun x => { x with coldHeld := true }) s) = absorbed .cold 0 s :=
    absorbed_setRst rfl ..
  have hwarm : absorbed .warm 0 (setRst (fun x => { x with warmHeld := true }) s) = absorbed .warm 0 s :=
    absorbed_setRst rfl ..
  refine ⟨fun ha => ?cold, fun ha => ?coldAbsorbed, fun ha hq => ?warmAbsorbed, fun h0 hh hw => ?release,
    fun ha => ?warm, rfl, fun hr => ?queued, fun hr hq => ?quiet, fun t hr ht => ?bound, fun hr hd => ?jobOver,
    fun hr => ?larderOver, fun hl => ?larderFault, ?vauxRemoved, fun hv => ?vauxApplied⟩
  case cold =>
    rw [← hcold] at ha
    exact List.forall_mem_cons.mpr ⟨⟨_, rfl, beginCold_starts ha⟩,
      List.forall_mem_singleton.mpr ⟨_, rfl, beginCold_starts ha⟩⟩
  case coldAbsorbed =>
    rw [← hcold] at ha
    exact List.forall_mem_cons.mpr ⟨congrArg Host.Outcome.next (beginCold_absorbed ha),
      List.forall_mem_singleton.mpr (congrArg Host.Outcome.next (beginCold_absorbed ha))⟩
  case warmAbsorbed => exact congrArg Host.Outcome.next (beginWarm_absorbed (hwarm.trans ha) hq)
  case release =>
    exact ⟨_, congrArg Host.Outcome.next (coldRelease_held h0 hh hw), rfl, rfl, rfl, rfl, fun h => if_pos h⟩
  case warm =>
    obtain ⟨r, hr⟩ := beginWarm_starts (cause := causePin) (hwarm.trans ha)
    exact ⟨_, r, rfl, hr⟩
  case queued => exact congrArg Host.Outcome.next (resetBegin_queued hr)
  case quiet => exact congrArg Host.Outcome.next (quiesceDone_quiet hr hq)
  case bound => exact congrArg Host.Outcome.next (quiesceTimeout_bound hr ht)
  case jobOver => exact congrArg Host.Outcome.next (jobResetOver_done hr hd)
  case larderOver => exact congrArg Host.Outcome.next (larderResetOver_inProgress hr)
  case larderFault => exact congrArg Host.Outcome.next (if_pos hl)
  case vauxRemoved => exact ⟨_, rfl, rfl, rfl, rfl, rfl⟩
  case vauxApplied => exact congrArg Host.Outcome.next (if_neg (by simp [hv]))

end Sys2Proof.Machine

/-!
## Reset, larder, hen, ledger and throttle commands as they are written (R552, R575, R576, R601, Table 18.9)
-/
namespace Sys2Proof.Machine

/-- A hen of a larder that comes back: one mapped out, out for good or in its self-test stays so, one at work is no longer
asked to leave, any other begins its self-test. -/
def henReturns (h : Nat) (s : State) : State :=
  let x := henOf h s
  if mappedOut h s || x.permanentOut || x.st == .selfTest then s
  else if x.st == .running || x.st == .assigned then henBack h s
  else selfTest h (modHen h (fun y => { y with outPending := false }) s)

/-- A larder as LARDER_CMD takes it out, before what follows is settled. -/
def larderTaken (l : Nat) (s : State) : State :=
  let busy := (s.hens.hens.filter (fun e => inLarder l e.1 && (e.2.st == .running || e.2.st == .assigned))).map (·.1)
  henShort (larderRecord l 0 clsInfo (each busy henOut (breakGang l (modLarder l (fun x => { x with out := true }) s))))

/-- A larder as LARDER_CMD brings it back. -/
def larderBack (l : Nat) (s : State) : State :=
  larderRecord l 1 clsInfo (each (larderHens l) henReturns (modLarder l (fun x => { x with out := false }) s))

section

variable {s : State} {l h v op : Nat}

/-! ### The operand words of LARDER_CMD and HEN_CMD -/

theorem fld_larder (hl : l < 12) (hop : op < 256) : fld (l * 256 + op) 15 8 = l := by
  simp only [fld]
  omega

theorem fld_larderOp (hop : op < 256) : fld (l * 256 + op) 7 0 = op := by
  simp only [fld]
  omega

theorem fld_hen (hl : h / 512 < 12) (hop : op < 256) : fld (h * 2 ^ 19 + op) 31 19 = h := by
  simp only [fld]
  omega

theorem fld_henOp (hop : op < 256) : fld (h * 2 ^ 19 + op) 7 0 = op := by
  simp only [fld]
  omega

/-! ### What the larders' own states are not touched by -/

theorem raise_larders (src num plen payload : Nat) (s : State) :
    (raise src num plen payload s).hens.larders = s.hens.larders := by
  obtain ⟨d, o, he⟩ := raise_eq src num plen payload s
  rw [he]

theorem ledger_larders (src kind cls body : Nat) (s : State) :
    (ledger src kind cls body s).hens.larders = s.hens.larders := by
  unfold ledger onlyIf
  extract_lets
  split <;> rfl

theorem larderRecord_larders (cls : Nat) (s : State) : (larderRecord l op cls s).hens.larders = s.hens.larders :=
  (raise_larders ..).trans (ledger_larders ..)

theorem henShort_larders (s : State) : (henShort s).hens.larders = s.hens.larders := by
  unfold henShort onlyIf
  extract_lets
  split
  · exact raise_larders ..
  · rfl

theorem each_larders {α : Type} {f : α → State → State} (hf : ∀ a s, (f a s).hens.larders = s.hens.larders) (k : List α)
    (s : State) : (each k f s).hens.larders = s.hens.larders :=
  each_induct (P := fun u => u.hens.larders = s.hens.larders) (fun a u hu => (hf a u).trans hu) k s rfl

theorem breakGang_larders (s : State) : (breakGang l s).hens.larders = s.hens.larders := by
  unfold breakGang
  split
  · split
    · exact each_larders (by intros; rfl) ..
    · rfl
  · rfl

theorem henOut_larders (h : Nat) (s : State) : (henOut h s).hens.larders = s.hens.larders := by
  unfold henOut
  extract_lets
  split
  · rfl
  · exact breakGang_larders s
  · rfl
  · rfl
  · rfl

theorem henBack_larders (h : Nat) (s : State) : (henBack h s).hens.larders = s.hens.larders := by
  unfold henBack
  extract_lets
  split <;> rfl

theorem henReturns_larders (h : Nat) (s : State) : (henReturns h s).hens.larders = s.hens.larders := by
  unfold henReturns
  extract_lets
  split
  · rfl
  split
  · exact henBack_larders h s
  · rfl

theorem larderTaken_larders (s : State) :
    (larderTaken l s).hens.larders = (modLarder l (fun x => { x with out := true }) s).hens.larders := by
  unfold larderTaken
  rw [henShort_larders, larderRecord_larders, each_larders henOut_larders, breakGang_larders]

theorem larderBack_larders (s : State) :
    (larderBack l s).hens.larders = (modLarder l (fun x => { x with out := false }) s).hens.larders := by
  unfold larderBack
  rw [larderRecord_larders, each_larders henReturns_larders]

/-- With the larders' states those after a change of one larder, that larder is as changed and every other as it was. -/
theorem larderOf_of_modLarder {u : State} {f : Larder → Larder} (hu : u.hens.larders = (modLarder l f s).hens.larders) :
    larderOf l u = f (larderOf l s) ∧ ∀ y, y ≠ l → larderOf y u = larderOf y s := by
  have heq (y : Nat) : larderOf y u = if l = y then f (larderOf l s) else larderOf y s := by
    rw [larderOf, hu]
    exact larderOf_setLarder ..
  exact ⟨(heq l).trans (if_pos rfl), fun y hy => (heq y).trans (if_neg hy.symm)⟩

/-! ### The commits -/

theorem commitLarderCmd_reset (hl : l < 12) :
    commitLarderCmd (l * 256 + 1) s = (.done, post16 kLarderResult .done (queueReset .larder l s)) := by
  simp only [commitLarderCmd, fld_larder hl (op := 1) (by decide), fld_larderOp (op := 1) (by decide)]
  exact if_neg (Nat.not_le.mpr hl)

theorem commitLarderCmd_out (hl : l < 12) :
    commitLarderCmd (l * 256 + 2) s = (.done, post16 kLarderResult .done (settle (larderTaken l s))) := by
  simp only [commitLarderCmd, fld_larder hl (op := 2) (by decide), fld_larderOp (op := 2) (by decide)]
  exact if_neg (Nat.not_le.mpr hl)

theorem commitLarderCmd_in (hl : l < 12) :
    commitLarderCmd (l * 256 + 3) s = (.done, post16 kLarderResult .done (larderBack l s)) := by
  simp only [commitLarderCmd, fld_larder hl (op := 3) (by decide), fld_larderOp (op := 3) (by decide)]
  exact if_neg (Nat.not_le.mpr hl)

theorem commitHenCmd_out (hl : h / 512 < 12) (hh : h % 512 < 384) :
    commitHenCmd (h * 2 ^ 19 + 1) s = (.done, post16 kHenResult .done (henShort (henOut h s))) := by
  simp only [commitHenCmd, fld_hen hl (op := 1) (by decide), fld_henOp (op := 1) (by decide)]
  exact if_neg (by simp [henLarder, Nat.not_le.mpr hl, hh])

theorem commitHenCmd_in (hl : h / 512 < 12) (hh : h % 512 < 384) (hm : mappedOut h s = false) :
    commitHenCmd (h * 2 ^ 19 + 2) s = (.done, post16 kHenResult .done (henBack h s)) := by
  simp only [commitHenCmd, fld_hen hl (op := 2) (by decide), fld_henOp (op := 2) (by decide), hm]
  exact if_neg (by simp [henLarder, Nat.not_le.mpr hl, hh])

theorem commitJobReset_active (ha : isActive v s = true) : commitJobReset v s = (.done, queueReset .job v s) := if_pos ha

theorem commitThrottleClear_high (hp : s.pow.throttleLow = false) :
    commitThrottleClear s = (.done, setPow (fun p => { p with latched := false }) s) := if_neg (by simp [hp])

end

/-- Settles O17: each object's commit is its own branch; the operand's fields are the larder or the hen and the operation, and
what goes with a larder's command leaves the other larders' states as they were. -/
theorem resetAndServiceWritesTakeEffect : Obligations.ResetAndServiceWritesTakeEffect := by
  unfold Obligations.ResetAndServiceWritesTakeEffect
  intro rq x s v larder hen t lv hv
  have hlarder (op : Nat) (hl : larder < 12) : larder % 256 * 256 + op = lv op := by
    rw [Nat.mod_eq_of_lt (hl.trans (by decide))]
  have hhen (op : Nat) (hl : hen / 512 < 12) : hen % 8192 * 2 ^ 19 + op = hv op := by
    rw [Nat.mod_eq_of_lt (by omega)]
  refine ⟨fun hw => ?warm, fun hw => ?cold, fun hw ha => ?job, fun hl hw => ?larderReset, fun hl hw => ?larderOut,
    fun hl hw => ?larderIn, fun hl hh hw => ?henOut, fun hl hh hm hw => ?henIn, fun hw => ?ack, fun hw => ?clear,
    fun hw hp => ?throttle⟩
  case warm => exact writeRow_takes hw rfl (by decide) rfl
  case cold => exact writeRow_takes hw rfl (by decide) rfl
  case job => exact writeRow_takes hw rfl (by decide) (commitJobReset_active (s := t) ha)
  case larderReset =>
    exact writeRow_takes hw (congrArg (writeRow rq kLarderCmd · s) (hlarder 1 hl)) (by decide)
      (commitLarderCmd_reset (s := t) hl)
  case larderOut =>
    obtain ⟨hself, hothers⟩ := larderOf_of_modLarder (larderTaken_larders (l := larder) t)
    exact ⟨larderTaken larder t, writeRow_takes hw (congrArg (writeRow rq kLarderCmd · s) (hlarder 2 hl)) (by decide)
      (commitLarderCmd_out (s := t) hl), congrArg (·.out) hself, hothers⟩
  case larderIn =>
    obtain ⟨hself, hothers⟩ := larderOf_of_modLarder (larderBack_larders (l := larder) t)
    exact ⟨larderBack larder t, writeRow_takes hw (congrArg (writeRow rq kLarderCmd · s) (hlarder 3 hl)) (by decide)
      (commitLarderCmd_in (s := t) hl), congrArg (·.out) hself, hothers⟩
  case henOut =>
    exact writeRow_takes hw (congrArg (writeRow rq kHenCmd · s) (hhen 1 hl)) (by decide) (commitHenCmd_out (s := t) hl hh)
  case henIn =>
    exact writeRow_takes hw (congrArg (writeRow rq kHenCmd · s) (hhen 2 hl)) (by decide) (commitHenCmd_in (s := t) hl hh hm)
  case ack => exact writeRow_takes hw rfl (by decide) rfl
  case clear => exact writeRow_takes hw rfl (by decide) rfl
  case throttle => exact writeRow_takes hw rfl (by decide) (commitThrottleClear_high (s := t) hp)

end Sys2Proof.Machine

/-!
## Rails, the power loop, readings of sensors, THROTTLE_N and the reference clock (R581, R582, R589, R592, R593, R596 to R601)
-/
namespace Sys2Proof.Machine

section

variable {s : State} {mv r amps watts word k t : Nat} {milli : Int} {low : Bool}

/-! ### Rails (R581, R582) -/

theorem vcoreAdjust_step (hm : mapped railVcore s = true) (hv : vcoreLegal mv = true) (hup : mv ≤ s.pow.vcore + 25)
    (hdown : s.pow.vcore ≤ mv + 25) : vcoreAdjust mv s = setVcore mv (timeTo (s.pow.vcoreAt + nsMs) s) :=
  if_pos (by simp [hm, hv, hup, hdown])

theorem marginLow_step (hm : mapped railVcore s = true) (hv : vcoreLegal mv = true) (hlt : s.pow.vcore < mv)
    (hup : mv ≤ s.pow.vcore + 25) : marginLow mv s = setVcore mv s :=
  if_pos (by simp [hm, hv, hlt, hup])

theorem regulatorPoll_answered (hm : mapped r s = true) :
    regulatorPoll r mv amps watts true s =
      let v := tgetD s.pow.rails r (0, 0, 0, 0, s.now)
      setPow (fun p => { p with
        rails := tput p.rails r (mv % 65536, amps % 65536, watts % 65536, v.2.2.2.1, s.now) }) s :=
  if_neg (by simp [hm])

theorem vrbAlert_status (hm : mapped r s = true) :
    vrbAlert r word false s =
      let v := tgetD s.pow.rails r (0, 0, 0, 0, s.now)
      setPow (fun p => { p with rails := tput p.rails r (v.1, v.2.1, v.2.2.1, word % 65536, v.2.2.2.2) }) s :=
  if_neg (by simp [hm])

/-! ### The power loop (R592, R593) -/

theorem powerSample_over (h : s.pow.cap < watts) :
    powerSample watts s = setFrac (max 1 (s.pow.frac / 2)) (setPow (fun p => { p with avg10 := watts }) s) := if_pos h

theorem powerSample_within (h : watts ≤ s.pow.cap) : powerSample watts s = setPow (fun p => { p with avg10 := watts }) s :=
  if_neg (Nat.not_lt.mpr h)

/-- A boundary's average is noted, and the cap and the guard as written take effect. -/
def boundaryNoted (watts : Nat) (s : State) : State :=
  setPow (fun p => { p with cap := rget kPowerCap s, guard := rget kPowerGuard s, avg100 := watts }) s

theorem powerBoundary_over (h : rget kPowerCap s - rget kPowerGuard s < watts) :
    powerBoundary watts s = setFrac (max 1 (s.pow.frac - 1)) (boundaryNoted watts s) := if_pos h

theorem powerBoundary_under (h : watts + 100 < rget kPowerCap s - rget kPowerGuard s) :
    powerBoundary watts s = setFrac (min 16 (s.pow.frac + 1)) (boundaryNoted watts s) :=
  (if_neg (show ¬ rget kPowerCap s - rget kPowerGuard s < watts by omega)).trans (if_pos h)

theorem powerBoundary_between (hlo : watts ≤ rget kPowerCap s - rget kPowerGuard s)
    (hhi : rget kPowerCap s - rget kPowerGuard s ≤ watts + 100) : powerBoundary watts s = boundaryNoted watts s :=
  (if_neg (Nat.not_lt.mpr hlo)).trans (if_neg (Nat.not_lt.mpr hhi))

/-! ### Readings of sensors (R596 to R598) -/

/-- A sensor's reading is kept. -/
def reading (k : Nat) (milli : Int) (s : State) : State := setPow (fun p => { p with temps := tput p.temps k milli }) s

theorem noteMax_pow (milli : Int) (s : State) : (noteMax milli s).pow = s.pow := by
  unfold noteMax
  split <;> rfl

/-- In a state whose power unit has just kept a reading, the sensor is not above a limit that the reading does not pass. -/
theorem above_reading {limit : Int} {u : State} (hu : u.pow = (reading k milli s).pow) (h : milli ≤ limit) :
    above k limit u = false := by
  have hget : tget u.pow.temps k = some milli := by
    rw [hu]
    exact (tget_tput s.pow.temps k k milli).trans (if_pos rfl)
  simp only [above, hget, decide_eq_false_iff_not]
  omega

/-- A die sensor outside the larders that reads less than 110 degrees is noted, and its reading may be the highest. -/
theorem thermalRead_die (hk : k < dieSensors) (hl : sensorLarder k = none) (hm : milli ≤ 109999) :
    thermalRead k milli s = noteMax milli (reading k milli s) := by
  have habove : above k 109999 (noteMax milli (reading k milli s)) = false := above_reading (noteMax_pow ..) hm
  have hoptics : ¬ 72 ≤ k := by
    simp only [dieSensors] at hk
    omega
  unfold thermalRead
  rw [if_neg (by omega), hl]
  simp only [hk, decide_true, onlyIf_true, hoptics, decide_false]
  rw [← reading, habove]
  simp

/-- An optics sensor that reads at most 70 degrees is noted. -/
theorem thermalRead_optics (hlo : 72 ≤ k) (hhi : k < 74) (hm : milli ≤ 70000) :
    thermalRead k milli s = reading k milli s := by
  have habove : above k 70000 (reading k milli s) = false := above_reading rfl hm
  have hdie : ¬ k < dieSensors := by
    simp only [dieSensors]
    omega
  have hl : sensorLarder k = none := by
    rw [sensorLarder, if_neg (by omega), if_neg (by omega)]
  unfold thermalRead
  rw [if_neg (by omega), hl]
  simp only [hdie, decide_false, onlyIf_false]
  rw [← reading, habove]
  simp

theorem thermalTrip_die (hk : k < dieSensors) (ht : s.pow.tripped = false) :
    thermalTrip k s = setPow (fun p => { p with tripped := true }) (haltUnits (fatalRecord 0x20 1
      (each ((List.range rails).filter (fun r => mapped r s)) (fun r => send (.railOff r))
        (setRst (fun x => { x with faultN := true }) s)))) :=
  if_neg (by simp [ht, Nat.not_le.mpr hk])

/-! ### THROTTLE_N (R599 to R601) and the reference clock (R589) -/

theorem throttleEdge_inDwell (h : inDwell s = true) : throttleEdge low s = bump kThrottleIgnored s := if_pos h

theorem throttleEdge_taken (h : inDwell s = false) (hl : low ≠ s.pow.throttleLow) : throttleEdge low s = takeEdge low s :=
  (if_neg (by simp [h])).trans (if_pos (by simpa using hl))

theorem dwellEnd_same (ht : s.pow.throttleAt = some t) (hn : s.now ≤ t + dwellNs) (hl : low = s.pow.throttleLow) :
    dwellEnd low s = timeTo (t + dwellNs) s := by
  simp only [dwellEnd, ht, hn, if_true]
  exact if_neg (by simp [hl])

theorem throttleStuck_latches (ht : s.pow.throttleLowSince = some t) (hl : s.pow.latched = false) :
    throttleStuck s = raise 0xC000 0x01 0 0
      (setPow (fun p => { p with latched := true, pin := rget kThrottleFraction s }) (timeTo (t + 60 * nsS) s)) := by
  simp only [throttleStuck, ht, hl, Bool.false_eq_true, if_false]

theorem refClkLost_first (h : s.pow.refLost = false) :
    refClkLost s = setPow (fun p => { p with refLost := true })
      (haltUnits (setRst (fun x => { x with faultN := true }) (fatalRecord 0x22 0 s))) :=
  if_neg (by simp [h])

end

/-- Settles O55: each event's conditions choose the branch of its rule; a reading just kept is the one that its limits are
compared with. -/
theorem powerAndThermalEventsComplete : Obligations.PowerAndThermalEventsComplete := by
  unfold Obligations.PowerAndThermalEventsComplete
  intro s mv r amps watts word k t milli low
  refine ⟨fun hm hv => ⟨fun hup hdown => ?step, fun hlt hup => ?margin⟩, fun hm => ⟨?poll, ?alert⟩,
    ⟨fun h => ?above, fun h => ?within⟩, ⟨fun h => ?down, fun h => ?up, fun hlo hhi => ?stays⟩,
    ⟨fun hk hl hm => ?die, fun hlo hhi hm => ?optics⟩, fun hk ht => ?trip, fun h => ?ignored, fun h hl => ?edge,
    fun ht hn hl => ?dwell, fun ht hl => ?stuck, fun h => ?clock⟩
  case step => exact congrArg Host.Outcome.next (vcoreAdjust_step hm hv hup hdown)
  case margin => exact congrArg Host.Outcome.next (marginLow_step hm hv hlt hup)
  case poll => exact congrArg Host.Outcome.next (regulatorPoll_answered hm)
  case alert => exact congrArg Host.Outcome.next (vrbAlert_status hm)
  case above => exact congrArg Host.Outcome.next (powerSample_over h)
  case within => exact congrArg Host.Outcome.next (powerSample_within h)
  case down => exact congrArg Host.Outcome.next (powerBoundary_over h)
  case up => exact congrArg Host.Outcome.next (powerBoundary_under h)
  case stays => exact congrArg Host.Outcome.next (powerBoundary_between hlo hhi)
  case die => exact congrArg Host.Outcome.next (thermalRead_die hk hl hm)
  case optics => exact congrArg Host.Outcome.next (thermalRead_optics hlo hhi hm)
  case trip => exact congrArg Host.Outcome.next (thermalTrip_die hk ht)
  case ignored => exact congrArg Host.Outcome.next (throttleEdge_inDwell h)
  case edge => exact congrArg Host.Outcome.next (throttleEdge_taken h hl)
  case dwell => exact congrArg Host.Outcome.next (dwellEnd_same ht hn hl)
  case stuck => exact congrArg Host.Outcome.next (throttleStuck_latches ht hl)
  case clock => exact congrArg Host.Outcome.next (refClkLost_first h)

end Sys2Proof.Machine

/-!
## SPDM requests of session 0, and the FINISH of a handshake (R531 to R535, R549, Table 17.2)
-/
namespace Sys2Proof.Machine

/-! ### Requests of session 0 (R533, R549) -/

section

variable {rq : Req} {s u : State} {q : Spdm} {d : List Byte} {off len nonce op id pub : Nat} {ok : Bool}

/-- A well-formed SPDM request of session 0 is answered with its message of DSP0274. -/
theorem receive_spdm (ha : nodeAccepts s = true) (hform : rq.formOk = true) (h0 : rq.session = 0)
    (hr : spdmRun q s = (d, u)) :
    receive rq (.spdm q) s = reply rq.session rq.seq (rspOk .done 0 d) u := by
  simp only [receive, ha, h0, sessionZero, hform, hr, Bool.not_true, Bool.false_eq_true, if_false, if_true]

theorem spdmRun_getVersion (hf : identityFailed s = false) :
    spdmRun .getVersion s = (spdmMsg 0x04 0 0 [0x00, 0x01, 0x00, 0x13], s) := by
  simp [spdmRun, hf, needsKey]

theorem spdmRun_getCapabilities (hf : identityFailed s = false) :
    spdmRun .getCapabilities s = (spdmMsg 0x61 0 0 (bytesOf 4 0x3F6), s) := by
  simp [spdmRun, hf, needsKey]

theorem spdmRun_negotiate (hf : identityFailed s = false) :
    spdmRun (.negotiate ok) s = (spdmMsg 0x63 0 0 [if ok then 1 else 0], s) := by
  simp [spdmRun, hf, needsKey]

theorem spdmRun_getDigests (hf : identityFailed s = false) :
    spdmRun .getDigests s = (spdmMsg 0x01 0 1 (bytesOf 64 (digest512 (certChain s))), s) := by
  simp [spdmRun, hf, needsKey]

theorem spdmRun_getCertificate (hf : identityFailed s = false) :
    spdmRun (.getCertificate 0 off len) s =
      let part := ((certChain s).drop off).take (min len 1000)
      (spdmMsg 0x02 0 0 (bytesOf 2 part.length ++ bytesOf 2 ((certChain s).length - off - part.length) ++ part), s) := by
  simp [spdmRun, hf, needsKey]

/-! With the identity derived, no request that its key answers is BUSY. -/

theorem spdmRun_challenge (hf : identityFailed s = false) (hd : s.sec.identityDone = true) :
    spdmRun (.challenge 0 nonce) s = challengeAuth nonce s := by
  simp [spdmRun, hf, hd]

theorem spdmRun_getMeasurements (hf : identityFailed s = false) (hd : s.sec.identityDone = true) :
    spdmRun (.getMeasurements op nonce) s = measurements op nonce s := by
  simp [spdmRun, hf, hd]

theorem spdmRun_keyExchange (hf : identityFailed s = false) (hd : s.sec.identityDone = true) :
    spdmRun (.keyExchange id pub) s = keyExchange id pub s := by
  simp [spdmRun, hf, hd]

/-- A challenge draws its nonce and changes nothing else. -/
theorem challengeAuth_state : (challengeAuth nonce s).2 = { s with freeCtr := s.freeCtr + 1 } := rfl

/-- So do measurements of a block that there is. -/
theorem measurements_state (ho : op ≤ 9) : (measurements op nonce s).2 = { s with freeCtr := s.freeCtr + 1 } := by
  have hin : ¬ (op != 0 && op != 0xFF && decide (9 < op)) = true := by simp [Nat.not_lt.mpr ho]
  rw [measurements, if_neg hin]
  rfl

/-- A KEY_EXCHANGE of a number that no session and no handshake bears opens its handshake. -/
theorem keyExchange_state (hh : s.sec.handshakes = []) (hi : id ≠ 0) (hs : sessionOf id s = none) :
    (keyExchange id pub s).2.sec.handshakes = [(id, pub, s.now)] ∧
    (keyExchange id pub s).2.dict.sessions = s.dict.sessions := by
  have hfew : ¬ 2 ≤ s.sec.handshakes.length := by simp [hh]
  have hnew : ¬ (decide (id = 0) || (sessionOf id s).isSome || s.sec.handshakes.any (fun h => h.1 == id)) = true := by
    simp [hi, hs, hh]
  rw [keyExchange, if_neg hfew, if_neg hnew]
  exact ⟨congrArg (· ++ [(id, pub, s.now)]) hh, rfl⟩

end

/-! ### FINISH (R495, R531, R532) -/

section

variable {rq : Req} {s : State} {id role node frameSeq sig m e : Nat} {ids : List Nat} {msg : List Byte} {y : Session}
  {k : Nat × Nat × Nat}

theorem receiveFinish_opens (ha : nodeAccepts s = true) (hk : s.sec.handshakes.find? (fun h => h.1 == rq.session) = some k)
    (ht : rq.tagOk = true) (hform : rq.formOk = true) (hf : identityFailed s = false)
    (hr : finishRole msg sig m e s = some role) (hroom : roleRoom role s = true) :
    receiveFinish rq msg sig m e s = reply rq.session rq.seq (rspOk .done 0 (spdmMsg 0x65 0 0 []))
      (openSession rq.session role rq.node rq.frameSeq (dropHandshake rq.session s)) := by
  simp only [receiveFinish, ha, hk, ht, hform, hf, hr, hroom, Bool.not_true, Bool.false_eq_true, if_false]

theorem mem_sessions_endSession :
    y ∈ (endSession id s).dict.sessions ↔ y ∈ s.dict.sessions ∧ y.id ≠ id := by
  cases h : sessionOf id s with
  | none =>
    have hnot : ∀ x ∈ s.dict.sessions, x.id ≠ id := by simpa using List.find?_eq_none.mp h
    simp only [endSession, h, Option.isSome_none, Bool.false_eq_true, if_false]
    exact ⟨fun hy => ⟨hy, hnot y hy⟩, And.left⟩
  | some x =>
    simp only [endSession, h, Option.isSome_some, if_true]
    exact List.mem_filter.trans (and_congr_right fun _ => by simp)

/-- Of several sessions that end none is left, and every other stands. -/
theorem mem_sessions_each_endSession :
    y ∈ (each ids endSession s).dict.sessions ↔ y ∈ s.dict.sessions ∧ y.id ∉ ids := by
  induction ids generalizing s with
  | nil => simp
  | cons id ids ih =>
    rw [each_cons, ih, mem_sessions_endSession, List.mem_cons, not_or, and_assoc]

/-- The sessions that a MANAGER's session ends when it opens. -/
def managerIds (s : State) : List Nat := (s.dict.sessions.filter (fun x => x.role == roleManager)).map (·.id)

/-- A MANAGER's session that opens is the only one of a MANAGER (R495). -/
theorem openSession_onlyManager (hy : y ∈ (openSession id roleManager node frameSeq s).dict.sessions)
    (hm : y.role = roleManager) : y.id = id := by
  have hmem : y ∈ (each (managerIds s) endSession s).dict.sessions ++
      [newSession id roleManager node frameSeq (each (managerIds s) endSession s)] := hy
  obtain hold | hnew := List.mem_append.mp hmem
  · obtain ⟨hin, hid⟩ := mem_sessions_each_endSession.mp hold
    exact absurd (List.mem_map.mpr ⟨y, List.mem_filter.mpr ⟨hin, by simpa using hm⟩, rfl⟩) hid
  · rw [List.mem_singleton.mp hnew]
    rfl

theorem endSession_sec (id : Nat) (s : State) : (endSession id s).sec = s.sec := by
  unfold endSession
  split <;> rfl

theorem openSession_sec : (openSession id role node frameSeq s).sec = s.sec :=
  each_induct (P := fun u => u.sec = s.sec) (fun id u hu => (endSession_sec id u).trans hu) _ s rfl

/-- No handshake of the number is left once it is dropped. -/
theorem handshakes_dropHandshake {h : Nat × Nat × Nat} (hh : h ∈ (dropHandshake id s).sec.handshakes) : h.1 ≠ id := by
  simpa using (List.mem_filter.mp hh).2

end

/-- Settles O59: each message's answer stands in the table of requests; a FINISH drops its handshake, and a MANAGER's session
ends those of MANAGERs before it. -/
theorem spdmRequestsComplete : Obligations.SpdmRequestsComplete := by
  unfold Obligations.SpdmRequestsComplete
  intro rq s off len nonce op id pub ok msg sig m e role k ha hf hd hform answer
  refine ⟨fun h0 => ?requests, fun hk ht hr hroom => ?finish⟩
  case requests =>
    have hanswer {q : Spdm} {r : List Byte × State} (hr : spdmRun q s = r) :
        Host.Outcome.next (φ := Fault) (ρ := Refusal) (receive rq (.spdm q) s) = .next (answer r.1 r.2) :=
      congrArg Host.Outcome.next (receive_spdm ha hform h0 hr)
    exact ⟨hanswer (spdmRun_getVersion hf), hanswer (spdmRun_getCapabilities hf), hanswer (spdmRun_negotiate hf),
      hanswer (spdmRun_getDigests hf), hanswer (spdmRun_getCertificate hf),
      ⟨hanswer (spdmRun_challenge hf hd), challengeAuth_state⟩,
      fun ho => ⟨hanswer (spdmRun_getMeasurements hf hd), measurements_state ho⟩,
      fun hh hi hs => ⟨hanswer (spdmRun_keyExchange hf hd), keyExchange_state hh hi hs⟩⟩
  case finish =>
    refine ⟨congrArg Host.Outcome.next (receiveFinish_opens ha hk ht hform hf hr hroom), fun y hy hm hrole => ?_,
      fun h hh => ?_⟩
    · subst hrole
      exact openSession_onlyManager hy hm
    · rw [openSession_sec] at hh
      exact handshakes_dropHandshake hh

end Sys2Proof.Machine
